-- ==== Sys2Proof/Word.lean ====
section
/-! DEFINITION. The widths the manual names (R1, R2): byte, half-word, word, double-word, the 512-bit fabric vector and the 4,096-bit stream. -/

namespace Sys2Proof

/-- 8 bits (R1). -/
abbrev Byte := BitVec 8
/-- 32 bits (R1). -/
abbrev Word32 := BitVec 32
/-- A double-word, the width of a g register (R1, R198). -/
abbrev Word := BitVec 64
/-- A fabric vector: 16 lanes of 32 bits (R282). -/
abbrev Vec := BitVec 512
/-- The data bits of a stream register (R364). -/
abbrev Stream := BitVec 4096

/-- Index of a core of the module mesh, 8y + x (R12). -/
abbrev CoreIx := Fin 64
/-- Sequencer number within a core (R14). -/
abbrev SeqIx := Fin 7
/-- Fabric region, and the number of a Landing (R284, R299). -/
abbrev RegionIx := Fin 4
/-- Copy channel of a core (R251). -/
abbrev ChanIx := Fin 4
/-- Host queue (R396). -/
abbrev QueueIx := Fin 16
/-- Resident graph (R420). -/
abbrev GraphIx := Fin 64
/-- LPDDR 6 channel of the module, 8 x die + channel (R50, R108). -/
abbrev DramChan := Fin 32
/-- Launch number; 0 for none (R415). -/
abbrev LaunchNo := BitVec 16

end Sys2Proof
end

