-- ==== Sys2Proof/Syntax.lean ====
section
/-! DEFINITION. The syntax: one constructor of `Instr` per row of spec/opcode_table.json. The first 159 rows are the 32-bit words of a block's body (R177 to R182), the next 17 the front-end packets (R191, R403), the others the steps of the device that have no encoding (spec/95_what_each_step_holds.md). -/

namespace Sys2Proof

/-- The pred field of a word (R175); code 01 is reserved. -/
inductive Pred where
  | always | onTrue | onFalse
deriving DecidableEq, Repr

/-- A target (R172): an operand slot of a body instruction, a write slot, or the null target. -/
inductive Target where
  | null
  | left (i : Fin 32)
  | right (i : Fin 32)
  | gate (i : Fin 32)
  | slot (w : Fin 8)
deriving DecidableEq, Repr

/-- Element formats by their 4-bit codes (R139). -/
inductive Fmt where
  | int8 | uint8 | int16 | int32 | fp32 | bf16 | e4m3 | e5m2 | d8 | s9
deriving DecidableEq, Repr

/-- Rounding modes by their codes (R152). -/
inductive Round where
  | rne | rtz | rup | rdn | rsr
deriving DecidableEq, Repr

/-- Format index of `mma` and `mmaw` (R337). -/
inductive MmaFmt where
  | i8 | u8 | bf16 | e4m3 | e5m2 | d8
deriving DecidableEq, Repr

/-- Access sizes of `ldpw`: 2, 4, 8 or 16 bytes (R181). -/
inductive WinSize where
  | b2 | b4 | b8 | b16
deriving DecidableEq, Repr

/-- COND of `pk.pred` and `pk.wait` (R404). -/
inductive Cond where
  | eq | ne | ltu | geu | all | none
deriving DecidableEq, Repr

/-- OP of `pk.signal` (R408). -/
inductive SigOp where
  | write | add
deriving DecidableEq, Repr

/-- Who executes packets: a host queue or a run of a resident graph (R398). -/
inductive Source where
  | queue (q : QueueIx)
  | graph (g : GraphIx)
deriving DecidableEq, Repr

/-- The three units of the matrix engine (R333). -/
inductive MxUnit where
  | load | compute | read
deriving DecidableEq, Repr

/-- The three units of the stochastic engine (R375). -/
inductive SsUnit where
  | logic | gen | xfer
deriving DecidableEq, Repr

/-- The engine steps that a swap-out abandons and R478 runs again. -/
inductive StepUnit where
  | matrixCompute | matrixLoad
  | stoch (u : SsUnit)
  | port (r : RegionIx)
deriving DecidableEq, Repr

/-- The unit a debug step releases (R455). -/
inductive DebugUnit where
  | seq (q : SeqIx)
  | region (r : RegionIx)
deriving DecidableEq, Repr

/-- PCI Express AtomicOps the endpoint completes (R463). -/
inductive HostAtomic where
  | fetchAdd | swap | cas
deriving DecidableEq, Repr

/-- Lifecycle states (00_scope, R468). -/
inductive Lifecycle where
  | manufacture | vehicle | bench
deriving DecidableEq, Repr

/-- Which bytes of a 64-bit register a BAR0 access reaches (R465, R480). -/
inductive RegPart where
  | low | high | whole
deriving DecidableEq, Repr

/-- The steps of the device, one per row of the table of operations and events. -/
inductive Instr where
  -- Major 0x00: binary integer forms (R219, R220).
  | add (p : Pred) (t u : Target)
  | sub (p : Pred) (t u : Target)
  | mul (p : Pred) (t u : Target)
  | mulh (p : Pred) (t u : Target)
  | mulhu (p : Pred) (t u : Target)
  | div (p : Pred) (t u : Target)
  | divu (p : Pred) (t u : Target)
  | rem (p : Pred) (t u : Target)
  | remu (p : Pred) (t u : Target)
  | and (p : Pred) (t u : Target)
  | or (p : Pred) (t u : Target)
  | xor (p : Pred) (t u : Target)
  | shl (p : Pred) (t u : Target)
  | shr (p : Pred) (t u : Target)
  | sra (p : Pred) (t u : Target)
  | min (p : Pred) (t u : Target)
  | minu (p : Pred) (t u : Target)
  | max (p : Pred) (t u : Target)
  | maxu (p : Pred) (t u : Target)
  -- Major 0x01: unary forms (R221).
  | clz (p : Pred) (t u : Target)
  | popcnt (p : Pred) (t u : Target)
  | sextB (p : Pred) (t u : Target)
  | sextH (p : Pred) (t u : Target)
  | sextW (p : Pred) (t u : Target)
  | zextB (p : Pred) (t u : Target)
  | zextH (p : Pred) (t u : Target)
  | zextW (p : Pred) (t u : Target)
  | mov (p : Pred) (t u : Target)
  | not (p : Pred) (t u : Target)
  -- Major 0x02: tests (R222).
  | teq (p : Pred) (t u : Target)
  | tne (p : Pred) (t u : Target)
  | tlt (p : Pred) (t u : Target)
  | tltu (p : Pred) (t u : Target)
  | tle (p : Pred) (t u : Target)
  | tleu (p : Pred) (t u : Target)
  | tgt (p : Pred) (t u : Target)
  | tge (p : Pred) (t u : Target)
  -- Majors 0x03 to 0x12: immediate forms (R223).
  | addi (p : Pred) (imm : BitVec 14) (t : Target)
  | muli (p : Pred) (imm : BitVec 14) (t : Target)
  | andi (p : Pred) (imm : BitVec 14) (t : Target)
  | ori (p : Pred) (imm : BitVec 14) (t : Target)
  | xori (p : Pred) (imm : BitVec 14) (t : Target)
  | shli (p : Pred) (imm : BitVec 6) (t : Target)
  | shri (p : Pred) (imm : BitVec 6) (t : Target)
  | srai (p : Pred) (imm : BitVec 6) (t : Target)
  | teqi (p : Pred) (imm : BitVec 14) (t : Target)
  | tnei (p : Pred) (imm : BitVec 14) (t : Target)
  | tlti (p : Pred) (imm : BitVec 14) (t : Target)
  | tltui (p : Pred) (imm : BitVec 14) (t : Target)
  | tlei (p : Pred) (imm : BitVec 14) (t : Target)
  | tleui (p : Pred) (imm : BitVec 14) (t : Target)
  | tgti (p : Pred) (imm : BitVec 14) (t : Target)
  | tgei (p : Pred) (imm : BitVec 14) (t : Target)
  -- Majors 0x13 to 0x17: constants and fan-out (R224, R225).
  | const (imm : BitVec 16) (t : Target)
  | constu (imm : BitVec 16) (t : Target)
  | shlc (imm : BitVec 16) (t : Target)
  | fan3 (a b c : Target)
  | fan4 (a b c d : Target)
  -- Majors 0x18 and 0x19: control registers (R226, R227).
  | rdcr (p : Pred) (num : BitVec 14) (t : Target)
  | wrcr (p : Pred) (num : BitVec 14)
  -- Majors 0x30 to 0x3A: loads, stores and window reads (R231, R232, R234).
  | ldB (p : Pred) (lsid : BitVec 5) (imm : BitVec 9) (t : Target)
  | ldH (p : Pred) (lsid : BitVec 5) (imm : BitVec 9) (t : Target)
  | ldW (p : Pred) (lsid : BitVec 5) (imm : BitVec 9) (t : Target)
  | ldD (p : Pred) (lsid : BitVec 5) (imm : BitVec 9) (t : Target)
  | ldQ (p : Pred) (lsid : BitVec 5) (imm : BitVec 9) (t : Target)
  | stB (p : Pred) (lsid : BitVec 5) (imm : BitVec 9)
  | stH (p : Pred) (lsid : BitVec 5) (imm : BitVec 9)
  | stW (p : Pred) (lsid : BitVec 5) (imm : BitVec 9)
  | stD (p : Pred) (lsid : BitVec 5) (imm : BitVec 9)
  | stQ (lsid : BitVec 5) (imm : BitVec 9)
  | ldpw (p : Pred) (w : Fin 8) (size : WinSize) (imm : BitVec 9) (t : Target)
  -- Major 0x3B: atomics (R235, R236).
  | amoaddW (p : Pred) (lsid : BitVec 5) (t : Target)
  | amoaddD (p : Pred) (lsid : BitVec 5) (t : Target)
  | amominW (p : Pred) (lsid : BitVec 5) (t : Target)
  | amominD (p : Pred) (lsid : BitVec 5) (t : Target)
  | amomaxW (p : Pred) (lsid : BitVec 5) (t : Target)
  | amomaxD (p : Pred) (lsid : BitVec 5) (t : Target)
  | amoswapW (p : Pred) (lsid : BitVec 5) (t : Target)
  | amoswapD (p : Pred) (lsid : BitVec 5) (t : Target)
  | amocasW (lsid : BitVec 5) (t : Target)
  | amocasD (lsid : BitVec 5) (t : Target)
  -- Major 0x3C: keys, waiting and barriers (R237 to R243).
  | acq (p : Pred) (lsid : BitVec 5) (t : Target)
  | rel (p : Pred) (lsid : BitVec 5)
  | waitw (p : Pred) (lsid : BitVec 5) (t : Target)
  | arrive (p : Pred) (unit : Fin 64)
  | bwait (p : Pred) (unit : Fin 64) (t : Target)
  -- Majors 0x3D to 0x3F: exits, system forms, time reads (R233, R244 to R249).
  | bro (p : Pred) (exit : BitVec 3) (off : BitVec 20)
  | brx (p : Pred) (exit : BitVec 3) (off : BitVec 20)
  | bend (p : Pred) (exit : BitVec 3)
  | trap (p : Pred) (code : BitVec 8)
  | brk (p : Pred)
  | fence (p : Pred) (t : Target)
  | nop (p : Pred)
  | rdtick (p : Pred) (t : Target)
  | rdlt (p : Pred) (t : Target)
  | rdwall (p : Pred) (t : Target)
  | nullst (p : Pred) (lsid : BitVec 5)
  | nullw (p : Pred) (w : Fin 8)
  -- Majors 0x40 to 0x49: copy engine (R259).
  | cp1 (p : Pred) (ch : ChanIx) (desc : BitVec 9)
  | cp2 (p : Pred) (ch : ChanIx) (desc : BitVec 9)
  | cp3 (p : Pred) (ch : ChanIx) (desc : BitVec 9)
  | cpmc (p : Pred) (ch : ChanIx) (desc : BitVec 9)
  | cpset (p : Pred) (ch : ChanIx) (desc : BitVec 9)
  | cpcmp (p : Pred) (ch : ChanIx) (desc : BitVec 9)
  | cphash (p : Pred) (ch : ChanIx) (desc : BitVec 9)
  | cpspill (p : Pred) (ch : ChanIx) (desc : BitVec 9)
  | cpunspill (p : Pred) (ch : ChanIx) (desc : BitVec 9)
  | cpbind (p : Pred) (ch : ChanIx) (desc : BitVec 9)
  | cpchk (p : Pred) (resv : BitVec 8) (t : Target)
  -- Majors 0x4C to 0x4F: trace (R449).
  | trec (p : Pred) (sub : BitVec 5)
  | tmark (p : Pred) (code : BitVec 8)
  | thash (p : Pred)
  | tstopStop (p : Pred)
  | tstopStart (p : Pred)
  -- Majors 0x50 to 0x59: fabric region control (R306).
  | jtab (p : Pred)
  | cfgld (p : Pred) (n : BitVec 4)
  | cfgact (p : Pred)
  | cfgdrop (p : Pred)
  | run (p : Pred)
  | loop (p : Pred)
  | tok (p : Pred) (port : BitVec 7)
  | rdsink (p : Pred) (n : Fin 4) (t : Target)
  | lwait (p : Pred) (land : Fin 4) (le : Bool) (t : Target)
  | lrel (p : Pred) (land : Fin 4)
  -- Majors 0x60 to 0x6A: matrix engine (R337).
  | mtld (p : Pred) (n : Fin 16) (range : Fin 32)
  | mtldw (p : Pred) (n : Fin 16) (range : Fin 32)
  | mtst (p : Pred) (n : Fin 16) (range : Fin 32)
  | mspill (p : Pred) (n : Fin 32) (range : Fin 32)
  | mfill (p : Pred) (n : Fin 32) (range : Fin 32)
  | mma (p : Pred) (fmt : MmaFmt) (d : Fin 32) (a : Fin 16)
  | mmaw (p : Pred) (fmt : MmaFmt) (d : Fin 32) (a : Fin 16) (range : Fin 4)
  | mchainB (p : Pred) (n : Fin 32) (rnd : Round) (clr : Bool)
  | mchainE (p : Pred) (n : Fin 32)
  | mzero (p : Pred) (n : Fin 32)
  | mscacc (p : Pred) (d : Fin 32) (q : Fin 32) (rnd : Round) (int : Bool)
  | mrd (p : Pred) (n : Fin 32) (region : RegionIx)
  | mpin (p : Pred) (n : Fin 32) (fmt : Fmt)
  | munpin (p : Pred) (n : Fin 32)
  | mgdlt (p : Pred) (n : Fin 32) (quad : Fin 4)
  | mfwrd (p : Pred) (n : Fin 32) (quad : Fin 4)
  | mfwchunk (p : Pred) (n : Fin 32) (quad : Fin 4)
  -- Majors 0x70 to 0x74: stochastic-stream engine (R379).
  | sand (p : Pred) (d : Fin 64)
  | sor (p : Pred) (d : Fin 64)
  | sxor (p : Pred) (d : Fin 64)
  | sxnor (p : Pred) (d : Fin 64)
  | smux (p : Pred) (d : Fin 64)
  | snot (p : Pred) (d : Fin 64)
  | smov (p : Pred) (d : Fin 64)
  | srot (p : Pred) (d : Fin 64)
  | sfill (p : Pred) (len : BitVec 2) (d : Fin 64)
  | scnt (p : Pred) (acc : Bool) (n : Fin 16)
  | sgen (p : Pred) (gen : Fin 16) (fromCount : Bool) (len : BitVec 2) (d : Fin 64)
  | sregen (p : Pred) (gen : Fin 16) (d : Fin 64)
  | b2s (p : Pred) (gen : Fin 16) (bipolar : Bool) (len : BitVec 2) (d : Fin 64)
  | b2sv (p : Pred) (gen : Fin 16) (bipolar : Bool) (len : BitVec 2) (d : Fin 64)
  | s2b (p : Pred) (bipolar : Bool) (a : Fin 64)
  | sld (p : Pred) (len : BitVec 2) (d : Fin 64)
  | sst (p : Pred) (a : Fin 64)
  | sgset (p : Pred) (gen : Fin 16)
  -- Front-end packets (R403); `tag` is the header's TAG (R191).
  | pkNop (tag : BitVec 32) (size : BitVec 8)
  | pkLaunch (tag : BitVec 32) (rcb : BitVec 56) (tokens : BitVec 8) (dep : Bool)
  | pkIb (tag : BitVec 32) (addr : BitVec 56) (len : BitVec 20)
  | pkPred (tag : BitVec 32) (addr : BitVec 56) (value : Word) (cond : Cond) (count : BitVec 8)
  | pkLoop (tag : BitVec 32) (count : BitVec 16) (body : BitVec 8)
  | pkWait (tag : BitVec 32) (addr : BitVec 56) (value : Word) (cond : Cond) (timeout : BitVec 32)
  | pkSignal (tag : BitVec 32) (addr : BitVec 56) (value : Word) (op : SigOp) (after irq : Bool) (vector : BitVec 8) (errval : Word)
  | pkFfence (tag : BitVec 32)
  | pkMode (tag : BitVec 32) (launch : LaunchNo) (mode : BitVec 4) (urgent : Bool)
  | pkGraphRun (tag : BitVec 32) (g : GraphIx)
  | pkGraphLoad (tag : BitVec 32) (g : GraphIx) (addr : BitVec 56) (len : BitVec 12)
  | pkGraphUnload (tag : BitVec 32) (g : GraphIx)
  | pkBind (tag : BitVec 32) (g : GraphIx) (cls : BitVec 8) (launch : LaunchNo)
  | pkUnbind (tag : BitVec 32) (g : GraphIx) (cls : BitVec 8) (launch : LaunchNo)
  | pkIngress (tag : BitVec 32) (id : BitVec 32) (src dst : BitVec 56) (len : BitVec 32)
  | pkCopy (tag : BitVec 32) (src dst : BitVec 56) (len : BitVec 32)
  | pkEnd (tag : BitVec 32)
  -- Front-end steps.
  | endCompletion (q : QueueIx)
  | pkWaitTimeout (src : Source)
  | signalWrite (src : Source)
  | launchRefused (src : Source) (packet : BitVec 56)
  | queueEnable (q : QueueIx) (sizelog : BitVec 5)
  | queueDiscard (q : QueueIx)
  | queueResume (q : QueueIx)
  | graphTrigger (source : Fin 18) (g : GraphIx)
  | graphRunStart
  | graphRunEnd (g : GraphIx)
  | mailboxMessage (src dst : Fin 8) (typ : Byte) (a b c : Word)
  -- Launches and their tables.
  | launchPlacement
  | originTick (l : LaunchNo)
  | entryDue (c : CoreIx) (q : SeqIx)
  | instanceBoundary (l : LaunchNo)
  | boundaryFreezeEnd (l : LaunchNo)
  | switchPoint (l : LaunchNo)
  | urgentSwitch (l : LaunchNo)
  | overrun (c : CoreIx) (q : SeqIx)
  | fallbackDeadline (c : CoreIx) (q : SeqIx)
  | ucieRetrainStep (link : Fin 8) (ticks : BitVec 13)
  | haltingFreeze (l : LaunchNo)
  | haltingFreezeEnd (l : LaunchNo)
  | preemption (l : LaunchNo)
  | drainKill (c : CoreIx) (q : SeqIx)
  | swapOut (c : CoreIx)
  | swapOutEnd (c : CoreIx)
  | restore (l : LaunchNo)
  | engineStepRestart (c : CoreIx) (u : StepUnit)
  | launchResume (l : LaunchNo)
  -- Blocks.
  | blockCommit (c : CoreIx) (q : SeqIx)
  | noexit (c : CoreIx) (q : SeqIx)
  | incomplete (c : CoreIx) (q : SeqIx)
  | waitwWake (c : CoreIx) (q : SeqIx) (i : Fin 32)
  | bwaitWake (c : CoreIx) (q : SeqIx) (i : Fin 32)
  | fenceDeliver (c : CoreIx) (q : SeqIx) (i : Fin 32)
  | lwaitWake (c : CoreIx) (q : SeqIx) (i : Fin 32)
  | relKeyWrite (c : CoreIx) (q : SeqIx)
  | barrierArrival (c : CoreIx) (unit : Fin 64)
  | barrierConfig (c : CoreIx) (q : SeqIx) (value : Word)
  -- Copy engine.
  | slotTransfer (c : CoreIx) (ch : ChanIx)
  | translationWalk (c : CoreIx) (ch : ChanIx)
  | rangeTableInstall (c : CoreIx) (ch : ChanIx)
  | completionWordWrite (c : CoreIx) (ch : ChanIx)
  | cphost (c : CoreIx) (ch : ChanIx)
  -- Fabric, matrix and stochastic engines.
  | regionCommandStart (c : CoreIx) (r : RegionIx)
  | roundEnd (c : CoreIx) (r : RegionIx)
  | configurationLoadComplete (c : CoreIx) (r : RegionIx)
  | matrixCommandStart (c : CoreIx)
  | kStepEnd (c : CoreIx)
  | matrixCommandComplete (c : CoreIx) (u : MxUnit)
  | stochasticCommandStart (c : CoreIx)
  | stochasticEffect (c : CoreIx) (u : SsUnit)
  -- Trace and debug.
  | cellarRecordPlace
  | loss
  | profSample
  | scan
  | tstopEffect
  | debugStop (l : LaunchNo)
  | drainTimeout (l : LaunchNo)
  | stepDone (l : LaunchNo)
  | stepTimeout (l : LaunchNo)
  -- Requests to the trace engine.
  | exportBuild (first last : Word)
  | clostRead (part : RegPart)
  | plostRead (part : RegPart)
  | halt (l : LaunchNo)
  | step (l : LaunchNo) (c : CoreIx) (u : DebugUnit)
  | resume (l : LaunchNo)
  | replayTickPreset (v : Word)
  -- Host link.
  | registerWrite (off : BitVec 16) (size : BitVec 8) (value : Word)
  | hostBar2Read (addr : BitVec 37) (len : BitVec 10)
  | hostBar2Write (addr : BitVec 37) (data : List Byte)
  | hostAtomicop (addr : BitVec 37) (op : HostAtomic) (size : BitVec 5) (operand compare : BitVec 128)
  | ptmDialogue (t1 t4 : Word)
  | linkDown
  -- Time.
  | ptpSync (offset : Int)
  | ppsEdge
  | holdover
  | holdoverExpiry
  | incWrite (v : BitVec 40)
  -- Health and degradation.
  | coreMarkedDefective (c : CoreIx)
  | channelFenced (ch : DramChan)
  | ucieLaneLost (link : Fin 8)
  | ucieModuleLost (link : Fin 8)
  | interDieLinkLost (link : Fin 8)
  -- Boot, security and power.
  | moduleReset (cause : BitVec 6) (bootOk : Bool)
  | supplyCollapse
  | lifecycleChange (target : Lifecycle) (authorised : Bool)
  | attestationRequest (nonce : BitVec 256)
  | safetyModeRequest
  | heartbeatToggle
  | watchdogMiss (core : Fin 8)
  | thermalEvent (celsius : Int)
  | throttleStepBack
  | thermalTrip
  | smonMreqLow
  | hostRequestCompletion (c : CoreIx) (ch : ChanIx) (ok : Bool)
  | pageMove (old new : BitVec 56) (size : BitVec 2)
  | retentionStoreClear
  | yaretteExportLoad (records : List (List Word))
  | linkTraining (width : BitVec 5) (gts : BitVec 8)
deriving DecidableEq, Repr

end Sys2Proof
end

