-- ==== Sys2Proof/Config.lean ====
section
/-! DEFINITION. What the manual leaves open, as constants without a body: nothing can be proved about their values, so every statement holds whatever they are. -/

namespace Sys2Proof.Config

/-- R402: whether an altered double-word of the fetch window is read with its old value (DESIGN CHOICE, log entry 5). -/
opaque readsOld : Nat → Bool

/-- R444, R471: the signature that the security unit's private key gives over a message, r then s, 96 bytes (DESIGN CHOICE, log entry 8). -/
opaque sign : List Byte → List Byte

/-- R443: SHA-384 of the signing key's public point, 48 bytes (DESIGN CHOICE, log entry 8). -/
opaque keyDigest : List Byte

/-- R443: the module serial number, 16 bytes (DESIGN CHOICE, log entry 8). -/
opaque serial : List Byte

/-- R470: SHA-384 of the firmware image, 48 bytes (DESIGN CHOICE, log entry 8). -/
opaque firmwareDigest : List Byte

/-- What the Threshold check finds of a launch's schedule over time (R58, R92, R250, R252, R266, R272, R297, R298, R300, R332, R347, R374) where the windows of
Machine/Check.lean leave it open: whether the image, given by its bytes, passes (DESIGN CHOICE, log entry 10). -/
opaque scheduleAdmitted : List Byte → Bool

/-- What the race check finds of a launch (R131, R137, R258, R298, R335) where the edges that Machine/Check.lean traces leave it open: whether an edge orders every pair of
overlapping accesses of the image, given by its bytes (DESIGN CHOICE, log entry 10). -/
opaque raceFree : List Byte → Bool

/-- R469: the slots of UCIe links that the check derives for an image, given by its bytes, at an origin (x, y), link and slot in one number (DESIGN CHOICE, log entry 10). -/
opaque linkGrants : List Byte → Nat → Nat → List Nat

/-- R39: which of a link's modules an event of a tick strikes, by 8 times the tick plus the link (DESIGN CHOICE, log entry 43). -/
opaque laneModule : Nat → Fin 4

/-- R468: what the 4-bit field of spare lanes shows where all 16 of a link are in use (DESIGN CHOICE, log entry 43). -/
opaque allSpares : BitVec 4

/-- R44, R46: the INC that rate and offset correction set, from the servo state, the measured offset and the old INC (DESIGN CHOICE, log entry 13). -/
opaque servoInc : Nat → Int → BitVec 40 → BitVec 40

/-- R403, R416: whether a host address can be read without a PCI Express error, by the count of such accesses (DESIGN CHOICE, log entry 14). -/
opaque hostReadFails : Nat → Bool

/-- How many ticks the loader, a placement, a repair step, a profiling sample or the end of a copy with host pieces takes where the manual states no number, by the count of such waits (DESIGN CHOICE, log entry 11). -/
opaque openDelay : Nat → Nat

/-- R278: which of two values, old (false) or new (true), a 16-byte unit of a cut copy holds, by the count of such units (DESIGN CHOICE, log entry 15). -/
opaque cutUnitNew : Nat → Bool

/-- R424: the host bus address of BAR0, which the host assigns (DESIGN CHOICE, log entry 16). -/
opaque bar0Base : Nat

/-- R110: the physical address of the root page table that core 2 gives a launch, in units of 32 KiB, by launch number (DESIGN CHOICE, log entry 17). -/
opaque pageRoot : Nat → Nat

/-- R117: the physical address of the side table that core 2 gives a launch, in units of 8 bytes, by launch number (DESIGN CHOICE, log entry 17). -/
opaque sideBase : Nat → Nat

/-- R467: whether the safety-error interrupt is raised as SMON_ERR is asserted, by the count of such events (DESIGN CHOICE, log entry 20). -/
opaque safetyIrq : Nat → Bool

/-- R44: ticks from one gPTP Sync to the next, which the grandmaster sets (DESIGN CHOICE, log entry 13). -/
opaque syncInterval : Nat

end Sys2Proof.Config
end

