-- ==== Sys2Proof/WellFormed.lean ====
section
/-! DEFINITION. Well-formed instructions: what the encoding rules ask of the operands beyond their types, and what events can be (R178, R179, R235, R338, R403, R406). Relations between a word and its block (R173, R174, R184) are checked where the block is known, in Machine/Operands.lean. -/

namespace Sys2Proof

/-- A target a 16-byte form may name: its pair, of index one greater, must exist (R179). -/
def Target.pairable : Target → Bool
  | .null => true
  | .left i | .right i | .gate i => i.val ≤ 30
  | .slot w => w.val ≤ 6

/-- A target a `fan4` can carry: null, a first operand, or a second operand but that of instruction 31 (R178). -/
def Target.compact : Target → Bool
  | .null | .left _ => true
  | .right i => i.val ≠ 31
  | .gate _ | .slot _ => false

/-- A target an atomic may name: a write slot or null (R235). -/
def Target.slotOrNull : Target → Bool
  | .null | .slot _ => true
  | _ => false

/-- The low n bits of an address are 0. -/
def aligned (addr : BitVec 56) (n : Nat) : Bool := addr.toNat % n == 0

/-- The widths and the rates in GT/s that the endpoint trains to (R463). -/
def linkOk (width : BitVec 5) (gts : BitVec 8) : Bool := (width == 16 || width == 8 || width == 4) && (gts == 128 || gts == 64 || gts == 32)

/-- The instruction may be encoded and is not refused for itself alone. -/
def Instr.wf : Instr → Bool
  | .fan4 a b c d => a.compact && b.compact && c.compact && d.compact
  | .ldQ _ _ _ t => t.pairable
  | .ldpw _ _ .b16 _ t => t.pairable
  | .amoaddW _ _ t | .amoaddD _ _ t | .amominW _ _ t | .amominD _ _ t | .amomaxW _ _ t
  | .amomaxD _ _ t | .amoswapW _ _ t | .amoswapD _ _ t | .amocasW _ t | .amocasD _ t => t.slotOrNull
  | .mchainB _ _ rnd _ => rnd != .rsr
  | .mscacc _ d q rnd _ => rnd != .rsr && d != q
  | .mpin _ _ fmt => fmt == .int32 || fmt == .fp32
  | .pkLaunch _ rcb _ _ => aligned rcb 64
  | .pkIb _ addr len => aligned addr 8 && len != 0
  | .pkPred _ addr _ _ count => aligned addr 8 && count != 0
  | .pkLoop _ count body => count != 0 && body != 0
  | .pkWait _ addr _ _ _ => aligned addr 8
  | .pkSignal _ addr _ _ _ _ _ _ => aligned addr 8
  | .pkGraphLoad _ _ addr _ => aligned addr 8
  | .pkIngress _ _ src dst len => src.getMsbD 0 && !dst.getMsbD 0 && len != 0
  | .pkCopy _ _ _ len => len != 0
  | .hostBar2Read _ len => len.toNat ≤ 512
  | .hostBar2Write _ data => data.length ≤ 512
  | .hostAtomicop _ op size _ _ =>
    match op with
    | .cas => size == 8 || size == 16
    | _ => size == 4 || size == 8
  | .ucieRetrainStep _ ticks => ticks.toNat ≤ 4096
  | .pageMove _ _ size => size != 3
  | .linkTraining width gts => linkOk width gts
  | _ => true

end Sys2Proof
end

