-- ==== Sys2Proof/Decode.lean ====
section
/-! DEFINITION. The decoder of body words (R177 to R181 and the encoding tables of the engine chapters) and of front-end packets (R191, R403), and after each its encoder. Both work over `Raw`, the five fields of formats G and E into which a word is cut once; the other formats regroup these fields. -/

namespace Sys2Proof

/-- Why an encoding is not an instruction (R180, R185, R193). -/
inductive Reject where
  /-- A major opcode, or a packet opcode, that no chapter assigns. -/
  | reservedMajor
  /-- A minor code, format index, rounding or window code that no chapter assigns. -/
  | reservedMinor
  /-- pred = 01 (R175). -/
  | reservedPred
  /-- A target with bits [1:0] set, or a write slot above 7 (R172). -/
  | reservedTarget
  /-- t1 other than 0x1FF where the form has no result. -/
  | targetNotNull
  /-- A bit that the form leaves unnamed is 1. -/
  | reservedBit
  /-- A packet's SIZE is not its opcode's (R403). -/
  | wrongSize
deriving DecidableEq, Repr

/-- The fields of a word in formats G and E (R177): major [31:25], pred [24:23], xop [22:18], t1 [17:9], imm9 [8:0]. -/
structure Raw where
  major : BitVec 7
  pred : BitVec 2
  xop : BitVec 5
  hi : BitVec 9
  lo : BitVec 9
deriving DecidableEq, Repr

/-- A word cut into its fields. -/
def Raw.ofWord (w : BitVec 32) : Raw :=
  { major := w.extractLsb' 25 7, pred := w.extractLsb' 23 2, xop := w.extractLsb' 18 5,
    hi := w.extractLsb' 9 9, lo := w.extractLsb' 0 9 }

/-- The word of the fields. -/
def Raw.toWord (r : Raw) : BitVec 32 := r.major ++ r.pred ++ r.xop ++ r.hi ++ r.lo

/-- Format I's immediate [22:9]. -/
def Raw.imm14 (r : Raw) : BitVec 14 := r.xop ++ r.hi
/-- Format C's immediate [24:9]. -/
def Raw.imm16 (r : Raw) : BitVec 16 := r.pred ++ r.xop ++ r.hi
/-- Bits [22:0], which formats B and F cut in their own way. -/
def Raw.low23 (r : Raw) : BitVec 23 := r.xop ++ r.hi ++ r.lo

/-! ### Codes of fields -/

def decodePred (b : BitVec 2) : Except Reject Pred :=
  if b = 0 then .ok .always else if b = 2 then .ok .onTrue else if b = 3 then .ok .onFalse
  else .error .reservedPred

def encodePred : Pred → BitVec 2
  | .always => 0
  | .onTrue => 2
  | .onFalse => 3

/-- A full target (R172). -/
def decodeTarget (b : BitVec 9) : Except Reject Target :=
  let i := Fin.ofNat 32 (b.toNat / 16)
  if b = 0x1FF then .ok .null
  else if b.extractLsb' 0 2 ≠ 0 then .error .reservedTarget
  else match (b.extractLsb' 2 2).toNat with
    | 0 => .ok (.left i)
    | 1 => .ok (.right i)
    | 2 => .ok (.gate i)
    | _ => if b.toNat / 16 < 8 then .ok (.slot (Fin.ofNat 8 (b.toNat / 16))) else .error .reservedTarget

/-- 16 x index + 4 x kind (R172). -/
def encodeTarget : Target → BitVec 9
  | .null => 0x1FF
  | .left i => BitVec.ofNat 9 (16 * i.val)
  | .right i => BitVec.ofNat 9 (16 * i.val + 4)
  | .gate i => BitVec.ofNat 9 (16 * i.val + 8)
  | .slot w => BitVec.ofNat 9 (16 * w.val + 12)

/-- A 7-bit target of `fan3`: the full target shifted right by two, 0x7F null (R178). -/
def decodeTarget7 (b : BitVec 7) : Except Reject Target :=
  if b = 0x7F then .ok .null else decodeTarget (b ++ (0 : BitVec 2))

def encodeTarget7 (t : Target) : BitVec 7 := (encodeTarget t).extractLsb' 2 7

/-- A 6-bit target of `fan4`: index [5:1], side [0], 0x3F null (R178). -/
def decodeTarget6 (b : BitVec 6) : Target :=
  let i := Fin.ofNat 32 (b.toNat / 2)
  if b = 0x3F then .null else if b.toNat % 2 = 0 then .left i else .right i

def encodeTarget6 : Target → BitVec 6
  | .left i => BitVec.ofNat 6 (2 * i.val)
  | .right i => BitVec.ofNat 6 (2 * i.val + 1)
  | _ => 0x3F

def Fmt.code : Fmt → BitVec 4
  | .int8 => 0 | .uint8 => 1 | .int16 => 2 | .int32 => 3 | .fp32 => 4
  | .bf16 => 5 | .e4m3 => 6 | .e5m2 => 7 | .d8 => 8 | .s9 => 9

/-- The format of a 4-bit code (R139); codes 0xA to 0xF are reserved. -/
def Fmt.ofCode (b : BitVec 4) : Option Fmt :=
  [Fmt.int8, .uint8, .int16, .int32, .fp32, .bf16, .e4m3, .e5m2, .d8, .s9][b.toNat]?

def Round.code : Round → BitVec 3
  | .rne => 0 | .rtz => 1 | .rup => 2 | .rdn => 3 | .rsr => 4

/-- The rounding mode of a 3-bit code (R152). -/
def Round.ofCode (b : BitVec 3) : Option Round :=
  [Round.rne, .rtz, .rup, .rdn, .rsr][b.toNat]?

def MmaFmt.code : MmaFmt → BitVec 3
  | .i8 => 0 | .u8 => 1 | .bf16 => 2 | .e4m3 => 3 | .e5m2 => 4 | .d8 => 5

def MmaFmt.ofCode (b : BitVec 3) : Option MmaFmt :=
  [MmaFmt.i8, .u8, .bf16, .e4m3, .e5m2, .d8][b.toNat]?

def WinSize.code : WinSize → BitVec 2
  | .b2 => 0 | .b4 => 1 | .b8 => 2 | .b16 => 3

def WinSize.ofCode (b : BitVec 2) : WinSize :=
  if b = 0 then .b2 else if b = 1 then .b4 else if b = 2 then .b8 else .b16

def Cond.code : Cond → BitVec 3
  | .eq => 0 | .ne => 1 | .ltu => 2 | .geu => 3 | .all => 4 | .none => 5

def Cond.ofCode (b : BitVec 3) : Option Cond :=
  [Cond.eq, .ne, .ltu, .geu, .all, .none][b.toNat]?

/-! ### Forms -/

/-- `ok` unless a bit that must be 0 is set. -/
def need (c : Bool) (r : Reject) : Except Reject Unit := if c then .ok () else .error r

def orReject {α : Type} (o : Option α) (r : Reject) : Except Reject α :=
  match o with
  | some a => .ok a
  | none => .error r

/-- Majors 0x00 to 0x02 (R181): the minor forms in the order of xop. -/
def formsG : Nat → List (Pred → Target → Target → Instr)
  | 0 => [.add, .sub, .mul, .mulh, .mulhu, .div, .divu, .rem, .remu, .and, .or, .xor, .shl, .shr, .sra, .min, .minu, .max, .maxu]
  | 1 => [.clz, .popcnt, .sextB, .sextH, .sextW, .zextB, .zextH, .zextW, .mov, .not]
  | 2 => [.teq, .tne, .tlt, .tltu, .tle, .tleu, .tgt, .tge]
  | _ => []

def decodeG (m : Nat) (r : Raw) : Except Reject Instr := do
  let f ← orReject (formsG m)[r.xop.toNat]? .reservedMinor
  .ok (f (← decodePred r.pred) (← decodeTarget r.hi) (← decodeTarget r.lo))

def decodeI (f : Pred → BitVec 14 → Target → Instr) (r : Raw) : Except Reject Instr := do
  .ok (f (← decodePred r.pred) r.imm14 (← decodeTarget r.lo))

/-- The shift forms use imm14[5:0] and need imm14[13:6] = 0 (R177). -/
def decodeShift (f : Pred → BitVec 6 → Target → Instr) (r : Raw) : Except Reject Instr := do
  need (r.imm14.extractLsb' 6 8 == 0) .reservedBit
  .ok (f (← decodePred r.pred) (r.imm14.extractLsb' 0 6) (← decodeTarget r.lo))

def decodeC (f : BitVec 16 → Target → Instr) (r : Raw) : Except Reject Instr := do
  .ok (f r.imm16 (← decodeTarget r.lo))

/-- `fan3` (R178): bits [24:21] are 0. -/
def decodeFan3 (r : Raw) : Except Reject Instr := do
  need (r.pred == 0 && r.low23.extractLsb' 21 2 == 0) .reservedBit
  .ok (.fan3 (← decodeTarget7 (r.low23.extractLsb' 0 7)) (← decodeTarget7 (r.low23.extractLsb' 7 7))
    (← decodeTarget7 (r.low23.extractLsb' 14 7)))

/-- Bits [23:0], which `fan4` packs with four compact targets (R178). -/
def Raw.low24 (r : Raw) : BitVec 24 := (r.pred.extractLsb' 0 1) ++ r.xop ++ r.hi ++ r.lo

def decodeFan4 (r : Raw) : Except Reject Instr := do
  need (r.pred.extractLsb' 1 1 == 0) .reservedBit
  .ok (.fan4 (decodeTarget6 (r.low24.extractLsb' 0 6)) (decodeTarget6 (r.low24.extractLsb' 6 6))
    (decodeTarget6 (r.low24.extractLsb' 12 6)) (decodeTarget6 (r.low24.extractLsb' 18 6)))

/-- Format L (R177): LSID [22:18], imm9 [17:9], t1 [8:0]. -/
def decodeLoad (f : Pred → BitVec 5 → BitVec 9 → Target → Instr) (r : Raw) : Except Reject Instr := do
  .ok (f (← decodePred r.pred) r.xop r.hi (← decodeTarget r.lo))

def decodeStore (f : Pred → BitVec 5 → BitVec 9 → Instr) (r : Raw) : Except Reject Instr := do
  need (r.lo == 0x1FF) .targetNotNull
  .ok (f (← decodePred r.pred) r.xop r.hi)

def decodeStQ (r : Raw) : Except Reject Instr := do
  need (r.lo == 0x1FF) .targetNotNull
  need (r.pred == 0) .reservedPred
  .ok (.stQ r.xop r.hi)

def decodeLdpw (r : Raw) : Except Reject Instr := do
  .ok (.ldpw (← decodePred r.pred) (Fin.ofNat 8 (r.xop.extractLsb' 2 3).toNat) (WinSize.ofCode (r.xop.extractLsb' 0 2)) r.lo
    (← decodeTarget r.hi))

/-- Major 0x3B (R181), xop 0 to 7; `amocas` (8, 9) carries no predicate (R179). -/
def decodeAmo (r : Raw) : Except Reject Instr := do
  need (r.lo.extractLsb' 5 4 == 0) .reservedBit
  let l := r.lo.extractLsb' 0 5
  let t ← decodeTarget r.hi
  if r.xop.toNat < 8 then
    let f ← orReject ([Instr.amoaddW, .amoaddD, .amominW, .amominD, .amomaxW, .amomaxD, .amoswapW, .amoswapD][r.xop.toNat]?) .reservedMinor
    .ok (f (← decodePred r.pred) l t)
  else do
    need (r.pred == 0) .reservedPred
    match r.xop.toNat with
    | 8 => .ok (.amocasW l t)
    | 9 => .ok (.amocasD l t)
    | _ => .error .reservedMinor

/-- Major 0x3C (R181). -/
def decodeSync (r : Raw) : Except Reject Instr := do
  let p ← decodePred r.pred
  let l := r.lo.extractLsb' 0 5
  let n : Fin 64 := Fin.ofNat 64 r.lo.toNat
  match r.xop.toNat with
  | 0 => need (r.lo.extractLsb' 5 4 == 0) .reservedBit; .ok (.acq p l (← decodeTarget r.hi))
  | 1 => need (r.lo.extractLsb' 5 4 == 0) .reservedBit; need (r.hi == 0x1FF) .targetNotNull; .ok (.rel p l)
  | 2 => need (r.lo.extractLsb' 5 4 == 0) .reservedBit; .ok (.waitw p l (← decodeTarget r.hi))
  | 3 => need (r.lo.extractLsb' 6 3 == 0) .reservedBit; need (r.hi == 0x1FF) .targetNotNull; .ok (.arrive p n)
  | 4 => need (r.lo.extractLsb' 6 3 == 0) .reservedBit; .ok (.bwait p n (← decodeTarget r.hi))
  | _ => .error .reservedMinor

/-- Format B (R177): exit [22:20], offset [19:0]. -/
def decodeB (f : Pred → BitVec 3 → BitVec 20 → Instr) (r : Raw) : Except Reject Instr := do
  .ok (f (← decodePred r.pred) (r.low23.extractLsb' 20 3) (r.low23.extractLsb' 0 20))

/-- A form of format E with no result: t1 null, and imm9 below 2 to the n. -/
def nullE (r : Raw) (n : Nat) : Except Reject Unit := do
  need (r.hi == 0x1FF) .targetNotNull
  need (r.lo.toNat < 2 ^ n) .reservedBit

/-- Major 0x3F (R181). -/
def decodeSys (r : Raw) : Except Reject Instr := do
  let p ← decodePred r.pred
  match r.xop.toNat with
  | 0 => nullE r 3; .ok (.bend p (r.lo.extractLsb' 0 3))
  | 1 => nullE r 8; .ok (.trap p (r.lo.extractLsb' 0 8))
  | 2 => nullE r 0; .ok (.brk p)
  | 3 => need (r.lo == 0) .reservedBit; .ok (.fence p (← decodeTarget r.hi))
  | 4 => nullE r 0; .ok (.nop p)
  | 5 => need (r.lo == 0) .reservedBit; .ok (.rdtick p (← decodeTarget r.hi))
  | 6 => need (r.lo == 0) .reservedBit; .ok (.rdlt p (← decodeTarget r.hi))
  | 7 => need (r.lo == 0) .reservedBit; .ok (.rdwall p (← decodeTarget r.hi))
  | 8 => nullE r 5; .ok (.nullst p (r.lo.extractLsb' 0 5))
  | 9 => nullE r 3; .ok (.nullw p (Fin.ofNat 8 r.lo.toNat))
  | _ => .error .reservedMinor

/-- Majors 0x40 to 0x48 (R259): channel xop[1:0], the other xop bits `hi`. -/
def decodeCopy (f : Pred → ChanIx → BitVec 9 → Instr) (hi : BitVec 3) (r : Raw) : Except Reject Instr := do
  need (r.hi == 0x1FF) .targetNotNull
  need (r.xop.extractLsb' 2 3 == hi) .reservedBit
  .ok (f (← decodePred r.pred) (Fin.ofNat 4 r.xop.toNat) r.lo)

def decodeCpchk (r : Raw) : Except Reject Instr := do
  need (r.xop == 0 && r.lo.extractLsb' 8 1 == 0) .reservedBit
  .ok (.cpchk (← decodePred r.pred) (r.lo.extractLsb' 0 8) (← decodeTarget r.hi))

/-- Majors 0x4C to 0x4F (R449). -/
def decodeTrace (m : Nat) (r : Raw) : Except Reject Instr := do
  let p ← decodePred r.pred
  match m with
  | 0x4C => nullE r 0; .ok (.trec p r.xop)
  | 0x4D => need (r.xop == 0) .reservedBit; nullE r 8; .ok (.tmark p (r.lo.extractLsb' 0 8))
  | 0x4E => need (r.xop == 0) .reservedBit; nullE r 0; .ok (.thash p)
  | _ => need (r.xop == 0) .reservedBit; nullE r 1; .ok (if r.lo = 0 then .tstopStop p else .tstopStart p)

/-- Majors 0x50 to 0x59 (R306). -/
def decodeRegion (m : Nat) (r : Raw) : Except Reject Instr := do
  let p ← decodePred r.pred
  need (r.xop == 0) .reservedBit
  match m with
  | 0x50 => nullE r 0; .ok (.jtab p)
  | 0x51 => nullE r 4; .ok (.cfgld p (r.lo.extractLsb' 0 4))
  | 0x52 => nullE r 0; .ok (.cfgact p)
  | 0x53 => nullE r 0; .ok (.cfgdrop p)
  | 0x54 => nullE r 0; .ok (.run p)
  | 0x55 => nullE r 0; .ok (.loop p)
  | 0x56 => nullE r 7; .ok (.tok p (r.lo.extractLsb' 0 7))
  | 0x57 => need (r.lo.toNat < 4) .reservedBit; .ok (.rdsink p (Fin.ofNat 4 r.lo.toNat) (← decodeTarget r.hi))
  | 0x58 => need (r.lo.toNat < 8) .reservedBit; .ok (.lwait p (Fin.ofNat 4 r.lo.toNat) (r.lo.getLsbD 2) (← decodeTarget r.hi))
  | 0x59 => nullE r 2; .ok (.lrel p (Fin.ofNat 4 r.lo.toNat))
  | _ => .error .reservedMajor

/-- Majors 0x60 to 0x6A (R337). -/
def decodeMatrix (m : Nat) (r : Raw) : Except Reject Instr := do
  let p ← decodePred r.pred
  need (r.hi == 0x1FF) .targetNotNull
  let n4 : Fin 16 := Fin.ofNat 16 r.lo.toNat
  let n5 : Fin 32 := Fin.ofNat 32 r.lo.toNat
  let up4 : Fin 16 := Fin.ofNat 16 (r.lo.toNat / 32)
  let range : Fin 32 := Fin.ofNat 32 (r.lo.toNat / 16)
  let xopN : Fin 32 := Fin.ofNat 32 r.xop.toNat
  match m with
  | 0x60 => match r.xop.toNat with
    | 0 => .ok (.mtld p n4 range)
    | 1 => .ok (.mtldw p n4 range)
    | 2 => .ok (.mtst p n4 range)
    | _ => .error .reservedMinor
  | 0x61 => do
    need (r.lo.extractLsb' 6 3 == 0) .reservedBit
    .ok (if r.lo.getLsbD 5 then .mfill p n5 xopN else .mspill p n5 xopN)
  | 0x62 => do
    need (r.xop.extractLsb' 0 2 == 0) .reservedBit
    .ok (.mma p (← orReject (MmaFmt.ofCode (r.xop.extractLsb' 2 3)) .reservedMinor) n5 up4)
  | 0x63 => do
    .ok (.mmaw p (← orReject (MmaFmt.ofCode (r.xop.extractLsb' 2 3)) .reservedMinor) n5 up4 (Fin.ofNat 4 r.xop.toNat))
  | 0x64 => match r.xop.toNat with
    | 0 => do
      need (r.lo.extractLsb' 8 1 == 0) .reservedBit
      .ok (.mchainB p n5 (← orReject (Round.ofCode (BitVec.setWidth 3 (r.lo.extractLsb' 5 2))) .reservedMinor) (r.lo.getLsbD 7))
    | 1 => need (r.lo.toNat < 32) .reservedBit; .ok (.mchainE p n5)
    | 2 => need (r.lo.toNat < 32) .reservedBit; .ok (.mzero p n5)
    | _ => .error .reservedMinor
  | 0x65 => do
    .ok (.mscacc p n5 xopN (← orReject (Round.ofCode (r.lo.extractLsb' 5 3)) .reservedMinor) (r.lo.getLsbD 8))
  | 0x66 => do
    need (r.xop == 0) .reservedMinor
    need (r.lo.toNat < 128) .reservedBit
    .ok (.mrd p n5 (Fin.ofNat 4 (r.lo.toNat / 32)))
  | 0x67 => match r.xop.toNat with
    | 0 => do .ok (.mpin p n5 (← orReject (Fmt.ofCode (r.lo.extractLsb' 5 4)) .reservedMinor))
    | 1 => need (r.lo.toNat < 32) .reservedBit; .ok (.munpin p n5)
    | _ => .error .reservedMinor
  | _ => do
    need (r.xop.extractLsb' 0 3 == 0) .reservedBit
    need (r.lo.toNat < 32) .reservedBit
    let q : Fin 4 := Fin.ofNat 4 (r.xop.toNat / 8)
    match m with
    | 0x68 => .ok (.mgdlt p n5 q)
    | 0x69 => .ok (.mfwrd p n5 q)
    | 0x6A => .ok (.mfwchunk p n5 q)
    | _ => .error .reservedMajor

/-- Majors 0x70 to 0x74 (R379). -/
def decodeStoch (m : Nat) (r : Raw) : Except Reject Instr := do
  let p ← decodePred r.pred
  need (r.hi == 0x1FF) .targetNotNull
  let d : Fin 64 := Fin.ofNat 64 r.lo.toNat
  let len : BitVec 2 := r.lo.extractLsb' 6 2
  let g : Fin 16 := Fin.ofNat 16 r.xop.toNat
  match m with
  | 0x70 => match r.xop.toNat with
    | 8 => need (r.lo.toNat < 256) .reservedBit; .ok (.sfill p len d)
    | 9 => do
      need (r.lo.toNat < 128 && r.lo.extractLsb' 4 2 == 0) .reservedBit
      .ok (.scnt p (r.lo.getLsbD 6) (Fin.ofNat 16 r.lo.toNat))
    | k => do
      need (r.lo.toNat < 64) .reservedBit
      let f ← orReject ([Instr.sand, .sor, .sxor, .sxnor, .smux, .snot, .smov, .srot][k]?) .reservedMinor
      .ok (f p d)
  | 0x71 =>
    if r.xop.getLsbD 4 then do need (r.lo.toNat < 64) .reservedBit; .ok (.sregen p g d)
    else .ok (.sgen p g (r.lo.getLsbD 8) len d)
  | 0x72 => .ok (if r.xop.getLsbD 4 then .b2sv p g (r.lo.getLsbD 8) len d else .b2s p g (r.lo.getLsbD 8) len d)
  | 0x73 => match r.xop.toNat with
    | 0 => need (r.lo.toNat < 128) .reservedBit; .ok (.s2b p (r.lo.getLsbD 6) d)
    | 1 => need (r.lo.toNat < 256) .reservedBit; .ok (.sld p len d)
    | 2 => need (r.lo.toNat < 64) .reservedBit; .ok (.sst p d)
    | _ => .error .reservedMinor
  | 0x74 => do
    need (r.xop == 0) .reservedMinor
    need (r.lo.toNat < 16) .reservedBit
    .ok (.sgset p (Fin.ofNat 16 r.lo.toNat))
  | _ => .error .reservedMajor

/-- The major opcode map (R180, R181). -/
def decodeRaw (r : Raw) : Except Reject Instr :=
  match r.major.toNat with
  | 0x00 => decodeG 0 r
  | 0x01 => decodeG 1 r
  | 0x02 => decodeG 2 r
  | 0x03 => decodeI .addi r
  | 0x04 => decodeI .muli r
  | 0x05 => decodeI .andi r
  | 0x06 => decodeI .ori r
  | 0x07 => decodeI .xori r
  | 0x08 => decodeShift .shli r
  | 0x09 => decodeShift .shri r
  | 0x0A => decodeShift .srai r
  | 0x0B => decodeI .teqi r
  | 0x0C => decodeI .tnei r
  | 0x0D => decodeI .tlti r
  | 0x0E => decodeI .tltui r
  | 0x0F => decodeI .tlei r
  | 0x10 => decodeI .tleui r
  | 0x11 => decodeI .tgti r
  | 0x12 => decodeI .tgei r
  | 0x13 => decodeC .const r
  | 0x14 => decodeC .constu r
  | 0x15 => decodeC .shlc r
  | 0x16 => decodeFan3 r
  | 0x17 => decodeFan4 r
  | 0x18 => decodeI .rdcr r
  | 0x19 => do need (r.lo == 0x1FF) .targetNotNull; .ok (.wrcr (← decodePred r.pred) r.imm14)
  | 0x30 => decodeLoad .ldB r
  | 0x31 => decodeLoad .ldH r
  | 0x32 => decodeLoad .ldW r
  | 0x33 => decodeLoad .ldD r
  | 0x34 => decodeLoad .ldQ r
  | 0x35 => decodeStore .stB r
  | 0x36 => decodeStore .stH r
  | 0x37 => decodeStore .stW r
  | 0x38 => decodeStore .stD r
  | 0x39 => decodeStQ r
  | 0x3A => decodeLdpw r
  | 0x3B => decodeAmo r
  | 0x3C => decodeSync r
  | 0x3D => decodeB .bro r
  | 0x3E => decodeB .brx r
  | 0x3F => decodeSys r
  | 0x40 => decodeCopy .cp1 0 r
  | 0x41 => decodeCopy .cp2 0 r
  | 0x42 => decodeCopy .cp3 0 r
  | 0x43 => decodeCopy .cpmc 0 r
  | 0x44 => decodeCopy .cpset 0 r
  | 0x45 => decodeCopy .cpcmp 0 r
  | 0x46 => decodeCopy .cphash 0 r
  | 0x47 => if r.xop.getLsbD 2 then decodeCopy .cpunspill 1 r else decodeCopy .cpspill 0 r
  | 0x48 => decodeCopy .cpbind 0 r
  | 0x49 => decodeCpchk r
  | m =>
    if 0x4C ≤ m ∧ m ≤ 0x4F then decodeTrace m r
    else if 0x50 ≤ m ∧ m ≤ 0x59 then decodeRegion m r
    else if 0x60 ≤ m ∧ m ≤ 0x6A then decodeMatrix m r
    else if 0x70 ≤ m ∧ m ≤ 0x74 then decodeStoch m r
    else .error .reservedMajor

/-- The instruction a body word stands for, or why it stands for none. -/
def decodeWord (w : BitVec 32) : Except Reject Instr := decodeRaw (Raw.ofWord w)

/-! ### The encoder of body words -/

/-- Formats G and E. -/
def rawGE (m : BitVec 7) (p : Pred) (x : BitVec 5) (hi lo : BitVec 9) : Raw := ⟨m, encodePred p, x, hi, lo⟩
def rawG (m : BitVec 7) (x : BitVec 5) (p : Pred) (t u : Target) : Raw := rawGE m p x (encodeTarget t) (encodeTarget u)
def rawI (m : BitVec 7) (p : Pred) (imm : BitVec 14) (lo : BitVec 9) : Raw :=
  rawGE m p (imm.extractLsb' 9 5) (imm.extractLsb' 0 9) lo
def rawC (m : BitVec 7) (imm : BitVec 16) (t : Target) : Raw :=
  ⟨m, imm.extractLsb' 14 2, imm.extractLsb' 9 5, imm.extractLsb' 0 9, encodeTarget t⟩
/-- Bits [24:0] laid out by the form itself (formats B and F). -/
def rawLow (m : BitVec 7) (b : BitVec 25) : Raw :=
  ⟨m, b.extractLsb' 23 2, b.extractLsb' 18 5, b.extractLsb' 9 9, b.extractLsb' 0 9⟩
/-- A form of format E with t1 null. -/
def rawN (m : BitVec 7) (p : Pred) (x : BitVec 5) (lo : BitVec 9) : Raw := rawGE m p x 0x1FF lo

def bitOf (b : Bool) : BitVec 1 := if b then 1 else 0
/-- A number of a register, unit or slot as a field of n bits. -/
def num {k : Nat} (n : Nat) (i : Fin k) : BitVec n := BitVec.ofNat n i.val

/-- The fields of an instruction that is a body word; the other rows have no word. -/
def encodeRaw : Instr → Option Raw
  | .add p t u => some (rawG 0 0 p t u)
  | .sub p t u => some (rawG 0 1 p t u)
  | .mul p t u => some (rawG 0 2 p t u)
  | .mulh p t u => some (rawG 0 3 p t u)
  | .mulhu p t u => some (rawG 0 4 p t u)
  | .div p t u => some (rawG 0 5 p t u)
  | .divu p t u => some (rawG 0 6 p t u)
  | .rem p t u => some (rawG 0 7 p t u)
  | .remu p t u => some (rawG 0 8 p t u)
  | .and p t u => some (rawG 0 9 p t u)
  | .or p t u => some (rawG 0 10 p t u)
  | .xor p t u => some (rawG 0 11 p t u)
  | .shl p t u => some (rawG 0 12 p t u)
  | .shr p t u => some (rawG 0 13 p t u)
  | .sra p t u => some (rawG 0 14 p t u)
  | .min p t u => some (rawG 0 15 p t u)
  | .minu p t u => some (rawG 0 16 p t u)
  | .max p t u => some (rawG 0 17 p t u)
  | .maxu p t u => some (rawG 0 18 p t u)
  | .clz p t u => some (rawG 1 0 p t u)
  | .popcnt p t u => some (rawG 1 1 p t u)
  | .sextB p t u => some (rawG 1 2 p t u)
  | .sextH p t u => some (rawG 1 3 p t u)
  | .sextW p t u => some (rawG 1 4 p t u)
  | .zextB p t u => some (rawG 1 5 p t u)
  | .zextH p t u => some (rawG 1 6 p t u)
  | .zextW p t u => some (rawG 1 7 p t u)
  | .mov p t u => some (rawG 1 8 p t u)
  | .not p t u => some (rawG 1 9 p t u)
  | .teq p t u => some (rawG 2 0 p t u)
  | .tne p t u => some (rawG 2 1 p t u)
  | .tlt p t u => some (rawG 2 2 p t u)
  | .tltu p t u => some (rawG 2 3 p t u)
  | .tle p t u => some (rawG 2 4 p t u)
  | .tleu p t u => some (rawG 2 5 p t u)
  | .tgt p t u => some (rawG 2 6 p t u)
  | .tge p t u => some (rawG 2 7 p t u)
  | .addi p i t => some (rawI 0x03 p i (encodeTarget t))
  | .muli p i t => some (rawI 0x04 p i (encodeTarget t))
  | .andi p i t => some (rawI 0x05 p i (encodeTarget t))
  | .ori p i t => some (rawI 0x06 p i (encodeTarget t))
  | .xori p i t => some (rawI 0x07 p i (encodeTarget t))
  | .shli p i t => some (rawI 0x08 p ((0 : BitVec 8) ++ i) (encodeTarget t))
  | .shri p i t => some (rawI 0x09 p ((0 : BitVec 8) ++ i) (encodeTarget t))
  | .srai p i t => some (rawI 0x0A p ((0 : BitVec 8) ++ i) (encodeTarget t))
  | .teqi p i t => some (rawI 0x0B p i (encodeTarget t))
  | .tnei p i t => some (rawI 0x0C p i (encodeTarget t))
  | .tlti p i t => some (rawI 0x0D p i (encodeTarget t))
  | .tltui p i t => some (rawI 0x0E p i (encodeTarget t))
  | .tlei p i t => some (rawI 0x0F p i (encodeTarget t))
  | .tleui p i t => some (rawI 0x10 p i (encodeTarget t))
  | .tgti p i t => some (rawI 0x11 p i (encodeTarget t))
  | .tgei p i t => some (rawI 0x12 p i (encodeTarget t))
  | .const i t => some (rawC 0x13 i t)
  | .constu i t => some (rawC 0x14 i t)
  | .shlc i t => some (rawC 0x15 i t)
  | .fan3 a b c => some (rawLow 0x16 ((0 : BitVec 4) ++ encodeTarget7 c ++ encodeTarget7 b ++ encodeTarget7 a))
  | .fan4 a b c d => some (rawLow 0x17 ((0 : BitVec 1) ++ encodeTarget6 d ++ encodeTarget6 c ++ encodeTarget6 b ++ encodeTarget6 a))
  | .rdcr p n t => some (rawI 0x18 p n (encodeTarget t))
  | .wrcr p n => some (rawI 0x19 p n 0x1FF)
  | .ldB p l i t => some (rawGE 0x30 p l i (encodeTarget t))
  | .ldH p l i t => some (rawGE 0x31 p l i (encodeTarget t))
  | .ldW p l i t => some (rawGE 0x32 p l i (encodeTarget t))
  | .ldD p l i t => some (rawGE 0x33 p l i (encodeTarget t))
  | .ldQ p l i t => some (rawGE 0x34 p l i (encodeTarget t))
  | .stB p l i => some (rawGE 0x35 p l i 0x1FF)
  | .stH p l i => some (rawGE 0x36 p l i 0x1FF)
  | .stW p l i => some (rawGE 0x37 p l i 0x1FF)
  | .stD p l i => some (rawGE 0x38 p l i 0x1FF)
  | .stQ l i => some (rawGE 0x39 .always l i 0x1FF)
  | .ldpw p w sz i t => some (rawGE 0x3A p ((num 3 w : BitVec 3) ++ sz.code) (encodeTarget t) i)
  | .amoaddW p l t => some (rawGE 0x3B p 0 (encodeTarget t) ((0 : BitVec 4) ++ l))
  | .amoaddD p l t => some (rawGE 0x3B p 1 (encodeTarget t) ((0 : BitVec 4) ++ l))
  | .amominW p l t => some (rawGE 0x3B p 2 (encodeTarget t) ((0 : BitVec 4) ++ l))
  | .amominD p l t => some (rawGE 0x3B p 3 (encodeTarget t) ((0 : BitVec 4) ++ l))
  | .amomaxW p l t => some (rawGE 0x3B p 4 (encodeTarget t) ((0 : BitVec 4) ++ l))
  | .amomaxD p l t => some (rawGE 0x3B p 5 (encodeTarget t) ((0 : BitVec 4) ++ l))
  | .amoswapW p l t => some (rawGE 0x3B p 6 (encodeTarget t) ((0 : BitVec 4) ++ l))
  | .amoswapD p l t => some (rawGE 0x3B p 7 (encodeTarget t) ((0 : BitVec 4) ++ l))
  | .amocasW l t => some (rawGE 0x3B .always 8 (encodeTarget t) ((0 : BitVec 4) ++ l))
  | .amocasD l t => some (rawGE 0x3B .always 9 (encodeTarget t) ((0 : BitVec 4) ++ l))
  | .acq p l t => some (rawGE 0x3C p 0 (encodeTarget t) ((0 : BitVec 4) ++ l))
  | .rel p l => some (rawN 0x3C p 1 ((0 : BitVec 4) ++ l))
  | .waitw p l t => some (rawGE 0x3C p 2 (encodeTarget t) ((0 : BitVec 4) ++ l))
  | .arrive p n => some (rawN 0x3C p 3 (num 9 n))
  | .bwait p n t => some (rawGE 0x3C p 4 (encodeTarget t) (num 9 n))
  | .bro p e o => some (rawLow 0x3D (encodePred p ++ e ++ o))
  | .brx p e o => some (rawLow 0x3E (encodePred p ++ e ++ o))
  | .bend p e => some (rawN 0x3F p 0 ((0 : BitVec 6) ++ e))
  | .trap p c => some (rawN 0x3F p 1 ((0 : BitVec 1) ++ c))
  | .brk p => some (rawN 0x3F p 2 0)
  | .fence p t => some (rawGE 0x3F p 3 (encodeTarget t) 0)
  | .nop p => some (rawN 0x3F p 4 0)
  | .rdtick p t => some (rawGE 0x3F p 5 (encodeTarget t) 0)
  | .rdlt p t => some (rawGE 0x3F p 6 (encodeTarget t) 0)
  | .rdwall p t => some (rawGE 0x3F p 7 (encodeTarget t) 0)
  | .nullst p l => some (rawN 0x3F p 8 ((0 : BitVec 4) ++ l))
  | .nullw p w => some (rawN 0x3F p 9 (num 9 w))
  | .cp1 p c d => some (rawN 0x40 p (num 5 c) d)
  | .cp2 p c d => some (rawN 0x41 p (num 5 c) d)
  | .cp3 p c d => some (rawN 0x42 p (num 5 c) d)
  | .cpmc p c d => some (rawN 0x43 p (num 5 c) d)
  | .cpset p c d => some (rawN 0x44 p (num 5 c) d)
  | .cpcmp p c d => some (rawN 0x45 p (num 5 c) d)
  | .cphash p c d => some (rawN 0x46 p (num 5 c) d)
  | .cpspill p c d => some (rawN 0x47 p (num 5 c) d)
  | .cpunspill p c d => some (rawN 0x47 p ((1 : BitVec 3) ++ (num 2 c : BitVec 2)) d)
  | .cpbind p c d => some (rawN 0x48 p (num 5 c) d)
  | .cpchk p r t => some (rawGE 0x49 p 0 (encodeTarget t) ((0 : BitVec 1) ++ r))
  | .trec p n => some (rawN 0x4C p n 0)
  | .tmark p c => some (rawN 0x4D p 0 ((0 : BitVec 1) ++ c))
  | .thash p => some (rawN 0x4E p 0 0)
  | .tstopStop p => some (rawN 0x4F p 0 0)
  | .tstopStart p => some (rawN 0x4F p 0 1)
  | .jtab p => some (rawN 0x50 p 0 0)
  | .cfgld p n => some (rawN 0x51 p 0 ((0 : BitVec 5) ++ n))
  | .cfgact p => some (rawN 0x52 p 0 0)
  | .cfgdrop p => some (rawN 0x53 p 0 0)
  | .run p => some (rawN 0x54 p 0 0)
  | .loop p => some (rawN 0x55 p 0 0)
  | .tok p q => some (rawN 0x56 p 0 ((0 : BitVec 2) ++ q))
  | .rdsink p n t => some (rawGE 0x57 p 0 (encodeTarget t) (num 9 n))
  | .lwait p l le t => some (rawGE 0x58 p 0 (encodeTarget t) ((0 : BitVec 6) ++ bitOf le ++ (num 2 l : BitVec 2)))
  | .lrel p l => some (rawN 0x59 p 0 (num 9 l))
  | .mtld p n r => some (rawN 0x60 p 0 ((num 5 r : BitVec 5) ++ (num 4 n : BitVec 4)))
  | .mtldw p n r => some (rawN 0x60 p 1 ((num 5 r : BitVec 5) ++ (num 4 n : BitVec 4)))
  | .mtst p n r => some (rawN 0x60 p 2 ((num 5 r : BitVec 5) ++ (num 4 n : BitVec 4)))
  | .mspill p n r => some (rawN 0x61 p (num 5 r) ((0 : BitVec 4) ++ (num 5 n : BitVec 5)))
  | .mfill p n r => some (rawN 0x61 p (num 5 r) ((1 : BitVec 4) ++ (num 5 n : BitVec 5)))
  | .mma p f d a => some (rawN 0x62 p (f.code ++ (0 : BitVec 2)) ((num 4 a : BitVec 4) ++ (num 5 d : BitVec 5)))
  | .mmaw p f d a r => some (rawN 0x63 p (f.code ++ (num 2 r : BitVec 2)) ((num 4 a : BitVec 4) ++ (num 5 d : BitVec 5)))
  | .mchainB p n rnd clr =>
    some (rawN 0x64 p 0 ((0 : BitVec 1) ++ bitOf clr ++ rnd.code.extractLsb' 0 2 ++ (num 5 n : BitVec 5)))
  | .mchainE p n => some (rawN 0x64 p 1 (num 9 n))
  | .mzero p n => some (rawN 0x64 p 2 (num 9 n))
  | .mscacc p d q rnd int => some (rawN 0x65 p (num 5 q) (bitOf int ++ rnd.code ++ (num 5 d : BitVec 5)))
  | .mrd p n g => some (rawN 0x66 p 0 ((0 : BitVec 2) ++ (num 2 g : BitVec 2) ++ (num 5 n : BitVec 5)))
  | .mpin p n f => some (rawN 0x67 p 0 (f.code ++ (num 5 n : BitVec 5)))
  | .munpin p n => some (rawN 0x67 p 1 (num 9 n))
  | .mgdlt p n q => some (rawN 0x68 p ((num 2 q : BitVec 2) ++ (0 : BitVec 3)) (num 9 n))
  | .mfwrd p n q => some (rawN 0x69 p ((num 2 q : BitVec 2) ++ (0 : BitVec 3)) (num 9 n))
  | .mfwchunk p n q => some (rawN 0x6A p ((num 2 q : BitVec 2) ++ (0 : BitVec 3)) (num 9 n))
  | .sand p d => some (rawN 0x70 p 0 (num 9 d))
  | .sor p d => some (rawN 0x70 p 1 (num 9 d))
  | .sxor p d => some (rawN 0x70 p 2 (num 9 d))
  | .sxnor p d => some (rawN 0x70 p 3 (num 9 d))
  | .smux p d => some (rawN 0x70 p 4 (num 9 d))
  | .snot p d => some (rawN 0x70 p 5 (num 9 d))
  | .smov p d => some (rawN 0x70 p 6 (num 9 d))
  | .srot p d => some (rawN 0x70 p 7 (num 9 d))
  | .sfill p len d => some (rawN 0x70 p 8 ((0 : BitVec 1) ++ len ++ (num 6 d : BitVec 6)))
  | .scnt p acc n => some (rawN 0x70 p 9 ((0 : BitVec 2) ++ bitOf acc ++ (num 6 n : BitVec 6)))
  | .sgen p g c len d => some (rawN 0x71 p (num 5 g) (bitOf c ++ len ++ (num 6 d : BitVec 6)))
  | .sregen p g d => some (rawN 0x71 p ((1 : BitVec 1) ++ (num 4 g : BitVec 4)) (num 9 d))
  | .b2s p g bp len d => some (rawN 0x72 p (num 5 g) (bitOf bp ++ len ++ (num 6 d : BitVec 6)))
  | .b2sv p g bp len d => some (rawN 0x72 p ((1 : BitVec 1) ++ (num 4 g : BitVec 4)) (bitOf bp ++ len ++ (num 6 d : BitVec 6)))
  | .s2b p bp a => some (rawN 0x73 p 0 ((0 : BitVec 2) ++ bitOf bp ++ (num 6 a : BitVec 6)))
  | .sld p len d => some (rawN 0x73 p 1 ((0 : BitVec 1) ++ len ++ (num 6 d : BitVec 6)))
  | .sst p a => some (rawN 0x73 p 2 (num 9 a))
  | .sgset p g => some (rawN 0x74 p 0 (num 9 g))
  | _ => none

/-- The word of an instruction of a block's body. -/
def encodeWord (i : Instr) : Option (BitVec 32) := (encodeRaw i).map Raw.toWord

/-! ### Front-end packets -/

/-- Payload double-words of each opcode (R403); `pk.nop` takes any number. -/
def packetSize : Nat → Option Nat
  | 0x01 => some 2 | 0x02 => some 2 | 0x03 => some 3 | 0x04 => some 1 | 0x05 => some 3 | 0x06 => some 4 | 0x07 => some 0
  | 0x08 => some 1 | 0x09 => some 3 | 0x0A => some 1 | 0x0B => some 4 | 0x0C => some 3 | 0x0D => some 0
  | _ => none

/-- The header's opcode, SIZE and reserved bits (R191 to R193). -/
def checkHeader (h : Word) : Except Reject Unit := do
  need (h.extractLsb' 0 8 == 0 || (packetSize (h.extractLsb' 0 8).toNat).isSome) .reservedMajor
  need (h.extractLsb' 16 16 == 0) .reservedBit
  need (h.extractLsb' 0 8 == 0 || packetSize (h.extractLsb' 0 8).toNat == some (h.extractLsb' 8 8).toNat) .wrongSize

/-- An address of 56 bits; bits above are reserved. -/
def addr56 (d : Word) : Except Reject (BitVec 56) := do
  need (d.extractLsb' 56 8 == 0) .reservedBit
  .ok (d.extractLsb' 0 56)

/-- A field [lo+n-1:lo] of a double-word. -/
def fld (d : Word) (lo n : Nat) : BitVec n := d.extractLsb' lo n

/-- Bits from n upward are 0. -/
def highZero (d : Word) (n : Nat) : Except Reject Unit := need (d.toNat < 2 ^ n) .reservedBit

/-- The packet of a header and its payload (R403). -/
def decodePacket (h : Word) (pl : List Word) : Except Reject Instr := do
  checkHeader h
  let tag : BitVec 32 := fld h 32 32
  let dw : Nat → Word := fun i => pl.getD i 0
  match (h.extractLsb' 0 8).toNat with
  | 0x00 => .ok (.pkNop tag (fld h 8 8))
  | 0x01 => do
    highZero (dw 1) 9
    .ok (.pkLaunch tag (← addr56 (dw 0)) (fld (dw 1) 0 8) ((dw 1).getLsbD 8))
  | 0x02 => do
    highZero (dw 1) 20
    .ok (.pkIb tag (← addr56 (dw 0)) (fld (dw 1) 0 20))
  | 0x03 => do
    need (fld (dw 2) 3 5 == 0) .reservedBit
    highZero (dw 2) 16
    .ok (.pkPred tag (← addr56 (dw 0)) (dw 1) (← orReject (Cond.ofCode (fld (dw 2) 0 3)) .reservedMinor) (fld (dw 2) 8 8))
  | 0x04 => do
    highZero (dw 0) 24
    .ok (.pkLoop tag (fld (dw 0) 0 16) (fld (dw 0) 16 8))
  | 0x05 => do
    need (fld (dw 2) 3 29 == 0) .reservedBit
    .ok (.pkWait tag (← addr56 (dw 0)) (dw 1) (← orReject (Cond.ofCode (fld (dw 2) 0 3)) .reservedMinor) (fld (dw 2) 32 32))
  | 0x06 => do
    need (fld (dw 2) 4 4 == 0) .reservedBit
    highZero (dw 2) 16
    let op ← (if fld (dw 2) 0 2 = 0 then .ok .write else if fld (dw 2) 0 2 = 1 then .ok .add else .error .reservedMinor)
    .ok (.pkSignal tag (← addr56 (dw 0)) (dw 1) op ((dw 2).getLsbD 2) ((dw 2).getLsbD 3) (fld (dw 2) 8 8) (dw 3))
  | 0x07 => .ok (.pkFfence tag)
  | 0x08 => do
    highZero (dw 0) 21
    .ok (.pkMode tag (fld (dw 0) 0 16) (fld (dw 0) 16 4) ((dw 0).getLsbD 20))
  | 0x09 => do
    need (fld (dw 0) 6 2 == 0) .reservedBit
    highZero (dw 0) 10
    let g : GraphIx := Fin.ofNat 64 (fld (dw 0) 0 6).toNat
    match (fld (dw 0) 8 2).toNat with
    | 0 => need (dw 1 == 0 && dw 2 == 0) .reservedBit; .ok (.pkGraphRun tag g)
    | 1 => highZero (dw 2) 12; .ok (.pkGraphLoad tag g (← addr56 (dw 1)) (fld (dw 2) 0 12))
    | 2 => need (dw 1 == 0 && dw 2 == 0) .reservedBit; .ok (.pkGraphUnload tag g)
    | _ => .error .reservedMinor
  | 0x0A => do
    need (fld (dw 0) 6 2 == 0) .reservedBit
    highZero (dw 0) 33
    let g : GraphIx := Fin.ofNat 64 (fld (dw 0) 0 6).toNat
    .ok (if (dw 0).getLsbD 32 then .pkUnbind tag g (fld (dw 0) 8 8) (fld (dw 0) 16 16)
      else .pkBind tag g (fld (dw 0) 8 8) (fld (dw 0) 16 16))
  | 0x0B => do
    highZero (dw 0) 32
    highZero (dw 3) 32
    .ok (.pkIngress tag (fld (dw 0) 0 32) (← addr56 (dw 1)) (← addr56 (dw 2)) (fld (dw 3) 0 32))
  | 0x0C => do
    highZero (dw 2) 32
    .ok (.pkCopy tag (← addr56 (dw 0)) (← addr56 (dw 1)) (fld (dw 2) 0 32))
  | 0x0D => .ok (.pkEnd tag)
  | _ => .error .reservedMajor

/-- A packet's header (R191). -/
def header (tag : BitVec 32) (size op : BitVec 8) : Word := tag ++ (0 : BitVec 16) ++ size ++ op

def wide56 (a : BitVec 56) : Word := (0 : BitVec 8) ++ a

/-- The double-words of a packet, header first (R403). -/
def encodePacket : Instr → Option (List Word)
  | .pkNop tag n => some (header tag n 0x00 :: List.replicate n.toNat 0)
  | .pkLaunch tag a t d => some [header tag 2 0x01, wide56 a, (0 : BitVec 55) ++ bitOf d ++ t]
  | .pkIb tag a l => some [header tag 2 0x02, wide56 a, (0 : BitVec 44) ++ l]
  | .pkPred tag a v c n => some [header tag 3 0x03, wide56 a, v, (0 : BitVec 48) ++ n ++ (0 : BitVec 5) ++ c.code]
  | .pkLoop tag n b => some [header tag 1 0x04, (0 : BitVec 40) ++ b ++ n]
  | .pkWait tag a v c t => some [header tag 3 0x05, wide56 a, v, t ++ (0 : BitVec 29) ++ c.code]
  | .pkSignal tag a v op after irq vec e =>
    some [header tag 4 0x06, wide56 a, v,
      (0 : BitVec 48) ++ vec ++ (0 : BitVec 4) ++ bitOf irq ++ bitOf after ++ (if op = .add then (1 : BitVec 2) else 0), e]
  | .pkFfence tag => some [header tag 0 0x07]
  | .pkMode tag l m u => some [header tag 1 0x08, (0 : BitVec 43) ++ bitOf u ++ m ++ l]
  | .pkGraphRun tag g => some [header tag 3 0x09, num 64 g, 0, 0]
  | .pkGraphLoad tag g a l =>
    some [header tag 3 0x09, (0 : BitVec 54) ++ (1 : BitVec 2) ++ (num 8 g : BitVec 8), wide56 a, (0 : BitVec 52) ++ l]
  | .pkGraphUnload tag g => some [header tag 3 0x09, (0 : BitVec 54) ++ (2 : BitVec 2) ++ (num 8 g : BitVec 8), 0, 0]
  | .pkBind tag g c l => some [header tag 1 0x0A, (0 : BitVec 32) ++ l ++ c ++ (num 8 g : BitVec 8)]
  | .pkUnbind tag g c l => some [header tag 1 0x0A, (1 : BitVec 32) ++ l ++ c ++ (num 8 g : BitVec 8)]
  | .pkIngress tag id s d l => some [header tag 4 0x0B, (0 : BitVec 32) ++ id, wide56 s, wide56 d, (0 : BitVec 32) ++ l]
  | .pkCopy tag s d l => some [header tag 3 0x0C, wide56 s, wide56 d, (0 : BitVec 32) ++ l]
  | .pkEnd tag => some [header tag 0 0x0D]
  | _ => none

/-! ### The host's question -/

/-- The n-th double-word of a number, the first lowest. -/
def dwordOf (w n : Nat) : Word := BitVec.ofNat 64 (w / 2 ^ (64 * n))

/-- The instruction of a body word (up to 32 bits) or of a packet (more bits: its header and payload, double-word by double-word). -/
def decodeTableWord (nbits w : Nat) : Option Instr :=
  if nbits ≤ 32 then (decodeWord (BitVec.ofNat 32 w)).toOption
  else (decodePacket (dwordOf w 0) ((List.range (fld (dwordOf w 0) 8 8).toNat).map fun i => dwordOf w (i + 1))).toOption

end Sys2Proof
end

