-- ==== Sys2Proof/Machine/Numbers.lean ====
section
/-! DEFINITION. Number formats and arithmetic (04_numbers.md): exact values, the one rounding of R153, overflow (R157), conversions (R158 to R161), comparisons (R162), and the exactly rounded functions of the fabric (R318, R319). Values are exact fractions, so every decision is made on the exact value. -/

namespace Sys2Proof.Machine

/-- An exact value: not a number, an infinity, or a sign with a magnitude num / den, den > 0. A zero keeps its sign (R156). -/
inductive Val where
  | nan
  | inf (neg : Bool)
  | fin (neg : Bool) (num den : Nat)
deriving DecidableEq, Repr

namespace Val

/-- +0. -/
def zero : Val := .fin false 0 1

def ofInt (v : Int) : Val := .fin (v < 0) v.natAbs 1

/-- (-1)^neg x m x 2^e. -/
def ofScaled (neg : Bool) (m : Nat) (e : Int) : Val :=
  if 0 ≤ e then .fin neg (m * 2 ^ e.toNat) 1 else .fin neg m (2 ^ (-e).toNat)

def isNaN : Val → Bool
  | .nan => true
  | _ => false

def neg? : Val → Bool
  | .nan => false
  | .inf n => n
  | .fin n _ _ => n

/-- Sign inverted. -/
def negate : Val → Val
  | .nan => .nan
  | .inf n => .inf !n
  | .fin n a b => .fin (!n) a b

/-- The numerator over the denominator with its sign, as an integer pair. -/
def signedNum (neg : Bool) (n : Nat) : Int := if neg then -(n : Int) else n

/-- The exact product: 0 x infinity is invalid (R145). An exact zero has the sign that the factors' signs give, as the manual's example has it for -2 x +0
(DEDUCED, log entry 57). -/
def mul : Val → Val → Val
  | .nan, _ => .nan
  | _, .nan => .nan
  | .inf a, .inf b => .inf (a != b)
  | .inf a, .fin b n _ => if n = 0 then .nan else .inf (a != b)
  | .fin a n _, .inf b => if n = 0 then .nan else .inf (a != b)
  | .fin a n d, .fin b m e => .fin (a != b) (n * m) (d * e)

/-- The exact sum; an exact zero of opposite signs is +0, or -0 when `rdn` (R156); infinities of opposite sign are invalid. -/
def add (rdn : Bool) : Val → Val → Val
  | .nan, _ => .nan
  | _, .nan => .nan
  | .inf a, .inf b => if a = b then .inf a else .nan
  | .inf a, .fin .. => .inf a
  | .fin .., .inf b => .inf b
  | .fin a n d, .fin b m e =>
    let s : Int := signedNum a (n * e) + signedNum b (m * d)
    if s = 0 then .fin (if a = b then a else rdn) 0 1 else .fin (s < 0) s.natAbs (d * e)

/-- The exact quotient by a nonzero finite value; an infinite dividend keeps its sign (R161). -/
def div : Val → Val → Val
  | .fin a n d, .fin b m e => if m = 0 then .nan else .fin (a != b) (n * e) (d * m)
  | .inf a, .fin b _ _ => .inf (a != b)
  | _, _ => .nan

/-- Signed comparison key of two finite values. -/
def finLt (a : Bool) (n d : Nat) (b : Bool) (m e : Nat) : Bool := signedNum a (n * e) < signedNum b (m * d)

/-- Ordered less-than: false when either is NaN; -0 and +0 are equal (R162). -/
def lt : Val → Val → Bool
  | .nan, _ => false
  | _, .nan => false
  | .inf a, .inf b => a && !b
  | .inf a, .fin .. => a
  | .fin .., .inf b => !b
  | .fin a n d, .fin b m e => finLt a n d b m e

/-- Ordered equality (R162). -/
def eq (x y : Val) : Bool := !x.isNaN && !y.isNaN && !lt x y && !lt y x

/-- x below y when -0 is taken as below +0, for minimum and maximum (R162). -/
def below (x y : Val) : Bool := lt x y || (eq x y && x.neg? && !y.neg?)

/-- Minimum: NaN if either is NaN (R162). -/
def min (x y : Val) : Val := if x.isNaN || y.isNaN then .nan else if below y x then y else x
/-- Maximum: NaN if either is NaN (R162). -/
def max (x y : Val) : Val := if x.isNaN || y.isNaN then .nan else if below x y then y else x

end Val

/-! ### Binary formats (R142) -/

/-- Exponent width, fraction width, bias, whether all-ones exponents are special (infinity at M = 0), and the largest finite encoding. -/
structure BinFmt where
  ebits : Nat
  mbits : Nat
  bias : Nat
  hasInf : Bool
  maxFinite : Nat
  nan : Nat
deriving DecidableEq, Repr

def fp32Fmt : BinFmt := ⟨8, 23, 127, true, 0x7F7FFFFF, 0x7FC00000⟩
def bf16Fmt : BinFmt := ⟨8, 7, 127, true, 0x7F7F, 0x7FC0⟩
def e4m3Fmt : BinFmt := ⟨4, 3, 7, false, 0x7E, 0x7F⟩
def e5m2Fmt : BinFmt := ⟨5, 2, 15, true, 0x7B, 0x7E⟩

/-- The value of an encoding (R142). -/
def BinFmt.decode (f : BinFmt) (b : Nat) : Val :=
  let m := b % 2 ^ f.mbits
  let e := b / 2 ^ f.mbits % 2 ^ f.ebits
  let s := b / 2 ^ (f.mbits + f.ebits) % 2 = 1
  if f.hasInf && e == 2 ^ f.ebits - 1 then (if m = 0 then .inf s else .nan)
  else if !f.hasInf && e == 2 ^ f.ebits - 1 && m == 2 ^ f.mbits - 1 then .nan
  else if e = 0 then .ofScaled s m (1 - (f.bias : Int) - f.mbits)
  else .ofScaled s (m + 2 ^ f.mbits) ((e : Int) - f.bias - f.mbits)

/-- floor(log2 (n / d)) for n, d > 0. -/
def floorLog2 (n d : Nat) : Int :=
  let e : Int := (Nat.log2 n : Int) - Nat.log2 d
  let low : Bool := if 0 ≤ e then n < d * 2 ^ e.toNat else n * 2 ^ (-e).toNat < d
  if low then e - 1 else e

/-- Whether a magnitude between two neighbours goes to the upper one (R153, R154). rem / den is how far above the lower neighbour
it stands, as a part of their distance, 0 < rem < den; `even` says that the lower neighbour is the even one. -/
def roundsAway (mode : Round) (h : Word32) (neg even : Bool) (rem den : Nat) : Bool :=
  match mode with
  | .rne => den < 2 * rem || (2 * rem == den && !even)
  | .rtz => false
  | .rup => !neg
  | .rdn => neg
  | .rsr =>
    -- x - a over b - a, with a the lower of the two as real numbers
    if neg then !(h.toNat < (den - rem) * 2 ^ 32 / den) else h.toNat < rem * 2 ^ 32 / den

/-- The magnitude n / d as a whole number of units 2^u, rounded. -/
def roundUnits (mode : Round) (h : Word32) (neg : Bool) (n d : Nat) (u : Int) : Nat :=
  let n' := if 0 ≤ u then n else n * 2 ^ (-u).toNat
  let d' := if 0 ≤ u then d * 2 ^ u.toNat else d
  let k := n' / d'
  let r := n' % d'
  if r = 0 then k else if roundsAway mode h neg (k % 2 == 0) r d' then k + 1 else k

/-- What an overflowing result becomes (R157): infinity, the largest finite value, or NaN where the format has no infinity. -/
inductive Over where
  | max | inf
deriving DecidableEq, Repr

def overflow (sat : Bool) (mode : Round) (neg : Bool) : Over :=
  if sat then .max else
  match mode with
  | .rne | .rsr => .inf
  | .rtz => .max
  | .rup => if neg then .max else .inf
  | .rdn => if neg then .inf else .max

def BinFmt.signBit (f : BinFmt) (neg : Bool) : Nat := if neg then 2 ^ (f.ebits + f.mbits) else 0

/-- The encoding of an overflow (R157). -/
def BinFmt.over (f : BinFmt) (sat : Bool) (mode : Round) (neg : Bool) : Nat :=
  match overflow sat mode neg with
  | .max => f.signBit neg + f.maxFinite
  | .inf => if f.hasInf then f.signBit neg + (2 ^ f.ebits - 1) * 2 ^ f.mbits else f.nan

/-- round(x, fmt, mode) of a finite value, then R157. -/
def BinFmt.roundFin (f : BinFmt) (mode : Round) (h : Word32) (sat neg : Bool) (n d : Nat) : Nat :=
  if n = 0 then f.signBit neg else
  let emin : Int := 1 - (f.bias : Int)
  let e := max (floorLog2 n d) emin
  let k := roundUnits mode h neg n d (e - f.mbits)
  -- k has at most mbits + 2 bits; the encoding grows with the value, across binades too
  let e' : Int := if 2 ^ (f.mbits + 1) ≤ k then e + 1 else e
  let k' := if 2 ^ (f.mbits + 1) ≤ k then k / 2 else k
  let code : Nat := if k' < 2 ^ f.mbits then k' else (e' + f.bias).toNat * 2 ^ f.mbits + (k' - 2 ^ f.mbits)
  if f.maxFinite < code then f.over sat mode neg else f.signBit neg + code

/-! ### D8 (R146, R147) -/

/-- The magnitude of a payload P, 0 to 127, and 10 for 128, as num / den (R146, R153). -/
def d8Mag (p : Nat) : Nat × Nat :=
  if p = 0 then (0, 1) else if 128 ≤ p then (10, 1) else
  let z := 6 - Nat.log2 p
  let r := 6 - z
  let we := [0, 1, 2, 3, 2, 1, 0].getD z 0
  let wf := r - we
  let base : Int := [(0 : Int), -2, -6, -14, -18, -20, -21].getD z 0
  let f := p % 2 ^ wf
  let e : Int := base + ((p % 2 ^ r / 2 ^ wf : Nat) : Int)
  ((2 ^ wf + 9 * f) * (if 0 ≤ e then 10 ^ e.toNat else 1), 2 ^ wf * (if 0 ≤ e then 1 else 10 ^ (-e).toNat))

def d8Decode (b : Nat) : Val :=
  let p := b % 128
  let s := b / 128 % 2 = 1
  if p = 0 then (if s then .nan else .zero) else .fin s (d8Mag p).1 (d8Mag p).2

/-- The largest payload at most 127 whose magnitude is at most n / d. -/
def d8Floor (n d : Nat) : Nat :=
  (List.range 7).foldl (fun p k =>
    let q := p + 2 ^ (6 - k)
    if (d8Mag q).1 * d ≤ n * (d8Mag q).2 then q else p) 0

def d8Over (sat : Bool) (mode : Round) (neg : Bool) : Nat :=
  match overflow sat mode neg with
  | .max => (if neg then 0x80 else 0) + 0x7F
  | .inf => 0x80

/-- round(x, D8, mode); the grid goes on with 10 above 9.859375 (R153). -/
def d8RoundFin (mode : Round) (h : Word32) (sat neg : Bool) (n d : Nat) : Nat :=
  if n = 0 then 0 else if 10 * d ≤ n then d8Over sat mode neg else
  let p := d8Floor n d
  let (an, ad) := d8Mag p
  let (bn, bd) := d8Mag (p + 1)
  -- (x - a) / (b - a) over one denominator
  let rem := (n * ad - an * d) * bd
  let den := (bn * ad - an * bd) * d
  let q := if rem = 0 then p else if roundsAway mode h neg (p % 2 == 0) rem den then p + 1 else p
  if q = 128 then d8Over sat mode neg else if q = 0 then 0 else (if neg then 0x80 else 0) + q

/-! ### S9 (R148, R150) -/

def s9Decode (b : Nat) : Val :=
  let e := b / 2 % 256
  if e = 255 then .nan else .ofScaled false (2 + b % 2) ((e : Int) - 128)

/-- A conversion to S9: magnitudes on the grid (1 + m/2) x 2^k, ends clamped (R150). -/
def s9Encode (mode : Round) (h : Word32) (v : Val) : Nat :=
  match v with
  | .nan => 0x1FF
  | .inf _ => 0x1FD
  | .fin _ n d =>
    if n * 2 ^ 127 < d then 0 else
    let e := floorLog2 n d
    let k := roundUnits mode h false n d (e - 1)
    let code : Int := if k = 4 then (e + 128) * 2 else (e + 127) * 2 + ((k : Int) - 2)
    if 0x1FD < code then 0x1FD else code.toNat

/-! ### Integers (R140, R141) -/

/-- Range of an integer format. -/
def intRange : Fmt → Int × Int
  | .int8 => (-128, 127)
  | .uint8 => (0, 255)
  | .int16 => (-32768, 32767)
  | _ => (-2147483648, 2147483647)

def fmtIsInt : Fmt → Bool
  | .int8 | .uint8 | .int16 | .int32 => true
  | _ => false

/-- Bytes per element (R139). -/
def fmtBytes : Fmt → Nat
  | .int8 | .uint8 | .e4m3 | .e5m2 | .d8 => 1
  | .int16 | .bf16 | .s9 => 2
  | .int32 | .fp32 => 4

def clampInt (lo hi v : Int) : Int := if v < lo then lo else if hi < v then hi else v

/-- v modulo 2^n as a natural number. -/
def wrapNat (n : Nat) (v : Int) : Nat := (v % (2 ^ n : Nat)).toNat

/-- The signed value of the low n bits of b. -/
def signedOf (n b : Nat) : Int :=
  let m := b % 2 ^ n
  if 2 ^ (n - 1) ≤ m then (m : Int) - 2 ^ n else m

/-! ### Formats by code -/

/-- The value of the low bits of b in a format. -/
def fmtDecode (f : Fmt) (b : Nat) : Val :=
  match f with
  | .int8 => .ofInt (signedOf 8 b)
  | .uint8 => .ofInt (b % 256 : Nat)
  | .int16 => .ofInt (signedOf 16 b)
  | .int32 => .ofInt (signedOf 32 b)
  | .fp32 => fp32Fmt.decode b
  | .bf16 => bf16Fmt.decode b
  | .e4m3 => e4m3Fmt.decode b
  | .e5m2 => e5m2Fmt.decode b
  | .d8 => d8Decode b
  | .s9 => s9Decode b

/-- The canonical NaN of a format; 0 for the integers (R144, R145). -/
def canonNaN : Fmt → Nat
  | .fp32 => 0x7FC00000
  | .bf16 => 0x7FC0
  | .e4m3 => 0x7F
  | .e5m2 => 0x7E
  | .d8 => 0x80
  | .s9 => 0x1FF
  | _ => 0

def binFmt : Fmt → BinFmt
  | .bf16 => bf16Fmt
  | .e4m3 => e4m3Fmt
  | .e5m2 => e5m2Fmt
  | _ => fp32Fmt

/-- SAT exists for the 8-bit formats only (R157). -/
def satOf (f : Fmt) (sat : Bool) : Bool :=
  match f with
  | .e4m3 | .e5m2 | .d8 => sat
  | _ => false

/-- An exact value to an integer format: rounded to an integer, then clamped (R159). -/
def roundInt (f : Fmt) (mode : Round) (h : Word32) (v : Val) : Nat :=
  let (lo, hi) := intRange f
  let bits := 8 * fmtBytes f
  match v with
  | .nan => 0
  | .inf n => wrapNat bits (if n then lo else hi)
  | .fin neg n d => wrapNat bits (clampInt lo hi (Val.signedNum neg (roundUnits mode h neg n d 0)))

/-- round(x, fmt, mode) with R156 and R157; an infinite x is given its own infinity, or overflows when `infOver` (R158, R161). -/
def roundVal (f : Fmt) (mode : Round) (h : Word32) (sat infOver : Bool) (v : Val) : Nat :=
  if fmtIsInt f then roundInt f mode h v else
  match f, v with
  | .s9, v => s9Encode mode h v
  | f, .nan => canonNaN f
  | .d8, .inf n => if infOver then d8Over sat mode n else d8Over sat .rne n
  | .d8, .fin neg n d => d8RoundFin mode h sat neg n d
  | f, .inf n => (binFmt f).over (satOf f sat) (if infOver then mode else .rne) n
  | f, .fin neg n d => (binFmt f).roundFin mode h (satOf f sat) neg n d

/-- A result of FP32 arithmetic in RNE. -/
def toFp32 (mode : Round) (h : Word32) (v : Val) : Word32 := BitVec.ofNat 32 (roundVal .fp32 mode h false false v)

/-- An FP32 pattern's value. -/
def ofFp32 (b : Word32) : Val := fp32Fmt.decode b.toNat

/-- `cvt` (R157 to R160): one rounding of the exact value; between integers, clamped or wrapped by SAT. -/
def convert (src dst : Fmt) (mode : Round) (h : Word32) (sat : Bool) (b : Nat) : Nat :=
  if fmtIsInt src && fmtIsInt dst then
    let v : Int := match fmtDecode src b with
      | .fin neg n _ => Val.signedNum neg n
      | _ => 0
    if sat then wrapNat (8 * fmtBytes dst) (clampInt (intRange dst).1 (intRange dst).2 v) else wrapNat (8 * fmtBytes dst) v
  else roundVal dst mode h sat false (fmtDecode src b)

/-- QNT (R161). -/
def qnt (src dst : Fmt) (mode : Round) (h : Word32) (sat : Bool) (x scale : Nat) : Nat :=
  match fmtDecode src x, s9Decode scale with
  | .nan, _ => canonNaN dst
  | _, .nan => canonNaN dst
  | v, s => roundVal dst mode h sat true (Val.div v s)

/-- `dq` (R321). -/
def dq (src dst : Fmt) (mode : Round) (h : Word32) (sat : Bool) (x scale : Nat) : Nat :=
  match fmtDecode src x, s9Decode scale with
  | .nan, _ => canonNaN dst
  | _, .nan => canonNaN dst
  | v, s => roundVal dst mode h sat true (Val.mul v s)

/-! ### Keyed counter hash (R322) -/

/-- One round of the hash. -/
def kchRound (v : Word) : Word :=
  let v := v ^^^ (v >>> 29)
  let v := v * 0x9E6C63D0676A9A99
  v ^^^ (v >>> 32)

/-- The three rounds, all 64 bits kept (R322, R450). -/
def kch64 (v : Word) : Word := kchRound (kchRound (kchRound v))

/-- kch(key, counter): bits [63:32] (R322). -/
def kch (key counter : Word) : Word32 := (kch64 (counter ^^^ key)).extractLsb' 32 32

/-- The draw of keyed stochastic rounding for one element (R154). -/
def rsrDraw (key : Word) (layer : BitVec 16) (index : Nat) : Word32 := kch key (layer ++ BitVec.ofNat 48 index)

/-! ### Functions of the fabric (R318, R319): the exact real value to enough bits, never on a grid point -/

/-- A positive real given by floor(r x 2^k): the middle of its cell, unless it is exact. Every rounding decision of a grid coarser
than the cell is the same for all points strictly inside the cell. -/
def insideCell (neg : Bool) (fl : Nat) (k : Nat) (exact : Bool) : Val :=
  if exact then .fin neg fl (2 ^ k) else .fin neg (2 * fl + 1) (2 ^ (k + 1))

/-- 1 / sqrt(n / d) to 2^-k relative to a magnitude scaled by an even power of two. -/
def rsqrtVal (n d : Nat) : Val :=
  -- r = sqrt(d / n); floor(r x 2^k) = isqrt(d x 4^k / n), k large for every FP32 operand
  let k := 220
  let t := d * 4 ^ k
  let q := t / n
  let s := Nat.sqrt q
  insideCell false s k (t % n == 0 && s * s == q)

/-- Bits of fixed-point work for `exp`, `sigm` and `tanh`, whose results R318 rounds correctly (DEDUCED, log entry 9). -/
def fnBits : Nat := 512

/-- floor of e^y x 2^fnBits for y = a / 2^fnBits, 0 ≤ y < 1, by the series in integers. -/
def expSeries (a : Nat) : Nat :=
  ((List.range 120).foldl (fun (st : Nat × Nat) i =>
    let term := st.1 * a / (2 ^ fnBits * (i + 1))
    (term, st.2 + term)) (2 ^ fnBits, 2 ^ fnBits)).2

/-- e^(n/d) x 2^fnBits for n / d < 200: the fraction part by the series, the integer part by powers of e. -/
def expPos (n d : Nat) : Nat :=
  let e1 := expSeries (2 ^ fnBits - 1) + 1
  let i := n / d
  let f := n % d * 2 ^ fnBits / d
  (List.range i).foldl (fun x _ => x * e1 / 2 ^ fnBits) (expSeries f)

/-- e^x as a fraction, for a finite x of magnitude below 200. -/
def expFrac (neg : Bool) (n d : Nat) : Nat × Nat :=
  if neg then (2 ^ fnBits, expPos n d) else (expPos n d, 2 ^ fnBits)

/-- Magnitudes of 200 or more: `exp` is beyond the range of FP32 on either side. -/
def far (n d : Nat) : Bool := 200 * d ≤ n

/-- A magnitude so small that the function is its first term up to far less than half an ulp. -/
def tiny (n d : Nat) : Bool := n * 2 ^ 60 < d

/-- `exp` (R318, R319). -/
def fnExp : Val → Val
  | .nan => .nan
  | .inf neg => if neg then .zero else .inf false
  | .fin neg n d =>
    if n = 0 then .fin false 1 1
    else if far n d then (if neg then .fin false 1 (2 ^ 400) else .fin false (2 ^ 400) 1)
    else if tiny n d then (if neg then .fin false (2 ^ 60 - 1) (2 ^ 60) else .fin false (2 ^ 60 + 1) (2 ^ 60))
    else .fin false (expFrac neg n d).1 (expFrac neg n d).2

/-- `sigm`, 1 / (1 + e^-x). -/
def fnSigm : Val → Val
  | .nan => .nan
  | .inf neg => if neg then .zero else .fin false 1 1
  | .fin neg n d =>
    if n = 0 then .fin false 1 2
    else if far n d then (if neg then .fin false 1 (2 ^ 400) else .fin false (2 ^ 60 - 1) (2 ^ 60))
    else if tiny n d then (if neg then .fin false (2 ^ 60 - 1) (2 ^ 61) else .fin false (2 ^ 60 + 1) (2 ^ 61))
    else
      let (a, b) := expFrac (!neg) n d
      .fin false b (a + b)

/-- `tanh`, (e^2x - 1) / (e^2x + 1); a tiny operand gives a value just inside it. -/
def fnTanh : Val → Val
  | .nan => .nan
  | .inf neg => .fin neg 1 1
  | .fin neg n d =>
    if n = 0 then .fin neg 0 1
    else if far n d then .fin neg (2 ^ 60 - 1) (2 ^ 60)
    else if tiny n d then .fin neg (n * (2 ^ 60 - 1)) (d * 2 ^ 60)
    else
      let (a, b) := expFrac false (2 * n) d
      .fin neg (a - b) (a + b)

/-- `rcp`. -/
def fnRcp : Val → Val
  | .nan => .nan
  | .inf neg => .fin neg 0 1
  | .fin neg n d => if n = 0 then .inf neg else .fin neg d n

/-- `rsqrt`. -/
def fnRsqrt : Val → Val
  | .nan => .nan
  | .inf neg => if neg then .nan else .zero
  | .fin neg n d => if n = 0 then .inf neg else if neg then .nan else rsqrtVal n d

end Sys2Proof.Machine
end

