-- ==== Sys2Proof/Machine/Digest.lean ====
section
/-! DEFINITION. SHA-384 (FIPS 180-4, which R264, R413, R436 and R444 name) and the CRC-32C of spill images (R355). -/

namespace Sys2Proof.Machine

/-- Round constants: the first 64 fraction bits of the cube roots of the first 80 primes (FIPS 180-4). PRESUMED: the manual names
the digest and leaves its definition to the standard. -/
def shaK : List Word := [
  0x428A2F98D728AE22, 0x7137449123EF65CD, 0xB5C0FBCFEC4D3B2F, 0xE9B5DBA58189DBBC,
  0x3956C25BF348B538, 0x59F111F1B605D019, 0x923F82A4AF194F9B, 0xAB1C5ED5DA6D8118,
  0xD807AA98A3030242, 0x12835B0145706FBE, 0x243185BE4EE4B28C, 0x550C7DC3D5FFB4E2,
  0x72BE5D74F27B896F, 0x80DEB1FE3B1696B1, 0x9BDC06A725C71235, 0xC19BF174CF692694,
  0xE49B69C19EF14AD2, 0xEFBE4786384F25E3, 0x0FC19DC68B8CD5B5, 0x240CA1CC77AC9C65,
  0x2DE92C6F592B0275, 0x4A7484AA6EA6E483, 0x5CB0A9DCBD41FBD4, 0x76F988DA831153B5,
  0x983E5152EE66DFAB, 0xA831C66D2DB43210, 0xB00327C898FB213F, 0xBF597FC7BEEF0EE4,
  0xC6E00BF33DA88FC2, 0xD5A79147930AA725, 0x06CA6351E003826F, 0x142929670A0E6E70,
  0x27B70A8546D22FFC, 0x2E1B21385C26C926, 0x4D2C6DFC5AC42AED, 0x53380D139D95B3DF,
  0x650A73548BAF63DE, 0x766A0ABB3C77B2A8, 0x81C2C92E47EDAEE6, 0x92722C851482353B,
  0xA2BFE8A14CF10364, 0xA81A664BBC423001, 0xC24B8B70D0F89791, 0xC76C51A30654BE30,
  0xD192E819D6EF5218, 0xD69906245565A910, 0xF40E35855771202A, 0x106AA07032BBD1B8,
  0x19A4C116B8D2D0C8, 0x1E376C085141AB53, 0x2748774CDF8EEB99, 0x34B0BCB5E19B48A8,
  0x391C0CB3C5C95A63, 0x4ED8AA4AE3418ACB, 0x5B9CCA4F7763E373, 0x682E6FF3D6B2B8A3,
  0x748F82EE5DEFB2FC, 0x78A5636F43172F60, 0x84C87814A1F0AB72, 0x8CC702081A6439EC,
  0x90BEFFFA23631E28, 0xA4506CEBDE82BDE9, 0xBEF9A3F7B2C67915, 0xC67178F2E372532B,
  0xCA273ECEEA26619C, 0xD186B8C721C0C207, 0xEADA7DD6CDE0EB1E, 0xF57D4F7FEE6ED178,
  0x06F067AA72176FBA, 0x0A637DC5A2C898A6, 0x113F9804BEF90DAE, 0x1B710B35131C471B,
  0x28DB77F523047D84, 0x32CAAB7B40C72493, 0x3C9EBE0A15C9BEBC, 0x431D67C49C100D4C,
  0x4CC5D4BECB3E42B6, 0x597F299CFC657E2A, 0x5FCB6FAB3AD6FAEC, 0x6C44198C4A475817]

/-- The initial chaining value: the first 64 fraction bits of the square roots of the ninth to sixteenth primes. -/
def shaInit : List Word := [
  0xCBBB9D5DC1059ED8, 0x629A292A367CD507, 0x9159015A3070DD17, 0x152FECD8F70E5939,
  0x67332667FFC00B31, 0x8EB44A8768581511, 0xDB0C2E0D64F98FA7, 0x47B5481DBEFA4FA4]

/-- Big-endian double-words of a list of bytes whose length is a multiple of 8. -/
def beWords : List Byte → List Word
  | a :: b :: c :: d :: e :: f :: g :: h :: rest => (a ++ b ++ c ++ d ++ e ++ f ++ g ++ h : Word) :: beWords rest
  | _ => []

/-- The message with its padding: a 1 bit, zeros to 112 modulo 128 bytes, and the bit length as 128 bits. -/
def shaPad (m : List Byte) : List Byte :=
  let n := m.length
  let z := (111 + 128 - n % 128) % 128
  let len : BitVec 128 := BitVec.ofNat 128 (8 * n)
  m ++ (0x80 : Byte) :: List.replicate z 0 ++ (List.range 16).map fun i => len.extractLsb' (8 * (15 - i)) 8

/-- The message schedule, newest word first: 16 given words grow to 80. -/
def shaSchedule (w : List Word) : List Word :=
  let ext := (List.range 64).foldl (fun (r : List Word) _ =>
    let w2 := r.getD 1 0
    let w15 := r.getD 14 0
    let s0 := w15.rotateRight 1 ^^^ w15.rotateRight 8 ^^^ (w15 >>> 7)
    let s1 := w2.rotateRight 19 ^^^ w2.rotateRight 61 ^^^ (w2 >>> 6)
    (r.getD 15 0 + s0 + r.getD 6 0 + s1) :: r) w.reverse
  ext.reverse

/-- One step of the compression over the eight working words a to h. -/
def shaStep (v : List Word) (kw : Word × Word) : List Word :=
  match v with
  | [a, b, c, d, e, f, g, h] =>
    let s1 := e.rotateRight 14 ^^^ e.rotateRight 18 ^^^ e.rotateRight 41
    let ch := (e &&& f) ^^^ (~~~e &&& g)
    let t1 := h + s1 + ch + kw.1 + kw.2
    let s0 := a.rotateRight 28 ^^^ a.rotateRight 34 ^^^ a.rotateRight 39
    let maj := (a &&& b) ^^^ (a &&& c) ^^^ (b &&& c)
    [t1 + s0 + maj, a, b, c, d + t1, e, f, g]
  | _ => v

def shaBlock (h : List Word) (block : List Word) : List Word :=
  List.zipWith (· + ·) h ((List.zip shaK (shaSchedule block)).foldl shaStep h)

/-- All blocks of 16 words; the count of words bounds the recursion. -/
def shaBlocks : Nat → List Word → List Word → List Word
  | 0, h, _ => h
  | n + 1, h, w => if w.length < 16 then h else shaBlocks n (shaBlock h (w.take 16)) (w.drop 16)

/-- The eight bytes of a double-word, most significant first. -/
def beBytes (w : Word) : List Byte := (List.range 8).map fun i => w.extractLsb' (8 * (7 - i)) 8

/-- The 48 bytes of the SHA-384 digest, in standard output order (R264). -/
def sha384 (m : List Byte) : List Byte :=
  let w := beWords (shaPad m)
  ((shaBlocks w.length shaInit w).take 6).flatMap beBytes

/-- CRC-32C, one byte: reflected polynomial 0x82F6_3B78 (R355). -/
def crcByte (c : Word32) (b : Byte) : Word32 :=
  (List.range 8).foldl (fun x _ => if x.getLsbD 0 then (x >>> 1) ^^^ 0x82F63B78 else x >>> 1) (c ^^^ b.setWidth 32)

/-- CRC-32C of bytes in address order: initial value and final XOR 0xFFFF_FFFF (R355). -/
def crc32c (m : List Byte) : Word32 := m.foldl crcByte 0xFFFFFFFF ^^^ 0xFFFFFFFF

end Sys2Proof.Machine
end

