-- ==== Sys2Proof/Machine/Sparse.lean ====
section
/-! DEFINITION. Sparse data by key, in one canonical form: keys strictly rising and no entry equal to what an unlisted key reads as. Memories are such lists of (address, byte) with 0 for a byte nothing has written (DESIGN CHOICE, log entry 2). -/

namespace Sys2Proof.Machine

/-- Entries by key; an unlisted key reads as the default that each use names. -/
abbrev Sparse (α : Type) := List (Nat × α)

/-- A memory: the bytes that differ from 0. -/
abbrev Memory := List Host.Cell

/-- The value at a key. -/
def sparseGet {α : Type} (d : α) : Sparse α → Nat → α
  | [], _ => d
  | (k, v) :: m, a => if k = a then v else if a < k then d else sparseGet d m a

/-- The map with one value replaced; a default value is not listed. -/
def sparsePut {α : Type} [DecidableEq α] (d : α) : Sparse α → Nat → α → Sparse α
  | [], a, x => if x = d then [] else [(a, x)]
  | (k, v) :: m, a, x =>
    if a < k then (if x = d then (k, v) :: m else (a, x) :: (k, v) :: m)
    else if k = a then (if x = d then m else (a, x) :: m)
    else (k, v) :: sparsePut d m a x

/-- The canonical form: keys above `lo`, rising, no default listed. -/
def sparseWf {α : Type} [DecidableEq α] (d : α) : Nat → Sparse α → Bool
  | _, [] => true
  | lo, (k, v) :: m => decide (lo ≤ k) && decide (v ≠ d) && sparseWf d (k + 1) m

/-- A memory in canonical form. -/
def Memory.wf (m : Memory) : Bool := sparseWf (0 : Byte) 0 m

/-- One byte. -/
def readByte (m : Memory) (a : Nat) : Byte := sparseGet 0 m a

/-- One byte written. -/
def writeByte (m : Memory) (a : Nat) (b : Byte) : Memory := sparsePut 0 m a b

/-- n bytes from address a upward. -/
def readBytes (m : Memory) (a : Nat) : Nat → List Byte
  | 0 => []
  | n + 1 => readByte m a :: readBytes m (a + 1) n

/-- Bytes stored from address a upward. -/
def writeBytes (m : Memory) (a : Nat) : List Byte → Memory
  | [] => m
  | b :: bs => writeBytes (writeByte m a b) (a + 1) bs

/-- Little-endian value of bytes (R1). -/
def leNat : List Byte → Nat
  | [] => 0
  | b :: bs => b.toNat + 256 * leNat bs

/-- The low n bytes of a value, lowest first (R1). -/
def leBytes : Nat → Nat → List Byte
  | 0, _ => []
  | n + 1, v => BitVec.ofNat 8 v :: leBytes n (v / 256)

/-- The n-byte value at an address (R1). -/
def readLE (m : Memory) (a n : Nat) : Nat := leNat (readBytes m a n)

/-- The n-byte value stored at an address (R1). -/
def writeLE (m : Memory) (a n v : Nat) : Memory := writeBytes m a (leBytes n v)

/-- Entries of keys in [a, a + n) removed: those keys read as the default again. -/
def sparseClear {α : Type} (m : Sparse α) (a n : Nat) : Sparse α := m.filter fun e => !(a ≤ e.1 && e.1 < a + n)

end Sys2Proof.Machine
end

