-- ==== Sys2Proof/Machine/Image.lean ====
section
/-! DEFINITION. The contents of a launch image as data (R50, R54, R104, R109, R126, R228, R268, R336, R418, R419), and the region control block (R22). -/

namespace Sys2Proof.Machine

/-- A schedule table entry (R54); `fallback` and `win` are none for the codes that say so. -/
structure TableEntry where
  start : Nat
  deadline : Nat
  block : BitVec 24
  fallback : Option (BitVec 24)
  fbDeadline : Nat
  remain : Nat
  win : Option Nat
  policyC : Bool
  policyD : Bool
  policyV : Bool
  policyS : Bool
  isEnd : Bool
  mark : Bool
  arg : Word
deriving DecidableEq, Repr

/-- A slot reservation record (R268); `die` is the image quadrant until placement replaces it (R419). -/
structure Resv where
  first : Nat
  count : Nat
  chan : Nat
  die : Nat
  ix : Nat
  iy : Nat
  cch : ChanIx
deriving DecidableEq, Repr

/-- A parameter-window descriptor (R104). -/
structure Window where
  valid : Bool
  pantry : Bool
  quad : Nat
  repl : Bool
  bound : Nat
  base : Nat
deriving DecidableEq, Repr

/-- A table set (R50). -/
structure TableSet where
  mode : BitVec 4
  level : BitVec 2
  period : Nat
  instances : Nat
  chmask : BitVec 32
  mcps : List Nat
  tables : List (List TableEntry)
  resv : List Resv
  wins : List (List Window)
  safemode : BitVec 4
deriving DecidableEq, Repr

/-- An LSID range record (R228). -/
structure LsidRec where
  block : BitVec 24
  lsid : BitVec 5
  store : Bool
  space : BitVec 2
  size : Nat
  base : Nat
deriving DecidableEq, Repr

/-- A matrix range record (R336). -/
structure MxRange where
  num : Nat
  wbuf : Bool
  size : Nat
  base : Nat
deriving DecidableEq, Repr

/-- A range-table entry (R109). -/
structure RangeEntry where
  base : BitVec 52
  limit : BitVec 52
  offset : BitVec 56
  valid : Bool
  scope : BitVec 2
  sysatom : Bool
  rd : Bool
  wr : Bool
  at' : Bool
  side : BitVec 24
deriving DecidableEq, Repr

/-- A sharing-table entry (R126). -/
structure Share where
  space : BitVec 2
  divok : Bool
  base : Nat
  size : Nat
  key : Word
deriving DecidableEq, Repr

/-- A declared fabric region (R284). -/
structure RegionDecl where
  x : Nat
  y : Nat
  w : Nat
  h : Nat
deriving DecidableEq, Repr

/-- A declared Landing (R299). -/
structure LandDecl where
  prod : RegionIx
  cons : RegionIx
  depth : Nat
deriving DecidableEq, Repr

/-- A routing-table entry (R419); class 0 Near, 1 Die, 2 One seam, 3 Two seams, 4 Hall. -/
structure Route where
  sx : Nat
  sy : Nat
  dx : Nat
  dy : Nat
  cls : Nat
deriving DecidableEq, Repr

/-- A preload entry (R115, R418). -/
structure Preload where
  va : BitVec 52
  ch : ChanIx
  ix : Nat
  iy : Nat
deriving DecidableEq, Repr

/-- A sporadic class record (R418). -/
structure ClassRec where
  cls : BitVec 8
  seq : Nat
  block : BitVec 24
deriving DecidableEq, Repr

/-- A configuration-table list entry (R418). -/
structure CfgTab where
  addr : BitVec 24
  ix : Nat
  iy : Nat
deriving DecidableEq, Repr

/-- A launch image (R418); `blocks` are the block-store images, one per core, row by row. -/
structure Image where
  sporadic : Bool
  width : Nat
  height : Nat
  sx : Nat
  sy : Nat
  xmin : Nat
  ymin : Nat
  hlanes : Nat
  blocks : List (List Byte)
  sets : List TableSet
  routes : List Route
  lsids : List LsidRec
  mranges : List MxRange
  shares : List Share
  preload : List Preload
  ranges : List RangeEntry
  regions : List (Option RegionDecl)
  ssBase : Nat
  ssSize : Nat
  alog : Nat
  wlog : Nat
  clog : Nat
  plog : Nat
  rplog : Nat
  classes : List ClassRec
  landings : List (Option LandDecl)
  cfgTabs : List CfgTab
  extent : List Byte
deriving DecidableEq, Repr

/-- An image that declares nothing: one core, no item. -/
def Image.empty : Image :=
  { sporadic := false, width := 1, height := 1, sx := 0, sy := 0, xmin := 1, ymin := 1, hlanes := 0, blocks := [], sets := [],
    routes := [], lsids := [], mranges := [], shares := [], preload := [], ranges := [], regions := [], ssBase := 0, ssSize := 0,
    alog := 0, wlog := 0, clog := 0, plog := 7, rplog := 7, classes := [], landings := [], cfgTabs := [], extent := [] }

/-- A budget (R22, R25). -/
structure Budget where
  cores : Nat
  cells : Nat
  parts : Nat
  slots : Nat
  bufBytes : Nat
deriving DecidableEq, Repr

/-- A region control block (R22) with the address it was read at. -/
structure Rcb where
  addr : BitVec 56
  magicOk : Bool
  depth : Nat
  ovb : Bool
  ovp : Bool
  ovf : Bool
  priority : Nat
  fdom : BitVec 16
  id : BitVec 16
  parent : Word
  child : Word
  sibling : Word
  budget : Budget
  image : Word
  reservedOk : Bool
deriving DecidableEq, Repr

/-- A launch that an RCB subtree holds (R23, R27): its RCB, the RCBs from the root to it with their effective budgets, its effective priority and
fault domain. -/
structure Spec where
  rcb : Rcb
  path : List (BitVec 16 × Budget)
  priority : Nat
  fdom : BitVec 16
deriving DecidableEq, Repr

end Sys2Proof.Machine
end

