-- ==== Sys2Proof/Machine/State.lean ====
section
/-! DEFINITION. The state of the module: everything the manual gives the machine (INVENTORY.md lists each piece with its rule and reset value), the reasons a step can stop, and the state after module reset. -/

namespace Sys2Proof.Machine

/-- Who issued an engine operation: its launch, its activation, its sequencer and its block (R278, R324, R359, R393). -/
structure Owner where
  launch : LaunchNo
  act : Nat
  seq : SeqIx
  block : BitVec 24
deriving DecidableEq, Repr

/-! ### Sequencers -/

/-- A running activation (R52 to R57, R66, R79); `windows`: the binding set bound in its due tick, empty where none is. -/
structure Activation where
  id : Nat
  launch : LaunchNo
  entry : BitVec 12
  inst : BitVec 32
  isFallback : Bool
  fallback : Option (BitVec 24)
  deadline : Nat
  fbDeadline : Nat
  arg : Word
  windows : List Window
  remain : Nat
  ran : Nat
  polC : Bool
  polD : Bool
  polV : Bool
  mark : Bool
  drain : Bool
  drainLimit : Nat
  halted : Bool
  pwbSeen : BitVec 8
deriving DecidableEq, Repr

/-- An effect of a fired instruction that waits for the commit (R205, R252, R450). -/
inductive Effect where
  | wrcr (num : BitVec 14) (v : Word)
  | store (addr : Nat) (bytes : List Byte)
  | amo (op : Fin 5) (addr n : Nat) (arg third : Nat) (slot : Option (Fin 8))
  | rel (pantry : Bool) (addr : Nat) (v : Word)
  | issue (i : Instr) (left right : Word)
  | arrive (unit : Fin 64) (v : Word)
  | loop (count : BitVec 32) (first last : BitVec 24)
  | brk
  | trec (sub : BitVec 5) (l r : Word)
  | tmark (code : BitVec 8) (v : Word)
  | thash (v : Word)
  | tstop (start : Bool)
deriving DecidableEq, Repr

/-- A value on its way: it arrives at the start of the tick in which `left` reaches 0 (R201). -/
structure Flight where
  left : Nat
  target : Target
  value : Word
deriving DecidableEq, Repr

/-- An outstanding read of a sequencer: it reads after `wait` more ticks, and its value arrives `lat` ticks later (R201, R231, R234, R237). `oob`: the window that it reads out of bound, at offset `addr` (R106). -/
structure Load where
  wait : Nat
  lat : Nat
  oob : Option (Fin 8)
  pantry : Bool
  wbuf : Bool
  addr : Nat
  n : Nat
  target : Target
deriving DecidableEq, Repr

/-- What an instruction waits for (R239, R243, R248, R313). -/
inductive WaitKind where
  | waitw (pantry : Bool) (addr : Nat) (expect : Word) (rho : Nat) (armed woken : Bool)
  | bwait (unit : Fin 64) (phase : Byte) (compared woken : Bool)
  | fence
  | lwait (land : Fin 4) (le : Bool) (n : Nat)
deriving DecidableEq, Repr

/-- A waiting instruction; `wait` ticks pass before it first compares. -/
structure Waiting where
  idx : Fin 32
  wait : Nat
  target : Target
  kind : WaitKind
deriving DecidableEq, Repr

/-- The exit that fired (R206). -/
structure ExitTaken where
  num : BitVec 3
  next : Option (BitVec 24)
deriving DecidableEq, Repr

/-- A raised trap (R210). -/
structure Trap where
  code : BitVec 8
  detail : Word32
deriving DecidableEq, Repr

/-- The running block (R199 to R209); `body`: its words as read in the start tick. -/
structure BlockRun where
  addr : BitVec 24
  age : Nat
  len : Nat
  body : List (BitVec 32)
  stores : Nat
  wregs : List (Option (BitVec 6))
  left : Vector (Option Word) 32
  right : Vector (Option Word) 32
  gate : Vector (Option Word) 32
  slots : Vector (Option (Option Word)) 8
  fired : BitVec 32
  nulled : BitVec 32
  lsids : BitVec 32
  flights : List Flight
  loads : List Load
  waits : List Waiting
  effects : List (Nat × Effect)
  exit : Option ExitTaken
  trap : Option Trap
  busy : Bool
deriving DecidableEq, Repr

/-- A loop frame (R315). -/
structure LoopFrame where
  first : BitVec 24
  last : BitVec 24
  count : BitVec 32
deriving DecidableEq, Repr

/-- A key write of a committed block that has not landed (R238). -/
structure PendingRel where
  left : Nat
  pantry : Bool
  addr : Nat
  value : Word
deriving DecidableEq, Repr

/-- One sequencer (R198, R213 to R217, R241, R155, R107, R327, R459); `pwbWas`: SQ_PWB as the present tick began (R226); `held`: a fallback that a debug stop
keeps from starting (R453); `answered`: a trap or an overrun has been answered in the present tick (R212). -/
structure SeqState where
  g : Vector Word 64
  commits : BitVec 16
  trapped : Bool
  overrun : Bool
  killed : Bool
  actEntry : BitVec 12
  actCur : BitVec 24
  actFirst : BitVec 24
  trapDetail : Word32
  trapCause : BitVec 8
  trapTick : BitVec 40
  trapBlock : BitVec 24
  pwbHit : BitVec 8
  pwbWin : BitVec 3
  pwbOff : BitVec 26
  pwbNew : BitVec 8
  pwbWas : Word
  rkey : Word
  rlayer : BitVec 16
  barTarget : BitVec 8
  barUnit : BitVec 6
  trHash : Word
  fbIdx : BitVec 48
  act : Option Activation
  run : Option BlockRun
  succ : Option (BitVec 24)
  succLoop : Bool
  loops : List LoopFrame
  rels : List PendingRel
  stepping : Bool
  held : Option (BitVec 24)
  answered : Bool
deriving DecidableEq, Repr

/-! ### Engines -/

/-- An engine command in a queue: the instruction with its operands and what was captured at issue; `rcb`, `fdom` and `tag` are those of its launch, which may
have retired when the command runs (R348, R358). -/
structure EngineCmd where
  instr : Instr
  left : Word
  right : Word
  owner : Owner
  key : Word
  layer : BitVec 16
  idx : BitVec 48
  shapes : List (BitVec 19)
  polV : Bool
  tick : Nat
  rcb : BitVec 16
  fdom : BitVec 16
  tag : BitVec 32
deriving DecidableEq, Repr

/-- A cached page translation (R115). -/
structure Xlate where
  va : Nat
  size : Nat
  phys : Nat
  scope : BitVec 2
  rd : Bool
  wr : Bool
  side : BitVec 24
deriving DecidableEq, Repr

/-- The time servo's states (R44). -/
inductive Servo where
  | free
  | pps
  | locked
  | holdover
deriving DecidableEq, Repr

/-- An access of a copy on chip that waits for its banks (R133, R274): up to one unit of a piece, from byte `x` on, with the physical address of the piece on a virtual
side, and its bytes once they have been read. -/
structure PayUnit where
  piece : Nat
  x : Nat
  n : Nat
  phys : Nat
  bytes : Option (List Byte)
deriving DecidableEq, Repr

/-- The copy in progress of a channel (R251, R270 to R275): its descriptor, head tick, pieces as (plane, row, first byte, length), the next piece,
the start tick of that piece's slot, the ticks left to the completion word once every piece is performed, whether its payload has been moved (R274),
outstanding host requests as (piece, age, physical address), bytes of LPDDR 6 on their way to the destination as (ticks left, piece, bytes) (R72, R120),
bytes of units that two pieces share, by the later of them (R256), and what the ingress hasher has taken. `units`: accesses on chip that wait for their banks
(R274); `dying`: the copy is cut in this tick (R278). -/
structure CopyRun where
  desc : List Word
  head : Nat
  pieces : List (Nat × Nat × Nat × Nat)
  next : Nat
  slot0 : Nat
  wait : Option Nat
  paid : Bool
  host : List (Nat × Nat × Nat)
  moving : List (Nat × Nat × List (Nat × Byte))
  halves : List (Nat × List (Nat × Byte))
  units : List PayUnit
  dying : Bool
  hosted : Bool
  hashed : List (Nat × List Byte)
  hashFirst : Nat
  hashWall : Word
  hashServo : Servo
deriving DecidableEq, Repr

/-- What one level of a page walk gives: the next table, a leaf, or a fault by its position in the list of R113. -/
inductive WalkStep where
  | table (addr : Nat)
  | leaf (x : Xlate)
  | fault (cond : Nat)
deriving DecidableEq, Repr

/-- A page walk under way (R110, R116): the address, the level, the address of that level's table, and, once a walk slot has served it, the tick in
which the level completes with what its entry gave in that slot (R120). -/
structure Walk where
  va : Nat
  level : Nat
  table : Nat
  served : Option (Nat × WalkStep)
deriving DecidableEq, Repr

/-- A copy channel (R251, R280); its next copy may start in tick `free` or later. -/
structure CopyChan where
  queue : List EngineCmd
  run : Option CopyRun
  walk : Option Walk
  free : Nat
  done : BitVec 16
  cache : List Xlate
deriving DecidableEq, Repr

/-- A configuration plane (R302): the version, the fields that are not 0, by class, cell and field number, and whether a refused or
uncorrectable value was met as it was loaded (R304). -/
structure Plane where
  version : BitVec 16
  fields : Sparse Word32
  bad : Bool
deriving DecidableEq, Repr

/-- The configuration port's job (R307, R308). -/
structure PortJob where
  owner : Owner
  table : Option (BitVec 24)
  stream : Nat
  words : Nat
  version : BitVec 16
  left : Nat
  total : Nat
  redo : Option Nat
  rerun : Bool
deriving DecidableEq, Repr

/-- A result in flight in a region (R290, R297). `what` 0: stage result into the output latch of cell `cell`, stage `stage` and DST `dst`;
1: read-latch fill; 2: the write of an atomic slot at A-buffer offset `dst`. -/
structure FabFlight where
  left : Nat
  what : Fin 3
  cell : Fin 64
  stage : Fin 8
  dst : Nat
  value : Vec
deriving DecidableEq, Repr

/-- A round in progress (R286); `moved` when it is not held in the present tick, `cut` when it stops at the end of the tick (R324). -/
structure RoundRun where
  n : BitVec 32
  rc : Nat
  cmd : EngineCmd
  moved : Bool
  start : Nat
  cut : Bool
deriving DecidableEq, Repr

/-- A fabric region of a core (R284, R302, R305, R327); `uncorr` is the offset of an uncorrectable error met in the present tick (R297). -/
structure RegionState where
  queue : List EngineCmd
  started : Bool
  active : Plane
  shadow : Option Plane
  loading : Option Plane
  bound : Option (BitVec 24)
  port : Option PortJob
  round : Option RoundRun
  flights : List FabFlight
  sinks : Vector Word32 4
  ap : Vector Vec 4
  held : BitVec 16
  lastN : BitVec 32
  lastRc : BitVec 32
  uncorr : Option Nat
deriving DecidableEq, Repr

/-- A chain (R342): its tile, rounding, format once known, and by element the E4M3 sum in units of 2^-18:
none where no product was added, some none for a NaN. -/
structure Chain where
  tile : Fin 32
  rnd : Round
  fmt : Option MmaFmt
  sums : Sparse (Option (Option Int))
deriving DecidableEq, Repr

/-- An ownership entry (R348). -/
structure Ownership where
  pin : Bool
  owner : BitVec 16
  fmt : BitVec 4
  vder : Bool
  tokens : Word
  prog : BitVec 5
deriving DecidableEq, Repr

/-- A matrix command in progress: start tick, ticks executed, k-steps, tokens or rows done and in all, the data captured so far (load beats, B rows),
its implicit chain, whether a cut or fault ends it with this tick, the ticks of its step that had passed before a suspension and whether that step
is run again (R478), for `mrd` the start tick of the round it serves (R347), and what the bytes that a load-unit command has written held before it, latest first, by
error space and physical place (R478). -/
structure MxRun where
  cmd : EngineCmd
  start : Nat
  elapsed : Nat
  done : Nat
  total : Nat
  buf : List (Nat × Byte)
  chain : Option Chain
  failed : Bool
  redo : Option Nat
  rerun : Bool
  attached : Option Nat
  undo : List (Fin 10 × Nat × Byte)
deriving DecidableEq, Repr

/-- The matrix engine of a core (R329 to R362). -/
structure MatrixState where
  queue : List EngineCmd
  started : Bool
  load : Option MxRun
  compute : Option MxRun
  read : Option MxRun
  chains : Vector (Option Chain) 2
  owners : Vector Ownership 32
  tcfg : Vector (BitVec 19) 16
  ownsel : BitVec 5
  progOpc : BitVec 7
  progCut : Bool
  progActive : Bool
  progTotal : BitVec 8
  progDone : BitVec 8
deriving DecidableEq, Repr

/-- A stream register (R364). -/
structure StreamReg where
  data : Stream
  len : BitVec 2
  mask : BitVec 16
deriving DecidableEq, Repr

/-- A generator (R367). -/
structure Gen where
  kind : BitVec 2
  seed : BitVec 16
  step : BitVec 16
  pos : BitVec 32
deriving DecidableEq, Repr

/-- A stochastic command in progress with what it will write in its effect tick (R375, R376, R381), and, as for a matrix command, its restart (R478). -/
structure SsRun where
  cmd : EngineCmd
  elapsed : Nat
  busy : Nat
  effect : Nat
  streams : List (Fin 64 × StreamReg)
  counts : List (Fin 16 × BitVec 32)
  gen : Option (Fin 16 × Gen)
  bytes : List (Nat × Byte)
  redo : Option Nat
  rerun : Bool
deriving DecidableEq, Repr

/-- The stochastic engine of a core (R364 to R395): each unit's commands from their start to their effect tick, oldest first; `cntNew` marks the
count registers that an effect writes in the present tick (R394). -/
structure StochState where
  streams : Vector StreamReg 64
  counts : Vector (BitVec 32) 16
  gens : Vector Gen 16
  queue : List EngineCmd
  started : Bool
  logic : List SsRun
  gen : List SsRun
  xfer : List SsRun
  cntNew : BitVec 16
  faultDetail : Word32
  faultCode : BitVec 8
  ssel : BitVec 6
  gsel : BitVec 4
deriving DecidableEq, Repr

/-! ### Cores -/

/-- A barrier unit (R240). -/
structure Barrier where
  target : BitVec 8
  count : BitVec 8
  gen : BitVec 8
deriving DecidableEq, Repr

/-- An arrival on its way to a unit (R242); `done` once the unit has taken it in the present tick (R241). -/
structure Arrival where
  left : Nat
  done : Bool
  launch : LaunchNo
  source : Nat
  unit : Fin 64
  count : BitVec 8
deriving DecidableEq, Repr

/-- An atomic's slot under way (R236): the write of its new value after `left` more ticks; whose it is, and whether that tick is the present one. -/
structure AmoSlot where
  left : Nat
  seq : SeqIx
  done : Bool
  addr : Nat
  bytes : List Byte
deriving DecidableEq, Repr

/-- The context of a core, which a swap-out saves (R81, R325, R360, R393). -/
structure CoreCtx where
  seqs : Vector SeqState 7
  barriers : Vector Barrier 64
  amos : List AmoSlot
  chans : Vector CopyChan 4
  ranges : List RangeEntry
  cpDesc : BitVec 9
  cpChan : BitVec 2
  cpCode : BitVec 8
  cpVa : BitVec 52
  regions : Vector RegionState 4
  landings : Vector (List Vec) 4
  elems : Sparse Vec
  outs : Sparse Vec
  rowBus : Sparse Vec
  colBus : Sparse Vec
  readLatch : Sparse Vec
  matrix : MatrixState
  stoch : StochState
  tiles : Memory
deriving DecidableEq, Repr

/-- A context in the Attic: whose it is, and the accumulator tiles saved with it (R81, R82). -/
structure Attic where
  launch : LaunchNo
  ctx : CoreCtx
  tilesSaved : List (Nat × List Byte)
deriving DecidableEq, Repr

/-- A write that an occupied bank holds back (R134), and the sequencer whose write it is, with whether it is a key's (R128, R248). -/
structure HeldWrite where
  addr : Nat
  bytes : List Byte
  owner : Option (CoreIx × SeqIx × Bool)
deriving DecidableEq, Repr

/-- One core (R14, R90, R228, R240, R446). -/
structure CoreState where
  launch : LaunchNo
  ctx : CoreCtx
  abuf : Memory
  wbuf : Memory
  cbuf : Memory
  blockStore : Memory
  storeOwner : LaunchNo
  lsids : List LsidRec
  counters : Vector Word 7
  bankHolds : List (Nat × Nat)
  touched : List Nat
  heldWrites : List HeldWrite
  arrivals : List Arrival
  attic : Option Attic
  mailHead : Nat
  mailLen : Nat
  mailboxFull : Bool
  swap : Option (Bool × Nat)
deriving DecidableEq, Repr

/-- A work die's Pantry (R90, R98), and beside its partitions the mailbox area of 64 KiB (R87). -/
structure DieState where
  pantry : Memory
  mail : Memory
  holds : List (Nat × Nat)
  held : List HeldWrite
deriving DecidableEq, Repr

/-! ### Launches -/

/-- The buffer slices of a core (R94): base offsets. -/
structure Grant where
  aBase : Nat
  wBase : Nat
  cBase : Nat
deriving DecidableEq, Repr

/-- Where a launch stands in its life (R29, R30, R79, R83). -/
inductive Stage where
  | placed
  | running
  | suspended
deriving DecidableEq, Repr

/-- A pending mode (R62): rank 2 safety monitor, 1 front end, 0 graph. -/
structure PendMode where
  mode : BitVec 4
  urgent : Bool
  rank : Nat
  tick : Nat
deriving DecidableEq, Repr

/-- A cause of a halting freeze (R70, R71): raised and, once known, resolved in these ticks. -/
structure Cause where
  code : Nat
  raised : Nat
  resolved : Option Nat
deriving DecidableEq, Repr

/-- What follows a boundary freeze (R61, R75): the next instance, the set of this index with the MODE record's SRC and U, nothing, or the retirement. -/
inductive AfterBoundary where
  | nextInst
  | switch (set : Nat) (src : Nat) (urgent : Bool)
  | resume
  | retire
deriving DecidableEq, Repr

/-- A boundary freeze (R75): its first frozen tick, what follows, and the last tick in which an operation was outstanding. -/
structure Boundary where
  first : Nat
  after : AfterBoundary
  wasBusy : Bool
  lastBusy : Nat
deriving DecidableEq, Repr

/-- A suspension (R79 to R83): its tick p, the newcomer, whether restore has started, the ticks left to the loader, the resume tick once it is known, and whether the
image no longer has its recorded digest. -/
structure Suspension where
  at' : Nat
  newcomer : LaunchNo
  restoring : Bool
  loadLeft : Nat
  resume : Option Nat
  badImage : Bool
deriving DecidableEq, Repr

/-- A chosen pre-emption that takes effect at `at'` (R79). -/
structure Chosen where
  at' : Nat
  newcomer : LaunchNo
deriving DecidableEq, Repr

/-- A debug stop (R453 to R457): `started` once the unit of a step has been released, `again` where the launch had been stopped before; `seq` 7 names no unit. -/
structure DebugStop where
  from' : Nat
  reason : BitVec 3
  bp : BitVec 2
  core : CoreIx
  seq : Fin 8
  stopped : Option Nat
  resume : Option Nat
  step : Option (CoreIx × DebugUnit × Nat)
  started : Bool
  again : Bool
deriving DecidableEq, Repr

/-- A bound sporadic window (R60): where a generated launch runs, the host launch's launch time at the window's start, and the deadline tick. -/
structure WindowBind where
  host : LaunchNo
  core : CoreIx
  seq : SeqIx
  start : Nat
  deadline : Nat
deriving DecidableEq, Repr

/-- A launch (R27 to R36, R49 to R53, R61 to R63, R70 to R86); `group` is the first launch number of its subtree, `tokens` what is left of the
subtree's priority tokens (R77), `mcpAt` is the MCP position passed last, `modeWas` SQ_MODE and `displacedWas` DISPLACED as the present tick began (R226), and `stepped` names the entries that debug steps have started, by launch time (R455). -/
structure Launch where
  num : LaunchNo
  rcbId : BitVec 16
  rcbAddr : BitVec 56
  path : List (BitVec 16 × Budget)
  fdom : BitVec 16
  priority : Nat
  source : Source
  tag : BitVec 32
  graphGen : Bool
  packet : BitVec 56
  serial : Nat
  img : Image
  imgAddr : Nat
  digest : List Byte
  stage : Stage
  ox : Nat
  oy : Nat
  grants : List Grant
  quadBase : List (Nat × Nat)
  replBase : List (Nat × Nat)
  ptroot : Nat
  sidebase : Nat
  lanes : List (Fin 2)
  origin : Nat
  ltime : Word
  setIx : Nat
  setStart : Word
  inst : Nat
  instTick : Nat
  pendMode : Option PendMode
  pendLevel : Option (BitVec 2)
  causes : List Cause
  frozenFrom : Option Nat
  seen : BitVec 8
  boundary : Option Boundary
  urgentAt : Option Nat
  urgentFrom : Option Nat
  chosen : Option Chosen
  susp : Option Suspension
  dstop : Option DebugStop
  displaced : Bool
  window : Option WindowBind
  cls : Option (BitVec 8)
  pendingFrom : Nat
  chmaskNew : Bool
  mcpAt : Option Nat
  group : LaunchNo
  tokens : Nat
  stepped : List (CoreIx × SeqIx × Word)
  modeWas : Word
  displacedWas : Bool
deriving DecidableEq, Repr

/-! ### Front end -/

/-- One level of a queue or graph (R400, R404, R406): its base, the next packet's offset, the bytes left of the buffer, its active loop (offset of the body's
first packet, bytes left there, packets of the body, packets of it done in this pass, passes left with the present one; 0: no loop), and how many
packets are still to be skipped. -/
structure Level where
  base : BitVec 56
  pos : Nat
  left : Nat
  loopStart : Nat
  loopLeft : Nat
  loopBody : Nat
  loopDone : Nat
  loopPasses : Nat
  skip : Nat
deriving DecidableEq, Repr

/-- A pending signal (R408). -/
structure PendSignal where
  addr : BitVec 56
  value : Word
  op : SigOp
  irq : Bool
  vector : BitVec 8
  errval : Word
  tag : BitVec 32
  afterSerial : Nat
  fromSerial : Nat
  error : Bool
deriving DecidableEq, Repr

/-- A double-word of the fetch window with the value it held when it first lay in it (R402). -/
abbrev FetchWindow := List (Nat × Word)

/-- Execution state shared by queues and graph runs (R398 to R408, R426): the level stack, innermost first; the fetch window; pending signals, oldest first;
the launches issued and not yet ended by serial number and launch number (0 until placed); the next serial; the next serial as the last AFTER = 1 signal
joined; the serials of cancelled launches, and those among them that were refused (R414); the double-words of a `pk.wait` under way, the tick of its first read and the tick
of its timeout; whether a `pk.end` at level 0, or a graph's
last packet, has been met; whether a graph's run has failed, and the TAG of the packet that failed (R191). -/
structure Stream' where
  levels : List Level
  window : FetchWindow
  pending : List PendSignal
  issued : List (Nat × LaunchNo)
  nextSerial : Nat
  lastAfter : Nat
  cancelled : List Nat
  refused : List Nat
  waiting : Option (List Word)
  waitFrom : Option Nat
  waitEnd : Option Nat
  ending : Bool
  failed : Bool
  failTag : BitVec 32
deriving DecidableEq, Repr

/-- A host queue (R396, R397); HEAD is the outermost level's place. `tailWas` and `tokWas` are TAIL and TOKENS before a host write of the present tick (R429). -/
structure QueueState where
  base : BitVec 56
  enable : Bool
  sizelog : BitVec 5
  tail : BitVec 24
  tailWas : Option (BitVec 24)
  frozen : Bool
  reason : BitVec 8
  primax : BitVec 8
  tokens : BitVec 8
  tokWas : Option (BitVec 8)
  fault : BitVec 56
  skipOnResume : Bool
  lnRcb : BitVec 16
  lnCount : BitVec 16
  lnLaunch : LaunchNo
  exec : Stream'
deriving DecidableEq, Repr

/-- A loaded graph (R420, R422): its packets, the RCB subtrees and sporadic images copied for each `pk.launch` by its byte offset, its binding, its run. -/
structure GraphState where
  words : List Word
  subtrees : List (Nat × List (Spec × Image))
  binding : Option (BitVec 8 × LaunchNo)
  run : Option Stream'
deriving DecidableEq, Repr

/-- A launch packet with the scheduling core (R27, R34), `tried` once its placement has been tried: the launches of its subtree wait to be placed under the serial number they share; none where an RCB
offends, and then which (R24). `priority`: that of the root of the tree (R399). -/
structure Waiting' where
  source : Source
  serial : Nat
  packet : BitVec 56
  tag : BitVec 32
  tokens : Nat
  priority : Nat
  specs : Option (List Spec)
  offender : Option (BitVec 56)
  tried : Bool
deriving DecidableEq, Repr

/-- A memory access as the race check reports it (R131): the image core, the sequencer, the block, and the LSID, 32 and the word of an engine operation, or 64 of a
window binding. -/
structure RaceNode where
  core : Nat
  seq : Nat
  block : Nat
  item : Nat
deriving DecidableEq, Repr

/-- What the Threshold check reports of a refusal or, in the bench state, of a launch it loads all the same (R24, R131, R185): the first RCB that offends, a block
of an image core with the word in it, pairs of accesses that no edge orders. Where reports stand the manual leaves open (DESIGN CHOICE, log entry 49). -/
inductive Report where
  | rcb (addr : BitVec 56)
  | block (ix iy : Nat) (addr : Nat) (word : Nat)
  | races (launch : LaunchNo) (pairs : List (RaceNode × RaceNode))
deriving DecidableEq, Repr

/-- A message between firmware cores (R427). -/
structure Message where
  src : Fin 8
  typ : Byte
  seq : BitVec 16
  a : Word
  b : Word
  c : Word
deriving DecidableEq, Repr

/-- The front end and firmware complex (R396 to R428); `stores`: the channels of the device stores among `pushes` with the head ticks of their copies, in order (R424); `linkSlots`: the slots of UCIe
links that launches hold (R469). -/
structure FrontEnd where
  queues : Vector QueueState 16
  graphs : Vector (Option GraphState) 64
  gerr : BitVec 64
  triggers : List GraphIx
  pushes : List (Fin 18 × GraphIx)
  stores : List (CoreIx × ChanIx × Nat)
  waiting : List Waiting'
  nextLaunch : LaunchNo
  tryPlace : Bool
  last : Fin 80
  mailboxes : Vector (List Message) 8
  mailSeq : Vector (BitVec 16) 64
  outbox : List (Fin 8 × Message)
  hasherBusy : Vector (Option LaunchNo) 2
  slotsHeld : List (Nat × LaunchNo)
  linkSlots : List (Nat × LaunchNo)
  actSerial : Nat
  reports : List Report
deriving DecidableEq, Repr

/-! ### Trace, debug, host, time, health -/

/-- A record on its way to the Cellar (R432 to R436): type, event tick, place word if it has one, payload words after it, class, and the ticks left of its way to the
writer, none once it is there (R19, R431). -/
structure Rec where
  typ : BitVec 7
  tick : Nat
  place : Option Word
  payload : List Word
  trace : Bool
  way : Option Nat := none
deriving DecidableEq, Repr

/-- A breakpoint register (R460). -/
structure Breakpoint where
  en : Bool
  kind : Bool
  any : Bool
  ix : BitVec 3
  iy : BitVec 3
  seq : BitVec 3
  launch : LaunchNo
  mtch : BitVec 24
deriving DecidableEq, Repr

/-- An export being built (R443 to R445): its bytes so far, the last chain value, the index of the next segment, the segments still to be read (kind, and the place of each
record with its sequence number), and the ticks left to the next read. -/
structure Build where
  bytes : List Byte
  chain : List Byte
  index : Nat
  segs : List (Nat × List (Nat × Nat))
  wait : Nat
deriving DecidableEq, Repr

/-- The trace and debug engine (R431 to R460): `prof` is the records of a sample not yet written; `retentionFrom` the slot of the oldest retained
record; `scanLeft` the side-table entries of a scan still to be read (launch, index, address); `rpPos` the number of recorded records that a replay has
compared, `rpSkip` the launches that it cannot compare (R457). -/
structure TraceState where
  ring : Sparse Word
  wptr : BitVec 22
  cseq : BitVec 16
  buffer : List Rec
  lossCount : BitVec 32
  clost : BitVec 32
  post : BitVec 16
  tron : Bool
  stopAfter : Option Nat
  tstops : List (Nat × Bool)
  retention : Sparse (List Word)
  retentionHeld : Bool
  retentionFrom : Nat
  pbase : BitVec 56
  interval : BitVec 32
  psizelog : BitVec 5
  pen : Bool
  plost : BitVec 32
  ppos : Nat
  pseq : BitVec 16
  prof : List (List Word)
  scanLeft : List (LaunchNo × Nat × Nat)
  bps : Vector Breakpoint 4
  dbgLaunch : LaunchNo
  dbgReason : BitVec 3
  dbgDisplaced : Bool
  dbgStepping : Bool
  dbgStopped : Bool
  rpOn : Bool
  rpSeq : BitVec 16
  rpType : BitVec 7
  rpMismatch : Bool
  rpActive : Bool
  rpRecords : List (List Word)
  rpPos : Nat
  rpSkip : List LaunchNo
  building : List Build
  exports : List (List Byte)
deriving DecidableEq, Repr

/-- The time unit (R42 to R47); `past` holds where the wall time changed its course, latest first: the tick, the wall time that the old course
gave there, and its INC (R467). -/
structure TimeState where
  ns : Word
  frac : Word32
  inc : BitVec 40
  incNew : Option (BitVec 40)
  servo : Servo
  goodSyncs : Nat
  badSyncs : Nat
  edges : Nat
  lastEdge : Option Nat
  lastSync : Option Nat
  fromPps : Bool
  holdFrom : Nat
  past : List (Nat × Word × Word32 × BitVec 40)
deriving DecidableEq, Repr

/-- An entry of the MSI-X table (R464). -/
structure MsixEntry where
  addr : Word
  data : Word32
  ctrl : Word32
deriving DecidableEq, Repr

/-- What the endpoint answers to a host read or AtomicOp (R465); a firmware core's read of a register or of the Cellar ring (R431, R460). -/
inductive Reply where
  | data (bytes : List Byte)
  | firmware (bytes : List Byte)
  | unsupported
  | abort
deriving DecidableEq, Repr

/-- Host link, safety monitor, boot, security and power (R463 to R475); `err` is the level of SMON_ERR, `celsius` the hottest junction,
`herrNew` and `smonNew` the bits that hardware has set in FE_HERR and FE_SMON in the present tick (R6), `reportRaces` the bench report setting (R131). `boot`: the steps of
R470 done, 5 of them in all; `bootLeft` the ticks to the end of the present one; `bootCause` and `signed` what the reset brought; `rollback` and `version` the anti-rollback counter
and the version of the firmware image; `dieOff`: the work dies without power (R474). -/
structure HostState where
  herr : BitVec 4
  herrNew : BitVec 4
  smonNew : BitVec 4
  reportRaces : Bool
  ptmT1 : Word
  ptmT4 : Word
  ptmW1 : Word
  ptmW4 : Word
  mreq : Bool
  therm : Bool
  wdog : Bool
  cancel : Bool
  retrain : Vector (BitVec 32) 8
  msix : Vector MsixEntry 64
  pba : BitVec 64
  irqs : List (Fin 64)
  linkUp : Bool
  width : BitVec 5
  rate : BitVec 8
  hb : Bool
  mreqPin : Bool
  mreqRun : Nat
  mreqZero : Nat
  err : Bool
  watchdog : Vector Bool 8
  lifecycle : Lifecycle
  lifecycleNext : Option Lifecycle
  bootFailed : Bool
  boot : Nat
  bootLeft : Nat
  bootCause : BitVec 6
  signed : Bool
  rollback : Nat
  version : Nat
  dieOff : BitVec 4
  level : BitVec 2
  celsius : Int
  coolSince : Option Nat
  tripped : Bool
  powered : Bool
  quotes : List (List Byte)
  replies : List Reply
deriving DecidableEq, Repr

/-- The degradation state (R38, R39): defective cores, cores marked while a launch holds them, fenced channels, and per link the working modules and the spare
lanes in use at each module; `dropNow`: the links whose next module lost a lane without a spare in the present tick (R40). -/
structure Health where
  defective : BitVec 64
  marked : BitVec 64
  fenced : BitVec 32
  modules : Vector (Fin 5) 8
  spares : Vector (Vector (BitVec 3) 4) 8
  linkLost : BitVec 8
  dropNow : BitVec 8
deriving DecidableEq, Repr

/-- A memory-error mark (R121). space 0: DRAM; 1 to 4: A-buffer, W-buffer, C-buffer, block store of `where'` (a core); 5: Pantry of `where'` (a die); 6: its Attic;
7: tile registers; 8: stream registers; 9: the front-end SRAM, where the packets of graph `where'` stand from unit 0 on (DESIGN CHOICE, log entry 61). `met`: read since it appeared. -/
structure EccMark where
  space : Fin 10
  where' : Nat
  unit : Nat
  hard : Bool
  met : Bool
deriving DecidableEq, Repr

/-- What the outside world does (INVENTORY.md, Agents): an event of the table, a memory error that appears, the level of the SMON_MREQ pin, a bench
debug write to a core's block store (R168), the bench report setting (R131), corrupted state by which a launch sends outside its slot of a UCIe link (R469), a host read of BAR0
(R465, R480), a firmware core's access to a register (R460, R468) and a reader's access to a word of the Cellar ring (R431), a firmware image of another version and a raised
anti-rollback counter (R470). -/
inductive Outside where
  | event (i : Instr)
  | error (m : EccMark)
  | mreq (high : Bool)
  | blockStore (c : CoreIx) (addr : Nat) (bytes : List Byte)
  | raceReport (on : Bool)
  | strayedSend (n : LaunchNo)
  | barRead (off : BitVec 16) (size : BitVec 8)
  | firmwareRead (off : BitVec 16) (size : BitVec 8)
  | firmwareWrite (off : BitVec 16) (size : BitVec 8) (value : Word)
  | ringRead (firmware : Bool) (word : BitVec 22)
  | firmwareImage (version : Nat)
  | rollback (counter : Nat)
deriving DecidableEq, Repr

/-- What a step has still to do in the present phase. -/
inductive Work where
  | fire (c : CoreIx) (q : SeqIx) (i : Fin 32)
  | packet (src : Source)
  | event (i : Instr)
deriving DecidableEq, Repr

/-- The phases of a tick, in order (DESIGN CHOICE, log entry 4). -/
inductive Phase where
  | inputs
  | clock
  | frontEnd
  | freezes
  | deadlines
  | preempt
  | boundaries
  | entries
  | values
  | fires
  | engines
  | engineEnds
  | commits
  | joins
  | waits
  | trace
deriving DecidableEq, Repr

/-- The body word being executed (R200): a core, a sequencer, an index. -/
structure Focus where
  core : CoreIx
  seq : SeqIx
  idx : Fin 32
deriving DecidableEq, Repr

/-- A translation still to be counted in its side table (R117): the entry's address, whether a write was translated, whether it was remote. -/
structure SideCount where
  addr : Nat
  write : Bool
  remote : Bool
deriving DecidableEq, Repr

/-- A copy fault met in the present phase, not yet recorded (R277, R279): its channel, its code, the issuing copy's owner, domain, tag and descriptor, the address it
names, and for CPXLATE the condition and level (R113). -/
structure CopyFault where
  core : CoreIx
  chan : ChanIx
  code : Nat
  owner : Owner
  fdom : BitVec 16
  tag : BitVec 32
  desc : Nat
  va : Option Nat
  cond : Option (Nat × Nat)
deriving DecidableEq, Repr

/-- The state of the module. `sides`: translations that the next walk slot will count (R117). The fields from `phase` on are the model's own (DESIGN CHOICE, log entries 1 and 6); `faults`: the copy faults to be recorded as the
present phase ends, with the cancellation of their fault domains (R279). -/
structure State where
  tick : Nat
  cores : Vector CoreState 64
  dies : Vector DieState 4
  dram : Memory
  hostMem : Memory
  launches : List Launch
  fe : FrontEnd
  tr : TraceState
  tm : TimeState
  host : HostState
  health : Health
  ecc : List EccMark
  phase : Phase
  todo : List Work
  focus : Focus
  source : Source
  packetAt : BitVec 56
  inputs : List (Nat × Outside)
  faults : List CopyFault
  sides : List SideCount
  fresh : Nat
deriving DecidableEq, Repr

/-- Why the model stops although the manual gives an effect to no such case: a step whose subject does not exist. No run from reset reaches one
(the scheduler queues a step only while its subject stands). Safe: a stop where the hardware would not be asked. -/
inductive Fault where
  /-- An instruction word is executed where no block runs on its sequencer, or its operand slots are not filled (raised by the firing of words; safe). -/
  | notReady
deriving DecidableEq, Repr

/-- Why the model gives no meaning. -/
inductive Refusal where
  /-- The arm of an instruction without a meaning answers this (safe). -/
  | notModelled (mnemonic : String)
deriving DecidableEq, Repr

/-! ### The state after module reset -/

/-- A sequencer after reset (R198, R215 to R217, R107, R155, R241, R327, R459; g registers: DESIGN CHOICE, log entry 3). -/
def SeqState.init : SeqState :=
  { g := Vector.replicate 64 0, commits := 0, trapped := false, overrun := false, killed := false, actEntry := 0, actCur := 0,
    actFirst := 0, trapDetail := 0, trapCause := 0, trapTick := 0, trapBlock := 0, pwbHit := 0, pwbWin := 0, pwbOff := 0, pwbNew := 0, pwbWas := 0,
    rkey := 0, rlayer := 0, barTarget := 0, barUnit := 0, trHash := 0, fbIdx := 0, act := none, run := none, succ := none, succLoop := false,
    loops := [], rels := [], stepping := false, held := none, answered := false }

/-- A copy channel after reset (R280). -/
def CopyChan.init : CopyChan := { queue := [], run := none, walk := none, free := 0, done := 0, cache := [] }

/-- The zero plane, version 0 (R302). -/
def Plane.zero : Plane := { version := 0, fields := [], bad := false }

/-- A region after reset (R302, R327). -/
def RegionState.init : RegionState :=
  { queue := [], started := false, active := .zero, shadow := none, loading := none, bound := none, port := none, round := none,
    flights := [], sinks := Vector.replicate 4 0, ap := Vector.replicate 4 0, held := 0, lastN := 0, lastRc := 0, uncorr := none }

/-- An ownership entry that is clear (R357). -/
def Ownership.clear : Ownership := { pin := false, owner := 0, fmt := 0, vder := false, tokens := 0, prog := 0 }

/-- The matrix engine after reset (R329, R362). -/
def MatrixState.init : MatrixState :=
  { queue := [], started := false, load := none, compute := none, read := none, chains := Vector.replicate 2 none,
    owners := Vector.replicate 32 .clear, tcfg := Vector.replicate 16 0, ownsel := 0, progOpc := 0, progCut := false,
    progActive := false, progTotal := 0, progDone := 0 }

/-- The stochastic engine after reset (R365 to R367, R395). -/
def StochState.init : StochState :=
  { streams := Vector.replicate 64 ⟨0, 0, 0⟩, counts := Vector.replicate 16 0, gens := Vector.replicate 16 ⟨0, 0, 0, 0⟩, queue := [],
    started := false, logic := [], gen := [], xfer := [], cntNew := 0, faultDetail := 0, faultCode := 0, ssel := 0, gsel := 0 }

/-- The context of a core after reset and at a launch's origin tick (R96, R198, R214, R240, R280, R302, R327, R357, R362, R365, R367, R395). -/
def CoreCtx.init : CoreCtx :=
  { seqs := Vector.replicate 7 .init, barriers := Vector.replicate 64 ⟨0, 0, 0⟩, amos := [],
    chans := Vector.replicate 4 .init, ranges := [], cpDesc := 0, cpChan := 0, cpCode := 0, cpVa := 0,
    regions := Vector.replicate 4 .init, landings := Vector.replicate 4 [], elems := [], outs := [], rowBus := [], colBus := [],
    readLatch := [], matrix := .init, stoch := .init, tiles := [] }

/-- A core after reset (R446; memories: DESIGN CHOICE, log entry 2). -/
def CoreState.init : CoreState :=
  { launch := 0, ctx := .init, abuf := [], wbuf := [], cbuf := [], blockStore := [], storeOwner := 0, lsids := [],
    counters := Vector.replicate 7 0, bankHolds := [], touched := [], heldWrites := [], arrivals := [], attic := none, mailHead := 0, mailLen := 0, mailboxFull := false, swap := none }

/-- Execution state of a queue or graph run that has executed nothing. -/
def Stream'.init : Stream' :=
  { levels := [], window := [], pending := [], issued := [], nextSerial := 1, lastAfter := 1, cancelled := [], refused := [], waiting := none, waitFrom := none, waitEnd := none,
    ending := false, failed := false, failTag := 0 }

/-- A queue after reset: every register reads 0 (R397). -/
def QueueState.init : QueueState :=
  { base := 0, enable := false, sizelog := 0, tail := 0, tailWas := none, frozen := false, reason := 0, primax := 0, tokens := 0, tokWas := none,
    fault := 0, skipOnResume := false, lnRcb := 0, lnCount := 0, lnLaunch := 0, exec := .init }

/-- The front end after reset (R397, R415; round-robin position: DESIGN CHOICE, log entry 4). -/
def FrontEnd.init : FrontEnd :=
  { queues := Vector.replicate 16 .init, graphs := Vector.replicate 64 none, gerr := 0, triggers := [], pushes := [], stores := [], waiting := [],
    nextLaunch := 1, tryPlace := false, last := 79, mailboxes := Vector.replicate 8 [], mailSeq := Vector.replicate 64 0, outbox := [],
    hasherBusy := Vector.replicate 2 none, slotsHeld := [], linkSlots := [], actSerial := 1, reports := [] }

/-- The trace engine after reset (R460). -/
def TraceState.init : TraceState :=
  { ring := [], wptr := 0, cseq := 0, buffer := [], lossCount := 0, clost := 0, post := 0, tron := true, stopAfter := none,
    tstops := [], retention := [], retentionHeld := false, retentionFrom := 0, pbase := 0, interval := 0, psizelog := 0, pen := false, plost := 0,
    ppos := 0, pseq := 0, prof := [], scanLeft := [], bps := Vector.replicate 4 ⟨false, false, false, 0, 0, 0, 0, 0⟩, dbgLaunch := 0, dbgReason := 0,
    dbgDisplaced := false, dbgStepping := false, dbgStopped := false, rpOn := false, rpSeq := 0, rpType := 0, rpMismatch := false,
    rpActive := false, rpRecords := [], rpPos := 0, rpSkip := [], building := [], exports := [] }

/-- INC at 1.9 GHz: 2^32 / 1.9, truncated (R43). -/
def incNominal : BitVec 40 := 2260509103

/-- The time unit after reset (R42 to R44). -/
def TimeState.init : TimeState :=
  { ns := 0, frac := 0, inc := incNominal, incNew := none, servo := .free, goodSyncs := 0, badSyncs := 0, edges := 0,
    lastEdge := none, lastSync := none, fromPps := false, holdFrom := 0, past := [] }

/-- Host link, pins and firmware after reset (R468, R473; pins, link and lifecycle: DESIGN CHOICE, log entry 3). -/
def HostState.init : HostState :=
  { herr := 0, herrNew := 0, smonNew := 0, reportRaces := false, ptmT1 := 0, ptmT4 := 0, ptmW1 := 0, ptmW4 := 0, mreq := false, therm := false, wdog := false, cancel := false,
    retrain := Vector.replicate 8 0, msix := Vector.replicate 64 ⟨0, 0, 0⟩, pba := 0, irqs := [], linkUp := false, width := 0,
    rate := 0, hb := false, mreqPin := false, mreqRun := 0, mreqZero := 64, err := false, watchdog := Vector.replicate 8 true, lifecycle := .vehicle,
    lifecycleNext := none, bootFailed := false, boot := 0, bootLeft := 0, bootCause := 0, signed := true, rollback := 0, version := 0, dieOff := 0,
    level := 0, celsius := 0, coolSince := none, tripped := false, powered := true, quotes := [], replies := [] }

/-- A whole module (DESIGN CHOICE, log entry 3). -/
def Health.whole : Health :=
  { defective := 0, marked := 0, fenced := 0, modules := Vector.replicate 8 4, spares := Vector.replicate 8 (Vector.replicate 4 0), linkLost := 0, dropNow := 0 }

/-- The machine right after module reset, at tick 0 (R41). -/
def State.reset : State :=
  { tick := 0, cores := Vector.replicate 64 .init, dies := Vector.replicate 4 ⟨[], [], [], []⟩, dram := [], hostMem := [], launches := [],
    fe := .init, tr := .init, tm := .init, host := .init, health := .whole, ecc := [], phase := .inputs, todo := [],
    focus := ⟨0, 0, 0⟩, source := .queue 0, packetAt := 0, inputs := [], faults := [], sides := [], fresh := 0 }

end Sys2Proof.Machine
end

