-- ==== Sys2Proof/Machine/Access.lean ====
section
/-! DEFINITION. Named accesses to the state: bit fields, places, memories and slices (R90 to R102), memory errors (R121), records (R432 to R438), freezes, values on their way (R200 to R203), and what a copy moves (R255 to R278). -/

namespace Sys2Proof.Machine

/-! ### Bits -/

/-- Bits [lo + n - 1 : lo] of a number. -/
def bits (v lo n : Nat) : Nat := v / 2 ^ lo % 2 ^ n

/-- Bit i of a number. -/
def bit (v i : Nat) : Bool := v / 2 ^ i % 2 == 1

/-- 1 for true. -/
def b2n (b : Bool) : Nat := if b then 1 else 0

/-- Bit i of a set in a bit vector set. -/
def setBit {w : Nat} (v : BitVec w) (i : Nat) : BitVec w := v ||| (BitVec.ofNat w (2 ^ i))

/-- Every element of a vector by index. -/
def vecMap {α : Type} {n : Nat} (v : Vector α n) (f : Nat → α → α) : Vector α n := v.mapIdx f

/-- An element put before the first whose key is greater. -/
def insertBy {α : Type} (f : α → Nat) (a : α) : List α → List α
  | [] => [a]
  | b :: t => if f a < f b then a :: b :: t else b :: insertBy f a t

/-- A list in ascending order of a key; equal keys keep their order. -/
def sortBy {α : Type} (f : α → Nat) (l : List α) : List α := l.foldl (fun acc a => insertBy f a acc) []

/-! ### Places in the state -/

def State.core (s : State) (c : CoreIx) : CoreState := s.cores[c]
def State.setCore (s : State) (c : CoreIx) (x : CoreState) : State := { s with cores := s.cores.set c x }
def State.updCore (s : State) (c : CoreIx) (f : CoreState → CoreState) : State := s.setCore c (f (s.core c))
def State.ctx (s : State) (c : CoreIx) : CoreCtx := (s.core c).ctx
def State.updCtx (s : State) (c : CoreIx) (f : CoreCtx → CoreCtx) : State := s.updCore c fun k => { k with ctx := f k.ctx }
def State.seq (s : State) (c : CoreIx) (q : SeqIx) : SeqState := (s.ctx c).seqs[q]
def State.updSeq (s : State) (c : CoreIx) (q : SeqIx) (f : SeqState → SeqState) : State :=
  s.updCtx c fun x => { x with seqs := x.seqs.set q (f x.seqs[q]) }
/-- The running block changed, where there is one. -/
def State.updRun (s : State) (c : CoreIx) (q : SeqIx) (f : BlockRun → BlockRun) : State :=
  s.updSeq c q fun x => { x with run := x.run.map f }
def State.updChan (s : State) (c : CoreIx) (ch : ChanIx) (f : CopyChan → CopyChan) : State :=
  s.updCtx c fun x => { x with chans := x.chans.set ch (f x.chans[ch]) }
def State.updRegion (s : State) (c : CoreIx) (r : RegionIx) (f : RegionState → RegionState) : State :=
  s.updCtx c fun x => { x with regions := x.regions.set r (f x.regions[r]) }
def State.updMatrix (s : State) (c : CoreIx) (f : MatrixState → MatrixState) : State :=
  s.updCtx c fun x => { x with matrix := f x.matrix }
def State.updStoch (s : State) (c : CoreIx) (f : StochState → StochState) : State :=
  s.updCtx c fun x => { x with stoch := f x.stoch }

/-- The launch of a number. -/
def State.launch? (s : State) (n : LaunchNo) : Option Launch := if n = 0 then none else s.launches.find? (·.num == n)
def State.updLaunch (s : State) (n : LaunchNo) (f : Launch → Launch) : State :=
  { s with launches := s.launches.map fun l => if l.num = n then f l else l }
/-- The launch a core runs. -/
def State.coreLaunch? (s : State) (c : CoreIx) : Option Launch := s.launch? (s.core c).launch

def allCores : List CoreIx := List.finRange 64
def allSeqs : List SeqIx := List.finRange 7

/-- Coordinates of a core (R12). -/
def coreX (c : CoreIx) : Nat := c.val % 8
def coreY (c : CoreIx) : Nat := c.val / 8
def coreAt (x y : Nat) : CoreIx := ⟨(8 * y + x) % 64, Nat.mod_lt _ (by decide)⟩
/-- The die of a core: bit 0 the x seam, bit 1 the y seam (R12). -/
def coreDie (c : CoreIx) : Fin 4 := ⟨(b2n (4 ≤ coreX c) + 2 * b2n (4 ≤ coreY c)) % 4, Nat.mod_lt _ (by decide)⟩

/-- The unit that a debug step releases has started (R455). -/
def State.noteStep (s : State) (c : CoreIx) (u : DebugUnit) : State :=
  match s.coreLaunch? c with
  | none => s
  | some l =>
    match l.dstop.bind (·.step) with
    | some (d, v, _) => if d = c && v = u then s.updLaunch l.num fun l => { l with dstop := l.dstop.map fun d => { d with started := true } } else s
    | none => s

/-- Whether a debug step lets a unit start (R455). -/
def State.stepFrees (s : State) (c : CoreIx) (u : DebugUnit) : Bool :=
  match (s.coreLaunch? c).bind (·.dstop) with
  | some d => !d.started && (match d.step with | some (e, v, _) => e == c && v == u | none => false)
  | none => false

/-- The cores of a launch, row by row of its image (R35). -/
def Launch.cores (l : Launch) : List CoreIx :=
  if l.cls.isSome then (match l.window with | some w => [w.core] | none => []) else
  (List.range (l.img.width * l.img.height)).map fun k => coreAt (l.ox + k % l.img.width) (l.oy + k / l.img.width)

def Launch.ix (l : Launch) (c : CoreIx) : Nat := (coreX c + 8 - l.ox) % 8
def Launch.iy (l : Launch) (c : CoreIx) : Nat := (coreY c + 8 - l.oy) % 8
/-- Position of a core in its launch's image (R50). -/
def Launch.pos (l : Launch) (c : CoreIx) : Nat := l.iy c * l.img.width + l.ix c

/-- The current table set (R49). -/
def Launch.set? (l : Launch) : Option TableSet := l.img.sets[l.setIx]?

/-- Latency of the route between two dies or cores (R19, R102). -/
def dieLatency (a b : Fin 4) : Nat := if a = b then 12 else if a.val + b.val = 3 then 88 else 50
def coreLatency (a b : CoreIx) : Nat :=
  if coreDie a = coreDie b &&
      ((coreX a == coreX b && (coreY a + 1 == coreY b || coreY b + 1 == coreY a)) ||
       (coreY a == coreY b && (coreX a + 1 == coreX b || coreX b + 1 == coreX a))) then 4
  else dieLatency (coreDie a) (coreDie b)

/-! ### Slices (R94 to R100) -/

def Launch.grant (l : Launch) (c : CoreIx) : Grant := l.grants.getD (l.pos c) ⟨0, 0, 0⟩

/-- The launch whose slices a core's accesses use. -/
def State.slices (s : State) (c : CoreIx) : Option (Launch × Grant) := (s.coreLaunch? c).map fun l => (l, l.grant c)

/-- Physical A-buffer offset (R94); without a launch, the offset itself. -/
def State.aPhys (s : State) (c : CoreIx) (off : Nat) : Nat :=
  match s.slices c with
  | some (l, g) => (g.aBase + off % 2 ^ l.img.alog) % 2 ^ 22
  | none => off % 2 ^ 22
def State.wPhys (s : State) (c : CoreIx) (off : Nat) : Nat :=
  match s.slices c with
  | some (l, g) => (g.wBase + off % 2 ^ l.img.wlog) % 2 ^ 24
  | none => off % 2 ^ 24
/-- Physical accumulator tile (R94, R331). -/
def State.tilePhys (s : State) (c : CoreIx) (t : Nat) : Fin 32 :=
  match s.slices c with
  | some (l, g) => ⟨(g.cBase + t % 2 ^ l.img.clog) % 32, Nat.mod_lt _ (by decide)⟩
  | none => ⟨t % 32, Nat.mod_lt _ (by decide)⟩

/-- Image quadrant of a core (R100). -/
def Launch.quadrant (l : Launch) (c : CoreIx) : Nat :=
  b2n (l.img.sx ≠ 0 && l.img.sx ≤ l.ix c) + 2 * b2n (l.img.sy ≠ 0 && l.img.sy ≤ l.iy c)
/-- The die of an image quadrant (R98, R419). -/
def Launch.quadDie (l : Launch) (q : Nat) : Fin 4 :=
  let x := if l.img.sx ≠ 0 && q % 2 == 1 then l.img.sx else 0
  let y := if l.img.sy ≠ 0 && q / 2 % 2 == 1 then l.img.sy else 0
  coreDie (coreAt (l.ox + x) (l.oy + y))

/-- A Pantry address to its die and byte (R98 to R101). -/
def State.pantryPhys (s : State) (c : CoreIx) (a : Nat) : Fin 4 × Nat :=
  match s.coreLaunch? c with
  | none => (coreDie c, a % 2 ^ 26)
  | some l =>
    let off := bits a 0 26
    if bit a 28 then
      let d := coreDie c
      let base := ((l.replBase.find? (·.1 == d.val)).map (·.2)).getD 0
      (d, (base * 2 ^ 20 + off % (2 ^ 20 * 2 ^ l.img.rplog)) % 2 ^ 26)
    else
      let q0 := b2n (bit a 26 && l.img.sx ≠ 0) + 2 * b2n (bit a 27 && l.img.sy ≠ 0)
      let held (q : Nat) := l.quadBase.find? (·.1 == (l.quadDie q).val)
      let q := if (held q0).isSome then q0 else l.quadrant c
      let base := ((held q).map (·.2)).getD 0
      (l.quadDie q, (base * 2 ^ 20 + off % (2 ^ 20 * 2 ^ l.img.plog)) % 2 ^ 26)

/-! ### Memory accesses -/

/-- The bank of an A-buffer offset (R92). -/
def bankOf (a : Nat) : Nat := bits a 4 8
/-- The partition of a Pantry byte, whose bank a slot holds (R134). -/
def partOf (a : Nat) : Nat := a / 2 ^ 20

/-- Whether a bank is held by a read-modify-write slot in this tick (R133, R134). -/
def heldNow (holds : List (Nat × Nat)) (bank : Nat) : Bool := holds.any fun h => h.1 == bank

/-- Monitors of waiting `waitw`s over a written span are woken (R134, R239). -/
def wakeWait (pantry : Bool) (die : Option (Fin 4)) (phys : Nat → Nat) (lo n : Nat) (w : Waiting) : Waiting :=
  match w.kind with
  | .waitw p a e r armed woken =>
    if p = pantry && armed && die.isSome && (phys a < lo + n && lo < phys a + 8) then { w with kind := .waitw p a e r armed true }
    else { w with kind := .waitw p a e r armed woken }
  | _ => w

/-- Wakes the monitors of one core, unless its context is on the way to or in the Attic (R477). -/
def State.wakeCore (s : State) (c : CoreIx) (pantry : Bool) (die : Fin 4) (lo n : Nat) : State :=
  if (s.core c).swap.isSome || (match s.coreLaunch? c with | some l => l.stage != .running | none => true) then s else
  s.updCtx c fun x => { x with seqs := x.seqs.map fun q => { q with run := q.run.map fun r =>
    { r with waits := r.waits.map fun w =>
        match w.kind with
        | .waitw true a _ _ _ _ =>
          if pantry then wakeWait true (if (s.pantryPhys c a).1 = die then some die else none) (fun a => (s.pantryPhys c a).2) lo n w else w
        | .waitw false _ _ _ _ _ => if pantry then w else wakeWait false (some die) (s.aPhys c) lo n w
        | _ => w } } }

/-- Bytes of one bank written at a physical offset: at once, or after the slot that holds the bank (R134). `who`: the sequencer whose write it is. -/
def State.writeBank (s : State) (c : CoreIx) (phys : Nat) (bytes : List Byte) (who : Option (CoreIx × SeqIx × Bool) := none) : State :=
  if heldNow (s.core c).bankHolds (bankOf phys) then
    s.updCore c fun k => { k with heldWrites := k.heldWrites ++ [⟨phys, bytes, who⟩] }
  else
    (s.updCore c fun k => { k with abuf := writeBytes k.abuf phys bytes }).wakeCore c false 0 phys bytes.length

/-- Bytes from an address on, cut at multiples of 16; the fuel bounds the parts. -/
def rowParts (a : Nat) (bytes : List Byte) : Nat → List (Nat × List Byte)
  | 0 => []
  | fuel + 1 => if bytes.isEmpty then [] else (a, bytes.take (16 - a % 16)) :: rowParts (a + (16 - a % 16)) (bytes.drop (16 - a % 16)) fuel

/-- Bytes written into the A-buffer at a physical offset, each bank's at once or after the slot that holds it (R134). -/
def State.writeA (s : State) (c : CoreIx) (phys : Nat) (bytes : List Byte) (who : Option (CoreIx × SeqIx × Bool) := none) : State :=
  if bytes.length ≤ 16 - phys % 16 || (s.core c).bankHolds.isEmpty then s.writeBank c phys bytes who
  else (rowParts phys bytes (bytes.length / 16 + 2)).foldl (fun s p => s.writeBank c p.1 p.2 who) s

/-- Bytes written into a die's Pantry. -/
def State.writePantry (s : State) (d : Fin 4) (phys : Nat) (bytes : List Byte) (who : Option (CoreIx × SeqIx × Bool) := none) : State :=
  let upd (f : DieState → DieState) : State := { s with dies := s.dies.set d (f s.dies[d]) }
  if heldNow s.dies[d].holds (partOf phys) then upd fun x => { x with held := x.held ++ [⟨phys, bytes, who⟩] }
  else allCores.foldl (fun s c => s.wakeCore c true d phys bytes.length)
    (upd fun x => { x with pantry := writeBytes x.pantry phys bytes })

/-- Whether a key write of a sequencer is held back behind a slot (R134, R248). -/
def State.keyHeld (s : State) (c : CoreIx) (q : SeqIx) : Bool :=
  let mine (h : HeldWrite) : Bool := h.owner == some (c, q, true)
  (s.core c).heldWrites.any mine || s.dies.toList.any fun d => d.held.any mine

/-- A scheduled access to the bank of an A-buffer offset is made in this tick (R274). -/
def State.touch (s : State) (c : CoreIx) (phys : Nat) : State := s.updCore c fun k => { k with touched := bankOf phys :: k.touched }

/-- Bytes of the A-buffer at a program offset, each wrapped into the slice (R94). -/
def State.readAOff (s : State) (c : CoreIx) (off n : Nat) : Nat :=
  readLE (s.core c).abuf (s.aPhys c off) n
def State.writeAOff (s : State) (c : CoreIx) (off : Nat) (bytes : List Byte) (who : Option (CoreIx × SeqIx × Bool) := none) : State :=
  s.writeA c (s.aPhys c off) bytes who

def State.readP (s : State) (c : CoreIx) (a n : Nat) : Nat :=
  let p := s.pantryPhys c a
  readLE s.dies[p.1].pantry p.2 n

/-- A physical address of R108: bit 55 names host memory. -/
def State.readPhys (s : State) (a n : Nat) : Nat :=
  if bit a 55 then readLE s.hostMem (a % 2 ^ 55) n else readLE s.dram a n
def State.readPhysBytes (s : State) (a n : Nat) : List Byte :=
  if bit a 55 then readBytes s.hostMem (a % 2 ^ 55) n else readBytes s.dram a n
def State.writePhys (s : State) (a : Nat) (bytes : List Byte) : State :=
  if bit a 55 then { s with hostMem := writeBytes s.hostMem (a % 2 ^ 55) bytes } else { s with dram := writeBytes s.dram a bytes }

/-- Whether a memory span holds an error that cannot be corrected (R121). Units are 16 bytes in SRAM and 32 in LPDDR 6. -/
def State.hardError (s : State) (space : Fin 10) (place a n : Nat) : Bool :=
  let u := if space = 0 then 32 else 16
  s.ecc.any fun m => m.space == space && m.where' == place && m.hard && decide (m.unit * u < a + n) && decide (a < (m.unit + 1) * u)
/-- Correctable errors of a span. -/
def State.softErrors (s : State) (space : Fin 10) (place a n : Nat) : List EccMark :=
  let u := if space = 0 then 32 else 16
  s.ecc.filter fun m => m.space == space && m.where' == place && !m.hard && decide (m.unit * u < a + n) && decide (a < (m.unit + 1) * u)
/-- Marks that a whole write of their units clears (R121). -/
def State.clearErrors (s : State) (space : Fin 10) (place a n : Nat) : State :=
  let u := if space = 0 then 32 else 16
  { s with ecc := s.ecc.filter fun m => !(m.space == space && m.where' == place && decide (a ≤ m.unit * u) && decide ((m.unit + 1) * u ≤ a + n)) }

/-! ### Records (R432 to R438) -/

/-- Words of a record. -/
def Rec.words (r : Rec) : Nat := 2 + b2n r.place.isSome + r.payload.length

/-- Words waiting in the writer's buffer (R437): those of the records that have reached it. -/
def TraceState.waiting (t : TraceState) : Nat := ((t.buffer.filter fun r => r.way.isNone).map Rec.words).sum

/-- Whether a record names a core, so that it comes to the writer from a work die (R19, R431, R435). -/
def Rec.fromCore (r : Rec) : Bool := match r.place with | some w => !w.getLsbD 31 | none => false

/-- A record sent to the writer: from a work-die unit it is on the Hall route for 50 ticks, from a hall-die unit it is there at once (R19, R431). -/
def State.record (s : State) (r : Rec) : State :=
  { s with tr := { s.tr with buffer := s.tr.buffer ++ [{ r with way := if r.fromCore then some 50 else none }] } }

/-- A record reaches the writer: one of the trace class is dropped while TRON is 0 or the buffer holds 32,768 words or more (R437); one accepted counts toward a
pending stop (R450). -/
def TraceState.arrive (t : TraceState) (r : Rec) : TraceState :=
  let into (t : TraceState) : TraceState := { t with buffer := t.buffer ++ [{ r with way := none }] }
  if !r.trace then into t
  else if !t.tron then { t with clost := t.clost + 1 }
  else if 32768 ≤ t.waiting then { t with clost := t.clost + 1, lossCount := t.lossCount + 1 }
  else match t.stopAfter with
    | some (n + 1) => into (if n = 0 then { t with tron := false, stopAfter := none } else { t with stopAfter := some n })
    | _ => into t

/-- The records that have come to the writer in this tick. -/
def TraceState.arrivals (t : TraceState) : TraceState :=
  let now (r : Rec) : Bool := r.way == some 0
  if t.buffer.any now then (t.buffer.filter now).foldl TraceState.arrive { t with buffer := t.buffer.filter fun r => !now r } else t

/-- Records on their way as a tick passes. -/
def TraceState.wayEnd (t : TraceState) : TraceState := { t with buffer := t.buffer.map fun r => { r with way := r.way.map (· - 1) } }

def w64 (n : Nat) : Word := BitVec.ofNat 64 n

/-- The place word of a record that names a launch but no core (R435). -/
def placeNoCore (l : LaunchNo) : Word := w64 (2 ^ 31 + l.toNat)
/-- The place word of a core and sequencer; 7 for a core-wide event (R435). -/
def State.placeCore (s : State) (l : LaunchNo) (c : CoreIx) (q : Nat) : Word :=
  let (ix, iy) := match s.launch? l with
    | some x => (x.ix c, x.iy c)
    | none => (0, 0)
  w64 (q % 8 * 2 ^ 28 + iy % 8 * 2 ^ 25 + ix % 8 * 2 ^ 22 + coreY c * 2 ^ 19 + coreX c * 2 ^ 16 + l.toNat)

/-- A digest in seven words (R432). -/
def digestWords (d : List Byte) : List Word := (List.range 7).map fun k => w64 (leNat ((d.drop (7 * k)).take 7))

def low63 (w : Word) : Word := w64 (w.toNat % 2 ^ 63)
def bit63 (w : Word) : Nat := w.toNat / 2 ^ 63

/-- A FAULT record (R436, R438). -/
def State.faultRec (s : State) (place : Option Word) (source code detail : Nat) (cancel : Bool) (fdom : BitVec 16) (addr : Nat)
    (word5 aux : Nat) : State :=
  s.record { typ := 0x08, tick := s.tick, place := some (place.getD (placeNoCore 0)), trace := false,
             payload := [w64 (source % 16 + code % 256 * 16 + detail % 2 ^ 32 * 2 ^ 12 + b2n cancel * 2 ^ 44 + fdom.toNat * 2 ^ 45),
                         w64 (addr % 2 ^ 56), w64 (word5 % 2 ^ 38), w64 (aux % 2 ^ 63)] }

/-! ### Freezes and what may advance -/

/-- The launch is in a halting freeze in this tick (R70 to R73). -/
def Launch.frozen (l : Launch) : Bool := l.frozenFrom.isSome
/-- A debug stop holds launch time from the tick after its request (R453). -/
def Launch.stopped (l : Launch) (tick : Nat) : Bool := match l.dstop with | some d => decide (d.from' ≤ tick) | none => false
/-- Launch time holds in this tick (R49, R75, R80, R86, R453). -/
def Launch.timeHeld (l : Launch) (tick : Nat) : Bool :=
  l.frozen || l.boundary.isSome || l.susp.isSome || l.urgentFrom.isSome || l.stopped tick || l.stage != .running
/-- Activations other than drained ones are held (R80, R86). -/
def Launch.draining (l : Launch) : Bool := l.susp.isSome || l.urgentFrom.isSome

/-- Whether a sequencer's activation advances in this tick (R72, R80). -/
def State.seqRuns (s : State) (c : CoreIx) (q : SeqIx) : Bool :=
  match (s.seq c q).act with
  | none => false
  | some a =>
    match s.coreLaunch? c with
    | none => false
    | some l => !l.frozen && l.boundary.isNone && l.stage == .running && !a.halted && (!l.draining || a.drain)

/-- Whether an engine operation advances in this tick (R72, R80): under a suspension only those of drained activations. A boundary freeze holds none, a
configuration load included, as R75 and the table of R324 have it (R88 lets a load pause there: DEDUCED, log entry 55). -/
def State.opRuns (s : State) (c : CoreIx) (o : Owner) : Bool :=
  match s.coreLaunch? c with
  | none => false
  | some l => !l.frozen && l.stage == .running && (s.core c).swap.isNone &&
      (!l.susp.isSome || (match (s.seq c o.seq).act with | some a => a.id == o.act && a.drain | none => false))

/-! ### Values to targets (R200 to R203) -/

/-- A value for a target, to arrive after `lat` ticks. -/
def BlockRun.send (r : BlockRun) (lat : Nat) (t : Target) (v : Word) : BlockRun :=
  match t with
  | .null => r
  | _ => { r with flights := r.flights ++ [⟨lat, t, v⟩] }

/-- The same for an outstanding read or wait, which stays outstanding until its value has been delivered, to a null target too (R208). -/
def BlockRun.sendAll (r : BlockRun) (lat : Nat) (t : Target) (v : Word) : BlockRun := { r with flights := r.flights ++ [⟨lat, t, v⟩] }

/-- A trap raised in the block; of two in one tick the lower code is recorded (R212). -/
def BlockRun.raise (r : BlockRun) (t : Trap) : BlockRun :=
  { r with trap := some (match r.trap with | some u => if u.code ≤ t.code then u else t | none => t) }

/-- DETAIL of ILLEGAL (R479). -/
def illegal (kind wh slot : Nat) : Trap := ⟨0x04, BitVec.ofNat 32 (wh % 64 + kind % 8 * 256 + slot % 4 * 2048)⟩

/-- A value arrives at its target: a nullified instruction discards it, a filled slot raises ILLEGAL (R174, R202, R203). -/
def BlockRun.arrive (r : BlockRun) (t : Target) (v : Word) : BlockRun :=
  match t with
  | .null => r
  | .left i => if r.nulled.getLsbD i then r else
      if r.left[i].isSome then r.raise (illegal 1 i 0) else { r with left := r.left.set i (some v) }
  | .right i => if r.nulled.getLsbD i then r else
      if r.right[i].isSome then r.raise (illegal 1 i 1) else { r with right := r.right.set i (some v) }
  | .gate i => if r.nulled.getLsbD i then r else
      if r.gate[i].isSome then r.raise (illegal 1 i 2) else { r with gate := r.gate.set i (some v) }
  | .slot w => if r.slots[w].isSome then r.raise (illegal 2 w 0) else { r with slots := r.slots.set w (some (some v)) }

/-- The two targets of a 16-byte result (R179): the second is of the same kind with index one greater. -/
def nextTarget : Target → Target
  | .null => .null
  | .left i => .left (i + 1)
  | .right i => .right (i + 1)
  | .gate i => .gate (i + 1)
  | .slot w => .slot (w + 1)

/-! ### Interrupts and queue freezes (R416, R464, R467) -/

/-- An MSI-X vector raised: sent, or left pending when its table entry is masked (R464). -/
def State.irq (s : State) (v : Nat) : State :=
  if h : v < 64 then
    if bit s.host.msix[v].ctrl.toNat 0 then { s with host := { s.host with pba := setBit s.host.pba v } }
    else { s with host := { s.host with irqs := s.host.irqs ++ [⟨v, h⟩] } }
  else s

def State.updQueue (s : State) (q : QueueIx) (f : QueueState → QueueState) : State :=
  { s with fe := { s.fe with queues := s.fe.queues.set q (f s.fe.queues[q]) } }
def State.updGraph (s : State) (g : GraphIx) (f : GraphState → GraphState) : State :=
  { s with fe := { s.fe with graphs := s.fe.graphs.set g (s.fe.graphs[g].map f) } }

/-- The execution state of a queue or of a graph's run. -/
def State.exec? (s : State) : Source → Option Stream'
  | .queue q => some s.fe.queues[q].exec
  | .graph g => s.fe.graphs[g].bind (·.run)
def State.updExec (s : State) (src : Source) (f : Stream' → Stream') : State :=
  match src with
  | .queue q => s.updQueue q fun x => { x with exec := f x.exec }
  | .graph g => s.updGraph g fun x => { x with run := x.run.map f }

/-- Address of the packet a stream stands at. -/
def Stream'.at' (e : Stream') : Nat :=
  match e.levels with
  | l :: _ => l.base.toNat + l.pos
  | [] => 0

/-- A queue freezes (R416): REASON, FE_QFAULT, a FAULT record, the error interrupt. -/
def State.freezeQueue (s : State) (q : QueueIx) (reason : Nat) (addr : Nat) (tag : BitVec 32) (skip : Bool) : State :=
  let s := s.updQueue q fun x => { x with frozen := true, reason := BitVec.ofNat 8 reason, fault := BitVec.ofNat 56 addr, skipOnResume := skip }
  let s := s.faultRec none 4 reason 0 false 0 addr tag.toNat 0
  s.irq q

/-! ### Memory errors (R121) and causes of freezes (R70, R71) -/

/-- Type, event tick and words of a recorded record (R432). -/
def recType (r : List Word) : Nat := bits (r.getD 0 0).toNat 56 7
def recTick (r : List Word) : Nat := (r.getD 1 0).toNat % 2 ^ 63
def recWord (r : List Word) (k : Nat) : Nat := (r.getD k 0).toNat
/-- The launch number in a record's place word. -/
def recLaunch (r : List Word) : LaunchNo := BitVec.ofNat 16 (recWord r 2)

/-- Recorded records of a type that a replay under way acts on (R441). -/
def State.recorded (s : State) (typ : Nat) : List (List Word) := if s.tr.rpActive then s.tr.rpRecords.filter fun r => recType r == typ else []

/-- Types that are compared under replay: the replay class, but for what a replay does not produce (the boot of the unit and the live time unit, R48). -/
def replayClass (typ : Nat) : Bool := (typ ≤ 0x14 && typ != 0 && typ != 0x0A && typ != 0x0D && typ != 0x0F)

/-- The recorded records of a type that a replay has not compared yet. -/
def State.recordsLeft (s : State) (typ : Nat) : List (List Word) :=
  if s.tr.rpActive then ((s.tr.rpRecords.filter fun r => replayClass (recType r)).drop s.tr.rpPos).filter fun r => recType r == typ else []

/-- The first unfrozen tick of a freeze that a replay injects, by its launch, cause code and first held tick (R76, R441). -/
def State.recordedFreeze (s : State) (n : LaunchNo) (code first : Nat) : Option Nat :=
  ((s.recorded 0x06).find? fun r => recLaunch r == n && bit (recWord r 3) code && recWord r 4 == first % 2 ^ 63).map fun r => first + bits (recWord r 3) 8 55

/-- A cause of a halting freeze is raised (R71); `resolved` is the tick of its resolution where that is known. A replay does not derive causes (R76). -/
def State.raiseCause (s : State) (n : LaunchNo) (code : Nat) (resolved : Option Nat) : State :=
  if s.tr.rpActive then s else s.updLaunch n fun l => { l with causes := l.causes ++ [⟨code, s.tick, resolved⟩] }

/-- MEM code of SOFTERR (R436). -/
def memCode (space : Fin 10) : Nat := if space = 5 then 4 else if space = 4 then 5 else if space = 8 then 7 else if space = 9 then 8 else space.val

/-- The unit of protection (R121). -/
def eccUnit (space : Fin 10) : Nat := if space = 0 then 32 else 16

/-- Correctable errors met by a read (R121): a SOFTERR record for each; SRAM is scrubbed, LPDDR 6 retries under a freeze of the launch that reads. -/
def State.softRead (s : State) (pw : Word) (launch : Option LaunchNo) (space : Fin 10) (place a n : Nat) : State :=
  (s.softErrors space place a n).foldl (fun s m =>
    let froze := space = 0 && launch.isSome
    let s := s.record { typ := 0x09, tick := s.tick, place := some pw, trace := false,
                        payload := [w64 (memCode space + b2n froze * 16), w64 (m.unit * eccUnit space)] }
    if space = 0 then
      let s := { s with ecc := s.ecc.map fun k => if k = m then { k with met := true } else k }
      match launch with | some l => s.raiseCause l 1 (some (s.tick + 32)) | none => s
    else { s with ecc := s.ecc.filter fun k => k != m }) s

/-- Whether a write covers part of a unit that holds an uncorrectable error (R121). -/
def State.badWrite (s : State) (space : Fin 10) (place a n : Nat) : Bool :=
  let u := eccUnit space
  s.ecc.any fun m => m.space == space && m.where' == place && m.hard && decide (m.unit * u < a + n) && decide (a < (m.unit + 1) * u) &&
    !(decide (a ≤ m.unit * u) && decide ((m.unit + 1) * u ≤ a + n))

/-- Correctable errors that a partial write meets, which reads its unit first (R121). -/
def State.softWrite (s : State) (pw : Word) (launch : Option LaunchNo) (space : Fin 10) (place a n : Nat) : State :=
  if s.ecc.isEmpty then s else
  let u := eccUnit space
  let s := if a % u = 0 && u ≤ n then s else s.softRead pw launch space place a 1
  if (a + n) % u = 0 || (a + n) / u = a / u then s else s.softRead pw launch space place (a + n - 1) 1

/-! ### Copies: pieces, bytes and completion (R255 to R256, R260 to R266, R271, R275) -/

/-- A field of a copy descriptor (R255): n bits from bit lo of double-word k. -/
def dscF (d : List Word) (k lo n : Nat) : Nat := bits (d.getD k 0).toNat lo n
def dscS (d : List Word) : Nat := dscF d 0 0 3
def dscD (d : List Word) : Nat := dscF d 0 3 3

/-- Source and destination displacements (R256). -/
def copyDisp (d : List Word) (left : Word) : Nat × Nat :=
  let m (virt : Bool) (v : Nat) : Nat := if virt && bit (d.getD 0 0).toNat 6 then v / 1024 * 1024 else v
  (m (dscS d == 3) (bits left.toNat 0 32), m (dscD d == 3) (bits left.toNat 32 32))

/-- Source and destination offsets of byte x of row y, plane z (R256). -/
def copyOff (d : List Word) (left : Word) (z y x : Nat) : Nat × Nat :=
  let (ds, dd) := copyDisp d left
  ((ds + z * dscF d 5 32 32 + y * dscF d 5 0 32 + x) % dscF d 3 0 32, (dd + z * dscF d 6 32 32 + y * dscF d 6 0 32 + x) % dscF d 3 32 32)

/-- A row cut at the 1,024-byte boundaries of the virtual address (R271). -/
def cutRow (z y : Nat) : Nat → Nat → Nat → Nat → List (Nat × Nat × Nat × Nat)
  | 0, _, _, _ => []
  | fuel + 1, va, x, left =>
    if left = 0 then [] else
    let n := min (1024 - va % 1024) left
    (z, y, x, n) :: cutRow z y fuel (va + n) (x + n) (left - n)

/-- The pieces of a copy (R271); without a virtual side each row is one. -/
def copyPieces (d : List Word) (left : Word) : List (Nat × Nat × Nat × Nat) :=
  let len := dscF d 4 0 24
  (List.range (dscF d 4 36 12)).flatMap fun z => (List.range (dscF d 4 24 12)).flatMap fun y =>
    let o := copyOff d left z y 0
    if dscS d = 3 then cutRow z y (len / 1024 + 2) o.1 0 len
    else if dscD d = 3 then cutRow z y (len / 1024 + 2) o.2 0 len
    else [(z, y, 0, len)]

/-- The virtual address of a piece. -/
def pieceVa (d : List Word) (left : Word) (p : Nat × Nat × Nat × Nat) : Nat :=
  let o := copyOff d left p.1 p.2.1 p.2.2.1
  if dscS d = 3 then (d.getD 1 0).toNat + o.1 else (d.getD 2 0).toNat + o.2

/-- A Pantry address moved within its slice (R99). -/
def pantryAdd (base off : Nat) : Nat := base / 2 ^ 26 * 2 ^ 26 + (base + off) % 2 ^ 26

/-- Where a byte of an on-chip space lies: error space, place, physical offset. -/
def State.chipByte (s : State) (c : CoreIx) (space base off : Nat) : Fin 10 × Nat × Nat :=
  match space with
  | 0 => (1, c.val, s.aPhys c (base + off))
  | 1 => (2, c.val, s.wPhys c (base + off))
  | 2 => let p := s.pantryPhys c (pantryAdd base off); (5, p.1.val, p.2)
  | _ => (3, c.val, (s.tilePhys c (base + off / 16384)).val * 16384 + off % 16384)

/-- The byte at such a place. -/
def State.chipRead (s : State) (p : Fin 10 × Nat × Nat) : Byte :=
  if p.1 = 5 then readByte s.dies[p.2.1 % 4].pantry p.2.2 else
  let k := s.cores[p.2.1 % 64]'(Nat.mod_lt _ (by decide))
  if p.1 = 1 then readByte k.abuf p.2.2 else if p.1 = 2 then readByte k.wbuf p.2.2 else readByte k.cbuf p.2.2

/-- Bytes written on chip; a whole write of a unit clears its error (R121). -/
def State.chipWrite (s : State) (p : Fin 10 × Nat × Nat) (bytes : List Byte) (who : Option (CoreIx × SeqIx × Bool) := none) : State :=
  let s := s.clearErrors p.1 p.2.1 p.2.2 bytes.length
  let c : CoreIx := ⟨p.2.1 % 64, Nat.mod_lt _ (by decide)⟩
  if p.1 = 1 then s.writeA c p.2.2 bytes who
  else if p.1 = 2 then s.updCore c fun k => { k with wbuf := writeBytes k.wbuf p.2.2 bytes }
  else if p.1 = 3 then s.updCore c fun k => { k with cbuf := writeBytes k.cbuf p.2.2 bytes }
  else s.writePantry ⟨p.2.1 % 4, Nat.mod_lt _ (by decide)⟩ p.2.2 bytes who

/-- The dies and physical bytes that a destination address names: every replica for `cpmc` (R101, R261). -/
def State.chipTargets (s : State) (c : CoreIx) (multi : Bool) (space base off : Nat) : List (Fin 10 × Nat × Nat) :=
  if multi then
    match s.coreLaunch? c with
    | some l => l.replBase.map fun b => (5, b.1, (b.2 * 2 ^ 20 + pantryAdd base off % 2 ^ 26 % (2 ^ 20 * 2 ^ l.img.rplog)) % 2 ^ 26)
    | none => []
  else [s.chipByte c space base off]

/-- The bytes of a piece with the byte number x of each (R256, R262); `phys` is the physical address of the piece on the virtual side. -/
def State.pieceBytes (s : State) (c : CoreIx) (d : List Word) (left : Word) (set : Bool) (phys : Nat) (p : Nat × Nat × Nat × Nat) : List (Nat × Byte) :=
  (List.range p.2.2.2).map fun i =>
    let x := p.2.2.1 + i
    (x, if set then BitVec.ofNat 8 (dscF d 7 (8 * (x % 8)) 8)
        else if dscS d = 3 then (s.readPhysBytes (phys + i) 1).headD 0
        else s.chipRead (s.chipByte c (dscS d) (d.getD 1 0).toNat (copyOff d left p.1 p.2.1 x).1))

/-- The first byte of a piece whose read meets an uncorrectable error (R121). -/
def State.pieceHard (s : State) (c : CoreIx) (d : List Word) (left : Word) (set : Bool) (phys : Nat) (p : Nat × Nat × Nat × Nat) : Option Nat :=
  if set || s.ecc.isEmpty then none else
  (List.range p.2.2.2).find? fun i =>
    if dscS d = 3 then !bit phys 55 && s.hardError 0 0 (phys + i) 1 else
    let q := s.chipByte c (dscS d) (d.getD 1 0).toNat (copyOff d left p.1 p.2.1 (p.2.2.1 + i)).1
    s.hardError q.1 q.2.1 q.2.2 1

/-- Correctable errors of a piece's read (R121). -/
def State.pieceSoft (s : State) (c : CoreIx) (d : List Word) (left : Word) (o : Owner) (phys : Nat) (p : Nat × Nat × Nat × Nat) : State :=
  if s.ecc.isEmpty then s else
  let pw := s.placeCore o.launch c 6
  if dscS d = 3 then (if bit phys 55 then s else s.softRead pw (some o.launch) 0 0 phys p.2.2.2) else
  (List.range p.2.2.2).foldl (fun s i =>
    let q := s.chipByte c (dscS d) (d.getD 1 0).toNat (copyOff d left p.1 p.2.1 (p.2.2.1 + i)).1
    s.softRead pw none q.1 q.2.1 q.2.2 1) s

/-- Bytes grouped into aligned units of w bytes. -/
def groupBy (w : Nat) (off : Nat → Nat) : List (Nat × Byte) → List (Nat × List Byte)
  | [] => []
  | (x, b) :: t =>
    match groupBy w off t with
    | (y, bs) :: r => if off x + 1 = off y && off x / w == off y / w then (x, b :: bs) :: r else (x, [b]) :: (y, bs) :: r
    | [] => [(x, [b])]

/-- Bytes grouped into destination-aligned 16-byte units (R256). -/
def groupUnits (off : Nat → Nat) (l : List (Nat × Byte)) : List (Nat × List Byte) := groupBy 16 off l

def isCpset : Instr → Bool
  | .cpset .. => true
  | _ => false
def isCphash : Instr → Bool
  | .cphash .. => true
  | _ => false
def isCpmc : Instr → Bool
  | .cpmc .. => true
  | _ => false

/-- The bytes of a piece as it is read, up to an uncorrectable error, and whether there was none (R121). -/
def State.takePiece (s : State) (c : CoreIx) (k : EngineCmd) (d : List Word) (phys : Nat) (p : Nat × Nat × Nat × Nat) : State × List (Nat × Byte) × Bool :=
  let set := isCpset k.instr
  let bytes := s.pieceBytes c d k.left set phys p
  let s' := if set then s else s.pieceSoft c d k.left k.owner phys p
  match s.pieceHard c d k.left set phys p with
  | some i => (s', bytes.take i, false)
  | none => (s', bytes, true)

/-- Whether the pieces n - 1 and n share a 16-byte unit of the destination (R256). -/
def sharesUnit (d : List Word) (left : Word) (pieces : List (Nat × Nat × Nat × Nat)) (n : Nat) : Bool :=
  match pieces[n]? with
  | some (z, y, x, _) =>
    let off (i : Nat) : Nat := (copyOff d left z y i).2
    x ≠ 0 && off (x - 1) + 1 == off x && off x % 16 ≠ 0
  | none => false

/-- One end of a piece whose 16-byte unit another piece shares: the first of the two keeps its bytes back, the second writes the whole unit (R132, R256).
The bytes left to write, and the bytes kept back. -/
def CopyRun.joinEnd (r : CopyRun) (left : Word) (boundary : Nat) (atStart : Bool) (bytes : List (Nat × Byte)) :
    List (Nat × Byte) × List (Nat × List (Nat × Byte)) :=
  if !sharesUnit r.desc left r.pieces boundary then (bytes, r.halves) else
  match r.pieces[boundary]? with
  | none => (bytes, r.halves)
  | some (z, y, x, _) =>
    let unit (i : Nat) : Nat := (copyOff r.desc left z y i).2 / 16
    let (mine, rest) := bytes.partition fun b => unit b.1 == unit x && decide (b.1 < x + 16 && x < b.1 + 16)
    match r.halves.find? (·.1 == boundary) with
    | some h => (if atStart then h.2 ++ bytes else bytes ++ h.2, r.halves.filter fun e => e.1 != boundary)
    | none => (rest, r.halves ++ [(boundary, mine)])

/-- Bytes of a piece reach the core: they form units that wait for their banks. -/
def CopyRun.landPiece (r : CopyRun) (left : Word) (n : Nat) (bytes : List (Nat × Byte)) : CopyRun :=
  match r.pieces[n]? with
  | none => r
  | some p =>
    let (bytes, halves) := r.joinEnd left n true bytes
    let r := { r with halves }
    let (bytes, halves) := r.joinEnd left (n + 1) false bytes
    { r with halves, units := r.units ++ (groupUnits (fun x => (copyOff r.desc left p.1 p.2.1 x).2) bytes).map fun u => ⟨n, u.1, u.2.length, 0, some u.2⟩ }

/-- Bytes on their way that have come, in the order in which they were read; all of them where `all` says so (R72, R278). -/
def CopyRun.landMoving (r : CopyRun) (left : Word) (all : Bool) : CopyRun :=
  let now (m : Nat × Nat × List (Nat × Byte)) : Bool := all || m.1 == 0
  (r.moving.filter now).foldl (fun r m => r.landPiece left m.2.1 m.2.2) { r with moving := r.moving.filter fun m => !now m }

/-- A piece whose source is on chip, cut into units that are still to be read: 16 bytes of the destination each (R256), or a 32-byte burst of LPDDR 6 (R121);
`phys` is its physical address on the virtual side. -/
def CopyRun.readUnits (r : CopyRun) (left : Word) (phys n : Nat) : List PayUnit :=
  match r.pieces[n]? with
  | none => []
  | some p =>
    let bytes : List (Nat × Byte) := (List.range p.2.2.2).map fun i => (p.2.2.1 + i, 0)
    (if dscD r.desc = 3 then groupBy (if bit phys 55 then 16 else 32) (fun x => phys + (x - p.2.2.1)) bytes
     else groupUnits (fun x => (copyOff r.desc left p.1 p.2.1 x).2) bytes).map fun u => ⟨n, u.1, u.2.length, phys, none⟩

/-- Where byte x of a `cpcmp`'s source lies in a replica whose slice begins at partition b (R101, R256, R263). -/
def replicaAt (l : Launch) (d : List Word) (left : Word) (b x : Nat) : Nat :=
  (b * 2 ^ 20 + pantryAdd (d.getD 1 0).toNat (copyOff d left 0 0 x).1 % 2 ^ 26 % (2 ^ 20 * 2 ^ l.img.rplog)) % 2 ^ 26

/-- What `cpcmp` writes (R263), or none where a replica's read meets an uncorrectable error. -/
def State.compareReplicas (s : State) (c : CoreIx) (d : List Word) (left : Word) : List Byte :=
  match s.coreLaunch? c with
  | none => []
  | some l =>
    let base := (d.getD 1 0).toNat
    let unit (die : Fin 4) (b u : Nat) : List Byte := (List.range 16).map fun i => readByte s.dies[die].pantry (replicaAt l d left b (16 * u + i))
    let own (u : Nat) := unit (coreDie c) (((l.replBase.find? (·.1 == (coreDie c).val)).map (·.2)).getD 0) u
    let differs (u : Nat) : List Nat := (l.replBase.filter fun b => unit ⟨b.1 % 4, Nat.mod_lt _ (by decide)⟩ b.2 u ≠ own u).map (·.1)
    let bad := (List.range (dscF d 4 0 24 / 16)).filter fun u => !(differs u).isEmpty
    let dmask := (List.range 4).foldl (fun m q => m + b2n (bad.any fun u => (differs u).contains (l.quadDie q).val &&
      ((q % 2 == 0 || l.img.sx ≠ 0) && (q / 2 == 0 || l.img.sy ≠ 0))) * 2 ^ q) 0
    leBytes 8 (min bad.length 0xFFFFFFFF + dmask * 2 ^ 32) ++
    leBytes 8 (match bad.head? with | some u => pantryAdd base (copyOff d left 0 0 (16 * u)).1 % 2 ^ 26 | none => 2 ^ 64 - 1)

/-- Bytes that a copy writes at an offset of an on-chip space, each wrapped into its slice (R94): false, and nothing written, where a partial write of a unit meets an
uncorrectable error (R121). -/
def State.chipPut (s : State) (c : CoreIx) (o : Owner) (space base off : Nat) (bytes : List Byte) : State × Bool :=
  let at' (i : Nat) : Fin 10 × Nat × Nat := s.chipByte c space base (off + i)
  let parts := groupUnits (fun i => (at' i).2.2) ((List.range bytes.length).zip bytes)
  if parts.any fun p => s.badWrite (at' p.1).1 (at' p.1).2.1 (at' p.1).2.2 p.2.length then (s, false) else
  (parts.foldl (fun s p =>
    let q := at' p.1
    (s.softWrite (s.placeCore o.launch c 6) none q.1 q.2.1 q.2.2 p.2.length).chipWrite q p.2) s, true)

/-- The bank of a copy's completion word. -/
def State.wordBank (s : State) (c : CoreIx) (r : CopyRun) : Nat := bankOf (s.aPhys c (dscF r.desc 0 32 22))

/-- SERVO code (R436). -/
def servoCode : Servo → Nat
  | .free => 0
  | .pps => 1
  | .locked => 2
  | .holdover => 3

/-- The bytes that an ingress hasher's lane has taken, in the order of R256. -/
def CopyRun.taken (r : CopyRun) : List Byte := (sortBy Prod.fst r.hashed).flatMap Prod.snd

/-- Whether a copy may reach a place on chip in this tick: no atomic slot holds its bank or partition, and no scheduled access of the tick is at its bank
(R133, R134, R274). -/
def State.placeFree (s : State) (c : CoreIx) (q : Fin 10 × Nat × Nat) : Bool :=
  if q.1 = 1 then !heldNow (s.core c).bankHolds (bankOf q.2.2) && !(s.core c).touched.contains (bankOf q.2.2)
  else if q.1 = 5 then !heldNow (s.dies[q.2.1 % 4]).holds (partOf q.2.2) else true

/-- Whether no slot and no scheduled access stands in any copy's way. -/
def State.quietBanks (s : State) (c : CoreIx) : Bool := (s.core c).bankHolds.isEmpty && (s.core c).touched.isEmpty && s.dies.toList.all (·.holds.isEmpty)

/-- Where byte x of a unit's piece is read and written on chip. -/
def State.unitPlaces (s : State) (c : CoreIx) (k : EngineCmd) (r : CopyRun) (u : PayUnit) (x : Nat) : List (Fin 10 × Nat × Nat) :=
  match r.pieces[u.piece]? with
  | none => []
  | some p =>
    let d := r.desc
    let o := copyOff d k.left p.1 p.2.1 x
    (if u.bytes.isSome || isCpset k.instr then [] else [s.chipByte c (dscS d) (d.getD 1 0).toNat o.1]) ++
    if dscD d = 3 then [] else s.chipTargets c (isCpmc k.instr) (dscD d) (d.getD 2 0).toNat o.2

/-- Whether a unit can move in this tick. -/
def State.unitFree (s : State) (c : CoreIx) (k : EngineCmd) (r : CopyRun) (u : PayUnit) : Bool :=
  s.quietBanks c || (List.range u.n).all fun i => (s.unitPlaces c k r u (u.x + i)).all (s.placeFree c)

/-- The bytes of a unit as they are read; none on an uncorrectable error (R121). -/
def State.takeUnit (s : State) (c : CoreIx) (k : EngineCmd) (r : CopyRun) (u : PayUnit) : State × Option (List Byte) :=
  match u.bytes, r.pieces[u.piece]? with
  | some b, _ => (s, some b)
  | none, none => (s, some [])
  | none, some p =>
    match s.takePiece c k r.desc u.phys (p.1, p.2.1, u.x, u.n) with
    | (s, b, true) => (s, some (b.map (·.2)))
    | (s, _, false) => (s, none)

/-- One unit written to each of its places; false when a partial write meets an uncorrectable error (R121). -/
def State.writeUnit (s : State) (c : CoreIx) (k : EngineCmd) (r : CopyRun) (u : PayUnit) (bytes : List Byte) : State × Bool :=
  match r.pieces[u.piece]? with
  | none => (s, true)
  | some p =>
    let d := r.desc
    let pw := s.placeCore k.owner.launch c 6
    if dscD d = 3 then
      let a := u.phys + (u.x - p.2.2.1)
      if bit a 55 then (s.writePhys a bytes, true)
      else if s.badWrite 0 0 a bytes.length then (s, false)
      else (((s.softWrite pw (some k.owner.launch) 0 0 a bytes.length).clearErrors 0 0 a bytes.length).writePhys a bytes, true)
    else
      (s.chipTargets c (isCpmc k.instr) (dscD d) (d.getD 2 0).toNat (copyOff d k.left p.1 p.2.1 u.x).2).foldl (fun (a : State × Bool) q =>
        if !a.2 || a.1.badWrite q.1 q.2.1 q.2.2 bytes.length then (a.1, false) else
        ((a.1.softWrite pw none q.1 q.2.1 q.2.2 bytes.length).chipWrite q bytes, true)) (s, true)

/-- A unit that goes to host memory is posted (R273): at FE_TRIG, it is a device store (R424). -/
def State.postUnit (s : State) (c : CoreIx) (ch : ChanIx) (k : EngineCmd) (r : CopyRun) (u : PayUnit) (bytes : List Byte) : State × Bool :=
  let a := (u.phys + (u.x - (match r.pieces[u.piece]? with | some p => p.2.2.1 | none => 0))) % 2 ^ 55
  if dscD r.desc = 3 && bit u.phys 55 && Config.bar0Base ≤ a && a < Config.bar0Base + 0x1000 then
    let off := a - Config.bar0Base
    if off ≤ 0x400 && 0x408 ≤ off + bytes.length then
      let g : GraphIx := ⟨leNat ((bytes.drop (0x400 - off)).take 8) % 64, Nat.mod_lt _ (by decide)⟩
      ({ s with fe := { s.fe with pushes := s.fe.pushes ++ [(17, g)], stores := s.fe.stores ++ [(c, ch, r.head)] } }, true)
    else (s, true)
  else s.writeUnit c k r u bytes

/-- The units of a copy that can move in this tick do, in their order, and the others wait (R274); at an uncorrectable error the copy stops: false (R121). -/
def State.moveUnits (s : State) (c : CoreIx) (ch : ChanIx) (k : EngineCmd) (r : CopyRun) : List PayUnit → State × List PayUnit × Bool
  | [] => (s, [], true)
  | u :: t =>
    if !s.unitFree c k r u then match s.moveUnits c ch k r t with | (s, l, ok) => (s, u :: l, ok) else
    match s.takeUnit c k r u with
    | (s, none) => (s, [], false)
    | (s, some bytes) =>
      match s.postUnit c ch k r u bytes with
      | (s, false) => (s, [], false)
      | (s, true) => s.moveUnits c ch k r t

/-- Whether neither side of a copy is virtual. -/
def CopyRun.onChip (r : CopyRun) : Bool := !(dscS r.desc == 3 || dscD r.desc == 3)

/-- What a copy writes as a whole before its completion word (R263, R264): the result of `cpcmp`, the digest of `cphash`; its first offset and bytes, with the replica
bytes that it reads. -/
def State.wholePay (s : State) (c : CoreIx) (k : EngineCmd) (r : CopyRun) : Option (Nat × List Byte × List (Fin 10 × Nat × Nat)) :=
  let d := r.desc
  match k.instr with
  | .cphash .. => some (dscF d 0 32 22 + 8, sha384 r.taken, [])
  | .cpcmp .. => some ((d.getD 2 0).toNat + (copyDisp d k.left).2 % dscF d 3 32 32, s.compareReplicas c d k.left,
      match s.coreLaunch? c with
      | some l => l.replBase.flatMap fun b => (List.range (dscF d 4 0 24)).map fun x => (5, b.1, replicaAt l d k.left b.2 x)
      | none => [])
  | _ => none

/-- That part of a copy's payload, once its banks are free; false on an uncorrectable error (R121). -/
def State.payWhole (s : State) (c : CoreIx) (k : EngineCmd) (r : CopyRun) : State × CopyRun × Bool :=
  match s.wholePay c k r with
  | none => (s, { r with paid := true }, true)
  | some (at', bytes, reads) =>
    let free := s.quietBanks c || ((List.range bytes.length).all (fun i => s.placeFree c (s.chipByte c 0 at' i)) && reads.all (s.placeFree c))
    if !free then (s, r, true)
    else if !s.ecc.isEmpty && reads.any fun a => s.hardError a.1 a.2.1 a.2.2 1 then (s, r, false)
    else
      let s := if s.ecc.isEmpty then s else reads.foldl (fun s a => s.softRead (s.placeCore k.owner.launch c 6) none a.1 a.2.1 a.2.2 1) s
      match s.chipPut c k.owner 0 at' 0 bytes with
      | (s, ok) => (s, { r with paid := true }, ok)

/-- A copy's accesses on chip in a tick (R130, R274, R275): the payload of one without a virtual side, and what is written as a whole, from the tick before the completion
word's on, so that a read at the visible-by tick of R258 finds it; every waiting unit as its banks are free. False on an uncorrectable error. -/
def State.payCopy (s : State) (c : CoreIx) (ch : ChanIx) (k : EngineCmd) (r : CopyRun) : State × CopyRun × Bool :=
  let due := !r.paid && (match r.wait with | some n => decide (n ≤ 1) | none => false)
  match if due then s.payWhole c k r else (s, r, true) with
  | (s, r, false) => (s, r, false)
  | (s, r', true) =>
    let begins := due && r.onChip && (s.wholePay c k r).isNone && (match k.instr with | .cpbind .. => false | _ => true)
    let r := if begins then { r' with units := (List.range r.pieces.length).flatMap (r.readUnits k.left 0) } else r'
    if r.units.isEmpty then (s, r, true) else
    match s.moveUnits c ch k r r.units with
    | (s, l, ok) => (s, { r with units := l }, ok)

/-- The completion word (R275), and before it the INGRESS record of `cphash` (R264); the copy leaves its queue (R251). -/
def State.completeCopy (s : State) (c : CoreIx) (ch : ChanIx) (k : EngineCmd) (r : CopyRun) : State :=
  let cw := dscF r.desc 0 32 22
  let s := match k.instr with
    | .cphash .. =>
      let taken := r.taken
      let digest := sha384 taken
      let aux := (r.desc.getD 7 0).toNat
      let lane := match s.launch? k.owner.launch with | some l => (l.lanes.getD (bits aux 32 1) 0).val | none => 0
      s.record { typ := 0x03, tick := s.tick, place := some (s.placeCore k.owner.launch c 6), trace := false,
                          payload := [w64 (bits aux 0 32 + lane * 2 ^ 32 + 2 ^ 33 + servoCode r.hashServo * 2 ^ 34), w64 taken.length, w64 r.hashFirst,
                                      w64 s.tick, low63 r.hashWall] ++ digestWords digest }
    | _ => s
  let s := (s.softWrite (s.placeCore k.owner.launch c 6) none 1 c (s.aPhys c cw) 8).chipWrite (s.chipByte c 0 cw 0) (leBytes 8 k.right.toNat)
  let s := s.updCore c fun x => { x with touched := s.wordBank c r :: x.touched }
  s.updChan c ch fun x => { x with queue := x.queue.drop 1, run := none, walk := none, free := s.tick + 1, done := x.done + 1 }

/-- A copy whose completion word is due in this tick (R279). -/
def CopyRun.dueNow (r : CopyRun) : Bool := r.wait == some 0

/-- A unit of a cut copy at one place: old or new, as the manual leaves open (R278). -/
def State.maybeWrite (s : State) (q : Fin 10 × Nat × Nat) (bytes : List Byte) : State :=
  let s' := { s with fresh := s.fresh + 1 }
  if Config.cutUnitNew s.fresh && !s.badWrite q.1 q.2.1 q.2.2 bytes.length then s'.chipWrite q bytes else s'

/-- What a cut copy leaves (R278): of one with a virtual side the transfers under way end; of one without, each 16-byte unit of the destination, in each replica, that
has not moved is old or new, as the manual leaves open. -/
def State.partialCopy (s : State) (c : CoreIx) (ch : ChanIx) (k : EngineCmd) (r : CopyRun) : State :=
  let d := r.desc
  let put (s : State) (u : PayUnit) : State :=
    match s.takeUnit c k r u with
    | (s, none) => s
    | (s, some bytes) =>
      if !r.onChip then (s.postUnit c ch k r u bytes).1 else
      match r.pieces[u.piece]? with
      | none => s
      | some p => (s.chipTargets c (isCpmc k.instr) (dscD d) (d.getD 2 0).toNat (copyOff d k.left p.1 p.2.1 u.x).2).foldl (fun s q => s.maybeWrite q bytes) s
  if !r.onChip then (r.landMoving k.left true).units.foldl put s else
  match k.instr with
  | .cpbind .. => s
  | .cpcmp .. =>
    let off := (copyDisp d k.left).2 % dscF d 3 32 32
    if r.paid then s else
    (groupUnits (· + off) ((List.range 16).zip (s.compareReplicas c d k.left))).foldl (fun s u =>
      s.maybeWrite (s.chipByte c 0 (d.getD 2 0).toNat (off + u.1)) u.2) s
  | _ => (if r.paid then r.units else (List.range r.pieces.length).flatMap (r.readUnits k.left 0)).foldl put s

/-- Whether a copy whose tick has come can write its completion word in this tick: no scheduled access of the tick and no atomic slot is at its bank (R274). -/
def State.wordFree (s : State) (c : CoreIx) (r : CopyRun) : Bool :=
  let bank := s.wordBank c r
  !(s.core c).touched.contains bank && !heldNow (s.core c).bankHolds bank

/-- Whether every payload write of a copy stands (R275). -/
def CopyRun.allPaid (r : CopyRun) (k : EngineCmd) : Bool :=
  r.units.isEmpty && (r.paid || (match k.instr with | .cpbind .. => true | .cphash .. => false | _ => !r.onChip))

/-- Whether a copy advances in this tick: one cut in this very tick can still complete in it (R279). -/
def State.copyRuns (s : State) (c : CoreIx) (k : EngineCmd) (r : CopyRun) : Bool := r.dying || s.opRuns c k.owner

/-- What the copies of a launch's end leave in memory (R278, R279): a copy complete in this tick stands. -/
def State.settleCopies (s : State) (c : CoreIx) (p : Owner → Bool) : State :=
  (List.finRange 4).foldl (fun s ch =>
    match (s.ctx c).chans[ch].queue.head?, (s.ctx c).chans[ch].run with
    | some k, some r =>
      if !p k.owner then s
      else if r.dueNow && s.copyRuns c k r && s.wordFree c r then
        match s.payCopy c ch k r with
        | (s', r', true) => if r'.allPaid k then s'.completeCopy c ch k r' else s'.partialCopy c ch k r'
        | (s', _, false) => s'
      else if (s.core c).swap.isNone then s.partialCopy c ch k r else s
    | _, _ => s) s

end Sys2Proof.Machine
end

