-- ==== Sys2Proof/Machine/Streams.lean ====
section
/-! DEFINITION. What stochastic commands compute (R364 to R371, R381 to R391): streams, generators, thresholds, and the writes of an effect tick. -/

namespace Sys2Proof.Machine

/-! ### Streams (R151, R364, R365) -/

/-- L of a LEN code (R151). -/
def lenBits (len : BitVec 2) : Nat := 64 * 4 ^ len.toNat

/-- A stream register of length L with bits given as a number; bits from L upward are 0 (R365). -/
def mkStream (len : BitVec 2) (mask : BitVec 16) (v : Nat) : StreamReg := ⟨BitVec.ofNat 4096 (v % 2 ^ lenBits len), len, mask⟩

/-- Data bits 0 to L - 1. -/
def StreamReg.val (r : StreamReg) : Nat := r.data.toNat % 2 ^ lenBits r.len
/-- Ones of a stream (R385). -/
def StreamReg.count (r : StreamReg) : Nat := ((List.range (lenBits r.len)).filter fun i => r.data.getLsbD i).length

/-! ### Generators (R367 to R370) -/

/-- Reversal of 16 bits (R368). -/
def bitrev16 (x : Nat) : Nat := (List.range 16).foldl (fun a i => a + b2n (bit x i) * 2 ^ (15 - i)) 0

/-- One step of the 16-bit LFSR (R368). -/
def lfsrStep (s : Nat) : Nat := Nat.xor (s / 2) (if s % 2 = 1 then 0xB400 else 0)

/-- The next value of a generator and its state after one value (R368, R369). -/
def Gen.next (g : Gen) (key : Word) (layer : BitVec 16) : Nat × Gen :=
  let bump : Gen := { g with pos := g.pos + 1 }
  if g.kind = 0 then ((kch key (layer ++ g.seed ++ g.pos)).toNat / 65536, bump)
  else if g.kind = 1 then (bitrev16 ((g.seed.toNat + g.pos.toNat) % 65536), bump)
  else if g.kind = 2 then ((g.seed.toNat + g.pos.toNat * g.step.toNat) % 65536, bump)
  else (g.pos.toNat % 65536, { g with pos := BitVec.ofNat 32 (lfsrStep (g.pos.toNat % 65536)) })

/-- A stream of n bits from bit t on, at threshold num / den: its bits as a number, and the generator after it (R369, R370). -/
def Gen.draw (key : Word) (layer : BitVec 16) (num den : Nat) : Nat → Nat → Gen → Nat × Gen
  | 0, _, g => (0, g)
  | n + 1, t, g =>
    let (x, g) := g.next key layer
    let (v, g) := Gen.draw key layer num den n (t + 1) g
    (b2n (x * den < num) * 2 ^ t + v, g)

/-- Streams of given LEN and thresholds drawn in order. -/
def Gen.drawAll (key : Word) (layer : BitVec 16) (mask : BitVec 16) : List (BitVec 2 × Nat × Nat) → Gen → List StreamReg × Gen
  | [], g => ([], g)
  | (len, num, den) :: t, g =>
    let (v, g) := Gen.draw key layer num den (lenBits len) 0 g
    let (l, g) := Gen.drawAll key layer mask t g
    (mkStream len mask v :: l, g)

/-- The threshold of a count (R370). -/
def countTheta (len : BitVec 2) (n : Nat) : Nat × Nat := (min n (lenBits len) * 65536, lenBits len)

/-- The threshold of an FP32 value (R370, R388). -/
def valueTheta (bipolar : Bool) (x : Word32) : Nat × Nat :=
  match ofFp32 x with
  | .nan => (0, 1)
  | .inf neg => (if neg then 0 else 65536, 1)
  | .fin neg n d =>
    let v : Int := Val.signedNum neg n + (if bipolar then (d : Int) else 0)
    let den := if bipolar then 2 * d else d
    (min v.toNat den * 65536, den)

/-! ### The stochastic range (R378) -/

/-- The A-buffer offset of byte x of the stochastic range. -/
def State.ssOff (s : State) (c : CoreIx) (x : Nat) : Nat :=
  match s.coreLaunch? c with
  | some l => l.img.ssBase + (((x : Int) - l.img.ssBase) % (l.img.ssSize : Int)).toNat
  | none => x

def State.ssByte (s : State) (c : CoreIx) (x : Nat) : Byte := readByte (s.core c).abuf (s.aPhys c (s.ssOff c x))
def State.ssLE (s : State) (c : CoreIx) (x n : Nat) : Nat := leNat ((List.range n).map fun i => s.ssByte c (x + i))

/-- The first offset of a span whose read meets an uncorrectable error. -/
def State.ssHard (s : State) (c : CoreIx) (x n : Nat) : Option Nat :=
  if s.ecc.isEmpty then none else ((List.range n).find? fun i => s.hardError 1 c (s.aPhys c (s.ssOff c (x + i))) 1).map fun i => s.ssOff c (x + i)

/-! ### What a command will write (R381 to R391) -/

/-- An operand register number: six or four bits from bit lo, then m further, modulo the number of registers (R381). -/
def ssReg (v : Word) (lo m : Nat) : Fin 64 := Fin.ofNat 64 (bits v.toNat lo 6 + m)
def cntReg (n m : Nat) : Fin 16 := Fin.ofNat 16 (n + m)

/-- Streams of a command: K + 1, or 1 in the forms without K (R379). -/
def EngineCmd.streams (k : EngineCmd) : Nat :=
  match k.instr with
  | .b2s .. | .sld .. | .sst .. | .sgset .. => 1
  | _ => bits k.right.toNat 0 4 + 1

/-- Busy ticks and effect tick, counted from the start (R376). -/
def EngineCmd.ssTicks (k : EngineCmd) : Nat × Nat :=
  let n := k.streams
  match k.instr with
  | .sgen .. | .sregen .. | .b2s .. | .b2sv .. => (4 * n, 4 * n + 1)
  | .sgset .. => (1, 0)
  | .s2b .. | .sld .. => (1, 2)
  | .sst .. => (1, 1)
  | _ => (n, n + 1)

/-- A byte offset operand (R378). -/
def ssOperand (v : Word) : Nat := v.toNat / 16 * 16

/-- The streams of a logic form, from its sources (R382, R383). -/
def logicStream (i : Instr) (right : Word) (a b c : StreamReg) : StreamReg :=
  let mk (mask : BitVec 16) (v : Stream) : StreamReg := mkStream a.len mask v.toNat
  match i with
  | .sand .. => mk (a.mask ||| b.mask) (a.data &&& b.data)
  | .sor .. => mk (a.mask ||| b.mask) (a.data ||| b.data)
  | .sxor .. => mk (a.mask ||| b.mask) (a.data ^^^ b.data)
  | .sxnor .. => mk (a.mask ||| b.mask) (~~~(a.data ^^^ b.data))
  | .smux .. => mk (a.mask ||| b.mask ||| c.mask) ((c.data &&& b.data) ||| (~~~c.data &&& a.data))
  | .snot .. => mk a.mask (~~~a.data)
  | .srot .. =>
    let n := lenBits a.len
    let r := bits right.toNat 16 12 % n
    mkStream a.len a.mask (a.val / 2 ^ r + a.val % 2 ^ r * 2 ^ (n - r))
  | _ => mk a.mask a.data

/-- The value that `s2b` writes for a stream (R389). -/
def streamValue (bipolar : Bool) (r : StreamReg) : Word32 :=
  let n := r.count
  let l := lenBits r.len
  let v : Int := if bipolar then 2 * n - l else n
  toFp32 .rne 0 (.fin (v < 0) v.natAbs l)

/-- A command as it starts, with everything it will write in its effect tick (R376, R381). -/
def State.ssRun (s : State) (c : CoreIx) (k : EngineCmd) : SsRun :=
  let x := (s.ctx c).stoch
  let n := k.streams
  let ms := List.range n
  let (busy, effect) := k.ssTicks
  let run : SsRun := { cmd := k, elapsed := 0, busy, effect, streams := [], counts := [], gen := none, bytes := [], redo := none, rerun := false }
  let reg (lo m : Nat) : StreamReg := x.streams[ssReg k.left lo m]
  let dst (d : Fin 64) (m : Nat) : Fin 64 := Fin.ofNat 64 (d.val + m)
  let logic (d : Fin 64) : SsRun :=
    { run with streams := ms.map fun m => (dst d m, logicStream k.instr k.right (reg 0 m) (reg 8 m) (reg 16 m)) }
  let draw (g : Fin 16) (d : Fin 64) (l : List (BitVec 2 × Nat × Nat)) : SsRun :=
    let (regs, after) := Gen.drawAll k.key k.layer (BitVec.ofNat 16 (2 ^ g.val)) l x.gens[g]
    { run with streams := regs.zipIdx.map fun e => (dst d e.2, e.1), gen := some (g, after) }
  let theta (len : BitVec 2) (t : Nat × Nat) : BitVec 2 × Nat × Nat := (len, t.1, t.2)
  match k.instr with
  | .sand _ d | .sor _ d | .sxor _ d | .sxnor _ d | .smux _ d | .snot _ d | .smov _ d | .srot _ d => logic d
  | .sfill _ len d =>
    { run with streams := ms.map fun m => (dst d m, mkStream len 0 (if k.left.getLsbD 0 then 2 ^ 4096 - 1 else 0)) }
  | .scnt _ acc e =>
    { run with counts := ms.map fun m =>
        (cntReg e m, BitVec.ofNat 32 ((reg 0 m).count + (if acc then x.counts[cntReg e m].toNat else 0))) }
  | .sgen _ g fromCount len d =>
    draw g d (ms.map fun m => theta len (countTheta len
      (if fromCount then x.counts[cntReg (bits k.left.toNat 0 4) m].toNat else bits k.left.toNat 0 32)))
  | .sregen _ g d => draw g d (ms.map fun m => theta (reg 0 m).len (countTheta (reg 0 m).len (reg 0 m).count))
  | .b2s _ g bp len d => draw g d [theta len (valueTheta bp (k.left.setWidth 32))]
  | .b2sv _ g bp len d =>
    draw g d (ms.map fun m => theta len (valueTheta bp (BitVec.ofNat 32 (s.ssLE c (ssOperand k.left + 4 * m) 4))))
  | .s2b _ bp a =>
    { run with bytes := ms.flatMap fun m =>
        (leBytes 4 (streamValue bp x.streams[dst a m]).toNat).zipIdx.map fun e => (ssOperand k.left + 4 * m + e.2, e.1) }
  | .sld _ len d =>
    { run with streams := [(d, mkStream len (k.right.setWidth 16) (s.ssLE c (ssOperand k.left) (lenBits len / 8)))] }
  | .sst _ a =>
    let r := x.streams[a]
    { run with bytes := (leBytes (lenBits r.len / 8) r.val).zipIdx.map fun e => (ssOperand k.left + e.2, e.1) }
  | .sgset _ g =>
    let kind : BitVec 2 := k.left.setWidth 2
    let p16 := bits k.right.toNat 0 16
    let pos : BitVec 32 := if kind = 3 then BitVec.ofNat 32 (if p16 = 0 then 1 else p16) else k.right.setWidth 32
    { run with gen := some (g, ⟨kind, k.left.extractLsb' 16 16, k.left.extractLsb' 32 16, pos⟩) }
  | _ => run

/-- The writes of a command's effect tick (R376), and where a partial write meets an uncorrectable error the offset of the first such unit (R121, R392). -/
def State.ssEffect (s : State) (c : CoreIx) (r : SsRun) : State × Option Nat :=
  let units := groupUnits (fun x => s.aPhys c (s.ssOff c x)) r.bytes
  let phys (u : Nat × List Byte) : Nat := s.aPhys c (s.ssOff c u.1)
  match units.find? fun u => s.badWrite 1 c (phys u) u.2.length with
  | some u => (s, some (s.ssOff c u.1 / 16 * 16))
  | none =>
  let s := units.foldl (fun s u =>
    ((s.softWrite (s.placeCore r.cmd.owner.launch c 5) none 1 c (phys u) u.2.length).touch c (phys u)).chipWrite (1, c.val, phys u) u.2 (some (c, 5, false))) s
  let s := r.streams.foldl (fun s e => s.clearErrors 8 c (e.1.val * 512) 512) s
  (s.updStoch c fun x =>
    { x with streams := r.streams.foldl (fun v e => v.set e.1 e.2) x.streams
             counts := r.counts.foldl (fun v e => v.set e.1 e.2) x.counts
             cntNew := r.counts.foldl (fun v e => setBit v e.1) x.cntNew
             gens := match r.gen with | some e => x.gens.set e.1 e.2 | none => x.gens }, none)

/-- At a cut the commands whose effect tick has come stand (R393, R394). -/
def State.settleStoch (s : State) (c : CoreIx) (p : Owner → Bool) : State :=
  let x := (s.ctx c).stoch
  let due (r : SsRun) : Bool := p r.cmd.owner && decide (r.effect ≤ r.elapsed) && (r.rerun || s.opRuns c r.cmd.owner)
  let now := (x.logic ++ x.gen ++ x.xfer).filter due
  if now.isEmpty then s else
  (now.foldl (fun s r => (s.ssEffect c r).1) s).updStoch c fun x =>
    { x with logic := x.logic.filter fun r => !due r, gen := x.gen.filter fun r => !due r, xfer := x.xfer.filter fun r => !due r }

end Sys2Proof.Machine
end

