-- ==== Sys2Proof/Machine/Tensor.lean ====
section
/-! DEFINITION. What matrix commands compute and move (R330, R331, R339 to R356): tiles, beats, k-steps, chains, scales and fast weights. -/

namespace Sys2Proof.Machine

/-! ### Shapes and elements (R329 to R331) -/

/-- A shape: format code, rows, columns, STAT. -/
structure Shape where
  fmt : Option Fmt
  rows : Nat
  cols : Nat
  stat : Bool
deriving DecidableEq, Repr

def shapeOf (v : BitVec 19) : Shape := ⟨Fmt.ofCode (v.extractLsb' 0 4), bits v.toNat 4 7, bits v.toNat 11 7, v.getLsbD 18⟩
/-- The shape of a tile as captured at issue (R330). -/
def EngineCmd.shape (k : EngineCmd) (t : Nat) : Shape := shapeOf (k.shapes.getD t 0)
/-- Element size. -/
def Shape.w (h : Shape) : Nat := match h.fmt with | some f => fmtBytes f | none => 1
/-- R330. -/
def Shape.valid (h : Shape) : Bool :=
  h.fmt.isSome && decide (1 ≤ h.rows) && decide (h.rows ≤ 64) && decide (1 ≤ h.cols) && decide (h.cols ≤ 64) && decide (h.rows * h.cols * h.w ≤ 4096)
/-- Element bytes of a tile. -/
def Shape.bytes (h : Shape) : Nat := h.rows * h.cols * h.w

/-- The bits of element (r, c) of tile t. -/
def tileElem (m : Memory) (t : Nat) (h : Shape) (r c : Nat) : Nat := readLE m (t * 4096 + (r * h.cols + c) * h.w) h.w
/-- Element (i, j) of an accumulator tile (R90). -/
def accElem (m : Memory) (p : Fin 32) (i j : Nat) : Nat := readLE m (p.val * 16384 + 4 * (64 * i + j)) 4

/-- Elements of an accumulator tile replaced. -/
def putAcc (m : Memory) (p : Fin 32) (l : List ((Nat × Nat) × Word32)) : Memory :=
  l.foldl (fun m e => writeLE m (p.val * 16384 + 4 * (64 * e.1.1 + e.1.2)) 4 e.2.toNat) m

/-- A whole accumulator tile +0. -/
def zeroAcc (m : Memory) (p : Fin 32) : Memory := sparseClear m (p.val * 16384) 16384

/-- Positions (i, j) below bounds, row by row. -/
def grid (a b : Nat) : List (Nat × Nat) := (List.range a).flatMap fun i => (List.range b).map fun j => (i, j)

/-! ### Matrix ranges (R336) -/

/-- Where byte x of a range lies: the physical place. -/
def State.rangeByte (s : State) (c : CoreIx) (n x : Nat) : Fin 10 × Nat × Nat :=
  match (s.coreLaunch? c).bind fun l => l.img.mranges.find? (·.num == n) with
  | some r =>
    let a := r.base + (((x : Int) - r.base) % (r.size : Int)).toNat
    if r.wbuf then (2, c.val, s.wPhys c a) else (1, c.val, s.aPhys c a)
  | none => (1, c.val, s.aPhys c x)

/-- Whether a read of range bytes meets an uncorrectable error. -/
def State.rangeHard (s : State) (c : CoreIx) (n : Nat) (xs : List Nat) : Bool :=
  !s.ecc.isEmpty && xs.any fun x => let p := s.rangeByte c n x; s.hardError p.1 p.2.1 p.2.2 1

/-- Correctable errors of such a read. -/
def State.rangeSoft (s : State) (c : CoreIx) (l : LaunchNo) (n : Nat) (xs : List Nat) : State :=
  if s.ecc.isEmpty then s else xs.foldl (fun s x => let p := s.rangeByte c n x; s.softRead (s.placeCore l c 4) none p.1 p.2.1 p.2.2 1) s

/-- Bytes written through a range, in 16-byte units. -/
def State.rangeWrite (s : State) (c : CoreIx) (n : Nat) (l : List (Nat × Byte)) : State × Bool :=
  (groupUnits (fun x => (s.rangeByte c n x).2.2) l).foldl (fun a u =>
    let p := a.1.rangeByte c n u.1
    if !a.2 || a.1.badWrite p.1 p.2.1 p.2.2 u.2.length then (a.1, false)
    else
      let t := a.1.softWrite (a.1.placeCore (a.1.core c).launch c 4) none p.1 p.2.1 p.2.2 u.2.length
      ((if p.1 = 1 then t.touch c p.2.2 else t).chipWrite p u.2 (some (c, 4, false)), true)) (s, true)

/-- Whether a read of spans (memory, first byte, length) of a core's registers meets an uncorrectable error (R358). -/
def State.spansHard (s : State) (c : CoreIx) (l : List (Fin 10 × Nat × Nat)) : Bool :=
  !s.ecc.isEmpty && l.any fun e => s.hardError e.1 c e.2.1 e.2.2

/-- Correctable errors of such a read (R121). -/
def State.spansSoft (s : State) (c : CoreIx) (l : LaunchNo) (spans : List (Fin 10 × Nat × Nat)) : State :=
  if s.ecc.isEmpty then s else spans.foldl (fun s e => s.softRead (s.placeCore l c 4) none e.1 c e.2.1 e.2.2) s

/-! ### Chains (R163, R164, R341, R342) -/

/-- The open chain of a physical tile. -/
def MatrixState.chain? (m : MatrixState) (p : Fin 32) : Option Chain := m.chains.toList.findSome? fun k => match k with
  | some k => if k.tile = p then some k else none
  | none => none

/-- A chain replaced in its slot. -/
def MatrixState.putChain (m : MatrixState) (p : Fin 32) (k : Option Chain) : MatrixState :=
  { m with chains := m.chains.map fun o => match o with | some x => if x.tile = p then k else o | none => o }

/-- The open chain of a tile has the format of its first product (R341, R342). -/
def MatrixState.formChain (m : MatrixState) (p : Fin 32) (f : MmaFmt) : MatrixState :=
  match m.chain? p with
  | some k => m.putChain p (some { k with fmt := some (k.fmt.getD f) })
  | none => m

/-- A chain opened in the first free slot. -/
def MatrixState.openChain (m : MatrixState) (k : Chain) : MatrixState :=
  if m.chains[0].isNone then { m with chains := m.chains.set 0 (some k) } else { m with chains := m.chains.set 1 (some k) }

def mmaFmt : MmaFmt → Fmt
  | .i8 => .int8
  | .u8 => .uint8
  | .bf16 => .bf16
  | .e4m3 => .e4m3
  | .e5m2 => .e5m2
  | .d8 => .d8

/-- Ticks per k-step (R334). -/
def mmaTicks : MmaFmt → Nat
  | .bf16 => 32
  | _ => 16

/-- An exact E4M3 product in units of 2^-18; none for a NaN (R164). -/
def e4m3Units (a b : Nat) : Option Int :=
  match Val.mul (fmtDecode .e4m3 a) (fmtDecode .e4m3 b) with
  | .fin neg n d => some (Val.signedNum neg (n * 2 ^ 18 / d))
  | _ => none

/-- One product added to an element that is written at the k-step's end (R163, R341). -/
def chainAdd (fmt : MmaFmt) (rnd : Round) (acc : Word32) (a b : Nat) : Word32 :=
  let f := mmaFmt fmt
  match fmt with
  | .i8 => acc + BitVec.ofInt 32 (signedOf 8 a * signedOf 8 b)
  | .u8 => acc + BitVec.ofNat 32 (a * b)
  | .d8 =>
    let p := ofFp32 (toFp32 .rne 0 (Val.mul (fmtDecode f a) (fmtDecode f b)))
    toFp32 rnd 0 (Val.add (rnd == .rdn) (ofFp32 acc) p)
  | _ => toFp32 rnd 0 (Val.add (rnd == .rdn) (ofFp32 acc) (Val.mul (fmtDecode f a) (fmtDecode f b)))

/-- chainend (R341): an E4M3 chain writes each element that received a product. -/
def chainEnd (m : Memory) (k : Chain) : Memory :=
  match k.fmt with
  | some .e4m3 =>
    putAcc m k.tile (k.sums.filterMap fun e => e.2.map fun sum =>
      let i := e.1 / 64
      let j := e.1 % 64
      let c := ofFp32 (BitVec.ofNat 32 (accElem m k.tile i j))
      let v : Val := match sum with | some u => Val.ofScaled (u < 0) u.natAbs (-18) | none => .nan
      ((i, j), toFp32 k.rnd 0 (Val.add (k.rnd == .rdn) c v)))
  | _ => m

/-! ### Products (R341) -/

/-- Parameters of a product: format, A tile, K-step start, first step past the end, N, and where B comes from. -/
structure Product where
  fmt : MmaFmt
  a : Nat
  d : Nat
  ks0 : Nat
  last : Nat
  n : Nat
  tileB : Option Nat
  range : Nat
  base : Nat
  pitch : Nat
deriving DecidableEq, Repr

/-- The product that a command names (R341). -/
def EngineCmd.product (k : EngineCmd) : Option Product :=
  let mk (fmt : MmaFmt) (d : Fin 32) (a : Fin 16) (ks0 kn n : Nat) (tb : Option Nat) (range base pitch : Nat) : Product :=
    let kc := ((k.shape a).cols + 31) / 32
    ⟨fmt, a, d, ks0, if kn = 0 then kc else min kc (ks0 + kn), n, tb, range, base, pitch⟩
  match k.instr with
  | .mma _ fmt d a =>
    let tb := bits k.right.toNat 0 4
    some (mk fmt d a (bits k.left.toNat 0 6) (bits k.left.toNat 8 6) (k.shape tb).cols (some tb) 0 0 0)
  | .mmaw _ fmt d a n =>
    some (mk fmt d a (bits k.right.toNat 8 6) (bits k.right.toNat 16 6) (bits k.right.toNat 0 7) none n (bits k.left.toNat 4 20 * 16) (bits k.right.toNat 28 20 * 16))
  | _ => none

/-- The element of B at (r, j): of a tile, or of the rows read from the W-buffer so far. -/
def bElem (x : CoreCtx) (k : EngineCmd) (p : Product) (buf : List (Nat × Byte)) (r j : Nat) : Nat :=
  match p.tileB with
  | some t => tileElem x.tiles t (k.shape t) r j
  | none =>
    let w := fmtBytes (mmaFmt p.fmt)
    leNat ((List.range w).map fun b => sparseGet 0 buf (r * 128 + j * w + b))

/-- Row r of B in the stream form, read in this tick (R341). -/
def State.readRow (s : State) (c : CoreIx) (p : Product) (r : Nat) : List (Nat × Byte) :=
  (List.range (p.n * fmtBytes (mmaFmt p.fmt))).map fun b => (r * 128 + b, s.chipRead (s.rangeByte c p.range (p.base + r * p.pitch + b)))

/-- The rows of B that tick e of a command reads (R341). -/
def streamRows (k : EngineCmd) (p : Product) (e : Nat) : List Nat :=
  let kk := (k.shape p.a).cols
  let t := mmaTicks p.fmt
  if p.tileB.isSome || e < 4 then [] else
  let m := (e - 4) / t
  let q := (e - 4) % t
  let s := p.ks0 + m
  if p.last ≤ s then [] else
  (if t = 16 then [32 * s + 2 * q, 32 * s + 2 * q + 1] else [32 * s + q]).filter (· < kk)

/-- One k-step of an E4M3 chain: exact sums (R164). -/
def stepSums (x : CoreCtx) (k : EngineCmd) (p : Product) (buf : List (Nat × Byte)) (st : Nat) (ch : Chain) : Chain :=
  let sa := k.shape p.a
  let ks := (List.range 32).filterMap fun q => if 32 * st + q < sa.cols then some (32 * st + q) else none
  { ch with sums := (grid sa.rows p.n).foldl (fun m ij =>
      let key := ij.1 * 64 + ij.2
      let sum := ks.foldl (fun (acc : Option Int) r =>
        match acc, e4m3Units (tileElem x.tiles p.a sa ij.1 r) (bElem x k p buf r ij.2) with
        | some u, some v => some (u + v)
        | _, _ => none) (some 0)
      let old := (sparseGet none m key).getD (some 0)
      if ks.isEmpty then m else sparsePut none m key (some (match old, sum with | some u, some v => some (u + v) | _, _ => none))) ch.sums }

/-- One k-step of any other chain: the elements it writes (R341). -/
def stepElems (x : CoreCtx) (cbuf : Memory) (k : EngineCmd) (p : Product) (buf : List (Nat × Byte)) (st : Nat) (rnd : Round) (tile : Fin 32) : Memory :=
  let sa := k.shape p.a
  let ks := (List.range 32).filterMap fun q => if 32 * st + q < sa.cols then some (32 * st + q) else none
  putAcc cbuf tile ((grid sa.rows p.n).map fun ij =>
    (ij, ks.foldl (fun acc r => chainAdd p.fmt rnd acc (tileElem x.tiles p.a sa ij.1 r) (bElem x k p buf r ij.2))
      (BitVec.ofNat 32 (accElem cbuf tile ij.1 ij.2))))

/-- The k-step that a product command has under way takes effect (R341). -/
def State.productStep (s : State) (c : CoreIx) (r : MxRun) (p : Product) : State :=
  let x := s.ctx c
  let tile := s.tilePhys c p.d
  let st := p.ks0 + r.done
  let ch : Chain := match x.matrix.chain? tile with | some k => k | none => r.chain.getD ⟨tile, .rne, some p.fmt, []⟩
  let ch := { ch with fmt := some p.fmt }
  let s := s.updMatrix c fun m => { m with progDone := BitVec.ofNat 8 (st + 1) }
  let (s, ch) := match p.fmt with
    | .e4m3 => (s, stepSums x r.cmd p r.buf st ch)
    | _ => (s.updCore c fun k => { k with cbuf := stepElems x k.cbuf r.cmd p r.buf st ch.rnd tile }, ch)
  s.updMatrix c fun m =>
    if (m.chain? tile).isSome then { m.putChain tile (some ch) with compute := some { r with done := r.done + 1 } }
    else { m with compute := some { r with done := r.done + 1, chain := some ch } }

/-! ### Fast weights (R351 to R354) -/

def fp (b : Nat) : Val := ofFp32 (BitVec.ofNat 32 b)
def rne (v : Val) : Word32 := toFp32 .rne 0 v

/-- A row of 64 FP32 elements of tile t. -/
def tileRow (m : Memory) (t r : Nat) : List Val := (List.range 64).map fun j => fp (readLE m (t * 4096 + (r * 64 + j) * 4) 4)

/-- The fused chain of R352 and R353 over row i of S. -/
def fusedRow (cbuf : Memory) (tile : Fin 32) (i : Nat) (k : List Val) : Word32 :=
  (k.zipIdx).foldl (fun u e => rne (Val.add false (ofFp32 u) (Val.mul (fp (accElem cbuf tile i e.2)) e.1))) 0

/-- `mgdlt` on row r (R352): the new contents of S. -/
def deltaStep (x : CoreCtx) (cbuf : Memory) (tile : Fin 32) (quad r : Nat) (alpha beta : Val) : Memory :=
  let k := tileRow x.tiles (4 * quad) r
  let v := tileRow x.tiles (4 * quad + 1) r
  let g := (List.range 64).map fun i =>
    let u := ofFp32 (fusedRow cbuf tile i k)
    let e := ofFp32 (rne (Val.add false (v.getD i .nan) (Val.mul alpha u).negate))
    ofFp32 (rne (Val.mul beta e))
  putAcc cbuf tile ((grid 64 64).map fun ij =>
    (ij, rne (Val.add false (Val.mul alpha (fp (accElem cbuf tile ij.1 ij.2))) (Val.mul (g.getD ij.1 .nan) (k.getD ij.2 .nan)))))

/-- `mfwrd` of row r (R353): the result row into t(4Q+3). -/
def queryStep (x : CoreCtx) (cbuf : Memory) (tile : Fin 32) (quad r : Nat) : CoreCtx :=
  let q := tileRow x.tiles (4 * quad + 2) r
  { x with tiles := (List.range 64).foldl (fun m i => writeLE m ((4 * quad + 3) * 4096 + (r * 64 + i) * 4) 4 (fusedRow cbuf tile i q).toNat) x.tiles }

def MatrixState.updOwner (m : MatrixState) (p : Fin 32) (f : Ownership → Ownership) : MatrixState := { m with owners := m.owners.set p (f m.owners[p]) }

/-- One token of `mfwchunk` takes effect (R353); PROG is 0 again with the last one, that of a cut command too (R348, R359). -/
def State.tokenStep (s : State) (c : CoreIx) (r : MxRun) (tile : Fin 32) (quad : Nat) : State :=
  let x := s.ctx c
  let row := (bits r.cmd.right.toNat 0 4 + r.done) % 16
  let cbuf := deltaStep x (s.core c).cbuf tile quad row (fp (bits r.cmd.left.toNat 0 32)) (fp (bits r.cmd.left.toNat 32 32))
  let s := s.updCore c fun k => { k with cbuf := cbuf }
  let s := (s.clearErrors 7 c ((4 * quad + 3) * 4096 + row * 256) 256).updCtx c fun x => queryStep x cbuf tile quad row
  s.updMatrix c fun m =>
    { (m.updOwner tile fun o => { o with tokens := o.tokens + 1, prog := if r.done + 1 = r.total then 0 else BitVec.ofNat 5 (r.done + 1) }) with
      progDone := BitVec.ofNat 8 (r.done + 1), compute := some { r with done := r.done + 1 } }

/-- Tokens that an `mfwchunk` names. -/
def EngineCmd.tokens (k : EngineCmd) : Nat := bits k.right.toNat 4 5

/-- What the effect under way of a compute command reads of the tile registers and accumulators: the elements of its k-step, the rows of its token, or the operands of its last tick. -/
def State.mxReads (s : State) (c : CoreIx) (r : MxRun) : List (Fin 10 × Nat × Nat) :=
  let acc (n : Nat) : Nat := (s.tilePhys c n).val * 16384
  let row (t i : Nat) : Fin 10 × Nat × Nat := (7, t * 4096 + i % 16 * 256, 256)
  let k := r.cmd
  match k.product, k.instr with
  | some p, _ =>
    let a := k.shape p.a
    let lo := 32 * (p.ks0 + r.done)
    let len := min (lo + 32) a.cols - lo
    (List.range a.rows).map (fun i => ((7 : Fin 10), p.a * 4096 + (i * a.cols + lo) * a.w, len * a.w)) ++
    (match p.tileB with | some t => [(7, t * 4096 + lo * p.n * a.w, len * p.n * a.w)] | none => []) ++
    (match p.fmt with | .e4m3 => [] | _ => (List.range a.rows).map fun i => (3, acc p.d + 256 * i, 4 * p.n))
  | none, .mscacc _ d q _ _ =>
    let t := bits k.left.toNat 0 4
    [(3, acc d, 16384), (3, acc q, 16384)] ++
    [bits k.left.toNat 16 11, bits k.left.toNat 32 11].flatMap fun z => (List.range 64).map fun i => (7, t * 4096 + 2 * ((z + i) % 2048), 2)
  | none, .mgdlt _ n q => [(3, acc n, 16384), row (4 * q.val) (bits k.right.toNat 0 4), row (4 * q.val + 1) (bits k.right.toNat 0 4)]
  | none, .mfwrd _ n q => [(3, acc n, 16384), row (4 * q.val + 2) (bits k.left.toNat 0 4)]
  | none, .mfwchunk _ n q =>
    let i := bits k.right.toNat 0 4 + r.done
    [(3, acc n, 16384), row (4 * q.val) i, row (4 * q.val + 1) i, row (4 * q.val + 2) i]
  | none, _ => []

/-- The elements that a chain's end reads: those of an E4M3 chain that received a product (R341). -/
def Chain.reads (k : Chain) : List (Fin 10 × Nat × Nat) :=
  match k.fmt with
  | some .e4m3 => (k.sums.filter fun e => e.2.isSome).map fun e => (3, k.tile.val * 16384 + 4 * e.1, 4)
  | _ => []

/-- The k-step or token under way takes effect. -/
def State.stepEffect (s : State) (c : CoreIx) (r : MxRun) : State :=
  match r.cmd.product, r.cmd.instr with
  | some p, _ => s.productStep c r p
  | none, .mfwchunk _ n quad => s.tokenStep c r (s.tilePhys c n) quad
  | none, _ => s

/-! ### Load-unit beats (R334, R339, R340, R355, R356) -/

/-- The operands of a tile move: tile, range, base, stride, whether it stores. -/
def EngineCmd.move (k : EngineCmd) : Option (Nat × Nat × Nat × Nat × Bool) :=
  let b (w : Nat) (v : Word) : Nat := bits v.toNat 4 (w - 4) * 16
  match k.instr with
  | .mtld _ n r => some (n, r, b 22 k.left, b 22 k.right, false)
  | .mtldw _ n r => some (n, r, b 24 k.left, b 24 k.right, false)
  | .mtst _ n r => some (n, r, b 22 k.left, b 22 k.right, true)
  | _ => none

/-- Tile bytes of beat b with their range addresses; none beyond the elements. -/
def beatBytes (h : Shape) (base stride b : Nat) : List (Nat × Option Nat) :=
  (List.range 512).map fun i =>
    let t := 512 * b + i
    (t, if t < h.bytes then some (base + t / (h.cols * h.w) * stride + t % (h.cols * h.w)) else none)

/-- What stands at the places of range bytes that a load-unit command is about to write (R478). -/
def State.rangeOld (s : State) (c : CoreIx) (n : Nat) (xs : List Nat) : List (Fin 10 × Nat × Byte) :=
  xs.map fun x => let p := s.rangeByte c n x; (p.1, p.2.2, s.chipRead p)

/-- The load unit's command notes what its beat has written over. -/
def State.noteUndo (s : State) (c : CoreIx) (old : List (Fin 10 × Nat × Byte)) : State :=
  s.updMatrix c fun m => { m with load := m.load.map fun r => { r with undo := old ++ r.undo } }

/-- What a load-unit command has written is taken back, the latest first, and what of it a slot still holds back is dropped (R478). -/
def State.undoLoad (s : State) (c : CoreIx) : State :=
  match (s.ctx c).matrix.load with
  | none => s
  | some r =>
    let hit (h : HeldWrite) : Bool := h.owner == some (c, 4, false) && r.undo.any fun e => e.1 == 1 && decide (h.addr ≤ e.2.1) && decide (e.2.1 < h.addr + h.bytes.length)
    let s := if (s.core c).heldWrites.any hit then s.updCore c fun k => { k with heldWrites := k.heldWrites.filter fun h => !hit h } else s
    r.undo.foldl (fun s e =>
      if e.1 = 7 then s.updCtx c fun x => { x with tiles := writeByte x.tiles e.2.1 e.2.2 }
      else if e.1 = 2 then s.updCore c fun k => { k with wbuf := writeByte k.wbuf e.2.1 e.2.2 }
      else s.updCore c fun k => { k with abuf := writeByte k.abuf e.2.1 e.2.2 }) s

/-- Beat b of a tile move; false on an uncorrectable error. -/
def State.moveBeat (s : State) (c : CoreIx) (r : MxRun) (b : Nat) : State × Bool :=
  match r.cmd.move with
  | none => (s, true)
  | some (t, rg, base, stride, store) =>
    let h := r.cmd.shape t
    let l := beatBytes h base stride b
    let addrs := l.filterMap (·.2)
    if store then
      let span := [(7, t * 4096 + 512 * b, min 512 (h.bytes - 512 * b))]
      if 512 * b < h.bytes && s.spansHard c span then (s, false) else
      let s := if 512 * b < h.bytes then s.spansSoft c r.cmd.owner.launch span else s
      let old := s.rangeOld c rg addrs
      match s.rangeWrite c rg (l.filterMap fun e => e.2.map fun x => (x, readByte (s.ctx c).tiles (t * 4096 + e.1))) with
      | (s, ok) => (s.noteUndo c old, ok)
    else if s.rangeHard c rg addrs then (s, false)
    else
      let data := l.map fun e => (e.1, match e.2 with | some x => s.chipRead (s.rangeByte c rg x) | none => (0 : Byte))
      let s := s.rangeSoft c r.cmd.owner.launch rg addrs
      let s := addrs.foldl (fun s x => let p := s.rangeByte c rg x; if p.1 = 1 && p.2.2 % 16 = 0 then s.touch c p.2.2 else s) s
      if h.stat then (s.updMatrix c fun m => { m with load := some { r with buf := r.buf ++ data } }, true)
      else
        let old : List (Fin 10 × Nat × Byte) := (List.range 512).map fun i => (7, t * 4096 + 512 * b + i, readByte (s.ctx c).tiles (t * 4096 + 512 * b + i))
        (((s.clearErrors 7 c (t * 4096 + 512 * b) 512).updCtx c fun x => { x with tiles := writeBytes x.tiles (t * 4096 + 512 * b) (data.map (·.2)) }).noteUndo c old, true)

/-- Base and range of a spill or fill, and its tile. -/
def EngineCmd.spill (k : EngineCmd) : Option (Fin 32 × Nat × Nat × Bool) :=
  match k.instr with
  | .mspill _ n r => some (n, r, bits k.left.toNat 4 18 * 16, true)
  | .mfill _ n r => some (n, r, bits k.left.toNat 4 18 * 16, false)
  | _ => none

/-- The first 24 header bytes of a spill image (R355). -/
def spillHead (o : Ownership) : List Byte :=
  leBytes 8 (0x4D465753 + o.owner.toNat * 2 ^ 32 + o.fmt.toNat * 2 ^ 48) ++ leBytes 8 o.tokens.toNat ++ leBytes 8 0

/-- Payload beat b of a spill or fill (R334, R356). -/
def State.spillBeat (s : State) (c : CoreIx) (r : MxRun) (b : Nat) : State × Bool :=
  match r.cmd.spill with
  | none => (s, true)
  | some (n, rg, base, store) =>
    let p := s.tilePhys c n
    let keep (data : List (Nat × Byte)) (s : State) : State := s.updMatrix c fun m => { m with load := m.load.map fun r => { r with buf := r.buf ++ data } }
    if store then
      let span := [(3, p.val * 16384 + 512 * b, 512)]
      if s.spansHard c span then (s, false) else
      let s := s.spansSoft c r.cmd.owner.launch span
      let bytes := readBytes (s.core c).cbuf (p.val * 16384 + 512 * b) 512
      let old := s.rangeOld c rg ((List.range 512).map fun i => base + 64 + 512 * b + i)
      let (s, ok) := s.rangeWrite c rg (bytes.zipIdx.map fun e => (base + 64 + 512 * b + e.2, e.1))
      ((keep (bytes.zipIdx.map fun e => (512 * b + e.2, e.1)) s).noteUndo c old, ok)
    else
      let xs := (List.range 512).map fun i => base + 64 + 512 * b + i
      if s.rangeHard c rg xs then (s, false) else
      let data := xs.zipIdx.map fun e => (512 * b + e.2, s.chipRead (s.rangeByte c rg e.1))
      (keep data (s.rangeSoft c r.cmd.owner.launch rg xs), true)

/-- What the load unit does in its present tick; false on an uncorrectable error (R334). -/
def State.loadBeat (s : State) (c : CoreIx) (r : MxRun) : State × Bool :=
  if r.cmd.move.isSome then (if 4 ≤ r.elapsed && r.elapsed < 12 then s.moveBeat c r (r.elapsed - 4) else (s, true))
  else if 4 ≤ r.elapsed && r.elapsed < 36 then s.spillBeat c r (r.elapsed - 4) else (s, true)

/-- Whether a compute command has a k-step or token under way, and when it ends. -/
def MxRun.stepEnd (r : MxRun) : Option Nat :=
  match r.cmd.product, r.cmd.instr with
  | some p, _ => if r.done < r.total then some (3 + mmaTicks p.fmt * (r.done + 1)) else none
  | none, .mfwchunk .. => if r.done < r.total then some (148 * (r.done + 1) - 1) else none
  | none, _ => none
/-- The first tick of the next step to be done. -/
def MxRun.nextStep (r : MxRun) : Nat :=
  match r.cmd.product with
  | some p => 4 + mmaTicks p.fmt * r.done
  | none => 148 * r.done

/-- Whether a step is under way. -/
def MxRun.stepUnderWay (r : MxRun) : Bool := r.stepEnd.isSome && decide (r.nextStep ≤ r.elapsed)

/-- At a cancellation the step and the beat under way complete at once: nothing of the launch is left to observe their ticks (R359). -/
def State.settleMatrix (s : State) (c : CoreIx) (p : Owner → Bool) : State :=
  let m := (s.ctx c).matrix
  let s := match m.compute with
    | some r => if p r.cmd.owner && r.stepUnderWay && !s.spansHard c (s.mxReads c r) then s.stepEffect c r else s
    | none => s
  match m.load with
  | some r => if p r.cmd.owner && !(r.cmd.shape (match r.cmd.move with | some v => v.1 | none => 0)).stat && r.cmd.move.isSome then (s.loadBeat c r).1 else s
  | none => s

end Sys2Proof.Machine
end

