-- ==== Sys2Proof/Machine/Ops.lean ====
section
/-! DEFINITION. The shared operations of the machine: cutting engine operations, the end of a launch and of a fault domain (R26, R30), starting blocks and activations (R57, R199), and TAKING A TRAP (R211). -/

namespace Sys2Proof.Machine

/-! ### Cutting engine operations (R67, R278, R324, R359, R393) -/

/-- A channel's copies of some owners are discarded; a copy in progress stops with no completion word (R278). -/
def CopyChan.cut (p : Owner → Bool) (x : CopyChan) : CopyChan :=
  match x.queue with
  | [] => x
  | h :: t => if p h.owner then { x with queue := t.filter fun k => !p k.owner, run := none, walk := none }
              else { x with queue := h :: t.filter fun k => !p k.owner }

/-- The same at the cut of an activation, after which the tick goes on: the copy in progress stays until the tick is over, since one that is complete in it stands
(R279). -/
def CopyChan.doom (p : Owner → Bool) (x : CopyChan) : CopyChan :=
  match x.queue, x.run with
  | h :: t, some r => if p h.owner then { x with queue := h :: t.filter fun k => !p k.owner, run := some { r with dying := true }, walk := none } else x.cut p
  | _, _ => x.cut p

/-- The copies that a channel still has to perform. -/
def CopyChan.live (x : CopyChan) : List EngineCmd := if (match x.run with | some r => r.dying | none => false) then x.queue.drop 1 else x.queue

/-- A region's commands of some owners (R88, R324): a load or a table read in progress is discarded; a round stops at the end of the tick. -/
def RegionState.cut (p : Owner → Bool) (x : RegionState) : RegionState :=
  let x := { x with queue := x.queue.filter fun k => !p k.owner }
  let x := match x.port with
    | some j => if p j.owner then { x with port := none, loading := none } else x
    | none => x
  match x.round with
  | some r => if p r.cmd.owner then { x with round := some { r with cut := true } } else x
  | none => x

/-- PROG of every tile where no `mfwchunk` is in progress (R348). -/
def MatrixState.clearProg (m : MatrixState) : MatrixState := { m with owners := m.owners.map fun o => { o with prog := 0 } }

/-- The matrix engine's commands of some owners (R359). -/
def MatrixState.cut (p : Owner → Bool) (x : MatrixState) : MatrixState :=
  let x := { x with queue := x.queue.filter fun k => !p k.owner }
  let x := match x.compute with
    | some r =>
      if !p r.cmd.owner then x
      else if r.stepEnd.isSome && !r.stepUnderWay then { x with compute := none, progCut := true, progActive := false }.clearProg
      else { x with compute := some { r with total := min r.total (r.done + 1), failed := true }, progCut := true }
    | none => x
  { x with load := x.load.map fun r => if p r.cmd.owner then { r with failed := true } else r
           read := x.read.filter fun r => !p r.cmd.owner }

/-- The stochastic engine's commands of some owners (R393). -/
def StochState.cut (p : Owner → Bool) (x : StochState) : StochState :=
  let keep (r : SsRun) : Bool := !p r.cmd.owner
  { x with queue := x.queue.filter fun k => !p k.owner, logic := x.logic.filter keep, gen := x.gen.filter keep, xfer := x.xfer.filter keep }

/-- Every engine operation of some owners is cut. -/
def CoreCtx.cut (p : Owner → Bool) (x : CoreCtx) : CoreCtx :=
  { x with chans := x.chans.map (CopyChan.cut p), regions := x.regions.map (RegionState.cut p),
           matrix := x.matrix.cut p, stoch := x.stoch.cut p }

/-- The same, where the tick goes on for the core. -/
def CoreCtx.doom (p : Owner → Bool) (x : CoreCtx) : CoreCtx :=
  { x with chans := x.chans.map (CopyChan.doom p), regions := x.regions.map (RegionState.cut p),
           matrix := x.matrix.cut p, stoch := x.stoch.cut p }

/-- Whether an engine still holds an operation of such owners. -/
def CoreCtx.busyFor (p : Owner → Bool) (x : CoreCtx) : Bool :=
  x.chans.toList.any (fun k => k.live.any fun e => p e.owner) ||
  x.regions.toList.any (fun r => r.queue.any (fun e => p e.owner) || (match r.port with | some j => p j.owner | none => false) ||
    (match r.round with | some k => p k.cmd.owner | none => false)) ||
  x.matrix.queue.any (fun e => p e.owner) ||
  [x.matrix.load, x.matrix.compute, x.matrix.read].any (fun r => match r with | some k => p k.cmd.owner | none => false) ||
  x.stoch.queue.any (fun e => p e.owner) ||
  (x.stoch.logic ++ x.stoch.gen ++ x.stoch.xfer).any (fun k => p k.cmd.owner)

/-! ### The end of a launch (R26, R30, R357, R417) -/

/-- The atomic slots of a region that have begun, as slots of the A-buffer on their own (R324); `past`: the fabric has had its part of the present tick. -/
def RegionState.slots (g : RegionState) (r : SeqIx) (past : Bool) : List AmoSlot :=
  (g.flights.filter fun f => f.what == 2).map fun f => ⟨if past then f.left else f.left - 1, r, false, f.dst, leBytes 64 f.value.toNat⟩

/-- A core given up by a launch: nothing of it runs on but the atomic slots that have begun (R324), its ownership entries are cleared, its chains dropped (R357). -/
def CoreState.release (k : CoreState) (n : LaunchNo) (killed past : Bool) : CoreState :=
  let x := k.ctx.cut (fun o => o.launch == n)
  let x := { x with
    amos := x.amos ++ (List.finRange 4).flatMap fun r => x.regions[r].slots ⟨r.val, by omega⟩ past
    regions := x.regions.map fun g => { g with flights := g.flights.filter fun f => f.what != 2 }
    seqs := x.seqs.map fun q =>
      { q with killed := q.killed || (killed && q.act.isSome), act := none, run := none, succ := none, succLoop := false, loops := [], rels := [], stepping := false, held := none }
    matrix := { x.matrix with owners := Vector.replicate 32 .clear, chains := Vector.replicate 2 none, load := none, compute := none, read := none } }
  { k with launch := 0, ctx := x, swap := none, arrivals := k.arrivals.filter fun a => a.launch != n }

/-- The stream that issued a launch learns that it has ended. -/
def Stream'.ended (e : Stream') (serial : Nat) (num : LaunchNo) (cancelled : Bool) (tag : BitVec 32) : Stream' :=
  if !e.issued.contains (serial, num) then e else
  { e with issued := e.issued.filter fun p => p != (serial, num),
           cancelled := if cancelled then e.cancelled ++ [serial] else e.cancelled,
           failTag := if cancelled && e.cancelled.isEmpty && !e.failed then tag else e.failTag,
           pending := e.pending.map fun p =>
             if cancelled && decide (p.fromSerial ≤ serial) && decide (serial < p.afterSerial) then { p with error := true } else p }

/-- The binding of every graph bound to a launch is removed as if by UNBIND (R426): its pending generated launches complete as cancelled. -/
def State.unbindAll (s : State) (n : LaunchNo) : State :=
  (List.finRange 64).foldl (fun s g =>
    match s.fe.graphs[g].bind (·.binding) with
    | some (_, b) =>
      if b = n then
        let pend := s.launches.filter fun l => l.source == Source.graph g && l.cls.isSome && l.window.isNone
        let s := { s with launches := s.launches.filter fun l => !(l.source == Source.graph g && l.cls.isSome && l.window.isNone) }
        pend.foldl (fun s l => s.updExec (.graph g) fun e => e.ended l.serial l.num true l.tag) (s.updGraph g fun x => { x with binding := none })
      else s
    | none => s) s

/-- Cores that were marked while a launch held them are defective once no launch does (R39). -/
def Health.settleMarks (h : Health) (idle : CoreIx → Bool) : Health :=
  if h.marked = 0 then h else
  let now : BitVec 64 := BitVec.ofNat 64 ((allCores.filter fun c => h.marked.getLsbD c.val && idle c).map fun c => 2 ^ c.val).sum
  { h with marked := h.marked &&& ~~~now, defective := h.defective ||| now }

/-- The degradation state over a reset, which ends every launch (R38, R39). -/
def Health.afterReset (h : Health) : Health := { h with defective := h.defective ||| h.marked, marked := 0 }

/-! ### Tokens (R77, R79, R399) -/

/-- Tokens return to their queue's pool, saturating. -/
def State.returnTokens (s : State) (src : Source) (n : Nat) : State :=
  match src with
  | .queue q => if n = 0 then s else s.updQueue q fun x => { x with tokens := BitVec.ofNat 8 (min 255 ((x.tokWas.getD x.tokens).toNat + n)), tokWas := none }
  | .graph _ => s

/-- The tokens of a subtree as its launches hold them. -/
def State.setTokens (s : State) (group : LaunchNo) (n : Nat) : State :=
  { s with launches := s.launches.map fun l => if l.group = group then { l with tokens := n } else l }

/-- Once no victim of a subtree is still to be pre-empted, what is left of its tokens goes back (R399). -/
def State.settleTokens (s : State) (group : LaunchNo) : State :=
  let inGroup (n : LaunchNo) : Bool := s.launches.any fun k => k.num == n && k.group == group
  if s.launches.any fun l => match l.chosen with | some c => inGroup c.newcomer | none => false then s else
  match s.launches.find? fun l => l.group == group with
  | some l => (s.returnTokens l.source l.tokens).setTokens group 0
  | none => s

/-- What the end of a launch does to tokens (R399): a victim that ends before its pre-emption tick spends none, and the last launch of a subtree that never started
returns them. -/
def State.freeTokens (s : State) (l : Launch) : State :=
  let s := if s.launches.any fun k => k.group == l.group then s else s.returnTokens l.source l.tokens
  match l.chosen.bind fun c => s.launch? c.newcomer with
  | some k => s.settleTokens k.group
  | none => s

/-- The engine operations of some owners are cut on a core while its tick goes on (R67). -/
def State.cutOps (s : State) (c : CoreIx) (p : Owner → Bool) : State := (s.settleStoch c p).updCtx c (CoreCtx.doom p)

/-- Whether the engines have had their part of the present tick. -/
def State.enginesDone (s : State) : Bool :=
  match s.phase with
  | .engineEnds | .commits | .joins | .waits | .trace => true
  | _ => false

/-- One launch ends: at retirement (R30), or abandoned as if its activations had been killed (R26). Either end calls for another placement try, in the next tick's
freezes phase: R34 names retirements only and no phase (DESIGN CHOICE, log entry 4). -/
def State.endOne (s : State) (n : LaunchNo) (cancelled : Bool) : State :=
  match s.launch? n with
  | none => s
  | some l =>
    let own : Owner → Bool := fun o => o.launch == n
    let running := l.cores.any fun c => allSeqs.any fun q => (s.seq c q).act.map Activation.launch == some n
    let past := s.enginesDone
    let s := if l.cls.isSome then
        -- a generated launch runs on one sequencer of its host launch, which goes on (R60, R421)
        match l.window with
        | some w =>
          let s := if cancelled || running then s.cutOps w.core own else s
          s.updSeq w.core w.seq fun q =>
            if q.act.map Activation.launch = some n then { q with act := none, run := none, succ := none, held := none, loops := [], killed := q.killed || cancelled } else q
        | none => s
      else
        let s := l.cores.foldl (fun s c => ((s.settleCopies c own).settleMatrix c own).settleStoch c own) s
        { s with cores := vecMap s.cores fun _ k =>
          let k := if k.launch = n then k.release n cancelled past else k
          if k.attic.map Attic.launch = some n then { k with attic := none, mailHead := 0, mailLen := 0, mailboxFull := false } else k }
    let s := { s with launches := s.launches.filter fun x => x.num != n,
                      host := if cancelled then { s.host with cancel := true, smonNew := setBit s.host.smonNew 1 } else s.host,
                      health := s.health.settleMarks fun c => (s.core c).launch == 0 && (s.core c).attic.isNone,
                      fe := { s.fe with tryPlace := true, hasherBusy := s.fe.hasherBusy.map fun h => if h = some n then none else h,
                                        slotsHeld := s.fe.slotsHeld.filter (fun h => h.2 != n), linkSlots := s.fe.linkSlots.filter fun h => h.2 != n } }
    let s := s.freeTokens l
    let s := s.updExec l.source fun e => e.ended l.serial l.num cancelled l.tag
    let s := s.unbindAll n
    match l.source, cancelled with
    | .queue q, true =>
      if s.fe.queues[q].frozen then s else s.freezeQueue q 5 (s.fe.queues[q].exec.at') l.tag true
    | _, _ => s

/-- A launch ends, and with it the generated launches that run in its windows (R60, R426). -/
def State.endLaunch (s : State) (n : LaunchNo) (cancelled : Bool) : State :=
  let inside := s.launches.filter fun l => l.window.map WindowBind.host = some n
  (inside.foldl (fun s l => s.endOne l.num true) s).endOne n cancelled

/-- Whether a record is the FAULT record of a trap that cancels in this tick, of a sequencer by its place word (R68, R211). -/
def Rec.cancels (r : Rec) (tick : Nat) (place : Option Word) : Bool :=
  r.tick == tick && r.typ.toNat == 0x08 && r.place == place &&
  (match r.payload.head? with | some w => bit w.toNat 44 && bits w.toNat 0 4 == 0 && decide (bits w.toNat 4 8 < 0x40) | none => false)

/-- The records of this tick that a cancellation of their launch voids (R89): all but those of its faults and memory errors, its launch, and the health of the module;
the OVERRUN and FALLBACK records of the very sequencer whose overrun or fallback brings the cancellation stand (R67, R69). -/
def Rec.voided (r : Rec) (tick : Nat) (n : LaunchNo) (all : List Rec) : Bool :=
  r.tick == tick && [0x04, 0x05, 0x07, 0x0D, 0x0E, 0x0F].contains r.typ.toNat && (match r.place with | some w => w.setWidth 16 == n | none => false) &&
  !((r.typ.toNat == 0x04 || r.typ.toNat == 0x05) && all.any fun f => f.cancels tick r.place)

/-- Cancellation of a fault domain (R26): every launch in it and no other; what else met such a launch in this tick leaves no record (R89). -/
def State.cancelDomain (s : State) (d : BitVec 16) : State :=
  (s.launches.filter fun l => l.fdom == d && (l.stage != .placed)).foldl (fun s l =>
    let buffer := s.tr.buffer
    let s := if buffer.any fun r => r.voided s.tick l.num buffer then { s with tr := { s.tr with buffer := buffer.filter fun r => !r.voided s.tick l.num buffer } } else s
    s.endLaunch l.num true) s

/-! ### Blocks and activations (R168 to R171, R186, R199, R57) -/

/-- Whether an instruction of a major opcode may run on a sequencer (R182). -/
def majorAllowed (q : SeqIx) (major : Nat) : Bool :=
  if 0x40 ≤ major && major ≤ 0x4B then q == 6
  else if 0x50 ≤ major && major ≤ 0x5F then q < 4
  else if 0x60 ≤ major && major ≤ 0x6F then q == 4
  else if 0x70 ≤ major && major ≤ 0x77 then q == 5
  else true

/-- Whether R213 opens a control-register number to a sequencer and assigns it (R214). -/
def crReadable (q : SeqIx) (n : Nat) : Bool :=
  n ≤ 0x00B || (0x500 ≤ n && n ≤ 0x508) || (q < 4 && 0x100 ≤ n && n ≤ 0x105) ||
  (q == 4 && ((0x200 ≤ n && n ≤ 0x205) || (0x210 ≤ n && n ≤ 0x21F))) ||
  (q == 5 && ((0x300 ≤ n && n ≤ 0x306) || (0x310 ≤ n && n ≤ 0x31F))) || (q == 6 && 0x400 ≤ n && n ≤ 0x403)

/-- Whether the register has a field that software can write (R214). -/
def crWritable (q : SeqIx) (n : Nat) : Bool :=
  crReadable q n && (n == 0x000 || n == 0x004 || n == 0x008 || n == 0x009 || n == 0x00A || n == 0x104 || n == 0x203 ||
    (0x210 ≤ n && n ≤ 0x21F) || n == 0x302 || n == 0x304 || (0x310 ≤ n && n ≤ 0x31F) || n == 0x500)

/-- Whether an instruction may stand in a block of a sequencer (R182, R214). -/
def Instr.allowed (q : SeqIx) (major : Nat) : Instr → Bool
  | .rdcr _ n _ => crReadable q n.toNat
  | .wrcr _ n => crWritable q n.toNat
  | _ => majorAllowed q major

/-- A word of the block store. -/
def State.storeWord (s : State) (c : CoreIx) (addr : Nat) : BitVec 32 := BitVec.ofNat 32 (readLE (s.core c).blockStore (addr % 2 ^ 18) 4)

/-- The instruction that a body word of a sequencer's block stands for, or none where its encoding is refused (R185, R186). -/
def bodyInstr (q : SeqIx) (w : BitVec 32) : Option Instr :=
  match decodeWord w with
  | .ok ins => if ins.wf && Instr.allowed q (w.toNat / 2 ^ 25) ins then some ins else none
  | .error _ => none

/-- The first of the eight header words that is not well formed (R169 to R171). -/
def badHeader (w : Nat → Nat) : Option Nat :=
  (List.range 8).find? fun k => !(
    if k = 0 then bits (w 0) 1 10 == 0 && !bit (w 0) 19
    else if k = 1 then bits (w 1) 6 26 == 0 && decide (bits (w 1) 0 6 ≤ 32)
    else if k < 6 then (List.range 2).all fun j =>
      let r := bits (w k) (16 * j) 16
      if bit r 15 then (match decodeTarget (BitVec.ofNat 9 r) with | .ok (.slot _) => false | .ok .null => false | .ok _ => true | .error _ => false)
      else r == 0
    else (List.range 4).all fun j =>
      let b := bits (w k) (8 * j) 8
      if bit b 7 then !bit b 6 else b == 0)

/-- Whether the eight header words are well formed. -/
def headerOk (w : Nat → Nat) : Bool := (badHeader w).isNone

/-- A word of the block's body, as read in the start tick (R199). -/
def BlockRun.word (r : BlockRun) (i : Nat) : BitVec 32 := r.body.getD i 0

/-- A block just started, with nothing in its slots. -/
def BlockRun.fresh (addr : BitVec 24) (body : List (BitVec 32)) (stores : Nat) (wregs : List (Option (BitVec 6))) : BlockRun :=
  { addr, age := 0, len := body.length - 1, body, stores, wregs, left := Vector.replicate 32 none, right := Vector.replicate 32 none, gate := Vector.replicate 32 none,
    slots := Vector.replicate 8 none, fired := 0, nulled := 0, lsids := 0, flights := [], loads := [], waits := [], effects := [], exit := none,
    trap := none, busy := false }

/-- The block at an address as it starts: header and body read, register reads delivered from the registers `g` (R170, R199). -/
def State.openBlock (s : State) (c : CoreIx) (addr : BitVec 24) (q : SeqIx) (g : Vector Word 64) : BlockRun :=
  let w (k : Nat) : Nat := (s.storeWord c (addr.toNat + 4 * k)).toNat
  let len := bits (w 0) 14 5
  let wregs := (List.range 8).map fun k =>
    let b := bits (w (6 + k / 4)) (8 * (k % 4)) 8
    if bit b 7 then some (BitVec.ofNat 6 b) else none
  let r := BlockRun.fresh addr ((List.range (len + 1)).map fun i => s.storeWord c (addr.toNat + 32 + 4 * i)) (bits (w 1) 0 6) wregs
  if !headerOk w || s.hardError 4 c addr.toNat 32 then r.raise (illegal 0 0x3F 0) else
  match (List.range (len + 1)).find? fun i => s.hardError 4 c (addr.toNat + 32 + 4 * i) 4 || (bodyInstr q (r.word i)).isNone with
  | some i => r.raise (illegal 0 i 0)
  | none =>
    (List.range 8).foldl (fun r k =>
      let f := bits (w (2 + k / 2)) (16 * (k % 2)) 16
      if bit f 15 then
        match decodeTarget (BitVec.ofNat 9 f) with
        | .ok t => r.arrive t (g[bits f 9 6 % 64]'(Nat.mod_lt _ (by decide)))
        | .error _ => r
      else r) r

/-- The block at an address starts on a sequencer in this tick (R199); correctable errors of the block store that its words meet are recorded (R121). -/
def State.startBlock (s : State) (c : CoreIx) (q : SeqIx) (addr : BitVec 24) (g : Vector Word 64 := (s.seq c q).g) : State :=
  let r := s.openBlock c addr q g
  let s := s.softRead (s.placeCore (s.core c).launch c q) none 4 c addr.toNat (36 + 4 * r.len)
  s.updSeq c q fun x => { x with run := some r, succ := none, succLoop := false, actCur := addr }

/-- The running block is abandoned: none of its effects is kept (R207). -/
def State.abandon (s : State) (c : CoreIx) (q : SeqIx) : State :=
  s.updSeq c q fun x => { x with run := none, succ := none, held := none, loops := [] }

/-- An activation, or its fallback, starts (R57): g63 takes ARG, the windows of WIN are bound, the block starts; it reads the registers as the tick began (R199). -/
def State.startActivation (s : State) (c : CoreIx) (q : SeqIx) (a : Activation) (block : BitVec 24) (g : Vector Word 64 := (s.seq c q).g) : State :=
  let s := s.updSeq c q fun x =>
    { x with g := x.g.set 63 a.arg, act := some a, commits := 0, actEntry := a.entry, actFirst := block, held := none, loops := [] }
  s.startBlock c q block (g.set 63 a.arg)

/-- SQ_TRAPCAUSE and SQ_TRAPBLK (R217). -/
def State.setCause (s : State) (c : CoreIx) (q : SeqIx) (t : Trap) (block : BitVec 24) : State :=
  s.updSeq c q fun x => { x with trapDetail := t.detail, trapCause := t.code, trapTick := BitVec.ofNat 40 s.tick, trapBlock := block }

/-- The effective fault domain of a launch. -/
def State.fdomOf (s : State) (n : LaunchNo) : BitVec 16 :=
  match s.launch? n with
  | some l => l.fdom
  | none => 0

/-- TAG of a launch, for word 5 of its FAULT records (R436). -/
def State.tagOf (s : State) (n : LaunchNo) : Nat :=
  match s.launch? n with
  | some l => l.tag.toNat
  | none => 0

/-- A fault of an activation cancels its launch's fault domain, with a FAULT record (R26, R438). -/
def State.faultCancel (s : State) (c : CoreIx) (q : SeqIx) (l : LaunchNo) (source code detail addr : Nat) : State :=
  let d := s.fdomOf l
  (s.faultRec (some (s.placeCore l c q)) source code detail true d addr (s.tagOf l) 0).cancelDomain d

/-- The fallback's FALLBACK record and its start (R57, R67, R211). ILLEGAL of its first block is answered in the same tick (R199). A read that is out of bound in the
fallback is a first one again (DESIGN CHOICE, log entry 56). -/
def State.openFallback (s : State) (c : CoreIx) (q : SeqIx) (a : Activation) (fb : BitVec 24) (g : Vector Word 64) : State :=
  let s := s.record { typ := 0x05, tick := s.tick, place := some (s.placeCore a.launch c q), trace := false,
                      payload := [w64 (a.entry.toNat + fb.toNat * 2 ^ 12), w64 (a.fbDeadline % 2 ^ 63)] }
  let s := s.startActivation c q { a with isFallback := true, ran := 0, pwbSeen := 0 } fb g
  match (s.seq c q).run.bind (·.trap) with
  | none => s
  | some t =>
    let s := ((s.setCause c q t fb).updSeq c q fun x => { x with trapped := true }).abandon c q
    (s.updSeq c q fun y => { y with act := none }).faultCancel c q a.launch 0 t.code.toNat t.detail.toNat fb.toNat

/-- The fallback starts; while the launch is stopped it is held until the launch resumes or a step releases it (R453, R455). -/
def State.startFallback (s : State) (c : CoreIx) (q : SeqIx) (a : Activation) (fb : BitVec 24) (g : Vector Word 64 := (s.seq c q).g) : State :=
  match s.coreLaunch? c with
  | some l => if l.stopped s.tick then s.updSeq c q fun x => { x with act := some a, held := some fb } else s.openFallback c q a fb g
  | none => s.openFallback c q a fb g

/-- The engine operations of an activation are cut (R67). -/
def State.cutActivation (s : State) (c : CoreIx) (a : Activation) : State := s.cutOps c fun o => o.launch == a.launch && o.act == a.id

/-- A drained activation that cannot go on is killed: no fallback starts (R80). -/
def State.kill (s : State) (c : CoreIx) (q : SeqIx) (a : Activation) : State :=
  let s := (s.abandon c q).cutActivation c a
  s.updSeq c q fun x => { x with act := none, killed := true }

/-- A second trap of a sequencer in one tick: the lower code is recorded, and the fate of the first stands (R212). -/
def State.amendTrap (s : State) (c : CoreIx) (q : SeqIx) (t : Trap) : State :=
  let x := s.seq c q
  if x.trapCause ≤ t.code || decide (0x08 ≤ x.trapCause.toNat) then s else
  let mine (r : Rec) : Bool := r.typ == 0x08 && r.tick == s.tick && (match r.place with | some w => bits w.toNat 16 6 == c.val && bits w.toNat 28 3 == q.val | none => false) &&
    (match r.payload with | w :: _ => bits w.toNat 0 12 == x.trapCause.toNat * 16 | [] => false)
  let code (w : Word) : Word := w64 (w.toNat / 2 ^ 44 * 2 ^ 44 + t.code.toNat * 16 + t.detail.toNat * 2 ^ 12)
  let s := s.setCause c q t x.trapBlock
  { s with tr := { s.tr with buffer := s.tr.buffer.map fun r => if mine r then { r with payload := r.payload.modify 0 code } else r } }

/-- THE RESPONSE TO A TRAP (R211): the block is abandoned, the FAULT record written, TRAPPED set; then the fallback starts, or the fault domain is
cancelled. Under a drain the activation is killed in place of its fallback (R80). UNCORR always cancels (R121), as does a trap in a core marked defective (R39). `g`: the
registers that the fallback's first block reads, those of the tick before (R199). -/
def State.takeTrap (s : State) (c : CoreIx) (q : SeqIx) (t : Trap) (g : Vector Word 64 := (s.seq c q).g) : State :=
  let x := s.seq c q
  if x.answered then s.amendTrap c q t else
  -- of two traps the lower code is recorded (R212)
  let t := match x.run.bind (·.trap) with | some u => if u.code ≤ t.code then u else t | none => t
  let block := match x.run with | some r => r.addr | none => x.actCur
  let s := s.setCause c q t block
  let s := s.updSeq c q fun x => { x with trapped := true, answered := true }
  match x.act with
  | none =>
    match s.coreLaunch? c with
    | some l => s.faultCancel c q l.num 0 t.code.toNat t.detail.toNat block.toNat
    | none => s.abandon c q
  | some a =>
    let place := some (s.placeCore a.launch c q)
    let s := s.abandon c q
    let keep := t.code != 0x07 && !a.isFallback && a.fallback.isSome && !s.health.marked.getLsbD c
    let s := s.faultRec place 0 t.code.toNat t.detail.toNat (!keep) (s.fdomOf a.launch) block.toNat (s.tagOf a.launch) 0
    if keep then
      match a.fallback with
      | some fb => if a.drain then s.kill c q a else s.startFallback c q a fb g
      | none => s
    else
      let s := s.updSeq c q fun y => { y with act := none }
      s.cancelDomain (s.fdomOf a.launch)

/-- Write slots whose values count as written in this tick (R201). -/
def BlockRun.settleSlots (r : BlockRun) : BlockRun :=
  let now (f : Flight) : Bool := decide (f.left ≤ 1) && (match f.target with | .slot _ => true | _ => false)
  (r.flights.filter now).foldl (fun r f => r.arrive f.target f.value) { r with flights := r.flights.filter fun f => !now f }

/-- Whether a waiting instruction that may end in this tick would give a write slot a second value in it (R201, R203). -/
def BlockRun.mayClash (r : BlockRun) : Bool :=
  r.waits.any fun w => match w.kind, w.target with
    | .waitw .., _ => false
    | _, .slot k => r.slots[k].isSome
    | _, _ => false

/-- The pending trap of a sequencer is answered, once no word of its block is left to fire in this tick and nothing of the tick can raise a lower
code (R212). -/
def State.settleTrap (s : State) (c : CoreIx) (q : SeqIx) : State :=
  match (s.seq c q).run with
  | none => s
  | some r =>
    match r.trap with
    | none => s
    | some t =>
      if s.phase = .values || s.todo.any (fun w => match w with | .fire c' q' _ => c' == c && q' == q | _ => false) then s
      else
        let k := r.settleSlots
        if decide (4 < t.code.toNat) && k.mayClash && s.phase != .trace then s else s.takeTrap c q (k.trap.getD t)

end Sys2Proof.Machine
end

