-- ==== Sys2Proof/Machine/Operands.lean ====
section
/-! DEFINITION. Operand slots and firing (R174 to R176, R200 to R203, R218): which slots a word has, when it may fire, and the shared operations that fire a word of each format. -/

namespace Sys2Proof.Machine

/-- Predicate code and operand slots of a word (R174 to R181): pred, left, right, third in the predicate slot. -/
structure WordForm where
  pred : BitVec 2
  left : Bool
  right : Bool
  third : Bool
deriving DecidableEq, Repr

/-- The slots of a word, by its major and minor code. -/
def wordForm (w : BitVec 32) : WordForm :=
  let m := w.toNat / 2 ^ 25
  let x := bits w.toNat 18 5
  let p : BitVec 2 := w.extractLsb' 23 2
  let f (l r : Bool) : WordForm := ⟨p, l, r, false⟩
  if m ≤ 0x17 then
    if m = 0x00 || m = 0x02 then f true true
    else if m ≤ 0x12 then f true false
    else ⟨0, 0x15 ≤ m, false, false⟩
  else if m = 0x18 then f false false
  else if m = 0x19 then f true false
  else if m ≤ 0x34 then f true false
  else if m ≤ 0x38 then f true true
  else if m = 0x39 then ⟨0, true, true, true⟩
  else if m = 0x3A then f true false
  else if m = 0x3B then (if x / 2 = 4 then ⟨0, true, true, true⟩ else f true true)
  else if m = 0x3C then f true (x = 1 || x = 2)
  else if m = 0x3D then f false false
  else if m = 0x3E then f true false
  else if m = 0x3F then f false false
  else if m ≤ 0x47 then f true true
  else if m = 0x48 then f false true
  else if m = 0x49 then f false false
  else if m ≤ 0x4C then f true true
  else if m ≤ 0x4E then f true false
  else if m = 0x4F then f false false
  else if m = 0x50 || m = 0x54 || m = 0x56 || m = 0x58 then f true false
  else if m = 0x55 then f true true
  else if m ≤ 0x59 then f false false
  else if m = 0x60 || m = 0x62 || m = 0x63 || m = 0x68 || m = 0x6A then f true true
  else if m = 0x64 then f false false
  else if m = 0x67 then f (x = 0) false
  else if m ≤ 0x69 then f true false
  else if m = 0x72 then f true (16 ≤ x)
  else if m = 0x73 then f true (x < 2)
  else f true true

/-- The predicate's verdict (R175): waits, matches, or does not match. -/
inductive Verdict where
  | waits
  | matches'
  | differs
deriving DecidableEq, Repr

def verdict (p : Pred) (g : Option Word) : Verdict :=
  match p, g with
  | .always, _ => .matches'
  | _, none => .waits
  | .onTrue, some v => if v.getLsbD 0 then .matches' else .differs
  | .onFalse, some v => if v.getLsbD 0 then .differs else .matches'

/-- Whether a word fires or, where `nulls` says so, is nullified in this tick (R200, R202): each at most once, an operandless word from s + 1 on. -/
def BlockRun.due (r : BlockRun) (i : Fin 32) (w : BitVec 32) (nulls : Bool := true) : Bool :=
  let f := wordForm w
  let p : Pred := if f.pred = 2 then .onTrue else if f.pred = 3 then .onFalse else .always
  !r.fired.getLsbD i && !r.nulled.getLsbD i && decide (1 ≤ r.age) && decide (i.val ≤ r.len) &&
  match verdict p r.gate[i] with
  | .waits => false
  | .differs => nulls
  | .matches' => (!f.left || r.left[i].isSome) && (!f.right || r.right[i].isSome) && (!f.third || r.gate[i].isSome)

/-- A word's operands where its form has them; a slot the form lacks reads as 0. -/
def operand (need : Bool) (v : Option Word) : Option Word := if need then v else some 0

/-- A word that fires is marked. -/
def BlockRun.markFired (r : BlockRun) (i : Fin 32) : BlockRun := { r with fired := setBit r.fired i, busy := true }
/-- A word whose predicate does not match is nullified (R202). -/
def BlockRun.markNulled (r : BlockRun) (i : Fin 32) : BlockRun := { r with nulled := setBit r.nulled i, busy := true }

/-- FIRING A WORD (R200, R202): nothing happens where its block has gone or it has already fired or been nullified; it is nullified where its
predicate does not match; otherwise the effect on the running block's sequencer takes place, and a trap raised is answered when it is the last
word of its block to fire in the tick (R212). -/
def fireWord (p : Pred) (l r t : Bool) (s : State) (body : CoreIx → SeqIx → Fin 32 → Word → Word → Word → State → State) :
    Host.Outcome State Fault Refusal :=
  match (s.seq s.focus.core s.focus.seq).run with
  | none => .next s
  | some b =>
    if b.fired.getLsbD s.focus.idx || b.nulled.getLsbD s.focus.idx then .next s else
    match verdict p b.gate[s.focus.idx] with
    | .waits => .fault .notReady
    | .differs => .next ((s.updRun s.focus.core s.focus.seq (·.markNulled s.focus.idx)).settleTrap s.focus.core s.focus.seq)
    | .matches' =>
      match operand l b.left[s.focus.idx], operand r b.right[s.focus.idx], operand t b.gate[s.focus.idx] with
      | some x, some y, some z =>
        .next ((body s.focus.core s.focus.seq s.focus.idx x y z
          (s.updRun s.focus.core s.focus.seq (·.markFired s.focus.idx))).settleTrap s.focus.core s.focus.seq)
      | _, _, _ => .fault .notReady

/-- A result to one target, consumers firing `lat` ticks later (R201). -/
def sendTo (lat : Nat) (t : Target) (v : Word) (c : CoreIx) (q : SeqIx) (s : State) : State := s.updRun c q (·.send lat t v)

/-- Format G, two operands, two targets (R218). -/
def fireBin (p : Pred) (lat : Nat) (t u : Target) (f : Word → Word → Word) (s : State) : Host.Outcome State Fault Refusal :=
  fireWord p true true false s fun c q _ x y _ s => sendTo lat u (f x y) c q (sendTo lat t (f x y) c q s)

/-- Format G, left operand only (R218). -/
def fireUn (p : Pred) (t u : Target) (f : Word → Word) (s : State) : Host.Outcome State Fault Refusal :=
  fireWord p true false false s fun c q _ x _ _ s => sendTo 1 u (f x) c q (sendTo 1 t (f x) c q s)

/-- Format I (R223). -/
def fireImm (p : Pred) (lat : Nat) (t : Target) (f : Word → Word) (s : State) : Host.Outcome State Fault Refusal :=
  fireWord p true false false s fun c q _ x _ _ s => sendTo lat t (f x) c q s

/-- A form without operand slots that delivers a value of the present tick (R226, R244). -/
def fireValue (p : Pred) (lat : Nat) (t : Target) (f : CoreIx → SeqIx → State → Word) (s : State) : Host.Outcome State Fault Refusal :=
  fireWord p false false false s fun c q _ _ _ _ s => sendTo lat t (f c q s) c q s

/-- An effect that waits for the block's commit (R205, R252). -/
def later (c : CoreIx) (q : SeqIx) (i : Fin 32) (e : Effect) (s : State) : State :=
  s.updRun c q fun r => { r with effects := r.effects ++ [(i.val, e)] }

/-- An engine instruction that fires into the block and issues at its commit (R125, R205). -/
def fireIssue (p : Pred) (l r : Bool) (ins : Instr) (s : State) : Host.Outcome State Fault Refusal :=
  fireWord p l r false s fun c q i x y _ s => later c q i (.issue ins x y) s

/-- A store-kind LSID is resolved; a second resolution raises ILLEGAL (R184, R203). -/
def resolveLsid (n : BitVec 5) (r : BlockRun) : BlockRun :=
  if r.lsids.getLsbD n.toNat then r.raise (illegal 3 n.toNat 0) else { r with lsids := setBit r.lsids n.toNat }

end Sys2Proof.Machine
end

