-- ==== Sys2Proof/Machine/Alu.lean ====
section
/-! DEFINITION. Integer, logic, test, immediate, constant and fan-out forms (R219 to R225). -/

namespace Sys2Proof.Machine

abbrev Out := Host.Outcome State Fault Refusal

/-- 1 when a relation holds, else 0 (R222). -/
def truth (b : Bool) : Word := if b then 1 else 0

/-- Division toward zero with the fixed corners of R220. -/
def divS (x y : Word) : Word := if y = 0 then BitVec.allOnes 64 else BitVec.ofInt 64 (x.toInt.tdiv y.toInt)
def remS (x y : Word) : Word := if y = 0 then x else BitVec.ofInt 64 (x.toInt.tmod y.toInt)
def divU (x y : Word) : Word := if y = 0 then BitVec.allOnes 64 else BitVec.ofNat 64 (x.toNat / y.toNat)
def remU (x y : Word) : Word := if y = 0 then x else BitVec.ofNat 64 (x.toNat % y.toNat)

/-- The upper half of the signed and the unsigned product (R219). -/
def mulHigh (x y : Word) : Word := BitVec.ofInt 64 (x.toInt * y.toInt / 2 ^ 64)
def mulHighU (x y : Word) : Word := BitVec.ofNat 64 (x.toNat * y.toNat / 2 ^ 64)

/-- Shifts use right[5:0] (R219). -/
def shAmt (y : Word) : Nat := y.toNat % 64

/-- Zero bits above the highest set bit; 64 for 0 (R221). -/
def clz64 (x : Word) : Word := if x = 0 then 64 else BitVec.ofNat 64 (63 - Nat.log2 x.toNat)
/-- Number of set bits (R221). -/
def popCount {w : Nat} (x : BitVec w) : Nat := ((List.range w).filter fun i => x.getLsbD i).length

/-- sext(x[n-1:0], n) to 64 bits. -/
def sextLow (n : Nat) (x : Word) : Word := (x.setWidth n).signExtend 64
def zextLow (n : Nat) (x : Word) : Word := (x.setWidth n).setWidth 64
/-- sext(imm14, 14) (R223). -/
def imm64 (i : BitVec 14) : Word := i.signExtend 64

def execAdd (p : Pred) (t u : Target) (s : State) : Out := fireBin p 1 t u (fun x y => x + y) s
def execSub (p : Pred) (t u : Target) (s : State) : Out := fireBin p 1 t u (fun x y => x - y) s
def execMul (p : Pred) (t u : Target) (s : State) : Out := fireBin p 3 t u (fun x y => x * y) s
def execMulh (p : Pred) (t u : Target) (s : State) : Out := fireBin p 3 t u mulHigh s
def execMulhu (p : Pred) (t u : Target) (s : State) : Out := fireBin p 3 t u mulHighU s
def execDiv (p : Pred) (t u : Target) (s : State) : Out := fireBin p 20 t u divS s
def execDivu (p : Pred) (t u : Target) (s : State) : Out := fireBin p 20 t u divU s
def execRem (p : Pred) (t u : Target) (s : State) : Out := fireBin p 20 t u remS s
def execRemu (p : Pred) (t u : Target) (s : State) : Out := fireBin p 20 t u remU s
def execAnd (p : Pred) (t u : Target) (s : State) : Out := fireBin p 1 t u (fun x y => x &&& y) s
def execOr (p : Pred) (t u : Target) (s : State) : Out := fireBin p 1 t u (fun x y => x ||| y) s
def execXor (p : Pred) (t u : Target) (s : State) : Out := fireBin p 1 t u (fun x y => x ^^^ y) s
def execShl (p : Pred) (t u : Target) (s : State) : Out := fireBin p 1 t u (fun x y => x <<< shAmt y) s
def execShr (p : Pred) (t u : Target) (s : State) : Out := fireBin p 1 t u (fun x y => x >>> shAmt y) s
def execSra (p : Pred) (t u : Target) (s : State) : Out := fireBin p 1 t u (fun x y => x.sshiftRight (shAmt y)) s
def execMin (p : Pred) (t u : Target) (s : State) : Out := fireBin p 1 t u (fun x y => if x.sle y then x else y) s
def execMinu (p : Pred) (t u : Target) (s : State) : Out := fireBin p 1 t u (fun x y => if x ≤ y then x else y) s
def execMax (p : Pred) (t u : Target) (s : State) : Out := fireBin p 1 t u (fun x y => if x.sle y then y else x) s
def execMaxu (p : Pred) (t u : Target) (s : State) : Out := fireBin p 1 t u (fun x y => if x ≤ y then y else x) s

def execClz (p : Pred) (t u : Target) (s : State) : Out := fireUn p t u clz64 s
def execPopcnt (p : Pred) (t u : Target) (s : State) : Out := fireUn p t u (fun x => BitVec.ofNat 64 (popCount x)) s
def execSextB (p : Pred) (t u : Target) (s : State) : Out := fireUn p t u (sextLow 8) s
def execSextH (p : Pred) (t u : Target) (s : State) : Out := fireUn p t u (sextLow 16) s
def execSextW (p : Pred) (t u : Target) (s : State) : Out := fireUn p t u (sextLow 32) s
def execZextB (p : Pred) (t u : Target) (s : State) : Out := fireUn p t u (zextLow 8) s
def execZextH (p : Pred) (t u : Target) (s : State) : Out := fireUn p t u (zextLow 16) s
def execZextW (p : Pred) (t u : Target) (s : State) : Out := fireUn p t u (zextLow 32) s
def execMov (p : Pred) (t u : Target) (s : State) : Out := fireUn p t u (fun x => x) s
def execNot (p : Pred) (t u : Target) (s : State) : Out := fireUn p t u (fun x => ~~~x) s

def execTeq (p : Pred) (t u : Target) (s : State) : Out := fireBin p 1 t u (fun x y => truth (x == y)) s
def execTne (p : Pred) (t u : Target) (s : State) : Out := fireBin p 1 t u (fun x y => truth (x != y)) s
def execTlt (p : Pred) (t u : Target) (s : State) : Out := fireBin p 1 t u (fun x y => truth (x.slt y)) s
def execTltu (p : Pred) (t u : Target) (s : State) : Out := fireBin p 1 t u (fun x y => truth (x.ult y)) s
def execTle (p : Pred) (t u : Target) (s : State) : Out := fireBin p 1 t u (fun x y => truth (x.sle y)) s
def execTleu (p : Pred) (t u : Target) (s : State) : Out := fireBin p 1 t u (fun x y => truth (x.ule y)) s
def execTgt (p : Pred) (t u : Target) (s : State) : Out := fireBin p 1 t u (fun x y => truth (y.slt x)) s
def execTge (p : Pred) (t u : Target) (s : State) : Out := fireBin p 1 t u (fun x y => truth (y.sle x)) s

def execAddi (p : Pred) (imm : BitVec 14) (t : Target) (s : State) : Out := fireImm p 1 t (fun x => x + imm64 imm) s
def execMuli (p : Pred) (imm : BitVec 14) (t : Target) (s : State) : Out := fireImm p 3 t (fun x => x * imm64 imm) s
def execAndi (p : Pred) (imm : BitVec 14) (t : Target) (s : State) : Out := fireImm p 1 t (fun x => x &&& imm64 imm) s
def execOri (p : Pred) (imm : BitVec 14) (t : Target) (s : State) : Out := fireImm p 1 t (fun x => x ||| imm64 imm) s
def execXori (p : Pred) (imm : BitVec 14) (t : Target) (s : State) : Out := fireImm p 1 t (fun x => x ^^^ imm64 imm) s
def execShli (p : Pred) (imm : BitVec 6) (t : Target) (s : State) : Out := fireImm p 1 t (fun x => x <<< imm.toNat) s
def execShri (p : Pred) (imm : BitVec 6) (t : Target) (s : State) : Out := fireImm p 1 t (fun x => x >>> imm.toNat) s
def execSrai (p : Pred) (imm : BitVec 6) (t : Target) (s : State) : Out := fireImm p 1 t (fun x => x.sshiftRight imm.toNat) s
def execTeqi (p : Pred) (imm : BitVec 14) (t : Target) (s : State) : Out := fireImm p 1 t (fun x => truth (x == imm64 imm)) s
def execTnei (p : Pred) (imm : BitVec 14) (t : Target) (s : State) : Out := fireImm p 1 t (fun x => truth (x != imm64 imm)) s
def execTlti (p : Pred) (imm : BitVec 14) (t : Target) (s : State) : Out := fireImm p 1 t (fun x => truth (x.slt (imm64 imm))) s
def execTltui (p : Pred) (imm : BitVec 14) (t : Target) (s : State) : Out := fireImm p 1 t (fun x => truth (x.ult (imm64 imm))) s
def execTlei (p : Pred) (imm : BitVec 14) (t : Target) (s : State) : Out := fireImm p 1 t (fun x => truth (x.sle (imm64 imm))) s
def execTleui (p : Pred) (imm : BitVec 14) (t : Target) (s : State) : Out := fireImm p 1 t (fun x => truth (x.ule (imm64 imm))) s
def execTgti (p : Pred) (imm : BitVec 14) (t : Target) (s : State) : Out := fireImm p 1 t (fun x => truth ((imm64 imm).slt x)) s
def execTgei (p : Pred) (imm : BitVec 14) (t : Target) (s : State) : Out := fireImm p 1 t (fun x => truth ((imm64 imm).sle x)) s

/-- `const` and `constu` have no operand slots (R224). -/
def execConst (imm : BitVec 16) (t : Target) (s : State) : Out := fireValue .always 1 t (fun _ _ _ => imm.signExtend 64) s
def execConstu (imm : BitVec 16) (t : Target) (s : State) : Out := fireValue .always 1 t (fun _ _ _ => imm.setWidth 64) s
def execShlc (imm : BitVec 16) (t : Target) (s : State) : Out :=
  fireImm .always 1 t (fun x => (x <<< 16) ||| imm.setWidth 64) s

/-- `fan3` and `fan4` deliver their operand to every target (R225). -/
def execFan3 (a b c : Target) (s : State) : Out :=
  fireWord .always true false false s fun k q _ x _ _ s => sendTo 1 c x k q (sendTo 1 b x k q (sendTo 1 a x k q s))
def execFan4 (a b c d : Target) (s : State) : Out :=
  fireWord .always true false false s fun k q _ x _ _ s => sendTo 1 d x k q (sendTo 1 c x k q (sendTo 1 b x k q (sendTo 1 a x k q s)))

end Sys2Proof.Machine
end

