-- ==== Sys2Proof/Machine/Flags.lean ====
section
/-! DEFINITION. Status bits and control registers (R213 to R217, R37, R65, R97, R107, R155, R241, R280, R327, R362, R395, R459). The machine has no arithmetic flags; what a program tests are these registers. -/

namespace Sys2Proof.Machine

/-- SQ_STATUS (R215); `drains`: whether DRAIN counts what began in the present tick. -/
def SeqState.status (x : SeqState) (drains : Bool := true) : Nat :=
  x.commits.toNat * 2 ^ 32 + b2n x.act.isSome * 2 ^ 7 + b2n (match x.act with | some a => a.isFallback | none => false) * 2 ^ 6 +
  b2n (drains && match x.act with | some a => a.drain | none => false) * 2 ^ 5 + b2n x.trapped * 8 + b2n x.overrun * 4 + b2n x.killed * 2

/-- SQ_PLACE (R37). -/
def State.sqPlace (s : State) (c : CoreIx) (q : SeqIx) : Nat :=
  let (n, ix, iy) := match s.coreLaunch? c with
    | some l => (l.num.toNat, l.ix c, l.iy c)
    | none => (0, 0, 0)
  n * 2 ^ 32 + q.val * 2 ^ 24 + iy * 2 ^ 21 + ix * 2 ^ 18 + coreY c * 2 ^ 15 + coreX c * 2 ^ 12 + (coreDie c).val * 2 ^ 10

/-- SQ_MODE of a launch as it stands (R65). -/
def Launch.modeWord (l : Launch) : Nat :=
    let (mode, level) := match l.set? with | some t => (t.mode.toNat, t.level.toNat) | none => (0, 0)
    let (pm, ur) := match l.pendMode with | some p => (p.mode.toNat, p.urgent) | none => (0, false)
    let pl := match l.pendLevel with | some p => p.toNat | none => 0
    l.inst % 2 ^ 32 * 2 ^ 32 + b2n (l.pendMode.isSome || l.pendLevel.isSome) * 2 ^ 23 + b2n ur * 2 ^ 22 + pl * 2 ^ 20 + pm * 2 ^ 16 +
    level * 16 + mode

/-- SQ_MODE as it stood at the start of the tick (R65, R226). -/
def State.sqMode (s : State) (c : CoreIx) : Nat :=
  match s.coreLaunch? c with
  | none => 0
  | some l => l.modeWas.toNat

/-- Whether drains have begun in the present tick (R79, R86). -/
def State.drainsNow (s : State) (c : CoreIx) : Bool :=
  match s.coreLaunch? c with
  | none => false
  | some l => l.urgentFrom == some s.tick || l.susp.map Suspension.at' == some s.tick

/-- SQ_SLICE (R97): a quadrant the launch holds no slice in, and an idle core, read 7. -/
def State.sqSlice (s : State) (c : CoreIx) : Nat :=
  match s.coreLaunch? c with
  | none => (7 * 2 ^ 45 + 7 * 2 ^ 42 + 7 * 2 ^ 39 + 7 * 2 ^ 36 + 7 * 2 ^ 33)
  | some l =>
    let pl (k : Nat) : Nat := if (l.quadBase.any fun b => b.1 == (l.quadDie k).val) && (k % 2 == 0 || l.img.sx ≠ 0) && (k / 2 == 0 || l.img.sy ≠ 0)
      then l.img.plog else 7
    l.img.rplog * 2 ^ 45 + pl 3 * 2 ^ 42 + pl 2 * 2 ^ 39 + pl 1 * 2 ^ 36 + pl 0 * 2 ^ 33 + l.img.clog * 2 ^ 19 + l.img.wlog * 2 ^ 14 + l.img.alog * 2 ^ 9

/-- SQ_BARSTAT shows the unit of SQ_BARCFG (R241). -/
def State.barStat (s : State) (c : CoreIx) (q : SeqIx) : Nat :=
  let b := (s.ctx c).barriers[(s.seq c q).barUnit.toFin]
  b.gen.toNat * 2 ^ 16 + b.count.toNat * 2 ^ 8 + b.target.toNat

/-- Slot k of a reservation (R268): fixed slots are skipped (R119). -/
def Resv.slot (r : Resv) (k : Nat) : Nat := (((List.range 512).filter fun i => r.first ≤ i && i % 64 ≠ 0)[k]?).getD r.first

/-- The first tick at or after t that stands at wheel position p (R119). -/
def nextWheel (p t : Nat) : Nat := t + (p % 32768 + 32768 - t % 32768) % 32768

/-- CP_STATUS of one channel (R280). -/
def CopyChan.status (s : State) (k : CopyChan) : Nat :=
  b2n k.walk.isSome * 2 ^ 7 +
  b2n (match k.run with | some r => r.wait.isNone && decide (s.tick < r.slot0) | none => false) * 2 ^ 6 + b2n k.run.isSome * 2 ^ 5 + k.queue.length

/-- FB_STATUS.CLASS from the declared rectangle (R284, R327). -/
def regionClass (d : Option RegionDecl) : Nat :=
  match d with
  | none => 0
  | some r => if r.w = 4 && r.h = 4 then 1 else if r.w = 8 && r.h = 8 then 3 else 2

def State.regionDecl? (s : State) (c : CoreIx) (r : RegionIx) : Option RegionDecl :=
  (s.coreLaunch? c).bind fun l => (l.img.regions[r.val]?).join

/-- FB_ registers (R327). -/
def State.readFb (s : State) (c : CoreIx) (q : SeqIx) (n : Nat) : Nat :=
  if h : q.val < 4 then
    let r := (s.ctx c).regions[q.val]
    match n with
    | 0x100 => r.held.toNat * 2 ^ 48 + r.queue.length * 2 ^ 16 + regionClass (s.regionDecl? c ⟨q.val, h⟩) * 2 ^ 8 + b2n r.shadow.isSome * 8 +
        b2n r.port.isSome * 4 + b2n r.round.isSome * 2 + b2n r.bound.isSome
    | 0x101 => (match r.shadow with | some p => p.version.toNat | none => 0) * 2 ^ 16 + r.active.version.toNat
    | 0x102 => r.lastN.toNat * 2 ^ 32 + r.lastRc.toNat
    | 0x103 => (List.range 4).foldl (fun a k => a + ((s.ctx c).landings.toList.getD k []).length * 2 ^ (8 * k)) 0
    | 0x104 => (s.seq c q).fbIdx.toNat
    | 0x105 => (match (s.seq c q).loops with | f :: _ => f.count.toNat | [] => 0) * 2 ^ 32 + (s.seq c q).loops.length
    | _ => 0
  else 0

/-- Format index of a chain; 7 when not yet set (R362). -/
def Chain.fmtCode (k : Chain) : Nat := match k.fmt with | some f => f.code.toNat | none => 7

/-- One slot of MX_CHAIN (R362). -/
def chainBits (k : Option Chain) : Nat :=
  match k with
  | none => 0
  | some k => k.rnd.code.toNat % 4 * 2 ^ 9 + k.fmtCode * 2 ^ 6 + k.tile.val * 2 + 1

/-- MX_ registers and TCFG (R329, R362). -/
def State.readMx (s : State) (c : CoreIx) (n : Nat) : Nat :=
  let m := (s.ctx c).matrix
  let own := m.owners[s.tilePhys c m.ownsel.toNat]
  match n with
  | 0x200 => m.queue.length * 2 ^ 16 + b2n m.read.isSome * 4 + b2n m.load.isSome * 2 + b2n m.compute.isSome
  | 0x201 => m.progOpc.toNat * 2 ^ 32 + b2n m.progCut * 2 ^ 31 + b2n m.progActive * 2 ^ 30 + m.progTotal.toNat * 2 ^ 8 + m.progDone.toNat
  | 0x202 => chainBits m.chains[1] * 2 ^ 16 + chainBits m.chains[0]
  | 0x203 => m.ownsel.toNat
  | 0x204 => own.owner.toNat * 2 ^ 32 + own.prog.toNat * 2 ^ 8 + own.fmt.toNat * 16 + b2n own.vder * 2 + b2n own.pin
  | 0x205 => own.tokens.toNat
  | n => if 0x210 ≤ n && n ≤ 0x21F then ((m.tcfg.toList.getD (n - 0x210) 0)).toNat else 0

/-- SS_ registers (R395). -/
def State.readSs (s : State) (c : CoreIx) (n : Nat) : Nat :=
  let x := (s.ctx c).stoch
  let st := x.streams[x.ssel.toFin]
  let g := x.gens[x.gsel.toFin]
  match n with
  | 0x300 => x.queue.length * 2 ^ 16 + b2n (!x.xfer.isEmpty) * 4 + b2n (!x.gen.isEmpty) * 2 + b2n (!x.logic.isEmpty)
  | 0x301 => x.faultDetail.toNat * 2 ^ 32 + x.faultCode.toNat
  | 0x302 => x.ssel.toNat
  | 0x303 => st.len.toNat * 2 ^ 16 + st.mask.toNat
  | 0x304 => x.gsel.toNat
  | 0x305 => g.step.toNat * 2 ^ 32 + g.seed.toNat * 2 ^ 16 + g.kind.toNat
  | 0x306 => g.pos.toNat
  | n => if 0x310 ≤ n && n ≤ 0x31F then (x.counts.toList.getD (n - 0x310) 0).toNat else 0

/-- CP_ registers (R280). -/
def State.readCp (s : State) (c : CoreIx) (n : Nat) : Nat :=
  let x := s.ctx c
  match n with
  | 0x400 => (List.range 4).foldl (fun a k => a + ((x.chans.toList.map (CopyChan.status s)).getD k 0) * 2 ^ (16 * k)) 0
  | 0x401 => (List.range 4).foldl (fun a k => a + ((x.chans.toList.map (·.done.toNat)).getD k 0) * 2 ^ (16 * k)) 0
  | 0x402 => x.cpDesc.toNat * 2 ^ 10 + x.cpChan.toNat * 2 ^ 8 + x.cpCode.toNat
  | 0x403 => x.cpVa.toNat
  | _ => 0

/-- TR_ registers of a sequencer (R459): counters in the order of R446 are Frozen, Scheduled-idle, Fallback, Issuing, Commit-wait, Queue-backpressure, Operand-wait. -/
def State.readTr (s : State) (c : CoreIx) (q : SeqIx) (n : Nat) : Nat :=
  let k := (s.core c).counters
  match n with
  | 0x500 => (s.seq c q).trHash.toNat
  | 0x501 => k[1].toNat
  | 0x502 => k[0].toNat
  | 0x503 => k[2].toNat
  | 0x504 => k[3].toNat
  | 0x505 => k[4].toNat
  | 0x506 => k[5].toNat
  | 0x507 => k[6].toNat
  | 0x508 =>
    match s.coreLaunch? c with
    | some l => b2n l.displacedWas * 4 + b2n (s.seq c q).stepping * 2 + b2n (match l.dstop with | some d => d.stopped.isSome | none => false)
    | none => 0
  | _ => 0

/-- SQ_PWB as it stands (R107). -/
def SeqState.pwb (x : SeqState) : Word := w64 (x.pwbOff.toNat * 2 ^ 16 + x.pwbWin.toNat * 2 ^ 8 + x.pwbHit.toNat)

/-- A control register as it stood at the start of the tick (R213, R226): drains, pending modes, switches and window misses of the present tick do not show. -/
def State.readCr (s : State) (c : CoreIx) (q : SeqIx) (n : Nat) : Word :=
  let x := s.seq c q
  w64 (if n ≤ 0x0FF then
    match n with
    | 0x000 => x.status !(s.drainsNow c)
    | 0x001 => x.actEntry.toNat * 2 ^ 52 + x.actCur.toNat * 2 ^ 24 + x.actFirst.toNat
    | 0x002 => x.trapDetail.toNat * 2 ^ 32 + x.trapCause.toNat
    | 0x003 => x.trapTick.toNat * 2 ^ 24 + x.trapBlock.toNat
    | 0x004 => x.pwbWas.toNat
    | 0x005 => s.sqPlace c q
    | 0x006 => s.sqMode c
    | 0x007 => s.sqSlice c
    | 0x008 => x.rkey.toNat
    | 0x009 => x.rlayer.toNat
    | 0x00A => x.barTarget.toNat * 2 ^ 8 + x.barUnit.toNat
    | 0x00B => s.barStat c q
    | _ => 0
  else if n ≤ 0x1FF then s.readFb c q n
  else if n ≤ 0x2FF then s.readMx c n
  else if n ≤ 0x3FF then s.readSs c n
  else if n ≤ 0x4FF then s.readCp c n
  else s.readTr c q n)

/-- A control register written at commit (R205, R227, R5, R6): only fields that software may write change; a bit that hardware sets in the same
tick stays set. SQ_BARCFG also sets its barrier unit (R241). -/
def State.writeCr (s : State) (c : CoreIx) (q : SeqIx) (n : Nat) (v : Word) : State :=
  let b (i : Nat) : Bool := v.getLsbD i
  match n with
  | 0x000 => s.updSeq c q fun x => { x with trapped := x.trapped && !b 3, overrun := x.overrun && !b 2, killed := x.killed && !b 1 }
  | 0x004 => s.updSeq c q fun x => { x with pwbHit := (x.pwbHit &&& ~~~(v.setWidth 8)) ||| x.pwbNew }
  | 0x008 => s.updSeq c q fun x => { x with rkey := v }
  | 0x009 => s.updSeq c q fun x => { x with rlayer := v.setWidth 16 }
  | 0x00A =>
    let u : BitVec 6 := v.setWidth 6
    let s := s.updSeq c q fun x => { x with barTarget := v.extractLsb' 8 8, barUnit := u }
    s.updCtx c fun x => { x with barriers := x.barriers.set u.toFin { x.barriers[u.toFin] with target := v.extractLsb' 8 8, count := 0 } }
  | 0x104 => s.updSeq c q fun x => { x with fbIdx := v.setWidth 48 }
  | 0x203 => s.updMatrix c fun m => { m with ownsel := v.setWidth 5 }
  | 0x302 => s.updStoch c fun x => { x with ssel := v.setWidth 6 }
  | 0x304 => s.updStoch c fun x => { x with gsel := v.setWidth 4 }
  | 0x500 => s.updSeq c q fun x => { x with trHash := v }
  | n =>
    if 0x210 ≤ n && n ≤ 0x21F then s.updMatrix c fun m => { m with tcfg := vecMap m.tcfg fun i x => if i = n - 0x210 then v.setWidth 19 else x }
    else if 0x310 ≤ n && n ≤ 0x31F then s.updStoch c fun x => { x with counts := vecMap x.counts fun i k => if i = n - 0x310 && !x.cntNew.getLsbD i then v.setWidth 32 else k }
    else s

end Sys2Proof.Machine
end

