-- ==== Sys2Proof/Machine/Memory.lean ====
section
/-! DEFINITION. Loads, stores, window reads, atomics and key operations of a sequencer as they fire (R228 to R239, R106, R107). -/

namespace Sys2Proof.Machine

/-- The LSID record of a running block (R228). -/
def State.lsidRec? (s : State) (c : CoreIx) (block : BitVec 24) (n : BitVec 5) : Option LsidRec :=
  (s.core c).lsids.find? fun r => r.block == block && r.lsid == n

/-- Effective location of an access of size n through an LSID (R230): whether it is in the Pantry, and the offset or Pantry address. -/
def effective (rec : Option LsidRec) (a : Word) (n : Nat) : Bool × Nat :=
  match rec with
  | none => (false, a.toNat % 2 ^ 22 / n * n)
  | some r =>
    let pantry := r.space == 1
    let off := (if pantry then a.toNat % 2 ^ 32 else a.toNat % 2 ^ 22) / n * n
    (pantry, r.base + (((off : Int) - r.base) % (r.size : Int)).toNat)

def State.locate (s : State) (c : CoreIx) (q : SeqIx) (n : BitVec 5) (a : Word) (size : Nat) : Bool × Nat :=
  match (s.seq c q).run with
  | none => (false, 0)
  | some r => effective (s.lsidRec? c r.addr n) a size

/-- Latency from a core to the die of an addressed Pantry partition; 0 for the A-buffer (R201, R239). -/
def State.rho (s : State) (c : CoreIx) (pantry : Bool) (a : Nat) : Nat :=
  if pantry then dieLatency (coreDie c) (s.pantryPhys c a).1 else 0

/-- The address of a load or store: the base plus the scaled immediate (R231). -/
def memAddr (x : Word) (imm : BitVec 9) (n : Nat) : Word := x + imm.signExtend 64 * BitVec.ofNat 64 n

def addLoad (l : Load) (c : CoreIx) (q : SeqIx) (s : State) : State := s.updRun c q fun r => { r with loads := r.loads ++ [l] }

/-- A load fires: its bank is read in tick f + 2 and its value is zero-extended with latency 4 (R231). -/
def fireLoad (p : Pred) (lsid : BitVec 5) (imm : BitVec 9) (n : Nat) (t : Target) (s : State) : Out :=
  fireWord p true false false s fun c q _ x _ _ s =>
    addLoad { wait := 2, lat := 2, oob := none, pantry := false, wbuf := false, addr := (s.locate c q lsid (memAddr x imm n) n).2, n, target := t } c q s

def execLdB (p : Pred) (lsid : BitVec 5) (imm : BitVec 9) (t : Target) (s : State) : Out := fireLoad p lsid imm 1 t s
def execLdH (p : Pred) (lsid : BitVec 5) (imm : BitVec 9) (t : Target) (s : State) : Out := fireLoad p lsid imm 2 t s
def execLdW (p : Pred) (lsid : BitVec 5) (imm : BitVec 9) (t : Target) (s : State) : Out := fireLoad p lsid imm 4 t s
def execLdD (p : Pred) (lsid : BitVec 5) (imm : BitVec 9) (t : Target) (s : State) : Out := fireLoad p lsid imm 8 t s
def execLdQ (p : Pred) (lsid : BitVec 5) (imm : BitVec 9) (t : Target) (s : State) : Out := fireLoad p lsid imm 16 t s

/-- A store fires: it resolves its LSID, and its low n bytes are written at commit (R232, R205). -/
def fireStore (p : Pred) (lsid : BitVec 5) (imm : BitVec 9) (n : Nat) (third : Bool) (s : State) : Out :=
  fireWord p true true third s fun c q i x y z s =>
    later c q i (.store (s.locate c q lsid (memAddr x imm n) n).2
      (if third then leBytes 8 y.toNat ++ leBytes 8 z.toNat else leBytes n y.toNat)) (s.updRun c q (resolveLsid lsid))

def execStB (p : Pred) (lsid : BitVec 5) (imm : BitVec 9) (s : State) : Out := fireStore p lsid imm 1 false s
def execStH (p : Pred) (lsid : BitVec 5) (imm : BitVec 9) (s : State) : Out := fireStore p lsid imm 2 false s
def execStW (p : Pred) (lsid : BitVec 5) (imm : BitVec 9) (s : State) : Out := fireStore p lsid imm 4 false s
def execStD (p : Pred) (lsid : BitVec 5) (imm : BitVec 9) (s : State) : Out := fireStore p lsid imm 8 false s
/-- `st.q`: bytes [7:0] from the right operand, [15:8] from the predicate slot (R232). -/
def execStQ (lsid : BitVec 5) (imm : BitVec 9) (s : State) : Out := fireStore .always lsid imm 16 true s

/-- `nullst` resolves its LSID without a store (R233). -/
def execNullst (p : Pred) (lsid : BitVec 5) (s : State) : Out :=
  fireWord p false false false s fun c q _ _ _ _ s => s.updRun c q (resolveLsid lsid)

/-- `nullw` nullifies a write slot; a slot that already has a value or a `nullw` raises ILLEGAL (R203, R233). -/
def nullSlot (w : Fin 8) (r : BlockRun) : BlockRun :=
  if r.slots[w].isSome then r.raise (illegal 2 w 0) else { r with slots := r.slots.set w (some none) }

def execNullw (p : Pred) (w : Fin 8) (s : State) : Out :=
  fireWord p false false false s fun c q _ _ _ _ s => s.updRun c q (nullSlot w)

/-! ### Parameter windows (R104, R106, R234) -/

def WinSize.bytes : WinSize → Nat
  | .b2 => 2
  | .b4 => 4
  | .b8 => 8
  | .b16 => 16

/-- The descriptor of window w bound for the running activation (R57, R103). -/
def State.window? (s : State) (c : CoreIx) (q : SeqIx) (w : Fin 8) : Option Window := do
  let a ← (s.seq c q).act
  let d ← a.windows[w.val]?
  if d.valid then some d else none

/-- The Pantry address of an offset in a window (R99, R104). -/
def Window.pantryAddr (d : Window) (o : Nat) : Nat := b2n d.repl * 2 ^ 28 + d.quad * 2 ^ 26 + (d.base + o) % 2 ^ 26

/-- An out-of-bound window read: SQ_PWB, and a FAULT record for the first through w in the activation (R106, R107). -/
def pwbHit (w : Fin 8) (o : Nat) (c : CoreIx) (q : SeqIx) (s : State) : State :=
  let x := s.seq c q
  let s := s.updSeq c q fun x => { x with pwbHit := setBit x.pwbHit w, pwbNew := setBit x.pwbNew w, pwbWin := BitVec.ofNat 3 w, pwbOff := BitVec.ofNat 26 o }
  match x.act, x.run with
  | some a, some r =>
    if a.pwbSeen.getLsbD w then s else
    let s := s.updSeq c q fun x => { x with act := x.act.map fun a => { a with pwbSeen := setBit a.pwbSeen w } }
    s.faultRec (some (s.placeCore a.launch c q)) 1 w 0 false (s.fdomOf a.launch) r.addr.toNat (s.tagOf a.launch) 0
  | _, _ => s

/-- `ldpw` (R106, R234): a read of the window's space; out of bound it delivers 0 with the latency of an in-bound read. -/
def execLdpw (p : Pred) (w : Fin 8) (size : WinSize) (imm : BitVec 9) (t : Target) (s : State) : Out :=
  fireWord p true false false s fun c q _ x _ _ s =>
    let n := WinSize.bytes size
    let o := (memAddr x imm n).toNat / n * n
    let d := (s.window? c q w).getD ⟨true, false, 0, false, 0, 0⟩
    let rho := s.rho c d.pantry (d.pantryAddr o)
    let oob := d.bound < o + n
    addLoad { wait := 2 + rho, lat := 2 + rho, oob := if oob then some w else none, pantry := d.pantry, wbuf := !d.pantry,
              addr := if oob then o else if d.pantry then d.pantryAddr o else d.base + o, n, target := t } c q s

/-! ### Atomics (R235, R236) -/

/-- An atomic fires: it resolves its LSID; its slot counts as written, and its work is done at commit (R235). -/
def fireAmo (p : Pred) (op : Fin 5) (n : Nat) (third : Bool) (lsid : BitVec 5) (t : Target) (s : State) : Out :=
  fireWord p true true third s fun c q i x y z s =>
    let a := (s.locate c q lsid x n).2
    let w : Option (Fin 8) := match t with | .slot w => some w | _ => none
    let s := s.updRun c q (resolveLsid lsid)
    let s := match w with | some w => s.updRun c q (nullSlot w) | none => s
    later c q i (.amo op a n y.toNat z.toNat w) s

def execAmoaddW (p : Pred) (lsid : BitVec 5) (t : Target) (s : State) : Out := fireAmo p 0 4 false lsid t s
def execAmoaddD (p : Pred) (lsid : BitVec 5) (t : Target) (s : State) : Out := fireAmo p 0 8 false lsid t s
def execAmominW (p : Pred) (lsid : BitVec 5) (t : Target) (s : State) : Out := fireAmo p 1 4 false lsid t s
def execAmominD (p : Pred) (lsid : BitVec 5) (t : Target) (s : State) : Out := fireAmo p 1 8 false lsid t s
def execAmomaxW (p : Pred) (lsid : BitVec 5) (t : Target) (s : State) : Out := fireAmo p 2 4 false lsid t s
def execAmomaxD (p : Pred) (lsid : BitVec 5) (t : Target) (s : State) : Out := fireAmo p 2 8 false lsid t s
def execAmoswapW (p : Pred) (lsid : BitVec 5) (t : Target) (s : State) : Out := fireAmo p 3 4 false lsid t s
def execAmoswapD (p : Pred) (lsid : BitVec 5) (t : Target) (s : State) : Out := fireAmo p 3 8 false lsid t s
def execAmocasW (lsid : BitVec 5) (t : Target) (s : State) : Out := fireAmo .always 4 4 true lsid t s
def execAmocasD (lsid : BitVec 5) (t : Target) (s : State) : Out := fireAmo .always 4 8 true lsid t s

/-- The new value of an atomic from the old one (R236). -/
def amoResult (op : Fin 5) (n old arg third : Nat) : Nat :=
  let w := 8 * n
  let lt (a b : Nat) : Bool := signedOf w a < signedOf w b
  let a := arg % 2 ^ w
  match op with
  | 0 => (old + arg) % 2 ^ w
  | 1 => if lt a old then a else old
  | 2 => if lt old a then a else old
  | 3 => a
  | 4 => if old = a then third % 2 ^ w else old

/-! ### Keys, waiting and barriers as they fire (R237 to R243, R313, R248) -/

def addWait (w : Waiting) (c : CoreIx) (q : SeqIx) (s : State) : State := s.updRun c q fun r => { r with waits := r.waits ++ [w] }

/-- `acq` reads the 8-byte key word (R237). -/
def execAcq (p : Pred) (lsid : BitVec 5) (t : Target) (s : State) : Out :=
  fireWord p true false false s fun c q _ x _ _ s =>
    let (pantry, a) := s.locate c q lsid x 8
    let rho := s.rho c pantry a
    addLoad { wait := 2 + rho, lat := 2 + rho, oob := none, pantry, wbuf := false, addr := a, n := 8, target := t } c q s

/-- `rel` resolves its LSID; the key is written from the commit on (R238). -/
def execRel (p : Pred) (lsid : BitVec 5) (s : State) : Out :=
  fireWord p true true false s fun c q i x y _ s =>
    let (pantry, a) := s.locate c q lsid x 8
    later c q i (.rel pantry a y) (s.updRun c q (resolveLsid lsid))

/-- `waitw` will read the word and arm its monitor in one slot (R239). -/
def execWaitw (p : Pred) (lsid : BitVec 5) (t : Target) (s : State) : Out :=
  fireWord p true true false s fun c q i x y _ s =>
    let (pantry, a) := s.locate c q lsid x 8
    let rho := s.rho c pantry a
    addWait { idx := i, wait := 2 + rho, target := t, kind := .waitw pantry a y rho false false } c q s

/-- `arrive` sends its message at commit (R242). -/
def execArrive (p : Pred) (unit : Fin 64) (s : State) : Out :=
  fireWord p true false false s fun c q i x _ _ s => later c q i (.arrive unit x) s

/-- `bwait` examines its unit in tick f + 1 (R243). -/
def execBwait (p : Pred) (unit : Fin 64) (t : Target) (s : State) : Out :=
  fireWord p true false false s fun c q i x _ _ s =>
    addWait { idx := i, wait := 1, target := t, kind := .bwait unit (x.setWidth 8) false false } c q s

/-- `fence` waits for the operations of earlier blocks (R248). -/
def execFence (p : Pred) (t : Target) (s : State) : Out :=
  fireWord p false false false s fun c q i _ _ _ s => addWait { idx := i, wait := 1, target := t, kind := .fence } c q s

/-- `lwait` compares the occupancy of a Landing from tick f + 1 (R313). -/
def execLwait (p : Pred) (land : Fin 4) (le : Bool) (t : Target) (s : State) : Out :=
  fireWord p true false false s fun c q i x _ _ s =>
    addWait { idx := i, wait := 1, target := t, kind := .lwait land le (x.toNat % 32) } c q s

end Sys2Proof.Machine
end

