-- ==== Sys2Proof/Machine/Control.lean ====
section
/-! DEFINITION. Control-register words, exits, system forms, time reads, and the words that issue to an engine at commit (R226, R227, R244 to R249, R252, R259, R306, R337, R379, R449). -/

namespace Sys2Proof.Machine

def execRdcr (p : Pred) (num : BitVec 14) (t : Target) (s : State) : Out := fireValue p 1 t (fun c q s => s.readCr c q num.toNat) s
def execWrcr (p : Pred) (num : BitVec 14) (s : State) : Out :=
  fireWord p true false false s fun c q i x _ _ s => later c q i (.wrcr num x) s

/-! ### Exits (R245, R246, R209) -/

/-- An address a signed number of 32-byte units from a block's (R245). -/
def blockAt (addr : BitVec 24) (off : BitVec 20) : BitVec 24 := addr + (off.signExtend 24 <<< 5)

/-- An exit fires; a second one raises MULTIEXIT with both numbers (R209, R210). -/
def takeExit (num : BitVec 3) (next : Option (BitVec 24)) (r : BlockRun) : BlockRun :=
  match r.exit with
  | none => { r with exit := some ⟨num, next⟩ }
  | some e => r.raise ⟨0x02, BitVec.ofNat 32 (e.num.toNat + num.toNat * 8)⟩

def execBro (p : Pred) (exit : BitVec 3) (off : BitVec 20) (s : State) : Out :=
  fireWord p false false false s fun c q _ _ _ _ s => s.updRun c q fun r => takeExit exit (some (blockAt r.addr off)) r
def execBend (p : Pred) (exit : BitVec 3) (s : State) : Out :=
  fireWord p false false false s fun c q _ _ _ _ s => s.updRun c q (takeExit exit none)

/-- What a jump table answers for an index (R183, R246): the block, or the trap. -/
def State.jump (s : State) (c : CoreIx) (table : BitVec 24) (index : Nat) : Except Trap (BitVec 24) :=
  let dw (k : Nat) : Nat := readLE (s.core c).blockStore ((table.toNat + 8 * k) % 2 ^ 18) 8
  let count := bits (dw 0) 0 5
  let broken := dw 0 / 32 ≠ 0 || count = 0 || 16 < count || table.toNat % 32 ≠ 0 ||
    (List.range count).any (fun k => bits (dw (k + 1)) 24 8 ≠ 0 || bits (dw (k + 1)) 44 20 ≠ 0) ||
    s.hardError 4 c table.toNat (8 + 8 * count)
  let bad (reason : Nat) : Trap := ⟨0x03, BitVec.ofNat 32 (index + reason * 16)⟩
  if broken then .error (illegal 4 0x3F 0) else
  if count ≤ index then .error (bad 0) else
  let e := dw (index + 1)
  let blk := bits e 0 24
  let h := (s.storeWord c blk).toNat
  if !bit h 0 then .error (bad 1) else if bits h 20 12 ≠ bits e 32 12 then .error (bad 2) else .ok (BitVec.ofNat 24 blk)

def execBrx (p : Pred) (exit : BitVec 3) (off : BitVec 20) (s : State) : Out :=
  fireWord p true false false s fun c q _ x _ _ s =>
    match (s.seq c q).run with
    | none => s
    | some r =>
      match s.jump c (blockAt r.addr off) (x.toNat % 16) with
      | .ok a => s.updRun c q (takeExit exit (some a))
      | .error t => s.updRun c q (·.raise t)

/-! ### System forms and time -/

/-- `trap` raises TRAP with its code; R211 follows as the last word of its block fires (R247). -/
def execTrap (p : Pred) (code : BitVec 8) (s : State) : Out :=
  fireWord p false false false s fun c q _ _ _ _ s => s.updRun c q (·.raise ⟨0x05, code.setWidth 32⟩)
/-- `brk` matters at its block's commit in the bench state, and nowhere else (R247, R452). -/
def execBrk (p : Pred) (s : State) : Out := fireWord p false false false s fun c q i _ _ _ s => later c q i .brk s
def execNop (p : Pred) (s : State) : Out := fireWord p false false false s fun _ _ _ _ _ _ s => s

/-- Launch time of the activation's launch (R49, R244). -/
def State.launchTime (s : State) (c : CoreIx) (q : SeqIx) : Word :=
  match (s.seq c q).act with
  | some a => (match s.launch? a.launch with | some l => l.ltime | none => 0)
  | none => 0

def execRdtick (p : Pred) (t : Target) (s : State) : Out := fireValue p 1 t (fun _ _ s => w64 s.tick) s
def execRdlt (p : Pred) (t : Target) (s : State) : Out := fireValue p 1 t (fun c q s => s.launchTime c q) s
def execRdwall (p : Pred) (t : Target) (s : State) : Out := fireValue p 1 t (fun _ _ s => s.tm.ns) s

/-! ### Copy words (R259, R267) -/

def execCp1 (p : Pred) (ch : ChanIx) (desc : BitVec 9) (s : State) : Out := fireIssue p true true (.cp1 p ch desc) s
def execCp2 (p : Pred) (ch : ChanIx) (desc : BitVec 9) (s : State) : Out := fireIssue p true true (.cp2 p ch desc) s
def execCp3 (p : Pred) (ch : ChanIx) (desc : BitVec 9) (s : State) : Out := fireIssue p true true (.cp3 p ch desc) s
def execCpmc (p : Pred) (ch : ChanIx) (desc : BitVec 9) (s : State) : Out := fireIssue p true true (.cpmc p ch desc) s
def execCpset (p : Pred) (ch : ChanIx) (desc : BitVec 9) (s : State) : Out := fireIssue p true true (.cpset p ch desc) s
def execCpcmp (p : Pred) (ch : ChanIx) (desc : BitVec 9) (s : State) : Out := fireIssue p true true (.cpcmp p ch desc) s
def execCphash (p : Pred) (ch : ChanIx) (desc : BitVec 9) (s : State) : Out := fireIssue p true true (.cphash p ch desc) s
def execCpspill (p : Pred) (ch : ChanIx) (desc : BitVec 9) (s : State) : Out := fireIssue p true true (.cpspill p ch desc) s
def execCpunspill (p : Pred) (ch : ChanIx) (desc : BitVec 9) (s : State) : Out := fireIssue p true true (.cpunspill p ch desc) s
/-- `cpbind` takes only a right operand (R266). -/
def execCpbind (p : Pred) (ch : ChanIx) (desc : BitVec 9) (s : State) : Out := fireIssue p false true (.cpbind p ch desc) s

/-- A double-word of a copy descriptor (R254, R255). -/
def State.descDw (s : State) (c : CoreIx) (n : Nat) (k : Nat) : Nat := readLE (s.core c).blockStore (0x38000 + 64 * n + 8 * k) 8

/-- The descriptor number of a copy instruction. -/
def copyDesc : Instr → Nat
  | .cp1 _ _ d | .cp2 _ _ d | .cp3 _ _ d | .cpmc _ _ d | .cpset _ _ d | .cpcmp _ _ d | .cphash _ _ d | .cpspill _ _ d
  | .cpunspill _ _ d | .cpbind _ _ d => d.toNat
  | _ => 0

/-- The reservation of a number in the current table set (R268). -/
def State.resv? (s : State) (c : CoreIx) (n : Nat) : Option Resv := (s.coreLaunch? c).bind fun l => l.set?.bind fun t => t.resv[n]?

/-- What `cpchk` delivers (R267): ticks to the first slot a copy of the reservation's core reaching the head now could use, and whether a copy naming it is queued. -/
def State.checkResv (s : State) (c : CoreIx) (n : Nat) : Nat :=
  match s.resv? c n, s.coreLaunch? c with
  | some r, some l =>
    let o := coreAt (l.ox + r.ix) (l.oy + r.iy)
    let lead := 32 + dieLatency (coreDie o) ⟨r.die % 4, Nat.mod_lt _ (by decide)⟩
    let start := nextWheel (64 * r.slot 0) (s.tick + lead)
    let busy := (s.ctx o).chans[r.cch].queue.any fun k => bits (s.descDw o (copyDesc k.instr) 0) 8 8 == n
    (start - s.tick) + b2n busy * 2 ^ 32
  | _, _ => 0

def execCpchk (p : Pred) (resv : BitVec 8) (t : Target) (s : State) : Out :=
  fireValue p 1 t (fun c _ s => w64 (s.checkResv c resv.toNat)) s

/-! ### Trace words (R449, R450): they act at commit -/

def execTrec (p : Pred) (sub : BitVec 5) (s : State) : Out :=
  fireWord p true true false s fun c q i x y _ s => later c q i (.trec sub x y) s
def execTmark (p : Pred) (code : BitVec 8) (s : State) : Out :=
  fireWord p true false false s fun c q i x _ _ s => later c q i (.tmark code x) s
def execThash (p : Pred) (s : State) : Out := fireWord p true false false s fun c q i x _ _ s => later c q i (.thash x) s
def execTstopStop (p : Pred) (s : State) : Out := fireWord p false false false s fun c q i _ _ _ s => later c q i (.tstop false) s
def execTstopStart (p : Pred) (s : State) : Out := fireWord p false false false s fun c q i _ _ _ s => later c q i (.tstop true) s

/-! ### Region words (R305, R306, R312, R315) -/

def execJtab (p : Pred) (s : State) : Out := fireIssue p true false (.jtab p) s
def execCfgld (p : Pred) (n : BitVec 4) (s : State) : Out := fireIssue p false false (.cfgld p n) s
def execCfgact (p : Pred) (s : State) : Out := fireIssue p false false (.cfgact p) s
def execCfgdrop (p : Pred) (s : State) : Out := fireIssue p false false (.cfgdrop p) s
def execRun (p : Pred) (s : State) : Out := fireIssue p true false (.run p) s
def execTok (p : Pred) (port : BitVec 7) (s : State) : Out := fireIssue p true false (.tok p port) s
def execLrel (p : Pred) (land : Fin 4) (s : State) : Out := fireIssue p false false (.lrel p land) s
/-- `loop` pushes its frame at commit; a COUNT of 0 is taken as 1 (R315). -/
def execLoop (p : Pred) (s : State) : Out :=
  fireWord p true true false s fun c q i x y _ s =>
    let n : BitVec 32 := x.setWidth 32
    later c q i (.loop (if n = 0 then 1 else n) (y.setWidth 24) (y.extractLsb' 24 24)) s
/-- `rdsink` reads a sink as it stands at the start of its tick (R312). -/
def execRdsink (p : Pred) (n : Fin 4) (t : Target) (s : State) : Out :=
  fireValue p 1 t (fun c q s => if h : q.val < 4 then ((s.ctx c).regions[q.val]).sinks[n].setWidth 64 else 0) s

/-! ### Matrix words (R337) -/

def execMtld (p : Pred) (n : Fin 16) (range : Fin 32) (s : State) : Out := fireIssue p true true (.mtld p n range) s
def execMtldw (p : Pred) (n : Fin 16) (range : Fin 32) (s : State) : Out := fireIssue p true true (.mtldw p n range) s
def execMtst (p : Pred) (n : Fin 16) (range : Fin 32) (s : State) : Out := fireIssue p true true (.mtst p n range) s
def execMspill (p : Pred) (n range : Fin 32) (s : State) : Out := fireIssue p true false (.mspill p n range) s
def execMfill (p : Pred) (n range : Fin 32) (s : State) : Out := fireIssue p true false (.mfill p n range) s
def execMma (p : Pred) (fmt : MmaFmt) (d : Fin 32) (a : Fin 16) (s : State) : Out := fireIssue p true true (.mma p fmt d a) s
def execMmaw (p : Pred) (fmt : MmaFmt) (d : Fin 32) (a : Fin 16) (range : Fin 4) (s : State) : Out :=
  fireIssue p true true (.mmaw p fmt d a range) s
def execMchainB (p : Pred) (n : Fin 32) (rnd : Round) (clr : Bool) (s : State) : Out := fireIssue p false false (.mchainB p n rnd clr) s
def execMchainE (p : Pred) (n : Fin 32) (s : State) : Out := fireIssue p false false (.mchainE p n) s
def execMzero (p : Pred) (n : Fin 32) (s : State) : Out := fireIssue p false false (.mzero p n) s
def execMscacc (p : Pred) (d q : Fin 32) (rnd : Round) (int : Bool) (s : State) : Out := fireIssue p true false (.mscacc p d q rnd int) s
def execMrd (p : Pred) (n : Fin 32) (region : RegionIx) (s : State) : Out := fireIssue p true false (.mrd p n region) s
def execMpin (p : Pred) (n : Fin 32) (fmt : Fmt) (s : State) : Out := fireIssue p true false (.mpin p n fmt) s
def execMunpin (p : Pred) (n : Fin 32) (s : State) : Out := fireIssue p false false (.munpin p n) s
def execMgdlt (p : Pred) (n : Fin 32) (quad : Fin 4) (s : State) : Out := fireIssue p true true (.mgdlt p n quad) s
def execMfwrd (p : Pred) (n : Fin 32) (quad : Fin 4) (s : State) : Out := fireIssue p true false (.mfwrd p n quad) s
def execMfwchunk (p : Pred) (n : Fin 32) (quad : Fin 4) (s : State) : Out := fireIssue p true true (.mfwchunk p n quad) s

/-! ### Stochastic words (R379) -/

def execSand (p : Pred) (d : Fin 64) (s : State) : Out := fireIssue p true true (.sand p d) s
def execSor (p : Pred) (d : Fin 64) (s : State) : Out := fireIssue p true true (.sor p d) s
def execSxor (p : Pred) (d : Fin 64) (s : State) : Out := fireIssue p true true (.sxor p d) s
def execSxnor (p : Pred) (d : Fin 64) (s : State) : Out := fireIssue p true true (.sxnor p d) s
def execSmux (p : Pred) (d : Fin 64) (s : State) : Out := fireIssue p true true (.smux p d) s
def execSnot (p : Pred) (d : Fin 64) (s : State) : Out := fireIssue p true true (.snot p d) s
def execSmov (p : Pred) (d : Fin 64) (s : State) : Out := fireIssue p true true (.smov p d) s
def execSrot (p : Pred) (d : Fin 64) (s : State) : Out := fireIssue p true true (.srot p d) s
def execSfill (p : Pred) (len : BitVec 2) (d : Fin 64) (s : State) : Out := fireIssue p true true (.sfill p len d) s
def execScnt (p : Pred) (acc : Bool) (n : Fin 16) (s : State) : Out := fireIssue p true true (.scnt p acc n) s
def execSgen (p : Pred) (gen : Fin 16) (fromCount : Bool) (len : BitVec 2) (d : Fin 64) (s : State) : Out :=
  fireIssue p true true (.sgen p gen fromCount len d) s
def execSregen (p : Pred) (gen : Fin 16) (d : Fin 64) (s : State) : Out := fireIssue p true true (.sregen p gen d) s
def execB2s (p : Pred) (gen : Fin 16) (bipolar : Bool) (len : BitVec 2) (d : Fin 64) (s : State) : Out :=
  fireIssue p true false (.b2s p gen bipolar len d) s
def execB2sv (p : Pred) (gen : Fin 16) (bipolar : Bool) (len : BitVec 2) (d : Fin 64) (s : State) : Out :=
  fireIssue p true true (.b2sv p gen bipolar len d) s
def execS2b (p : Pred) (bipolar : Bool) (a : Fin 64) (s : State) : Out := fireIssue p true true (.s2b p bipolar a) s
def execSld (p : Pred) (len : BitVec 2) (d : Fin 64) (s : State) : Out := fireIssue p true true (.sld p len d) s
def execSst (p : Pred) (a : Fin 64) (s : State) : Out := fireIssue p true false (.sst p a) s
def execSgset (p : Pred) (gen : Fin 16) (s : State) : Out := fireIssue p true true (.sgset p gen) s

end Sys2Proof.Machine
end

