-- ==== Sys2Proof/Machine/Blocks.lean ====
section
/-! DEFINITION. Commit (R204 to R206), quiescence traps (R208), waits that end (R239, R243, R248, R313), key writes (R238), barrier units (R240 to R242), trace effects (R450) and breakpoints (R452, R453). -/

namespace Sys2Proof.Machine

/-! ### Debug stop requests (R451 to R453, R458) -/

def State.bench (s : State) : Bool := s.host.lifecycle == .bench

/-- A tick that no stop comes to by itself: a stop met in a suspension is acted on at r (R458). -/
def DebugStop.atResume : Nat := 2 ^ 64

/-- A stop request for a launch: from the next tick its launch time holds (R453), or from the resume tick of a suspension on (R458). A stop under way stands; of two
breakpoint matches in one tick there is one stop, which names the lower register (R458). -/
def State.requestStop (s : State) (n : LaunchNo) (reason : BitVec 3) (bp : BitVec 2) (c : CoreIx) (q : Fin 8) : State :=
  let s := s.updLaunch n fun l =>
    let stop : DebugStop := { from' := if l.susp.isSome then DebugStop.atResume else s.tick + 1, reason, bp, core := c, seq := q, stopped := none, resume := none,
                              step := none, started := false, again := l.displaced }
    match l.dstop with
    | some d =>
      if d.stopped.isNone && (d.from' == s.tick + 1 || d.from' == DebugStop.atResume) && reason < 2 && (d.reason == 2 || (d.reason < 2 && bp < d.bp))
      then { l with dstop := some { stop with again := d.again } } else l
    | none => { l with dstop := some stop, displaced := true }
  { s with tr := { s.tr with rpSkip := if s.tr.rpSkip.contains n then s.tr.rpSkip else n :: s.tr.rpSkip } }

/-- The lowest breakpoint register that matches a commit of a block (R452, R458). -/
def State.blockBreak (s : State) (l : Launch) (c : CoreIx) (q : SeqIx) (block : BitVec 24) : Option (Fin 4) :=
  (List.finRange 4).find? fun k =>
    let b := s.tr.bps[k]
    b.en && !b.kind && b.launch == l.num && b.mtch == block && b.seq.toNat == q.val &&
      (b.any || (b.ix.toNat == l.ix c && b.iy.toNat == l.iy c))

/-! ### Issue to the engines (R125, R205, R251, R252, R305, R332, R374) -/

/-- The engine command of a committed instruction: operands, owner, and what is captured at issue (R155, R310, R330, R350). -/
def State.command (s : State) (c : CoreIx) (q : SeqIx) (a : Activation) (block : BitVec 24) (ins : Instr) (x y : Word) : EngineCmd :=
  let k := s.seq c q
  { instr := ins, left := x, right := y, owner := ⟨a.launch, a.id, q, block⟩, key := k.rkey, layer := k.rlayer, idx := k.fbIdx,
    shapes := (s.ctx c).matrix.tcfg.toList, polV := a.polV, tick := s.tick,
    rcb := (match s.launch? a.launch with | some l => l.rcbId | none => 0), fdom := s.fdomOf a.launch, tag := BitVec.ofNat 32 (s.tagOf a.launch) }

/-- DETAIL of an engine fault: major, xop, imm9 (R358, R392). -/
def engineDetail (ins : Instr) : Nat :=
  match encodeWord ins with
  | some w => w.toNat / 2 ^ 25 + bits w.toNat 18 5 * 2 ^ 7 + bits w.toNat 0 9 * 2 ^ 12
  | none => 0

/-- An engine fault (R277, R358, R392): cause registers of the engine's sequencer, FAULT record, cancellation of the domain that the command was issued in. -/
def State.engineFault (s : State) (c : CoreIx) (k : EngineCmd) (code detail : Nat) : State :=
  let o := k.owner
  let s := s.setCause c o.seq ⟨BitVec.ofNat 8 code, BitVec.ofNat 32 detail⟩ o.block
  (s.faultRec (some (s.placeCore o.launch c o.seq)) 0 code detail true k.fdom o.block.toNat k.tag.toNat 0).cancelDomain k.fdom

/-- A copy fault (R277), to be recorded as the phase ends, with those of the other channels (R279). -/
def State.copyFault (s : State) (c : CoreIx) (ch : ChanIx) (k : EngineCmd) (code : Nat) (va : Option Nat) : State :=
  { s with faults := s.faults ++ [⟨c, ch, code, k.owner, k.fdom, k.tag, copyDesc k.instr, va, none⟩] }

/-- The channel of a copy instruction. -/
def copyChan? : Instr → Option ChanIx
  | .cp1 _ c _ | .cp2 _ c _ | .cp3 _ c _ | .cpmc _ c _ | .cpset _ c _ | .cpcmp _ c _ | .cphash _ c _ | .cpspill _ c _
  | .cpunspill _ c _ | .cpbind _ c _ => some c
  | _ => none

/-- The copies of a fault domain that wait behind the head of a channel are cut by a fault of the channel in this tick, and raise none of their own (R279). -/
def State.cutQueue (s : State) (c : CoreIx) (ch : ChanIx) (d : BitVec 16) : State :=
  s.updChan c ch fun x => { x with queue := x.queue.take 1 ++ (x.queue.drop 1).filter fun e => e.fdom != d }

/-- A command is pushed onto its engine's queue of 16; a push that finds it full raises the engine's fault (R252, R332, R374). One onto a full region queue has
no effect, and `execBlockCommit` raises the trap (R304). -/
def State.push (s : State) (c : CoreIx) (k : EngineCmd) : State :=
  match copyChan? k.instr with
  | some ch =>
    -- a copy whose completion word is written in this tick leaves first (R136, R251); `settlePushes` settles it
    let leaves := match (s.ctx c).chans[ch].run with | some r => b2n (r.dueNow && s.phase == .commits) | none => 0
    if (s.ctx c).chans[ch].queue.length - leaves < 16 then s.updChan c ch fun x => { x with queue := x.queue ++ [k] }
    else (s.copyFault c ch k 0x40 none).cutQueue c ch k.fdom
  | none =>
    if h : k.owner.seq.val < 4 then
      let r : RegionIx := ⟨k.owner.seq.val, h⟩
      if (s.ctx c).regions[r].queue.length < 16 then s.updRegion c r fun x => { x with queue := x.queue ++ [k] } else s
    else if k.owner.seq = 4 then
      if (s.ctx c).matrix.queue.length < 16 then s.updMatrix c fun x => { x with queue := x.queue ++ [k] }
      else s.engineFault c k 0x60 (engineDetail k.instr)
    else
      if (s.ctx c).stoch.queue.length < 16 then s.updStoch c fun x => { x with queue := x.queue ++ [k] }
      else
        let s := s.updStoch c fun x => { x with faultCode := 0x70, faultDetail := BitVec.ofNat 32 (engineDetail k.instr) }
        s.engineFault c k 0x70 (engineDetail k.instr)

/-- Copies pushed behind one that was to leave its channel's queue of 16 in this tick and has not: CPQFULL (R136, R251, R252, R274). -/
def State.settlePushes (s : State) (c : CoreIx) : State :=
  (List.finRange 4).foldl (fun s ch =>
    match ((s.ctx c).chans[ch].queue.drop 16).head? with
    | some k => ((s.updChan c ch fun x => { x with queue := x.queue.take 16 }).copyFault c ch k 0x40 none).cutQueue c ch k.fdom
    | none => s) s

/-! ### Commit (R204, R205) -/

/-- The first four conditions of R204 hold. -/
def BlockRun.ready (r : BlockRun) : Bool :=
  r.exit.isSome && r.trap.isNone && (List.range r.stores).all (fun i => r.lsids.getLsbD i) &&
  (List.finRange 8).all fun w => (r.wregs.getD w none).isNone || r.slots[w].isSome

/-- Step 1: each written slot's value goes into its g register (R171). -/
def commitRegs (r : BlockRun) (g : Vector Word 64) : Vector Word 64 :=
  (List.finRange 8).foldl (fun g (w : Fin 8) =>
    match r.wregs.getD w none, r.slots[w] with
    | some n, some (some v) => g.set n.toFin v
    | _, _ => g) g

/-- An `arrive` message leaves at commit (R242): to its own core at c + 1, else after the latency of the route class. -/
def State.sendArrive (s : State) (c : CoreIx) (q : SeqIx) (unit : Fin 64) (v : Word) : State :=
  match s.coreLaunch? c with
  | none => s
  | some l =>
    let remote := v.getLsbD 14
    let d := if remote then coreAt (l.ox + bits v.toNat 8 3 % l.img.width) (l.oy + bits v.toNat 11 3 % l.img.height) else c
    let msg : Arrival := { left := if d = c then 1 else coreLatency c d, done := false, launch := l.num,
                           source := if d = c then q.val else 7 + c.val, unit, count := v.setWidth 8 }
    s.updCore d fun k => { k with arrivals := k.arrivals ++ [msg] }

/-- How many ticks after the commit the sequencer's writes to the regions of an A-buffer key are visible (R124, R126, R128, R134, R236): those of a store in the next
tick, of a store that its bank holds back, of this block or an earlier one, when the bank has become free, of an atomic one tick after its slot. -/
def State.relWait (s : State) (c : CoreIx) (q : SeqIx) (key : Nat) (r : BlockRun) : Nat :=
  match s.coreLaunch? c with
  | none => 0
  | some l =>
    let regions := (l.img.shares.filter fun h => h.space == 0 && bits h.key.toNat 62 2 == 0 && s.aPhys c h.key.toNat == s.aPhys c key).map
      fun h => (s.aPhys c h.base, h.size)
    let inRegion (a n : Nat) : Bool := regions.any fun g => decide (g.1 < a + n) && decide (a < g.1 + g.2)
    let held (a : Nat) : Nat := (((s.core c).bankHolds.filter fun h => h.1 == bankOf a).map fun h => h.2).foldl max 0
    let stores := r.effects.map fun e => match e.2 with
      | .store a bytes => if inRegion (s.aPhys c a) bytes.length then 1 + held (s.aPhys c a) else 0
      | _ => 0
    let late := (s.core c).heldWrites.map fun h => match h.owner with
      | some (d, p, _) => if d = c && p = q && inRegion h.addr h.bytes.length then 1 + held h.addr else 0
      | none => 0
    let amos := ((s.ctx c).amos.filter fun m => m.seq == q).map fun m => if inRegion m.addr m.bytes.length then m.left + 1 else 0
    (stores ++ late ++ amos).foldl max 0

/-- A unit after the arrivals of a tick (R240): the phases completed, and the unit. -/
def Barrier.apply (b : Barrier) (total : Nat) : Nat × Barrier :=
  if b.target = 0 then (0, { b with count := 0 }) else
  let sum := b.count.toNat + total
  let k := sum / b.target.toNat
  (k, { b with gen := b.gen + BitVec.ofNat 8 k, count := BitVec.ofNat 8 (sum % b.target.toNat) })

/-- Waiting `bwait`s of a unit learn that a phase completed (R243); in the tick of its compare one does so only where GEN was its phase before. -/
def markBwait (u : Fin 64) (old : BitVec 8) (w : Waiting) : Waiting :=
  match w.kind with
  | .bwait v p c k => if v = u && w.wait = 0 && (c || old == p) then { w with kind := .bwait v p c true } else { w with kind := .bwait v p c k }
  | _ => w

/-- Arrivals applied to a unit of a context. -/
def CoreCtx.arriveAt (x : CoreCtx) (u : Fin 64) (total : Nat) : CoreCtx :=
  let (k, b) := x.barriers[u].apply total
  let old := x.barriers[u].gen
  let x := { x with barriers := x.barriers.set u b }
  if k = 0 then x else { x with seqs := x.seqs.map fun q => { q with run := q.run.map fun r => { r with waits := r.waits.map (markBwait u old) } } }

/-- A unit as it was before arrivals of the present tick, given with it (R241). -/
def Barrier.before (b : Barrier) (total : Nat) : Barrier :=
  if b.target = 0 then b else
  let k := (total - b.count.toNat + b.target.toNat - 1) / b.target.toNat
  { b with gen := b.gen - BitVec.ofNat 8 k }

/-- `wrcr` takes effect (R227); the configuration of a barrier unit comes before the arrivals that have reached the unit in the same tick (R241). -/
def State.configure (s : State) (c : CoreIx) (q : SeqIx) (n : Nat) (v : Word) : State :=
  let u : Fin 64 := (v.setWidth 6).toFin
  let taken := (s.core c).arrivals.filter fun a => a.done && a.unit == u
  if n ≠ 0x00A || taken.isEmpty then s.writeCr c q n v else
  let total := (taken.map (·.count.toNat)).sum
  let s := s.updCtx c fun x => { x with barriers := x.barriers.set u (x.barriers[u].before total) }
  (s.writeCr c q n v).updCtx c fun x => x.arriveAt u total

/-- One effect that acts in the steps 2 to 7 of R205 and, after them, R450; `step` selects which. -/
def commitEffect (step : Nat) (c : CoreIx) (q : SeqIx) (a : Activation) (r : BlockRun) (s : State) (e : Nat × Effect) : State :=
  match step, e.2 with
  | 2, .wrcr n v => s.configure c q n.toNat v
  | 3, .store addr bytes =>
    (((s.softWrite (s.placeCore a.launch c q) none 1 c (s.aPhys c addr) bytes.length).touch c (s.aPhys c addr)).clearErrors 1 c (s.aPhys c addr)
      bytes.length).writeAOff c addr bytes (some (c, q, false))
  | 4, .amo op addr n arg third w =>
    let phys := s.aPhys c addr
    let old := s.readAOff c addr n
    let s := (s.softRead (s.placeCore a.launch c q) none 1 c phys n).touch c phys
    let s := s.updCore c fun k => { k with bankHolds := k.bankHolds ++ [(bankOf phys, 3)] }
    let s := s.updCtx c fun x => { x with amos := x.amos ++ [⟨2, q, false, phys, leBytes n (amoResult op n old arg third)⟩] }
    match w with
    | some w =>
      match r.wregs.getD w none with
      | some g => s.updSeq c q fun x => { x with g := x.g.set g.toFin (w64 old) }
      | none => s
    | none => s
  | 5, .rel pantry addr v => s.updSeq c q fun x => { x with rels := x.rels ++ [⟨if pantry then s.rho c true addr else s.relWait c q addr r, pantry, addr, v⟩] }
  | 6, .issue ins x y => s.push c (s.command c q a r.addr ins x y)
  | 7, .arrive u v => s.sendArrive c q u v
  | 8, .trec sub x y =>
    s.record { typ := 0x0F, tick := s.tick, place := some (s.placeCore a.launch c q), trace := true,
               payload := [w64 (sub.toNat + bit63 x * 2 ^ 5 + bit63 y * 2 ^ 6), low63 x, low63 y] }
  | 8, .tmark code v =>
    s.record { typ := 0x0E, tick := s.tick, place := some (s.placeCore a.launch c q), trace := false,
               payload := [w64 (1 + code.toNat * 2 + a.entry.toNat * 2 ^ 9 + bit63 v * 2 ^ 21), low63 v] }
  | 8, .thash v => s.updSeq c q fun x => { x with trHash := kch64 (x.trHash ^^^ v) }
  | 8, .tstop start => { s with tr := { s.tr with tstops := s.tr.tstops ++ [(s.tick + 50, start)] } }
  | 9, .loop n f l => s.updSeq c q fun x => { x with loops := ⟨f, l, n⟩ :: x.loops }
  | _, _ => s

/-- Whether an effect takes effect: of several `wrcr` that name one register only that of the highest index does (R227). -/
def BlockRun.stands (r : BlockRun) (e : Nat × Effect) : Bool :=
  match e.2 with
  | .wrcr n _ => !r.effects.any fun f => match f.2 with | .wrcr m _ => m == n && decide (e.1 < f.1) | _ => false
  | _ => true

/-- Effects of one step, in ascending instruction index. -/
def commitStep (step : Nat) (c : CoreIx) (q : SeqIx) (a : Activation) (r : BlockRun) (s : State) : State :=
  ((sortBy Prod.fst r.effects).filter r.stands).foldl (commitEffect step c q a r) s

/-- Whether the block's commands for the sequencer's region overflow its queue (R304). -/
def State.regionOverflow (s : State) (c : CoreIx) (q : SeqIx) (r : BlockRun) : Bool :=
  if h : q.val < 4 then
    decide (16 < ((s.ctx c).regions[q.val]).queue.length + (r.effects.filter fun e => match e.2 with | .issue .. => true | _ => false).length)
  else false

/-- The loop stack as the top frame is examined (R315): the stack left, and the frame's START when it redirects. -/
def loopNext (block : BitVec 24) : List LoopFrame → List LoopFrame × Option (BitVec 24)
  | [] => ([], none)
  | f :: t =>
    if f.last = block then (if 1 < f.count then ({ f with count := f.count - 1 } :: t, some f.first) else loopNext block t)
    else (f :: t, none)

/-- The A-buffer offset at which a store or an atomic of the block meets an uncorrectable error: nothing of the block is then written (R121). -/
def State.commitHard (s : State) (c : CoreIx) (r : BlockRun) : Option Nat :=
  r.effects.findSome? fun e =>
    match e.2 with
    | .store addr bytes => if s.badWrite 1 c (s.aPhys c addr) bytes.length then some addr else none
    | .amo _ addr n _ _ _ => if s.hardError 1 c (s.aPhys c addr) n then some addr else none
    | _ => none

/-- What follows the commit (R206, R315): the successor, or the end of the activation with its MARK (R56). -/
def State.afterCommit (s : State) (c : CoreIx) (q : SeqIx) (a : Activation) (r : BlockRun) : State :=
  let s := s.updSeq c q fun x => { x with run := none, commits := if x.commits = 0xFFFF then 0xFFFF else x.commits + 1 }
  match r.exit with
  | some ⟨_, some next⟩ =>
    let (rest, redirect) := loopNext r.addr (s.seq c q).loops
    s.updSeq c q fun x => { x with loops := rest, succ := some (redirect.getD next), succLoop := redirect.isSome }
  | _ =>
    let g63 := (s.seq c q).g[63]
    let s := if a.mark then
        s.record { typ := 0x0E, tick := s.tick, place := some (s.placeCore a.launch c q), trace := false,
                   payload := [w64 (a.entry.toNat * 2 ^ 9 + bit63 g63 * 2 ^ 21), low63 g63] }
      else s
    s.updSeq c q fun x => { x with act := none, loops := [], succ := none }

/-- Breakpoints that a commit meets (R452, R453): a register's match before a `brk`. -/
def State.commitBreaks (s : State) (c : CoreIx) (q : SeqIx) (a : Activation) (r : BlockRun) : State :=
  if !s.bench then s else
  match s.launch? a.launch with
  | none => s
  | some l =>
    match s.blockBreak l c q r.addr with
    | some k => s.requestStop l.num 0 (BitVec.ofNat 2 k) c ⟨q.val, by omega⟩
    | none =>
      if r.effects.any (fun e => e.2 == .brk) && s.tr.bps.toList.any (·.en) then s.requestStop l.num 2 0 c ⟨q.val, by omega⟩ else s

/-- BLOCK_COMMIT (R205): the effects of the block, all in tick c, in the order of the rule. A push onto a full loop stack raises ILLEGAL instead (R315); one
onto a full region queue raises it beside them, in the activation that runs in this tick (R304): its fallback reads the registers of the tick before (R199), and no
breakpoint matches (R458). -/
def execBlockCommit (c : CoreIx) (q : SeqIx) (s : State) : Out :=
  match (s.seq c q).run, (s.seq c q).act with
  | some r, some a =>
    if !r.ready then .next s else
    let frames := (sortBy Prod.fst r.effects).filter fun e => match e.2 with | .loop .. => true | _ => false
    if 4 < frames.length + (s.seq c q).loops.length then
      .next (s.takeTrap c q (illegal 5 ((frames.getD (4 - (s.seq c q).loops.length) (0, .brk)).1) 0))
    else match s.commitHard c r with
    | some a => .next (s.takeTrap c q ⟨0x07, BitVec.ofNat 32 a⟩)
    | none =>
      let old := (s.seq c q).g
      let s := s.updSeq c q fun x => { x with g := commitRegs r x.g }
      let s := [2, 3, 4, 5].foldl (fun s k => commitStep k c q a r s) s
      let s := commitStep 9 c q a r s
      let full := s.regionOverflow c q r
      let s := s.afterCommit c q a r
      let s := commitStep 8 c q a r (commitStep 7 c q a r (commitStep 6 c q a r s))
      .next (if full then (s.updSeq c q fun x => { x with act := some a }).takeTrap c q (illegal 6 0x3F 0) old else s.commitBreaks c q a r)
  | _, _ => .next s

/-! ### Quiescence (R208) -/

/-- Whether some word of the block fires in this tick. -/
def BlockRun.anyFires (r : BlockRun) : Bool := (List.finRange 32).any fun i => r.due i (r.word i) false

/-- Nothing can fire, nothing is in flight and nothing is waited for (R208); not so in the block's start tick (DESIGN CHOICE, log entry 50). -/
def BlockRun.quiescent (r : BlockRun) : Bool :=
  decide (1 ≤ r.age) && r.flights.isEmpty && r.loads.isEmpty && r.waits.isEmpty && r.trap.isNone && !r.anyFires

/-- NOEXIT (R208): a quiescent block in which no exit has fired. -/
def execNoexit (c : CoreIx) (q : SeqIx) (s : State) : Out :=
  match (s.seq c q).run with
  | some r => if r.quiescent && r.exit.isNone then .next (s.takeTrap c q ⟨0x01, 0⟩) else .next s
  | none => .next s

/-- DETAIL of INCOMPLETE: bit i for each store-kind LSID i that is unresolved (R210). -/
def BlockRun.unresolved (r : BlockRun) : Word32 :=
  BitVec.ofNat 32 (((List.range 32).filter fun i => decide (i < r.stores) && !r.lsids.getLsbD i).foldl (fun a i => a + 2 ^ i) 0)

/-- INCOMPLETE (R208): an exit has fired, but a store-kind LSID or a valid write slot is unresolved. -/
def execIncomplete (c : CoreIx) (q : SeqIx) (s : State) : Out :=
  match (s.seq c q).run with
  | some r => if r.quiescent && r.exit.isSome && !r.ready then .next (s.takeTrap c q ⟨0x06, r.unresolved⟩) else .next s
  | none => .next s

/-! ### Waits that end -/

/-- A value whose consumers fire in the next tick: a write slot counts as written in this one (R201). -/
def BlockRun.deliver (r : BlockRun) (lat : Nat) (t : Target) (v : Word) : BlockRun :=
  match t with
  | .slot _ => if lat ≤ 1 then r.arrive t v else r.sendAll lat t v
  | _ => r.sendAll lat t v

/-- A waiting instruction delivers a value, consumers firing `lat` ticks later, and waits no more. -/
def State.wake (s : State) (c : CoreIx) (q : SeqIx) (w : Waiting) (lat : Nat) (v : Word) : State :=
  (s.updRun c q fun r => { r.deliver lat w.target v with waits := r.waits.filter fun x => x != w }).settleTrap c q

/-- The wait of an instruction, if it still waits. -/
def State.waiting? (s : State) (c : CoreIx) (q : SeqIx) (i : Fin 32) : Option Waiting :=
  (s.seq c q).run.bind fun r => r.waits.find? (·.idx == i)

/-- The word a `waitw` watches, as it stands now. -/
def State.watched (s : State) (c : CoreIx) (pantry : Bool) (a : Nat) : Word :=
  w64 (if pantry then s.readP c a 8 else s.readAOff c a 8)

/-- WAITW_WAKE (R239): the first write to the word in tick u wakes the waiter; consumers fire at u + 3 + rho. -/
def execWaitwWake (c : CoreIx) (q : SeqIx) (i : Fin 32) (s : State) : Out :=
  match s.waiting? c q i with
  | some w =>
    match w.kind with
    | .waitw pantry a _ rho true true => .next (s.wake c q w (3 + rho) (s.watched c pantry a))
    | _ => .next s
  | none => .next s

/-- BWAIT_WAKE (R243): GEN differs from the phase at the compare, or a phase of the unit completed; consumers fire in the next tick. -/
def execBwaitWake (c : CoreIx) (q : SeqIx) (i : Fin 32) (s : State) : Out :=
  match s.waiting? c q i with
  | some w =>
    match w.kind with
    | .bwait u p compared woken =>
      let gen := (s.ctx c).barriers[u].gen
      if w.wait = 0 && (woken || (!compared && gen ≠ p)) then .next (s.wake c q w 1 (gen.setWidth 64)) else .next s
    | _ => .next s
  | none => .next s

/-- The operations that a `fence` waits for are complete and their key writes done (R248). -/
def State.fenceClear (s : State) (c : CoreIx) (q : SeqIx) : Bool :=
  !(s.ctx c).busyFor (fun o => o.seq == q) && (s.seq c q).rels.isEmpty && !s.keyHeld c q

/-- FENCE_DELIVER (R248): 0, consumers firing in the next tick. -/
def execFenceDeliver (c : CoreIx) (q : SeqIx) (i : Fin 32) (s : State) : Out :=
  match s.waiting? c q i with
  | some w => if w.kind = .fence && w.wait = 0 && s.fenceClear c q then .next (s.wake c q w 1 0) else .next s
  | none => .next s

/-- Whether the occupancy of a Landing meets an `lwait` (R313). -/
def landMeets (n occ : Nat) (le : Bool) : Bool := if le then decide (occ ≤ n) else decide (n ≤ occ)

/-- LWAIT_WAKE (R313): the occupancy, consumers firing in the next tick. -/
def execLwaitWake (c : CoreIx) (q : SeqIx) (i : Fin 32) (s : State) : Out :=
  match s.waiting? c q i with
  | some w =>
    match w.kind with
    | .lwait l le n =>
      let occ := (s.ctx c).landings[l].length
      if w.wait = 0 && landMeets n occ le then .next (s.wake c q w 1 (w64 occ)) else .next s
    | _ => .next s
  | none => .next s

/-! ### Key writes and barriers -/

/-- REL_KEY_WRITE (R238): the key words whose tick has come are written. -/
def execRelKeyWrite (c : CoreIx) (q : SeqIx) (s : State) : Out :=
  let due := (s.seq c q).rels.filter fun r => r.left == 0
  let s := s.updSeq c q fun x => { x with rels := x.rels.filter fun r => r.left != 0 }
  .next (due.foldl (fun s r =>
    let p := s.chipByte c (if r.pantry then 2 else 0) r.addr 0
    if s.badWrite p.1 p.2.1 p.2.2 8 then s.takeTrap c q ⟨0x07, BitVec.ofNat 32 r.addr⟩
    else
      let s := match s.coreLaunch? c with | some l => s.softWrite (s.placeCore l.num c q) none p.1 p.2.1 p.2.2 8 | none => s
      (if r.pantry then s else s.touch c p.2.2).chipWrite p (leBytes 8 r.value.toNat) (some (c, q, true))) s)

/-- Where a core's arrival mailbox lies in the mailbox area of its die (R87). -/
def mailBase (c : CoreIx) : Nat := 4096 * (4 * (coreY c % 4) + coreX c % 4)

/-- An arrival logged in the core's mailbox (R87): an entry of 8 bytes, unit, count and tick; a 513th is lost. -/
def State.logArrival (s : State) (c : CoreIx) (unit : Fin 64) (count : BitVec 8) : State :=
  let k := s.core c
  if 512 ≤ k.mailLen then s.updCore c fun k => { k with mailboxFull := true } else
  let d := s.dies[coreDie c]
  let entry := unit.val + count.toNat * 2 ^ 8 + s.tick % 2 ^ 48 * 2 ^ 16
  { s with dies := s.dies.set (coreDie c) { d with mail := writeLE d.mail (mailBase c + 8 * ((k.mailHead + k.mailLen) % 512)) 8 entry } }.updCore c
    fun k => { k with mailLen := k.mailLen + 1 }

/-- The oldest entry of the core's mailbox is replayed into its barrier unit (R87). -/
def State.replayArrival (s : State) (c : CoreIx) : State :=
  let k := s.core c
  if k.mailLen = 0 then s else
  let e := readLE s.dies[coreDie c].mail (mailBase c + 8 * (k.mailHead % 512)) 8
  s.updCore c fun k => { k with mailHead := (k.mailHead + 1) % 512, mailLen := k.mailLen - 1, ctx := k.ctx.arriveAt (Fin.ofNat 64 (bits e 0 6)) (bits e 8 8) }

/-- Whether an arrival that has come is applied to its unit in this tick: its launch runs here, and its mailbox is empty (R72, R87, R240). -/
def State.arrivalLive (s : State) (c : CoreIx) (a : Arrival) : Bool :=
  let k := s.core c
  a.left == 0 && !a.done && a.launch == k.launch && k.swap.isNone && k.mailLen == 0 && match s.coreLaunch? c with | some l => !l.frozen | none => false

/-- Whether it goes to the mailbox: its launch's context is in the Attic, on its way, or behind a mailbox that is still replayed (R87). -/
def State.arrivalStored (s : State) (c : CoreIx) (a : Arrival) : Bool :=
  let k := s.core c
  a.left == 0 && !a.done && ((k.attic.map (fun t => t.launch == a.launch)).getD false || (a.launch == k.launch && (k.swap.isSome || k.mailLen != 0)))

/-- BARRIER_ARRIVAL (R240, R87): every arrival that has reached the unit is applied, in ascending source order; for a core whose context is in the
Attic each is logged in its mailbox, a 513th being lost to the launch's cancellation at r. -/
def execBarrierArrival (c : CoreIx) (u : Fin 64) (s : State) : Out :=
  let here := (s.core c).arrivals.filter fun a => a.unit == u
  let live := here.filter (s.arrivalLive c)
  let stored := here.filter (s.arrivalStored c)
  let s := s.updCore c fun k => { k with arrivals := (k.arrivals.filter fun a => !(stored.contains a)).map fun a => if live.contains a then { a with done := true } else a }
  let s := if live.isEmpty then s else s.updCtx c fun x => x.arriveAt u ((live.map (·.count.toNat)).sum)
  .next ((sortBy Arrival.source stored).foldl (fun s a => s.logArrival c a.unit a.count) s)

/-- BARRIER_CONFIG (R241): the unit named by the written value takes TARGET and COUNT 0, keeping GEN. -/
def execBarrierConfig (c : CoreIx) (q : SeqIx) (value : Word) (s : State) : Out := .next (s.configure c q 0x00A value)

end Sys2Proof.Machine
end

