-- ==== Sys2Proof/Machine/Copy.lean ====
section
/-! DEFINITION. The copy engine (R251 to R280), translation (R108 to R117) and the host side of copies (R271, R273, R424). -/

namespace Sys2Proof.Machine

/-! ### Translation (R109 to R115) -/

/-- What a translation answers: a physical address with its side-table index, a miss, or a fault by its position in the list of R113 and the level. -/
inductive Translated where
  | ok (phys : Nat) (side : BitVec 24)
  | miss
  | fault (cond level : Nat)
deriving DecidableEq, Repr

/-- Whether a channel is fenced for a core's launch (R39, R113): until the launch has switched, the channel goes on serving it. -/
def State.fencedFor (s : State) (c : CoreIx) (n : Nat) : Bool :=
  s.health.fenced.getLsbD n && !(match (s.coreLaunch? c).bind Launch.set? with | some t => t.chmask.getLsbD n | none => false)

/-- The checks on a match's attributes and resulting address (R113, conditions 8 and 9). -/
def State.xlateCheck (s : State) (c : CoreIx) (phys : Nat) (rd wr write : Bool) (side : BitVec 24) (level : Nat) : Translated :=
  if (if write then !wr else !rd) then .fault 8 level
  else if !bit phys 55 && (bits phys 37 18 ≠ 0 || s.fencedFor c (bits phys 32 5)) then .fault 9 level
  else .ok phys side

/-- Translation of an address by the range table, then by a channel's cache (R108, R109, R115). A fault names the level of the translation's leaf (R113), and level 0 on a
match of the range table, which has none (DESIGN CHOICE, log entry 51). -/
def State.translate (s : State) (c : CoreIx) (ch : ChanIx) (va : Nat) (write : Bool) : Translated :=
  match (s.ctx c).ranges.find? fun e => e.valid && decide (e.base.toNat ≤ va) && decide (va < e.limit.toNat) with
  | some e => s.xlateCheck c (e.offset.toNat + (va - e.base.toNat)) e.rd e.wr write e.side 0
  | none =>
    match (s.ctx c).chans[ch].cache.find? fun x => decide (x.va ≤ va) && decide (va < x.va + x.size) with
    | some x => s.xlateCheck c (x.phys + (va - x.va)) x.rd x.wr write x.side (if x.size = 2 ^ 30 then 2 else 3)
    | none => .miss

/-- Whether the range table maps an address (R109). -/
def State.rangeHit (s : State) (c : CoreIx) (va : Nat) : Bool :=
  (s.ctx c).ranges.any fun e => e.valid && decide (e.base.toNat ≤ va) && decide (va < e.limit.toNat)

/-- The cache with the translation of an address moved to the front, as the most recently used (R115). -/
def useCache (va : Nat) (l : List Xlate) : List Xlate :=
  let hit (x : Xlate) : Bool := decide (x.va ≤ va) && decide (va < x.va + x.size)
  l.filter hit ++ l.filter fun x => !hit x

/-- The leaf of an entry. -/
def leafOf (w0 w1 va size : Nat) : WalkStep :=
  let addr := bits w0 15 41 * 2 ^ 15
  if bits w0 10 5 ≠ 0 || bits w0 56 8 ≠ 0 || bits w1 24 40 ≠ 0 then .fault 6
  else if addr % size ≠ 0 then .fault 7
  else .leaf { va := va / size * size, size, phys := addr, scope := BitVec.ofNat 2 (bits w0 4 2), rd := bit w0 7, wr := bit w0 8, side := BitVec.ofNat 24 w1 }

/-- Whether a physical address is one of LPDDR 6 that does not exist or lies on a channel that is fenced (R113, condition 9). -/
def badDram (fenced : Nat → Bool) (phys : Nat) : Bool := !bit phys 55 && (bits phys 37 18 ≠ 0 || fenced (bits phys 32 5))

/-- One level of the page walk (R110 to R113). Of several conditions that hold the first of this order is reported: the table's address, an uncorrectable error, then
those of the entry (DESIGN CHOICE, log entry 51). -/
def State.walkLevel (s : State) (fenced : Nat → Bool) (table level va : Nat) : WalkStep :=
  let index := bits va (52 - 11 * level) 11
  let entry (i : Nat) : Nat × Nat := (s.readPhys (table + 16 * i) 8, s.readPhys (table + 16 * i + 8) 8)
  let bad (i : Nat) : Bool := s.hardError 0 0 (table + 16 * i) 16
  if badDram fenced table then .fault 9 else if bad index then .fault 10 else
  let (w0, w1) := entry index
  if !bit w0 0 then .fault 0
  else if level = 1 && bit w0 1 then .fault 1
  else if level = 3 && !bit w0 1 then .fault 2
  else if level = 2 && bit w0 1 && bits w0 2 2 ≠ 2 then .fault 3
  else if level = 3 && 2 ≤ bits w0 2 2 then .fault 4
  else if bit w0 1 then
    if level = 2 then leafOf w0 w1 va (2 ^ 30)
    else if bits w0 2 2 = 0 then leafOf w0 w1 va (2 ^ 19)
    else
      let first := index / 64 * 64
      if bad first then .fault 10 else
      let (f0, f1) := entry first
      if !bit f0 0 || !bit f0 1 || bits f0 2 2 ≠ 1 then .fault 5 else leafOf f0 f1 va (2 ^ 25)
  else if bits w0 10 5 ≠ 0 || bits w0 56 8 ≠ 0 || bits w1 24 40 ≠ 0 then .fault 6
  else if badDram fenced (bits w0 15 41 * 2 ^ 15) then .fault 9
  else .table (bits w0 15 41 * 2 ^ 15)

/-- A whole walk, as the memory-manager core makes it for a preload entry (R115): the translation, or the condition and level of the fault. -/
def State.walkAll (s : State) (fenced : Nat → Bool) (va : Nat) : Nat → Nat → Nat → Except (Nat × Nat) Xlate
  | 0, _, level => .error (2, level)
  | fuel + 1, table, level =>
    match s.walkLevel fenced table level va with
    | .leaf x => if badDram fenced (x.phys + (va - x.va)) then .error (9, level) else .ok x
    | .table t => s.walkAll fenced va fuel t (level + 1)
    | .fault cond => .error (cond, level)

/-- A channel's cache as the memory-manager core fills it from the preload list, each page once (R115); the first entry counts as the most recently used (DESIGN CHOICE, log
entry 51). -/
def State.preloaded (s : State) (l : Launch) (c : CoreIx) (ch : ChanIx) : List Xlate :=
  ((l.img.preload.filter fun p => p.ch == ch && p.ix == l.ix c && p.iy == l.iy c).filterMap fun p =>
    match s.walkAll (fun n => s.health.fenced.getLsbD n) p.va.toNat 3 l.ptroot 1 with | .ok x => some x | .error _ => none).eraseDups

/-- Whether some preload entry of a launch faults (R115). -/
def State.preloadFaults (s : State) (l : Launch) : Bool :=
  l.img.preload.any fun p => match s.walkAll (fun n => s.health.fenced.getLsbD n) p.va.toNat 3 l.ptroot 1 with | .ok _ => false | .error _ => true

/-- The entries that a walk reads, level by level. -/
def State.walkReads (s : State) (va : Nat) : Nat → Nat → Nat → List Nat
  | 0, _, _ => []
  | fuel + 1, table, level =>
    (table + 16 * bits va (52 - 11 * level) 11) ::
      (match s.walkLevel (fun _ => false) table level va with | .table t => s.walkReads va fuel t (level + 1) | _ => [])

/-- Correctable errors that the walks of a launch's preload meet (R115, R121). -/
def State.preloadSoft (s : State) (l : Launch) : State :=
  if s.ecc.isEmpty then s else
  (l.img.preload.flatMap fun p => s.walkReads p.va.toNat 3 l.ptroot 1).foldl (fun s a => if bit a 55 then s else s.softRead (placeNoCore l.num) none 0 0 a 16) s

/-- A translation used for one slot transfer is to be counted by the memory atomic unit in the next walk slot (R117). -/
def State.countSide (s : State) (l : Launch) (c : CoreIx) (phys : Nat) (side : BitVec 24) (write : Bool) : State :=
  { s with sides := s.sides ++ [⟨l.sidebase + 8 * side.toNat, write, bit phys 55 || bits phys 35 2 ≠ (coreDie c).val⟩] }

/-- One count in a side table (R117), saturating; an entry with an uncorrectable error stays (R121). -/
def State.applySide (s : State) (k : SideCount) : State :=
  if s.hardError 0 0 k.addr 8 then s else
  let s := s.softRead (placeNoCore 0) none 0 0 k.addr 8
  let up (lo : Nat) (on : Bool) : Nat := min 0xFFFF (bits (s.readPhys k.addr 8) lo 16 + b2n on)
  s.writePhys k.addr (leBytes 2 (up 0 !k.write) ++ leBytes 2 (up 16 k.write) ++ leBytes 2 (up 32 k.remote))

/-! ### A copy reaches the head of its channel (R251, R270, R272) -/

/-- Route latency from a core to the Pantry of an address; every replica where `multi`. -/
def State.pantryRho (s : State) (c : CoreIx) (space base : Nat) (multi : Bool) : Nat :=
  if space ≠ 2 then 0
  else if multi then (match s.coreLaunch? c with
    | some l => l.replBase.foldl (fun m b => max m (dieLatency (coreDie c) ⟨b.1 % 4, Nat.mod_lt _ (by decide)⟩)) 0
    | none => 0)
  else dieLatency (coreDie c) (s.pantryPhys c base).1

def isCpcmp : Instr → Bool
  | .cpcmp .. => true
  | _ => false
def isCpbind : Instr → Bool
  | .cpbind .. => true
  | _ => false
def isCpunspill : Instr → Bool
  | .cpunspill .. => true
  | _ => false

/-- The latencies rho_s and rho_d of a copy (R270, R272). -/
def State.copyRhos (s : State) (c : CoreIx) (k : EngineCmd) (d : List Word) : Nat × Nat :=
  (if isCpset k.instr then 0 else s.pantryRho c (dscS d) (d.getD 1 0).toNat (isCpcmp k.instr),
   s.pantryRho c (dscD d) (d.getD 2 0).toNat (isCpmc k.instr))

/-- Ticks from head tick to completion word of a copy without a virtual side (R272). -/
def State.localTicks (s : State) (c : CoreIx) (k : EngineCmd) (d : List Word) : Nat :=
  let (rs, rd) := s.copyRhos c k d
  let r := if dscS d = 2 || dscD d = 2 then 64 else 256
  let ceil (a b : Nat) : Nat := (a + b - 1) / b
  if isCpbind k.instr then 8 + ceil 2048 r + 2 * rs + 88 + 1
  else
    let u := if isCpcmp k.instr then dscF d 4 0 24 / 16 else
      ((copyPieces d k.left).map fun p => ceil ((copyOff d k.left p.1 p.2.1 0).2 % 16 + p.2.2.2) 16).sum
    8 + ceil (16 * u) r + 2 * rs + 2 * rd

/-- The reservation that a descriptor names. -/
def State.copyResv (s : State) (c : CoreIx) (d : List Word) : Option Resv :=
  if dscF d 0 8 8 = 255 then none else s.resv? c (dscF d 0 8 8)

/-- Route latency to the die of a reservation. -/
def resvRho (c : CoreIx) (r : Option Resv) : Nat :=
  match r with
  | some r => dieLatency (coreDie c) ⟨r.die % 4, Nat.mod_lt _ (by decide)⟩
  | none => 0

/-- The physical tiles that a `cpunspill` writes (R256, R265): those of its first and last bytes and of the bytes at a tile's end and at a wrap. -/
def State.unspillTiles (s : State) (c : CoreIx) (k : EngineCmd) (d : List Word) : List (Fin 32) :=
  let off (x : Nat) : Nat := (copyOff d k.left 0 0 x).2
  let near := [0, 16383, 16383 - off 0 % 16384, 16384 - off 0 % 16384, dscF d 3 32 32 - 1 - off 0, dscF d 3 32 32 - off 0]
  (near.filter (· < 16384)).map fun x => s.tilePhys c ((d.getD 2 0).toNat + off x / 16384)

/-- The copy at the head of a channel's queue starts: its descriptor is read (R121, R254), `cpunspill` is checked (R265, R277), its pieces are formed, its
recurrence is found (R270). -/
def State.startCopy (s : State) (c : CoreIx) (ch : ChanIx) : State :=
  match (s.ctx c).chans[ch].queue.head?, (s.ctx c).chans[ch].run with
  | some k, none =>
    if !s.opRuns c k.owner || decide (s.tick < (s.ctx c).chans[ch].free) then s else
    let at' := 0x38000 + 64 * copyDesc k.instr
    if s.hardError 4 c at' 64 then s.copyFault c ch k 0x42 none else
    let s := s.softRead (s.placeCore k.owner.launch c 6) none 4 c at' 64
    let d := (List.range 8).map fun i => w64 (s.descDw c (copyDesc k.instr) i)
    let tiles := if isCpunspill k.instr then s.unspillTiles c k d else []
    let m := (s.ctx c).matrix
    if m.chains.toList.any (fun x => match x with | some x => tiles.contains x.tile | none => false) then s.copyFault c ch k 0x62 none
    else if tiles.any fun t => m.owners[t].pin then s.copyFault c ch k 0x63 none
    else
      let virt := dscS d = 3 || dscD d = 3
      let resv := s.copyResv c d
      let lead := 32 + resvRho c resv + 2 * (s.copyRhos c k d).1
      let slot0 := match resv with | some r => nextWheel (64 * r.slot 0) (s.tick + lead) | none => s.tick
      let run : CopyRun :=
        { desc := d, head := s.tick, pieces := copyPieces d k.left, next := 0, slot0 := if virt then slot0 else s.tick,
          wait := if virt then none else some (s.localTicks c k d), paid := false, host := [], moving := [], halves := [], units := [], dying := false, hosted := false, hashed := [], hashFirst := 0, hashWall := 0,
          hashServo := .free }
      s.updChan c ch fun x => { x with run := some run }
  | _, _ => s

/-! ### Pieces (R120, R270, R271) -/

/-- Whether a waiting unit goes to host memory. -/
def CopyRun.posts (r : CopyRun) (u : PayUnit) : Bool := dscD r.desc == 3 && bit u.phys 55

/-- The copy's host requests outstanding: reads, writes that are not yet posted, and device stores that wait for their trigger queue (R273, R424). -/
def State.hostBusy (s : State) (c : CoreIx) (ch : ChanIx) (r : CopyRun) : Nat :=
  r.host.length + s.fe.stores.count (c, ch, r.head) + ((r.units.filter r.posts).map (·.piece)).eraseDups.length

/-- Whether the next piece goes to host memory, so far as its translation is at hand (R271). -/
def State.nextIsHost (s : State) (c : CoreIx) (ch : ChanIx) (k : EngineCmd) (r : CopyRun) : Bool :=
  match r.pieces[r.next]? with
  | none => false
  | some p =>
    match s.translate c ch (pieceVa r.desc k.left p) (dscD r.desc == 3) with
    | .ok phys _ => bit phys 55
    | _ => false

/-- Whether a piece is performed in this tick: a host piece as soon as a request may be sent, any other at its slot's start (R270, R271, R273). -/
def State.pieceDue (s : State) (c : CoreIx) (ch : ChanIx) : Bool :=
  match (s.ctx c).chans[ch].queue.head?, (s.ctx c).chans[ch].run, (s.ctx c).chans[ch].walk with
  | some k, some r, none =>
    decide (r.next < r.pieces.length) && r.wait.isNone && !r.dying && s.opRuns c k.owner &&
      (if s.nextIsHost c ch k r then decide (s.hostBusy c ch r < 8)
       else if (s.copyResv c r.desc).isSome then r.slot0 == s.tick else decide (r.slot0 ≤ s.tick))
  | _, _, _ => false

/-- The ticks from the last piece to the completion word (R272); after host requests any number the bound leaves (DESIGN CHOICE, log entry 11), under
replay, which draws on no host timing (R442), the least. -/
def State.tailTicks (s : State) (c : CoreIx) (k : EngineCmd) (r : CopyRun) : Nat :=
  let (rs, rd) := s.copyRhos c k r.desc
  let rc := resvRho c (s.copyResv c r.desc)
  let dram := if isCphash k.instr then 405 + 2 * rd else if dscS r.desc = 3 then 160 + rc + 2 * rd + 1 else 160 + rc + 1
  if !r.hosted then dram else if s.tr.rpActive then r.slot0 + dram - s.tick
  else max (Config.openDelay s.fresh % (101 + 2 * rs + 2 * rd)) (r.slot0 + dram - s.tick)

/-- Whether every piece is performed and no host request is outstanding. -/
def CopyRun.performed (r : CopyRun) : Bool := decide (r.pieces.length ≤ r.next) && r.host.isEmpty && !r.units.any r.posts

/-- Once every piece is performed and no host request is outstanding, the completion word's tick is fixed. -/
def State.settleRun (s : State) (c : CoreIx) (ch : ChanIx) (k : EngineCmd) (r : CopyRun) : State :=
  let done := r.performed && r.wait.isNone
  let r' := if done then { r with wait := some (s.tailTicks c k r) } else r
  let s := s.updChan c ch fun x => { x with run := some r' }
  if done && r.hosted && !s.tr.rpActive then { s with fresh := s.fresh + 1 } else s

/-- The ingress hasher takes the bytes of a piece (R264); the first byte reaches its lane over the Hall route (R19, R120). -/
def hashPiece (ins : Instr) (n first : Nat) (bytes : List Byte) (r : CopyRun) : CopyRun :=
  if isCphash ins then { r with hashed := (n, bytes) :: r.hashed, hashFirst := if r.hashed.isEmpty then first else r.hashFirst } else r

/-- CPXLATE (R113, R277), to be recorded as the phase ends (R279). -/
def State.xlateFault (s : State) (c : CoreIx) (ch : ChanIx) (k : EngineCmd) (va cond level : Nat) : State :=
  { s with faults := s.faults ++ [⟨c, ch, 0x41, k.owner, k.fdom, k.tag, copyDesc k.instr, some va, some (cond, level)⟩] }

/-- A piece performed in its slot: one to the virtual side forms units that are read and written in this tick, or as soon as their banks are free (R274); one from it is
read and on its way to its destination, which it reaches one tick before the completion word could be written (R72, R120; DESIGN CHOICE, log entry 52). -/
def State.slotPiece (s : State) (c : CoreIx) (k : EngineCmd) (r : CopyRun) (phys : Nat) (p : Nat × Nat × Nat × Nat) : State × CopyRun × Bool :=
  if dscD r.desc = 3 then (s, { r with units := r.units ++ r.readUnits k.left phys r.next }, true) else
  match s.takePiece c k r.desc phys p with
  | (s', bytes, fine) =>
    let left := 160 + resvRho c (s.copyResv c r.desc) + 2 * (s.copyRhos c k r.desc).2
    (s', { hashPiece k.instr r.next (s.tick + 96 + 50) (bytes.map (·.2)) r with moving := r.moving ++ [(left, r.next, bytes)] }, fine)

/-- SLOT_TRANSFER (R120, R256, R271): the next piece is translated, counted and moved; a miss starts a walk, a fault cancels. -/
def execSlotTransfer (c : CoreIx) (ch : ChanIx) (s : State) : Out :=
  if !s.pieceDue c ch then .next s else
  match (s.ctx c).chans[ch].queue.head?, (s.ctx c).chans[ch].run with
  | some k, some r =>
    match r.pieces[r.next]?, s.coreLaunch? c with
    | some p, some l =>
      let d := r.desc
      let va := pieceVa d k.left p
      let write := dscD d == 3
      match s.translate c ch va write with
      | .fault cond level => .next (s.xlateFault c ch k va cond level)
      | .miss => .next (s.updChan c ch fun x => { x with walk := some ⟨va, 1, l.ptroot, none⟩ })
      | .ok phys side =>
        let host := bit phys 55
        let resv := s.copyResv c d
        let right := match resv with | some v => bits phys 35 2 == v.die && bits phys 32 3 == v.chan | none => false
        if !host && !right then .next (s.copyFault c ch k 0x43 (some va)) else
        let s := s.countSide l c phys side write
        let s := if s.rangeHit c va then s else s.updChan c ch fun x => { x with cache := useCache va x.cache }
        let (s, r, ok) := if host && !write then (s, r, true) else s.slotPiece c k r phys p
        if !ok then .next (s.copyFault c ch k 0x42 none) else
        let slot' := match resv with | some v => if r.next + 1 < r.pieces.length then nextWheel (64 * v.slot (r.next + 1)) (max (s.tick + 1) r.slot0) else s.tick
                                     | none => if r.next + 1 < r.pieces.length then s.tick + 1 else s.tick
        let r := { r with next := r.next + 1, slot0 := slot', hosted := r.hosted || host,
                          host := if host && !write then r.host ++ [(r.next, 0, phys)] else r.host }
        .next (s.settleRun c ch k r)
    | _, _ => .next s
  | _, _ => .next s

/-- Walk slots: slots 128 and 384 of every turn (R119). -/
def isWalkSlot (t : Nat) : Bool := t % 16384 == 8192

/-- A walk's table entry is read in the slot (R116, R120); its level completes 160 ticks later. -/
def State.serveWalk (s : State) (c : CoreIx) (ch : ChanIx) (n : LaunchNo) (w : Walk) : State :=
  let step := s.walkLevel (s.fencedFor c) w.table w.level w.va
  let s := s.softRead (s.placeCore n c 6) (some n) 0 0 (w.table + 16 * bits w.va (52 - 11 * w.level) 11) 16
  s.updChan c ch fun x => { x with walk := some { w with served := some (s.tick + 160, step) } }

/-- In a walk slot the side tables take their counts (R117), and each memory channel serves up to 64 reads, in ascending order of die, core and channel (R116). The
reread of a group's first entry belongs to its entry's read, and a table in host memory is served by the channel that bits [36:32] of its address name (DESIGN CHOICE,
log entry 51). -/
def State.serveWalks (s : State) : State :=
  if !isWalkSlot s.tick then s else
  let s := s.sides.foldl State.applySide { s with sides := [] }
  let order := (List.finRange 4).flatMap fun d => allCores.filter fun c => coreDie c == d
  let all := order.flatMap fun c => (List.finRange 4).map fun ch => (c, ch)
  let waiting := all.filter fun q =>
    match (s.ctx q.1).chans[q.2].walk, (s.ctx q.1).chans[q.2].queue.head? with
    | some w, some k => w.served.isNone && s.opRuns q.1 k.owner
    | _, _ => false
  let chanOf (q : CoreIx × ChanIx) : Nat := match (s.ctx q.1).chans[q.2].walk with | some w => bits w.table 32 5 | none => 0
  (List.range 32).foldl (fun s m => ((waiting.filter fun q => chanOf q == m).take 64).foldl (fun s q =>
    match (s.ctx q.1).chans[q.2].walk, (s.ctx q.1).chans[q.2].queue.head? with
    | some w, some k => s.serveWalk q.1 q.2 k.owner.launch w
    | _, _ => s) s) s

/-- Whether a level of a channel's walk completes. -/
def State.walkDue (s : State) (c : CoreIx) (ch : ChanIx) : Bool :=
  match (s.ctx c).chans[ch].walk, (s.ctx c).chans[ch].queue.head? with
  | some w, some k => (match w.served with | some t => decide (t.1 ≤ s.tick) | none => false) && s.opRuns c k.owner
  | _, _ => false

/-- The slot recurrence that a replay holds a missing copy to (R116, R441). -/
def State.recordedMiss (s : State) (c : CoreIx) (ch : ChanIx) (n : LaunchNo) (va : Nat) : Option Nat :=
  ((s.recorded 0x08).find? fun r => bits (recWord r 3) 0 4 == 2 && bits (recWord r 3) 4 8 == ch.val && recWord r 4 == va && recLaunch r == n &&
    bits (recWord r 2) 16 6 == c.val && decide (s.tick + 24 ≤ recWord r 6)).map fun r => recWord r 6

/-- TRANSLATION_WALK (R110 to R116): one level of the walk completes; at its end the translation is cached and the copy takes a later recurrence. -/
def execTranslationWalk (c : CoreIx) (ch : ChanIx) (s : State) : Out :=
  if !s.walkDue c ch then .next s else
  match (s.ctx c).chans[ch].walk, (s.ctx c).chans[ch].queue.head?, (s.ctx c).chans[ch].run with
  | some w, some k, some r =>
    match s.coreLaunch? c, w.served with
    | some l, some (_, step) =>
      let write := dscD r.desc == 3
      let fail (cond : Nat) : State := s.xlateFault c ch k w.va cond w.level
      match step with
      | .fault cond => .next (fail cond)
      | .table t => .next (s.updChan c ch fun x => { x with walk := some ⟨w.va, w.level + 1, t, none⟩ })
      | .leaf x =>
        match s.xlateCheck c (x.phys + (w.va - x.va)) x.rd x.wr write x.side w.level with
        | .fault cond _ => .next (fail cond)
        | _ =>
          let slot' := match s.recordedMiss c ch k.owner.launch w.va with
            | some t => t
            | none => match s.copyResv c r.desc with | some v => nextWheel (64 * v.slot r.next) (s.tick + 24) | none => s.tick + 24
          let s := s.updChan c ch fun y => { y with walk := none, cache := (x :: y.cache).take 32, run := some { r with slot0 := slot' } }
          .next (s.faultRec (some (s.placeCore k.owner.launch c 6)) 2 ch 0 false k.fdom w.va k.tag.toNat slot')
    | _, _ => .next s
  | _, _, _ => .next s

/-! ### Host requests (R273) -/

/-- CPHOST (R273, R277): a host request of the channel has been outstanding for 16,384 ticks. -/
def execCphost (c : CoreIx) (ch : ChanIx) (s : State) : Out :=
  match (s.ctx c).chans[ch].queue.head?, (s.ctx c).chans[ch].run with
  | some k, some r => if !r.dying && r.host.any fun h => decide (16384 ≤ h.2.1) then .next (s.copyFault c ch k 0x45 none) else .next s
  | _, _ => .next s

/-- The oldest outstanding host request of a copy completes with its data, which form units that wait for their banks. -/
def State.hostData (s : State) (c : CoreIx) (k : EngineCmd) (r : CopyRun) : CopyRun :=
  match r.host with
  | [] => r
  | (n, _, phys) :: rest =>
    match r.pieces[n]? with
    | none => r
    | some p =>
      let bytes := s.pieceBytes c r.desc k.left (isCpset k.instr) phys p
      let first := isCphash k.instr && r.hashed.isEmpty
      let r := { hashPiece k.instr n s.tick (bytes.map (·.2)) r with host := rest }
      (if first then { r with hashWall := s.tm.ns, hashServo := s.tm.servo } else r).landPiece k.left n bytes

/-- The copy of a channel in a core's Attic, where it has a host request outstanding: that came before any of the present context (R273, R278). -/
def State.storedCopy (s : State) (c : CoreIx) (ch : ChanIx) : Option (EngineCmd × CopyRun) :=
  match (s.core c).attic with
  | none => none
  | some a =>
    match a.ctx.chans[ch].queue.head?, a.ctx.chans[ch].run with
    | some k, some r => if r.host.isEmpty then none else some (k, r)
    | _, _ => none

/-- The copy of a channel in the Attic changed. -/
def State.updStored (s : State) (c : CoreIx) (ch : ChanIx) (r : CopyRun) : State :=
  s.updCore c fun k => { k with attic := k.attic.map fun a => { a with ctx := { a.ctx with chans := a.ctx.chans.set ch { a.ctx.chans[ch] with run := some r } } } }

/-- HOST_REQUEST_COMPLETION (R273): the oldest outstanding request of the channel completes, with its data or with an error. One of a copy in the Attic completes there;
where it fails or came too late, CPHOST is raised once the copy has resumed. -/
def execHostRequestCompletion (c : CoreIx) (ch : ChanIx) (ok : Bool) (s : State) : Out :=
  match s.storedCopy c ch with
  | some (k, r) =>
    if r.host.any fun h => decide (16384 ≤ h.2.1) then .next s
    else if !ok then .next (s.updStored c ch { r with host := r.host.modify 0 fun h => (h.1, 16384, h.2.2) })
    else .next (s.updStored c ch (s.hostData c k r))
  | none =>
    match (s.ctx c).chans[ch].queue.head?, (s.ctx c).chans[ch].run with
    | some k, some r =>
      if r.host.isEmpty || r.dying then .next s
      else if !ok then .next (s.copyFault c ch k 0x45 none)
      else .next (s.updChan c ch fun x => { x with run := some (s.hostData c k r) })
    | _, _ => .next s

/-! ### Completion (R266, R274, R275) -/

/-- A range-table entry as its four double-words give it (R109). -/
def rangeOf (w : Nat → Nat) : RangeEntry :=
  { base := BitVec.ofNat 52 (w 0), limit := BitVec.ofNat 52 (w 1), offset := BitVec.ofNat 56 (w 2), valid := bit (w 3) 0,
    scope := BitVec.ofNat 2 (bits (w 3) 4 2), sysatom := bit (w 3) 6, rd := bit (w 3) 7, wr := bit (w 3) 8, at' := bit (w 3) 9,
    side := BitVec.ofNat 24 (bits (w 3) 32 24) }

/-- Whether a range-table entry breaks R109. -/
def rangeBad (w : Nat → Nat) : Bool :=
  let last := w 2 + (w 1 - w 0 - 1)
  bits (w 0) 0 12 ≠ 0 || bits (w 0) 52 12 ≠ 0 || bits (w 1) 0 12 ≠ 0 || bits (w 1) 52 12 ≠ 0 || bits (w 2) 0 12 ≠ 0 || bits (w 2) 56 8 ≠ 0 ||
  bits (w 3) 1 3 ≠ 0 || bits (w 3) 10 22 ≠ 0 || bits (w 3) 56 8 ≠ 0 ||
  (bit (w 3) 0 && (decide (w 1 ≤ w 0) || decide (2 ^ 56 ≤ last) || bit last 55 != bit (w 2) 55 || (!bit last 55 && bits last 37 18 ≠ 0)))

/-- RANGE_TABLE_INSTALL (R266): in tick I the table is read and checked, and installed on every core of the launch, those
whose context is in the Attic too, with all its caches emptied. -/
def execRangeTableInstall (c : CoreIx) (ch : ChanIx) (s : State) : Out :=
  match (s.ctx c).chans[ch].queue.head?, (s.ctx c).chans[ch].run with
  | some k, some r =>
    match s.coreLaunch? c with
    | none => .next s
    | some l =>
      if !(isCpbind k.instr && r.wait == some 1 && !r.dying && s.opRuns c k.owner) then .next s else
      match r.pieces.head? with
      | none => .next s
      | some p =>
        let hard := s.pieceHard c r.desc 0 false 0 p
        let s := s.pieceSoft c r.desc 0 k.owner 0 p
        let bytes := (s.pieceBytes c r.desc 0 false 0 p).map (·.2)
        let w (e i : Nat) : Nat := leNat ((bytes.drop (32 * e + 8 * i)).take 8)
        if hard.isSome then .next (s.copyFault c ch k 0x42 none)
        else if (List.range 64).any fun e => rangeBad (w e) then .next (s.copyFault c ch k 0x44 none)
        else
          let bind (x : CoreCtx) : CoreCtx := { x with ranges := (List.range 64).map fun e => rangeOf (w e), chans := x.chans.map fun y => { y with cache := [] } }
          .next (l.cores.foldl (fun s o =>
            if (s.core o).attic.map Attic.launch == some l.num then s.updCore o fun k => { k with attic := k.attic.map fun a => { a with ctx := bind a.ctx } }
            else s.updCtx o bind) s)
  | _, _ => .next s

/-- A channel's accesses on chip in a tick, once the scheduled accesses are made (R130, R274, R275): bytes that have come form units, and what can move does. -/
def State.payChan (s : State) (c : CoreIx) (ch : ChanIx) : State :=
  match (s.ctx c).chans[ch].queue.head?, (s.ctx c).chans[ch].run with
  | some k, some r =>
    let pays := !r.paid && (match r.wait with | some n => decide (n ≤ 1) | none => false)
    if !s.copyRuns c k r || !(pays || !r.units.isEmpty || (r.moving.any fun m => m.1 == 0) || (r.wait.isNone && r.performed)) then s else
    match s.payCopy c ch k (r.landMoving k.left false) with
    | (s, r, ok) =>
      let s := s.settleRun c ch k r
      if ok || r.dying then s else s.copyFault c ch k 0x42 none
  | _, _ => s

/-- The channels of a core, in ascending order. -/
def State.payCore (s : State) (c : CoreIx) : State := (List.finRange 4).foldl (fun s ch => s.payChan c ch) s

/-- COMPLETION_WORD_WRITE (R275): its tick has come, every payload write stands and the word's bank is free (R274): the word is written. -/
def execCompletionWordWrite (c : CoreIx) (ch : ChanIx) (s : State) : Out :=
  match (s.ctx c).chans[ch].queue.head?, (s.ctx c).chans[ch].run with
  | some k, some r =>
    if !(r.dueNow && s.copyRuns c k r && r.allPaid k && s.wordFree c r) then .next s
    else if s.badWrite 1 c (s.aPhys c (dscF r.desc 0 32 22)) 8 then .next (if r.dying then s else s.copyFault c ch k 0x42 none)
    else .next (s.completeCopy c ch k r)
  | _, _ => .next s

/-! ### The channels in a tick -/

/-- The requests of a channel grow older. -/
def CopyChan.older (x : CopyChan) : CopyChan := { x with run := x.run.map fun r => { r with host := r.host.map fun h => (h.1, h.2.1 + 1, h.2.2) } }

/-- A channel at the end of a tick: the countdown to the completion word, requests' ages, a slot that has passed taken at its next recurrence (R72),
the wall time of the hasher's first byte. -/
def CopyChan.tickEnd (runs : Bool) (tick : Nat) (resv : Bool) (tm : TimeState) (x : CopyChan) : CopyChan :=
  { x with run := x.run.map fun r =>
      let r := if r.hashFirst = tick && !r.hashed.isEmpty then { r with hashWall := tm.ns, hashServo := tm.servo } else r
      { r with wait := if runs then r.wait.map (· - 1) else r.wait,
               host := r.host.map fun h => (h.1, h.2.1 + 1, h.2.2),
               moving := if runs then r.moving.map fun m => (m.1 - 1, m.2) else r.moving,
               slot0 := if resv && r.wait.isNone && decide (r.next < r.pieces.length) && decide (r.slot0 ≤ tick) then r.slot0 + 32768 else r.slot0 } }

/-- A copy at a swap-out (R278): the transfers under way end. -/
def State.endPieces (s : State) (c : CoreIx) : State :=
  (List.finRange 4).foldl (fun s ch =>
    match (s.ctx c).chans[ch].queue.head?, (s.ctx c).chans[ch].run with
    | some k, some r =>
      if r.onChip || (r.units.isEmpty && r.moving.isEmpty) then s else
      let r := r.landMoving k.left true
      let s := r.units.foldl (fun s u => match s.takeUnit c k r u with | (s, some b) => (s.postUnit c ch k r u b).1 | (s, none) => s) s
      s.updChan c ch fun x => { x with run := some { r with units := [] } }
    | _, _ => s) s

/-- Copies that were cut in the tick, and were not complete in it, leave their channels (R278). -/
def State.dropCut (s : State) (c : CoreIx) : State :=
  (List.finRange 4).foldl (fun s ch =>
    match (s.ctx c).chans[ch].queue.head?, (s.ctx c).chans[ch].run with
    | some k, some r => if r.dying then (s.partialCopy c ch k r).updChan c ch fun x => { x with queue := x.queue.drop 1, run := none } else s
    | _, _ => s) s

/-- The range tables that a core's copies install in this tick (R266). -/
def State.installDues (s : State) (c : CoreIx) : List Instr :=
  (List.finRange 4).flatMap fun ch =>
    match (s.ctx c).chans[ch].queue.head?, (s.ctx c).chans[ch].run with
    | some k, some r => if isCpbind k.instr && r.wait == some 1 && !r.dying && s.opRuns c k.owner then [.rangeTableInstall c ch] else []
    | _, _ => []

/-- Whether data of a channel's host request comes in this tick: a request that completes in its 16,384th tick is in time (R273). -/
def State.dataComes (s : State) (c : CoreIx) (ch : ChanIx) : Bool :=
  s.inputs.any fun e => decide (e.1 ≤ s.tick) && match e.2 with | .event (.hostRequestCompletion d h _) => d == c && h == ch | _ => false

/-- A started channel with dues: what the copy engine of a core does in this tick before commits. -/
def State.copyDues (s : State) (c : CoreIx) : List Instr :=
  (List.finRange 4).flatMap fun ch =>
    (if s.walkDue c ch then [.translationWalk c ch] else []) ++
    (if s.pieceDue c ch then [.slotTransfer c ch] else []) ++
    (match (s.ctx c).chans[ch].queue.head?, (s.ctx c).chans[ch].run with
     | some k, some r =>
       (if !r.dying && (r.host.any fun h => decide (16384 ≤ h.2.1)) && !s.dataComes c ch then [.cphost c ch] else [])
     | _, _ => [])

/-- The completion words due in this tick, in ascending channel order (R274). -/
def State.wordDues (s : State) (c : CoreIx) : List Instr :=
  (List.finRange 4).flatMap fun ch =>
    match (s.ctx c).chans[ch].queue.head?, (s.ctx c).chans[ch].run with
    | some k, some r => if r.dueNow && s.copyRuns c k r then [.completionWordWrite c ch] else []
    | _, _ => []

/-! ### The faults of a tick (R277, R279) -/

/-- The state that an outcome gives, or the one it started from. -/
def outOf (o : Out) (s : State) : State := match o with | .next t => t | _ => s

/-- What a channel would still meet in this tick, were its fault domain not cancelled; `early`: what its engine does before the commits is to come too. -/
def State.faultsAhead (s : State) (early : Bool) (c : CoreIx) (ch : ChanIx) : List CopyFault :=
  let t := { s with faults := [] }
  let t := if !early then t else
    let t := if (t.ctx c).chans[ch].queue.isEmpty then t else t.startCopy c ch
    let t := if t.walkDue c ch then outOf (execTranslationWalk c ch t) t else t
    let t := outOf (execSlotTransfer c ch t) t
    if t.dataComes c ch then t else outOf (execCphost c ch t) t
  let t := t.payChan c ch
  (outOf (execCompletionWordWrite c ch t) t).faults.take 1

/-- The faults that the copies of a tick meet, in the order of their channels: those of the present phase, and those that other channels of the same fault domains would
meet in the tick's later phases. A copy that is cut in the tick has none. -/
def State.tickFaults (s : State) : List CopyFault :=
  let doms := (s.faults.map (·.fdom)).eraseDups
  let early := s.phase == .fires
  let cut (f : CopyFault) : Bool :=
    match (s.ctx f.core).chans[f.chan].queue.head?, (s.ctx f.core).chans[f.chan].run with
    | some k, some r => r.dying && k.owner == f.owner && f.code != 0x40
    | _, _ => false
  let ahead := if s.phase != .fires && s.phase != .engines && s.phase != .engineEnds && s.phase != .commits then [] else
    (allCores.filter fun c => (s.core c).launch != 0).flatMap fun c => (List.finRange 4).flatMap fun ch =>
      match (s.ctx c).chans[ch].queue.head? with
      | some k => if doms.contains k.fdom && !(s.faults.any fun f => f.core == c && f.chan == ch) then s.faultsAhead early c ch else []
      | none => []
  sortBy (fun f => 4 * f.core.val + f.chan.val) ((s.faults ++ ahead).filter fun f => !cut f)

/-- A copy fault recorded (R113, R277, R280): cause registers, CP_FAULT and CP_FAULTVA, and the FAULT record; the copy performs nothing more. -/
def State.recordFault (s : State) (f : CopyFault) : State :=
  let c := f.core
  let detail := f.chan.val + f.desc * 4
  let s := s.updCtx c fun x => { x with cpDesc := BitVec.ofNat 9 f.desc, cpChan := BitVec.ofNat 2 f.chan, cpCode := BitVec.ofNat 8 f.code,
                                        cpVa := match f.va with | some v => BitVec.ofNat 52 v | none => x.cpVa }
  let s := s.setCause c f.owner.seq ⟨BitVec.ofNat 8 f.code, BitVec.ofNat 32 detail⟩ f.owner.block
  let place := some (s.placeCore f.owner.launch c f.owner.seq)
  let s := match f.cond with
    | some (cond, level) => s.faultRec place 3 cond detail true f.fdom (f.va.getD 0) (f.tag.toNat + level % 4 * 2 ^ 32 + cond * 2 ^ 34) 0
    | none => s.faultRec place 0 f.code detail true f.fdom (f.va.getD f.owner.block.toNat) f.tag.toNat 0
  if f.code = 0x40 then s else s.updChan c f.chan fun x => if x.queue.head?.map EngineCmd.owner = some f.owner then { x with queue := x.queue.drop 1, run := none, walk := none } else x

/-- The copy faults of the phase are recorded, and their fault domains cancelled, each once (R279). A cancellation of a later phase forestalls none of them (DESIGN CHOICE,
log entry 4). -/
def State.settleFaults (s : State) : State :=
  if s.faults.isEmpty then s else
  let l := s.tickFaults
  (l.map (·.fdom)).eraseDups.foldl State.cancelDomain (l.foldl State.recordFault { s with faults := [] })

end Sys2Proof.Machine
end

