-- ==== Sys2Proof/Machine/Lanes.lean ====
section
/-! DEFINITION. Fabric vectors and stage operations (R283, R316 to R323): what each opcode computes, lane by lane, and its latency. -/

namespace Sys2Proof.Machine

/-- Lane j of a vector (R282). -/
def lane (v : Vec) (j : Nat) : Word32 := v.extractLsb' (32 * j) 32

/-- The vector with given lanes. -/
def ofLanes (f : Nat → Word32) : Vec := BitVec.ofNat 512 ((List.range 16).foldl (fun a j => a + (f j).toNat * 2 ^ (32 * j)) 0)

/-- A value in every lane. -/
def broadcast (w : Word32) : Vec := ofLanes fun _ => w

def w32 (n : Nat) : Word32 := BitVec.ofNat 32 n

/-- Latency of an opcode (R316). -/
def opLatency (op : Nat) : Nat :=
  if op = 0x03 || op = 0x04 || op = 0x05 || op = 0x30 || op = 0x31 || op = 0x32 || (0x38 ≤ op && op ≤ 0x3A) || op = 0x71 || op = 0x72 then 3
  else if op = 0x33 || op = 0x3B || op = 0x80 then 4
  else if (0x40 ≤ op && op ≤ 0x44) || op = 0x61 then 8
  else if op = 0x60 || (0x62 ≤ op && op ≤ 0x65) || op = 0x70 then 2
  else 1

/-- Operands that an opcode uses: A, B, C (R289, R316). -/
def opUses (op : Nat) : Option (Bool × Bool × Bool) :=
  if op = 0x00 || (0x14 ≤ op && op ≤ 0x16) || op = 0x36 || op = 0x37 || (0x40 ≤ op && op ≤ 0x44) || op = 0x51 || op = 0x52 || op = 0x58 ||
     (0x60 ≤ op && op ≤ 0x65) || op = 0x70 then some (true, false, false)
  else if op = 0x55 || op = 0x56 then some (true, false, true)
  else if op = 0x05 || op = 0x2A || op = 0x33 || op = 0x3B || op = 0x53 || op = 0x54 then some (true, true, true)
  else if (0x01 ≤ op && op ≤ 0x13) || (0x20 ≤ op && op ≤ 0x29) || (0x2B ≤ op && op ≤ 0x2D) || (0x30 ≤ op && op ≤ 0x32) || op = 0x34 || op = 0x35 ||
     (0x38 ≤ op && op ≤ 0x3A) || op = 0x3C || op = 0x3D || op = 0x50 || op = 0x71 || op = 0x72 || op = 0x80 then some (true, true, false)
  else none

/-- Whether an opcode rounds under CTL.RND, uses CTL.SAT, SEL, LND (R316). -/
def opUsesRnd (op : Nat) : Bool := (0x30 ≤ op && op ≤ 0x3D) || op = 0x42 || op = 0x43 || op = 0x61 || (0x70 ≤ op && op ≤ 0x72)
def opUsesSat (op : Nat) : Bool := 0x70 ≤ op && op ≤ 0x72
def opUsesSel (op : Nat) : Bool := op == 0x51 || op == 0x52

/-- What a stage operation works with beside its operands: rounding, saturation, SEL, formats, and the draw of a lane (R154, R310). -/
structure OpCtl where
  rnd : Round
  sat : Bool
  sel : Nat
  src : Fmt
  dst : Fmt
  key : Word
  layer : BitVec 16
  index : Nat

/-- The draw for lane j (R316). -/
def OpCtl.draw (k : OpCtl) (j : Nat) : Word32 := rsrDraw k.key k.layer (k.index + j)

def ofBf16 (w : Word32) : Val := bf16Fmt.decode (w.toNat % 65536)
def toBf16 (mode : Round) (h : Word32) (v : Val) : Word32 := w32 (roundVal .bf16 mode h false false v)
def b2w (b : Bool) : Word32 := if b then 1 else 0

/-- Leading zeros of 32 bits. -/
def clz32 (w : Word32) : Nat := ((List.range 32).find? fun i => w.getLsbD (31 - i)).getD 32
def popc32 (w : Word32) : Nat := ((List.range 32).filter fun i => w.getLsbD i).length

/-- Sign bit cleared or inverted; a NaN gives the canonical NaN (R316). -/
def signOp (f : Word32 → Word32) (w : Word32) : Word32 := if (ofFp32 w).isNaN then 0x7FC00000 else f w

/-- A comparison of two values (R162). -/
def fle (x y : Val) : Bool := Val.lt x y || Val.eq x y

/-- One lane of the operations that act on each lane by itself (R316, R317, R318, R321, R322). -/
def laneOp (op : Nat) (k : OpCtl) (j : Nat) (a b c : Word32) : Word32 :=
  let s (w : Word32) : Int := w.toInt
  let x := ofFp32 a
  let y := ofFp32 b
  let z := ofFp32 c
  let p := ofBf16 a
  let q := ofBf16 b
  let r := ofBf16 c
  let dn := k.rnd == .rdn
  let f32 (v : Val) := toFp32 k.rnd (k.draw j) v
  let f16 (v : Val) := toBf16 k.rnd (k.draw j) v
  let e32 (v : Val) := toFp32 .rne 0 v
  let clamp (v : Int) : Word32 := BitVec.ofInt 32 (clampInt (-(2 ^ 31)) (2 ^ 31 - 1) v)
  match op with
  | 0x00 | 0x58 => a
  | 0x01 => a + b
  | 0x02 => a - b
  | 0x03 => a * b
  | 0x04 => BitVec.ofInt 32 (s a * s b / 2 ^ 32)
  | 0x05 => a * b + c
  | 0x06 => clamp (s a + s b)
  | 0x07 => clamp (s a - s b)
  | 0x08 => if s b < s a then b else a
  | 0x09 => if s a < s b then b else a
  | 0x0A => if b < a then b else a
  | 0x0B => if a < b then b else a
  | 0x0C => a &&& b
  | 0x0D => a ||| b
  | 0x0E => a ^^^ b
  | 0x0F => a &&& ~~~b
  | 0x10 => a <<< (b.toNat % 32)
  | 0x11 => a >>> (b.toNat % 32)
  | 0x12 => a.sshiftRight (b.toNat % 32)
  | 0x13 => a.rotateLeft (b.toNat % 32)
  | 0x14 => if a = 0x80000000 then 0x7FFFFFFF else if s a < 0 then -a else a
  | 0x15 => w32 (clz32 a)
  | 0x16 => w32 (popc32 a)
  | 0x20 => b2w (a == b)
  | 0x21 => b2w (a != b)
  | 0x22 => b2w (decide (s a < s b))
  | 0x23 => b2w (decide (s a ≤ s b))
  | 0x24 => b2w (decide (a < b))
  | 0x25 => b2w (decide (a ≤ b))
  | 0x26 => b2w (Val.eq x y)
  | 0x27 => b2w (Val.lt x y)
  | 0x28 => b2w (fle x y)
  | 0x29 => b2w (x.isNaN || y.isNaN)
  | 0x2A => if c.getLsbD 0 then a else b
  | 0x2B => b2w (Val.eq p q)
  | 0x2C => b2w (Val.lt p q)
  | 0x2D => b2w (fle p q)
  | 0x30 => f32 (Val.add dn x y)
  | 0x31 => f32 (Val.add dn x y.negate)
  | 0x32 => f32 (Val.mul x y)
  | 0x33 => f32 (Val.add dn (Val.mul x y) z)
  | 0x34 => e32 (Val.min x y)
  | 0x35 => e32 (Val.max x y)
  | 0x36 => signOp (fun w => w &&& 0x7FFFFFFF) a
  | 0x37 => signOp (fun w => w ^^^ 0x80000000) a
  | 0x38 => f16 (Val.add dn p q)
  | 0x39 => f16 (Val.add dn p q.negate)
  | 0x3A => f16 (Val.mul p q)
  | 0x3B => f16 (Val.add dn (Val.mul p q) r)
  | 0x3C => toBf16 .rne 0 (Val.min p q)
  | 0x3D => toBf16 .rne 0 (Val.max p q)
  | 0x40 => e32 (fnSigm x)
  | 0x41 => e32 (fnExp x)
  | 0x42 => f32 (fnRcp x)
  | 0x43 => f32 (fnRsqrt x)
  | 0x44 => e32 (fnTanh x)
  | 0x53 => let n := 8 * (c.toNat % 4); (b &&& ~~~((0xFF : Word32) <<< n)) ||| ((a &&& 0xFF) <<< n)
  | 0x54 => let n := 16 * (c.toNat % 2); (b &&& ~~~((0xFFFF : Word32) <<< n)) ||| ((a &&& 0xFFFF) <<< n)
  | 0x55 => (a >>> (8 * (c.toNat % 4))) &&& 0xFF
  | 0x56 => (a >>> (16 * (c.toNat % 2))) &&& 0xFFFF
  | 0x70 => w32 (convert k.src k.dst k.rnd (k.draw j) k.sat (a.toNat % 2 ^ (8 * fmtBytes k.src)))
  | 0x71 => w32 (qnt k.src k.dst k.rnd (k.draw j) k.sat (a.toNat % 2 ^ (8 * fmtBytes k.src)) (b.toNat % 512))
  | 0x72 => w32 (dq k.src k.dst k.rnd (k.draw j) k.sat (a.toNat % 2 ^ (8 * fmtBytes k.src)) (b.toNat % 512))
  | 0x80 => kch k.key (k.layer ++ (b.setWidth 16 : BitVec 16) ++ a)
  | _ => 0

/-- One level of a tree over lanes (R320): lane j combined with lane j + n for each j that is a multiple of 2n; lane j keeps the result. -/
def treeLevel (f : Nat → Word32 → Word32 → Word32) (n : Nat) (v : List Word32) : List Word32 :=
  (List.range 16).map fun j => if j % (2 * n) = 0 then f (j + n) (v.getD j 0) (v.getD (j + n) 0) else v.getD j 0

/-- A tree over the 16 lanes; `f` is given the lowest lane of the right group (R320). -/
def treeFold (f : Nat → Word32 → Word32 → Word32) (v : Vec) : Word32 :=
  (treeLevel f 8 (treeLevel f 4 (treeLevel f 2 (treeLevel f 1 ((List.range 16).map (lane v)))))).headD 0

/-- The result of a stage operation (R316). -/
def stageOp (op : Nat) (k : OpCtl) (a b c : Vec) : Vec :=
  match op with
  | 0x50 => ofLanes fun j => lane a ((lane b j).toNat % 16)
  | 0x51 => ofLanes fun j => lane a ((j + k.sel) % 16)
  | 0x52 => broadcast (lane a (k.sel % 16))
  | 0x60 => broadcast (treeFold (fun _ x y => x + y) a)
  | 0x61 => broadcast (treeFold (fun j x y => toFp32 k.rnd (k.draw j) (Val.add (k.rnd == .rdn) (ofFp32 x) (ofFp32 y))) a)
  | 0x62 => broadcast (treeFold (fun _ x y => if y.toInt < x.toInt then y else x) a)
  | 0x63 => broadcast (treeFold (fun _ x y => if x.toInt < y.toInt then y else x) a)
  | 0x64 => broadcast (treeFold (fun _ x y => toFp32 .rne 0 (Val.min (ofFp32 x) (ofFp32 y))) a)
  | 0x65 => broadcast (treeFold (fun _ x y => toFp32 .rne 0 (Val.max (ofFp32 x) (ofFp32 y))) a)
  | op => ofLanes fun j => laneOp op k j (lane a j) (lane b j) (lane c j)

/-- An S-cell atomic on one lane word (R323). -/
def atomicLane (op : Nat) (k : OpCtl) (j : Nat) (old data : Word32) : Word32 :=
  match op with
  | 0x90 => old + data
  | 0x91 => toFp32 k.rnd (k.draw j) (Val.add (k.rnd == .rdn) (ofFp32 old) (ofFp32 data))
  | 0x92 => if data.toInt < old.toInt then data else old
  | 0x93 => if old.toInt < data.toInt then data else old
  | _ => old

end Sys2Proof.Machine
end

