-- ==== Sys2Proof/Machine/Fabric.lean ====
section
/-! DEFINITION. The fabric engine: planes and their loading (R187 to R190, R302 to R309), rounds, rows, buses, S cells and Landings (R284 to R300), region commands (R304 to R315). -/

namespace Sys2Proof.Machine

/-! ### Cells and plane fields (R15, R187, R284, R288, R294 to R296) -/

/-- V cell, by its number 8y + x (R15). -/
def isV (cell : Nat) : Bool := (min (cell % 8) (7 - cell % 8) + min (cell / 8) (7 - cell / 8)) % 2 == 0
/-- Converter cells (R190). -/
def isConverter (cell : Nat) : Bool := cell == 9 || cell == 14 || cell == 49 || cell == 54
/-- Number of an S cell (R92). -/
def sCellNumber (cell : Nat) : Nat := ((List.range cell).filter fun k => !isV k).length
/-- Quadrant of a cell (R284). -/
def cellQuad (cell : Nat) : Nat := b2n (4 ≤ cell % 8) + 2 * b2n (4 ≤ cell / 8)

def RegionDecl.has (d : RegionDecl) (cell : Nat) : Bool :=
  decide (d.x ≤ cell % 8) && decide (cell % 8 < d.x + d.w) && decide (d.y ≤ cell / 8) && decide (cell / 8 < d.y + d.h)
/-- The cells of a region. -/
def RegionDecl.cells (d : RegionDecl) : List Nat := (List.range 64).filter d.has
/-- Whether a region owns the address generators of a quadrant. -/
def RegionDecl.owns (d : RegionDecl) (quad : Nat) : Bool := d.cells.any fun k => cellQuad k == quad

/-- Key of a plane field: class, cell, field. -/
def pkey (cls cell f : Nat) : Nat := (cls * 64 + cell) * 256 + f
/-- A plane field's value. -/
def Plane.get (p : Plane) (cls cell f : Nat) : Nat := (sparseGet 0 p.fields (pkey cls cell f)).toNat
def Plane.put (p : Plane) (cls cell f v : Nat) : Plane := { p with fields := sparsePut 0 p.fields (pkey cls cell f) (w32 v) }
/-- Class, cell, field and value of every field that is not 0. -/
def Plane.entries (p : Plane) : List (Nat × Nat × Nat × Nat) := p.fields.map fun e => (e.1 / 16384, e.1 / 256 % 64, e.1 % 256, e.2.toNat)
/-- P of the active plane (R286, R295). -/
def Plane.period (p : Plane) : Nat := p.get 3 20 0

/-- The schedule rows of V cells and S cells, enabled: class, cell, field, word. -/
def Plane.rows (p : Plane) : List (Nat × Nat × Nat × Nat) :=
  p.entries.filter fun e => (e.1 == 0 && e.2.2.1 % 32 < 16 || e.1 == 1 && e.2.2.1 < 16) && bit e.2.2.2 31
/-- Row number and iteration offset of such a row. -/
def rowIx (e : Nat × Nat × Nat × Nat) : Nat := e.2.2.1 % 32
def rowItoff (e : Nat × Nat × Nat × Nat) : Nat := if e.1 = 0 then bits e.2.2.2 27 4 else bits e.2.2.2 25 4
/-- K (R286). -/
def Plane.depth (p : Plane) : Nat := p.rows.foldl (fun m e => max m (rowItoff e + 1)) 0

/-! ### Legality of a plane (R190, R288 to R297) -/

/-- A source code of a stage that exists (R289). -/
def srcOk (stage code : Nat) (used : Bool) : Bool :=
  if !used then code == 0x0B else
  if code ≤ 7 then stage ≠ 6 else if code = 8 then stage ≠ 0 else decide (code ≤ 0x39)

/-- Latency of an S-cell row by KIND (R297). -/
def sLatency (kind : Nat) : Nat := if kind = 0 then 2 else if kind = 1 then 1 else 3

/-- Whether a bus driver's SRC names a stage or latch that its cell has not, whether or not it drives (R294). -/
def busSrcBad (cell v : Nat) : Bool := if isV cell then bits v 0 3 == 7 || (bits v 0 3 == 6 && !isConverter cell) else decide (2 ≤ bits v 0 3)

/-- Whether one field of a plane breaks R190 or R288 to R297, for the region that would use it. -/
def fieldBad (d : RegionDecl) (p : Plane) (lands : Nat → Option (Nat × Nat)) (r : Nat) (e : Nat × Nat × Nat × Nat) : Bool :=
  let (cls, cell, f, v) := e
  let late (itoff k lat : Nat) : Bool := decide (p.depth * p.period < itoff * p.period + k + lat)
  if cls = 0 then
    let stage := f / 32
    let op := p.get 0 cell (32 * stage + 0x10)
    let (ua, ub, uc) := (opUses op).getD (false, false, false)
    if !isV cell || !d.has cell || stage = 7 || (stage = 6 && !isConverter cell) then true
    else if f % 32 = 0x10 then (opUses v).isNone || (stage == 6) != (decide (0x70 ≤ v) && decide (v ≤ 0x72))
    else if f % 32 = 0x11 then
      v ≥ 1024 || 5 ≤ bits v 0 3 || (bits v 0 3 ≠ 0 && !opUsesRnd op) || (bit v 3 && !opUsesSat op) || (bits v 4 4 ≠ 0 && !opUsesSel op) ||
      (bits v 8 2 ≠ 0 && op ≠ 0x58)
    else if f % 32 = 0x12 then v ≥ 256 || (v ≠ 0 && !opUsesSat op) || 9 ≤ bits v 0 4 || 9 ≤ bits v 4 4
    else if f % 32 = 0x13 then false
    else if 0x14 ≤ f % 32 then true
    else
      let pops (c : Nat) : Bool := decide (0x34 ≤ c) && decide (c ≤ 0x37) && (match lands (c - 0x34) with | some l => l.2 != r | none => true)
      let (sa, sb, sc) := (bits v 21 6, bits v 15 6, bits v 9 6)
      bits v 0 5 ≠ 0 || !srcOk stage sa ua || !srcOk stage sb ub || !srcOk stage sc uc || 13 ≤ bits v 5 4 ||
      (stage = 6 && bits v 5 4 ≤ 7) || (bit v 31 && (decide (p.period ≤ f % 32) || late (bits v 27 4) (f % 32) (opLatency op))) ||
      (ua && pops sa) || (ub && pops sb) || (uc && pops sc) ||
      (op = 0x58 && (match lands (bits (p.get 0 cell (32 * stage + 0x11)) 8 2) with | some l => l.1 != r | none => true)) ||
      (stage = 6 && bit v 31 && !(decide (0x70 ≤ op) && decide (op ≤ 0x72))) ||
      (opUsesSat op && bits (p.get 0 cell (32 * stage + 0x12)) 0 4 == bits (p.get 0 cell (32 * stage + 0x12)) 4 4)
  else if cls = 1 then
    if isV cell || !d.has cell || 0x12 ≤ f then true
    else if f = 0x10 then v < 0x90 || 0x93 < v
    else if f = 0x11 then 5 ≤ v || (v ≠ 0 && p.get 1 cell 0x10 ≠ 0x91)
    else
      let kind := bits v 29 2
      let ds := bits v 6 6
      kind = 3 || bits v 0 5 ≠ 0 || !d.owns (bits v 21 4 / 4) || (kind = 0 && ds ≠ 0) || (kind ≠ 0 && (ds < 0x10 || 0x30 ≤ ds)) ||
      (kind = 2 && p.get 1 cell 0x10 = 0) ||
      (bit v 31 && (decide (p.period ≤ f) || late (bits v 25 4) f (sLatency kind) ||
        (List.range 3).any (fun k => p.get 3 (bits v 21 4) (1 + k) = 0)))
  else if cls = 2 then
    if !d.has cell || 0x22 ≤ f then true
    else if 0x20 ≤ f then v ≥ 65536 || decide (2 ^ p.period ≤ v)
    else bits v 3 12 ≠ 0 || v ≥ 65536 || busSrcBad cell v || (bit v 15 && decide (p.period ≤ f % 16))
  else if cell < 16 then
    7 ≤ f || !d.owns (cell / 4) || (f = 0 && v ≥ 2 ^ 22) || (1 ≤ f && f ≤ 3 && v ≥ 65536)
  else cell ≠ 20 || !(f = 0 || (4 ≤ f && f ≤ 7)) || (f = 0 && !(v = 1 || v = 2 || v = 4 || v = 8 || v = 16))

/-- Two drivers of one slot in one segment (R294). -/
def busClash (d : RegionDecl) (p : Plane) : Bool :=
  let drv := p.entries.filter fun e => e.1 == 2 && decide (e.2.2.1 < 32) && bit e.2.2.2 15 && d.has e.2.1
  drv.any fun a => drv.any fun b =>
    a.2.1 != b.2.1 && a.2.2.1 == b.2.2.1 && (if a.2.2.1 < 16 then a.2.1 / 8 == b.2.1 / 8 else a.2.1 % 8 == b.2.1 % 8)

/-- The Landings of an image: producer and consumer. -/
def Image.lands (i : Image) (n : Nat) : Option (Nat × Nat) := ((i.landings[n]?).join).map fun k => (k.prod.val, k.cons.val)

/-- Whether an enabled V-cell row reads a dead element register n: of the writes at or before its tick the latest is none, or one of another iteration
(R292). A row of period P and iteration i stands at (i + ITOFF) P + k, its write L - 1 ticks later. -/
def elemDead (p : Plane) (e : Nat × Nat × Nat × Nat) (n : Nat) : Bool :=
  let place (w : Nat × Nat × Nat × Nat) : Int := rowItoff w * p.period + rowIx w
  let lat : Int := opLatency (p.get 0 e.2.1 (e.2.2.1 / 32 * 32 + 0x10))
  let ages := (p.rows.filter fun w => w.1 == 0 && w.2.1 == e.2.1 && w.2.2.1 / 32 == e.2.2.1 / 32 && bits w.2.2.2 5 4 == n).map fun w =>
    place e - (place w + lat - 1)
  match ages.foldl (fun (b : Option Int) a => match b with | some m => if a % p.period < m % p.period then some a else some m | none => some a) none with
  | none => true
  | some a => a / p.period != 0

/-- The sources that an enabled row's operation uses (R289). -/
def rowSources (p : Plane) (e : Nat × Nat × Nat × Nat) : List Nat :=
  let (ua, ub, uc) := (opUses (p.get 0 e.2.1 (e.2.2.1 / 32 * 32 + 0x10))).getD (false, false, false)
  (if ua then [bits e.2.2.2 21 6] else []) ++ (if ub then [bits e.2.2.2 15 6] else []) ++ (if uc then [bits e.2.2.2 9 6] else [])

/-- Two rows of one tick that pop one Landing, or push into it (R299). -/
def landClash (p : Plane) : Bool :=
  let rows := p.rows.filter fun e => e.1 == 0
  let pops (e : Nat × Nat × Nat × Nat) : List Nat := (rowSources p e).filter fun c => decide (0x34 ≤ c) && decide (c ≤ 0x37)
  let push (e : Nat × Nat × Nat × Nat) : Option Nat :=
    if p.get 0 e.2.1 (e.2.2.1 / 32 * 32 + 0x10) = 0x58 then some (bits (p.get 0 e.2.1 (e.2.2.1 / 32 * 32 + 0x11)) 8 2) else none
  rows.any fun a => rows.any fun b => a != b && rowIx a == rowIx b && ((pops a).any (fun c => (pops b).contains c) || ((push a).isSome && push a == push b))

/-- The floating-point format in which an operation reads its operands, if it is a floating-point operation (R301, R316). -/
def opReads (op : Nat) : Option Fmt :=
  if (0x26 ≤ op && op ≤ 0x29) || (0x30 ≤ op && op ≤ 0x37) || (0x40 ≤ op && op ≤ 0x44) || op = 0x61 || op = 0x64 || op = 0x65 then some .fp32
  else if (0x2B ≤ op && op ≤ 0x2D) || (0x38 ≤ op && op ≤ 0x3D) then some .bf16
  else none

/-- Operations that hand on a value of A: moves, pushes, permutations (DEDUCED, log entry 22). -/
def opMoves (op : Nat) : Bool := op == 0x00 || op == 0x58 || op == 0x50 || op == 0x51 || op == 0x52

/-- A table of static formats by cell and stage; an open format is not listed. -/
abbrev Formats := List ((Nat × Nat) × Fmt)

/-- The static formats of the entries that a Landing can hold, those of the rows that push into it (R301). -/
abbrev LandFormats := Nat → List Fmt

/-- The static format of what a source code reads at a stage (R301): of its producer where that is a stage or, for a Landing, where its producers agree;
else open. -/
def srcFormat (d : RegionDecl) (p : Plane) (lf : LandFormats) (t : Formats) (cell stage code : Nat) : Option Fmt :=
  let bus (row : Bool) (k : Nat) : Option Fmt :=
    match p.entries.find? (fun e => e.1 == 2 && e.2.2.1 == (if row then k else 16 + k) && bit e.2.2.2 15 && d.has e.2.1 &&
        (if row then e.2.1 / 8 == cell / 8 else e.2.1 % 8 == cell % 8)) with
    | some e => if isV e.2.1 && bit (p.get 2 cell (if row then 0x20 else 0x21)) k then t.lookup (e.2.1, bits e.2.2.2 0 3) else none
    | none => none
  if code ≤ 7 then t.lookup (cell, stage) else if code = 8 then t.lookup (cell, stage - 1) else if code = 9 then t.lookup (cell, stage)
  else if 0x10 ≤ code && code ≤ 0x1F then bus true (code - 0x10) else if 0x20 ≤ code && code ≤ 0x2F then bus false (code - 0x20)
  else if 0x34 ≤ code && code ≤ 0x37 then (match lf (code - 0x34) with | f :: r => if r.all (· == f) then some f else none | [] => none)
  else none

/-- The static format of a stage's result, given those found so far (R301, R317). -/
def stageFormat (d : RegionDecl) (p : Plane) (lf : LandFormats) (t : Formats) (cell stage : Nat) : Option Fmt :=
  let op := p.get 0 cell (32 * stage + 0x10)
  let rows := p.rows.filter fun e => e.1 == 0 && e.2.1 == cell && e.2.2.1 / 32 == stage
  let same (l : List (Option Fmt)) : Option Fmt := match l with | f :: r => if r.all (· == f) then f else none | [] => none
  if (0x26 ≤ op && op ≤ 0x29) || (0x2B ≤ op && op ≤ 0x2D) then none
  else if opUsesSat op then Fmt.ofCode (BitVec.ofNat 4 (bits (p.get 0 cell (32 * stage + 0x12)) 4 4))
  else if op = 0x2A then same (rows.flatMap fun e => [srcFormat d p lf t cell stage (bits e.2.2.2 21 6), srcFormat d p lf t cell stage (bits e.2.2.2 15 6)])
  else if opMoves op then same (rows.map fun e => srcFormat d p lf t cell stage (bits e.2.2.2 21 6))
  else opReads op

/-- The static formats of a plane: found for the stages that compute, then handed on as often as there are stages that hand on. -/
def Plane.formats (d : RegionDecl) (lf : LandFormats) (p : Plane) : Formats :=
  let stages := ((p.rows.filter fun e => e.1 == 0).map fun e => (e.2.1, e.2.2.1 / 32)).eraseDups
  let hand := stages.filter fun k => let op := p.get 0 k.1 (32 * k.2 + 0x10); opMoves op || op == 0x2A
  (List.range (hand.length + 1)).foldl (fun t _ => stages.filterMap fun k => (stageFormat d p lf t k.1 k.2).map fun f => (k, f)) []

/-- The static formats that a plane pushes into each Landing (R299, R301). -/
def Plane.pushes (d : RegionDecl) (lf : LandFormats) (p : Plane) : List (Nat × Fmt) :=
  let t := p.formats d lf
  (p.rows.filter fun e => e.1 == 0 && p.get 0 e.2.1 (e.2.2.1 / 32 * 32 + 0x10) == 0x58).filterMap fun e =>
    (t.lookup (e.2.1, e.2.2.1 / 32)).map fun f => (bits (p.get 0 e.2.1 (e.2.2.1 / 32 * 32 + 0x11)) 8 2, f)

/-- The static formats that planes push into each Landing, handed on from Landing to Landing as often as there are Landings (R301). -/
def landTable (planes : List (RegionDecl × Plane)) : List (List Fmt) :=
  (List.range 5).foldl (fun t _ =>
    let all := planes.flatMap fun e => e.2.pushes e.1 fun n => t.getD n []
    (List.range 4).map fun n => (all.filter fun e => e.1 == n).map (·.2)) []

/-- The floating-point format in which a row reads operands, with the sources it reads so: those of a V cell's operation, DSRC of an `amoadd.f32` (R297, R301, R316). -/
def rowReads (p : Plane) (e : Nat × Nat × Nat × Nat) : Option (Fmt × List Nat) :=
  if e.1 = 0 then (opReads (p.get 0 e.2.1 (e.2.2.1 / 32 * 32 + 0x10))).map fun f => (f, rowSources p e)
  else if bits e.2.2.2 29 2 = 2 && p.get 1 e.2.1 0x10 = 0x91 then some (.fp32, [bits e.2.2.2 6 6])
  else none

/-- A floating-point operation of one format that reads a value of another floating-point format; of a Landing, any that its producers push (R301). -/
def formatClash (d : RegionDecl) (p : Plane) (lf : LandFormats) : Bool :=
  let t := p.formats d lf
  let other (f g : Fmt) : Bool := g != f && (g == .fp32 || g == .bf16 || g == .e4m3 || g == .e5m2)
  p.rows.any fun e =>
    match rowReads p e with
    | none => false
    | some (f, srcs) => srcs.any fun c =>
      (match srcFormat d p lf t e.2.1 (if e.1 = 0 then e.2.2.1 / 32 else 0) c with | some g => other f g | none => false) ||
      (decide (0x34 ≤ c) && decide (c ≤ 0x37) && (lf (c - 0x34)).any (other f))

/-- Whether a plane is refused for region r of an image (R190, R288 to R301; DEDUCED, log entry 21). -/
def Plane.refused (p : Plane) (i : Image) (lf : LandFormats) (r : Nat) : Bool :=
  match (i.regions[r]?).join with
  | none => true
  | some d => p.bad || !(p.period = 1 || p.period = 2 || p.period = 4 || p.period = 8 || p.period = 16) || busClash d p ||
      p.entries.any (fun e => fieldBad d p i.lands r e) ||
      (p.rows.any fun e => e.1 == 0 && (rowSources p e).any fun c => decide (c ≤ 7) && elemDead p e c) || landClash p || formatClash d p lf

/-- Whether a stream has a command that R190 or R288 to R296 refuse whatever plane it is applied to: a class its cell has not, a cell outside the region,
a stage, field or E that does not exist, an opcode that is none, an extended command broken or cut short. -/
def streamBad (d : RegionDecl) : Nat → List Nat → Bool
  | 0, _ => false
  | _, [] => false
  | n + 1, w :: ws =>
    let cls := bits w 24 2
    let cell := bits w 29 3 * 8 + bits w 26 3
    let field (f v : Nat) : Bool :=
      if cls = 0 then
        !isV cell || !d.has cell || f / 32 = 7 || (f / 32 = 6 && !isConverter cell) || 0x14 ≤ f % 32 ||
        (f % 32 = 0x10 && ((opUses v).isNone || (f / 32 == 6) != (decide (0x70 ≤ v) && decide (v ≤ 0x72)))) ||
        (f % 32 = 0x11 && (v ≥ 1024 || 5 ≤ bits v 0 3)) || (f % 32 = 0x12 && (v ≥ 256 || 9 ≤ bits v 0 4 || 9 ≤ bits v 4 4)) ||
        (f % 32 < 16 && bits v 0 5 ≠ 0)
      else if cls = 1 then
        isV cell || !d.has cell || 0x12 ≤ f || (f = 0x10 && v ≠ 0 && (v < 0x90 || 0x93 < v)) || (f = 0x11 && 5 ≤ v) || (f < 16 && (bits v 0 5 ≠ 0 || bits v 29 2 = 3))
      else if cls = 2 then !d.has cell || 0x22 ≤ f || v ≥ 65536 || (f < 0x20 && (bits v 3 12 ≠ 0 || busSrcBad cell v))
      else if cell < 16 then 7 ≤ f || !d.owns (cell / 4) || (f = 0 && v ≥ 2 ^ 22) || (1 ≤ f && f ≤ 3 && v ≥ 65536)
      else cell ≠ 20 || !(f = 0 || (4 ≤ f && f ≤ 7)) || (f = 0 && !(v = 1 || v = 2 || v = 4 || v = 8 || v = 16))
    if bits w 16 8 = 0xFF then
      match ws with
      | [] => true
      | x :: ws => bits w 8 8 ≠ 0 || bits w 0 8 = 0xFF || field (bits w 0 8) x || streamBad d n ws
    else field (bits w 16 8) (bits w 0 16) || streamBad d n ws

/-- The command words of a stream applied to a plane (R187 to R189); a broken command marks the plane. -/
def applyStream : Nat → List Nat → Plane → Plane
  | 0, _, p => p
  | _, [], p => p
  | n + 1, w :: ws, p =>
    let cls := bits w 24 2
    let cell := bits w 29 3 * 8 + bits w 26 3
    let f := bits w 16 8
    if f = 0xFF then
      match ws with
      | [] => { p with bad := true }
      | x :: ws =>
        if bits w 8 8 ≠ 0 || bits w 0 8 = 0xFF then applyStream n ws { p with bad := true }
        else applyStream n ws (p.put cls cell (bits w 0 8) x)
    else applyStream n ws (p.put cls cell f (bits w 0 16))

/-! ### Operands and latches (R282, R289, R293) -/

def CoreCtx.out (x : CoreCtx) (cell stage : Nat) : Vec := sparseGet 0 x.outs (cell * 8 + stage)

/-- AG value for iteration i (R295). -/
def agValue (p : Plane) (e i : Nat) : Nat :=
  let ext (k : Nat) : Nat := p.get 3 e (1 + k)
  let str (k : Nat) : Int := (w32 (p.get 3 e (4 + k))).toInt
  let i0 := i % ext 0
  let i1 := i / ext 0 % ext 1
  let i2 := i / (ext 0 * ext 1) % ext 2
  (((p.get 3 e 0 : Int) + i0 * str 0 + i1 * str 1 + i2 * str 2) % (2 ^ 22 : Int)).toNat

/-- What a source code reads at the start of a tick (R289). -/
def srcValue (x : CoreCtx) (r : RegionIx) (p : Plane) (cell stage i code : Nat) : Vec :=
  if code ≤ 7 then sparseGet 0 x.elems ((cell * 8 + stage) * 8 + code)
  else if code = 8 then x.out cell (stage - 1)
  else if code = 9 then x.out cell stage
  else if code = 0x0A then broadcast (w32 (p.get 0 cell (32 * stage + 0x13)))
  else if code = 0x0B then 0
  else if code ≤ 0x0F then broadcast (w32 (p.get 3 20 (4 + (code - 0x0C))))
  else if code ≤ 0x1F then sparseGet 0 x.rowBus (cell * 16 + (code - 0x10))
  else if code ≤ 0x2F then sparseGet 0 x.colBus (cell * 16 + (code - 0x20))
  else if code ≤ 0x33 then x.regions[r].ap.toList.getD (code - 0x30) 0
  else if code ≤ 0x37 then ((x.landings.toList.getD (code - 0x34) []).headD 0)
  else if code = 0x38 then broadcast (w32 i)
  else if code = 0x39 then ofLanes fun j => w32 j
  else 0

/-- The iteration of a row that is due at row counter t, if it is one of the round (R286). -/
def rowIter (n period t : Nat) (e : Nat × Nat × Nat × Nat) : Option Nat :=
  if t % period ≠ rowIx e || t / period < rowItoff e then none
  else if t / period - rowItoff e < n then some (t / period - rowItoff e) else none

/-- The rows of a region that fire in this tick unless it is held, with their iterations. -/
def RegionState.due (r : RegionState) : List ((Nat × Nat × Nat × Nat) × Nat) :=
  match r.round with
  | none => []
  | some k => if r.active.version = 0 || r.active.period = 0 then [] else
      r.active.rows.filterMap fun e => (rowIter k.n.toNat r.active.period k.rc e).map fun i => (e, i)

/-- Opcode of the stage of a V-cell row. -/
def rowOp (p : Plane) (e : Nat × Nat × Nat × Nat) : Nat := p.get 0 e.2.1 (e.2.2.1 / 32 * 32 + 0x10)
def rowCtl (p : Plane) (e : Nat × Nat × Nat × Nat) : Nat := p.get 0 e.2.1 (e.2.2.1 / 32 * 32 + 0x11)

/-- The Landings that a due row pops, and the one it pushes (R299). -/
def rowPops (e : Nat × Nat × Nat × Nat) : List Nat :=
  if e.1 = 0 then ([bits e.2.2.2 21 6, bits e.2.2.2 15 6, bits e.2.2.2 9 6].filter fun c => decide (0x34 ≤ c) && decide (c ≤ 0x37)).map (· - 0x34) else []
def rowPush (p : Plane) (e : Nat × Nat × Nat × Nat) : Option Nat := if e.1 = 0 && rowOp p e = 0x58 then some (bits (rowCtl p e) 8 2) else none

/-! ### Holds (R287, R300) -/

/-- Whether a region may advance apart from the Landings: its round's activation runs, or the round stops only as the tick ends (R324); without a round its
leftover atomic slots run on, but not between a restore's swap-in and r (R325). -/
def State.regionRuns (s : State) (c : CoreIx) (r : RegionIx) : Bool :=
  let free (ofRound : Bool) : Bool := (s.core c).swap.isNone &&
    match s.coreLaunch? c with | some l => !l.frozen && (ofRound || match l.susp with | some u => !u.restoring | none => true) | none => true
  match (s.ctx c).regions[r].round with
  | some k => if k.cut then free true else s.opRuns c k.cmd.owner
  | none => free false

/-- The regions held or frozen in this tick (R300). -/
def State.heldRegions (s : State) (c : CoreIx) : List RegionIx :=
  let x := s.ctx c
  let all : List RegionIx := List.finRange 4
  let due (r : RegionIx) := (x.regions[r].due).map (·.1)
  let pops (r : RegionIx) (l : Nat) : Bool := (due r).any fun e => (rowPops e).contains l
  let pushes (r : RegionIx) (l : Nat) : Bool := (due r).any fun e => rowPush x.regions[r].active e == some l
  let occ (l : Nat) : Nat := (x.landings.toList.getD l []).length
  let decl (l : Nat) : Option LandDecl := (s.coreLaunch? c).bind fun k => (k.img.landings[l]?).join
  let h0 := all.filter fun r => !s.regionRuns c r || (List.range 4).any fun l => pops r l && occ l == 0
  let grow (h : List RegionIx) : List RegionIx :=
    (List.range 4).foldl (fun h l =>
      match decl l with
      | some d => if occ l = d.depth && pushes d.prod l && (!pops d.cons l || h.contains d.cons) && !h.contains d.prod then d.prod :: h else h
      | none => h) h
  grow (grow (grow (grow h0)))

/-! ### One tick of a region (R286 to R300) -/

/-- Rounding and draw of an operation (R310, R316). -/
def opCtl (p : Plane) (k : EngineCmd) (cell stage i : Nat) : OpCtl :=
  let ctl := p.get 0 cell (32 * stage + 0x11)
  let fmt := p.get 0 cell (32 * stage + 0x12)
  { rnd := (Round.ofCode (BitVec.ofNat 3 (bits ctl 0 3))).getD .rne, sat := bit ctl 3, sel := bits ctl 4 4,
    src := (Fmt.ofCode (BitVec.ofNat 4 (bits fmt 0 4))).getD .fp32, dst := (Fmt.ofCode (BitVec.ofNat 4 (bits fmt 4 4))).getD .fp32,
    key := k.key, layer := k.layer, index := k.idx.toNat + 16 * i }

/-- A V-cell row fires (R290): its result, to be written at the end of its last tick. -/
def fireStage (x : CoreCtx) (r : RegionIx) (p : Plane) (k : EngineCmd) (e : Nat × Nat × Nat × Nat) (i : Nat) : FabFlight :=
  let stage := e.2.2.1 / 32
  let v (code : Nat) := srcValue x r p e.2.1 stage i code
  let op := rowOp p e
  { left := opLatency op, what := 0, cell := Fin.ofNat 64 e.2.1, stage := Fin.ofNat 8 stage, dst := bits e.2.2.2 5 4,
    value := stageOp op (opCtl p k e.2.1 stage i) (v (bits e.2.2.2 21 6)) (v (bits e.2.2.2 15 6)) (v (bits e.2.2.2 9 6)) }

/-- The A-buffer offset of an S-cell row (R297). -/
def sOffset (p : Plane) (e : Nat × Nat × Nat × Nat) (i : Nat) : Nat :=
  let v := e.2.2.2
  let a := (((agValue p (bits v 21 4) i : Int) + 64 * signedOf 9 (bits v 12 9)) % (2 ^ 22 : Int)).toNat
  bits a 12 10 * 4096 + sCellNumber e.2.1 * 128 + bits a 6 1 * 64

/-- 64 bytes of the A-buffer as a vector. -/
def State.readVec (s : State) (c : CoreIx) (phys : Nat) : Vec := BitVec.ofNat 512 (readLE (s.core c).abuf phys 64)

/-- The four banks of an S-cell access. -/
def State.touchVec (s : State) (c : CoreIx) (phys : Nat) : State :=
  (List.range 4).foldl (fun s k => s.touch c (phys + 16 * k)) s

/-- An S-cell row fires (R297): a read, a write, or the slot of an atomic; the value read is that of the start of the tick. `x` is the context then. -/
def State.fireS (s : State) (x : CoreCtx) (c : CoreIx) (r : RegionIx) (p : Plane) (k : EngineCmd) (e : Nat × Nat × Nat × Nat) (i : Nat) : State :=
  let v := e.2.2.2
  let kind := bits v 29 2
  let off := sOffset p e i
  let phys := s.aPhys c off
  let s := s.touchVec c phys
  let data := srcValue x r p e.2.1 0 i (bits v 6 6)
  let fly (f : FabFlight) : State → State := fun s => s.updRegion c r fun g => { g with flights := g.flights ++ [f] }
  let hard (s : State) (n : Nat) : Option Nat := (List.range (n / 16)).findSome? fun b => if s.hardError 1 c (phys + 16 * b) 16 then some (off + 16 * b) else none
  if kind = 1 then (s.clearErrors 1 c phys 64).writeA c phys (leBytes 64 data.toNat) (some (c, ⟨r.val, by omega⟩, false))
  else match hard s 64 with
  | some a => s.updRegion c r fun g => { g with uncorr := some a }
  | none =>
    let s := s.softRead (s.placeCore k.owner.launch c k.owner.seq) none 1 c phys 64
    let old := s.readVec c phys
    if kind = 0 then fly ⟨2, 1, Fin.ofNat 64 e.2.1, 0, b2n (bit v 5), old⟩ s
    else
      let op := p.get 1 e.2.1 0x10
      let ctl : OpCtl := { rnd := (Round.ofCode (BitVec.ofNat 3 (p.get 1 e.2.1 0x11))).getD .rne, sat := false, sel := 0, src := .fp32, dst := .fp32,
                           key := k.key, layer := k.layer, index := k.idx.toNat + 16 * i }
      let new := ofLanes fun j => atomicLane op ctl j (lane old j) (lane data j)
      let s := s.updCore c fun q => { q with bankHolds := q.bankHolds ++ (List.range 4).map fun b => (bankOf (phys + 16 * b), 3) }
      fly ⟨3, 2, Fin.ofNat 64 e.2.1, 0, phys, new⟩ s

/-- A stage result written (R290, R291). -/
def CoreCtx.writeStage (x : CoreCtx) (r : RegionIx) (f : FabFlight) : CoreCtx :=
  let key := f.cell.val * 8 + f.stage.val
  let x := { x with outs := sparsePut 0 x.outs key f.value }
  if f.dst < 8 then { x with elems := sparsePut 0 x.elems (key * 8 + f.dst) f.value }
  else if 9 ≤ f.dst && f.dst ≤ 12 then
    { x with regions := x.regions.set r { x.regions[r] with sinks := vecMap x.regions[r].sinks fun k w => if k = f.dst - 9 then w + lane f.value 0 else w } }
  else x

/-- What slot k of a region's buses does at the end of a tick (R293). -/
def busSlot (x0 : CoreCtx) (d : RegionDecl) (p : Plane) (k : Nat) (x : CoreCtx) : CoreCtx :=
  let drv := p.entries.filter fun e => e.1 == 2 && (e.2.2.1 == k || e.2.2.1 == 16 + k) && bit e.2.2.2 15 && d.has e.2.1
  drv.foldl (fun x e =>
    let cell := e.2.1
    let src := bits e.2.2.2 0 3
    let v := if isV cell then x0.out cell src else sparseGet 0 x0.readLatch (cell * 2 + src % 2)
    let row := decide (e.2.2.1 < 16)
    let dsts := d.cells.filter fun o => (if row then o / 8 == cell / 8 else o % 8 == cell % 8) && bit (p.get 2 o (if row then 0x20 else 0x21)) k
    dsts.foldl (fun x o => if row then { x with rowBus := sparsePut 0 x.rowBus (o * 16 + k) v } else { x with colBus := sparsePut 0 x.colBus (o * 16 + k) v }) x) x

/-- Pops and pushes of the running regions of a core (R136, R299): pops first. -/
def landTick (x0 : CoreCtx) (run : List RegionIx) (pushed : List (Nat × Vec)) (x : CoreCtx) : CoreCtx :=
  { x with landings := vecMap x.landings fun l q =>
      let popped := run.any fun r => (x0.regions[r].due).any fun e => (rowPops e.1).contains l
      (if popped then q.drop 1 else q) ++ (pushed.filter fun u => u.1 == l).map (·.2) }

/-- Flights of a region after a tick: those whose last tick it was are applied. -/
def State.landFlights (s : State) (c : CoreIx) (r : RegionIx) : State :=
  let g := (s.ctx c).regions[r]
  let now := g.flights.filter fun f => f.left == 1
  let s := s.updRegion c r fun g => { g with flights := (g.flights.filter fun f => 2 ≤ f.left).map fun f => { f with left := f.left - 1 } }
  now.foldl (fun s f =>
    if f.what = 0 then s.updCtx c fun x => x.writeStage r f
    else if f.what = 1 then s.updCtx c fun x => { x with readLatch := sparsePut 0 x.readLatch (f.cell.val * 2 + f.dst % 2) f.value }
    else
      let bytes := leBytes 64 f.value.toNat
      ((s.updCore c fun k => { k with abuf := writeBytes k.abuf f.dst bytes }).wakeCore c false 0 f.dst 64).clearErrors 1 c f.dst 64) s

/-- Whether an atomic slot of a region stands on a bank (R287, R297). -/
def RegionState.holdsBank (g : RegionState) (bank : Nat) : Bool :=
  g.flights.any fun f => f.what == 2 && (List.range 4).any fun b => bankOf (f.dst + 16 * b) == bank

/-- One tick of the regions of a core: holds, rows, buses, Landings, results. -/
def State.fabricTick (s : State) (c : CoreIx) : State :=
  let x0 := s.ctx c
  if (List.finRange 4).all fun (r : RegionIx) => x0.regions[r].round.isNone && x0.regions[r].flights.isEmpty then s else
  let held := s.heldRegions c
  let run := (List.finRange 4).filter fun r => !held.contains r
  let decl (r : RegionIx) := s.regionDecl? c r
  -- rows fire on what stands at the start of the tick
  let s := run.foldl (fun s r =>
    match x0.regions[r].round with
    | none => s
    | some k =>
      let p := x0.regions[r].active
      let s := (x0.regions[r].due).foldl (fun s e =>
        if e.1.1 = 0 then s.updRegion c r fun g => { g with flights := g.flights ++ [fireStage x0 r p k.cmd e.1 e.2] }
        else s.fireS x0 c r p k.cmd e.1 e.2) s
      s.updRegion c r fun g => { g with round := g.round.map fun k => { k with moved := true } }) s
  let pushed := run.flatMap fun r => (x0.regions[r].due).filterMap fun e =>
    (rowPush x0.regions[r].active e.1).map fun l => (l, srcValue x0 r x0.regions[r].active e.1.2.1 (e.1.2.2.1 / 32) e.2 (bits e.1.2.2.2 21 6))
  let s := s.updCtx c (landTick x0 run pushed)
  let s := run.foldl (fun s r =>
    match x0.regions[r].round, decl r with
    | some k, some d => if x0.regions[r].active.period = 0 || x0.regions[r].active.version = 0 then s
        else s.updCtx c (busSlot x0 d x0.regions[r].active (k.rc % x0.regions[r].active.period))
    | _, _ => s) s
  let s := run.foldl (fun s r => s.landFlights c r) s
  -- what a held region has in flight stays where it stands, the banks of its atomic slots with it (R287)
  -- (in a halting freeze no hold of the core counts down)
  let frozen := match s.coreLaunch? c with | some l => l.frozen | none => false
  let stays (b : Nat) : Bool := !frozen && held.any fun r => x0.regions[r].holdsBank b
  let s := s.updCore c fun k => { k with bankHolds := k.bankHolds.map fun h => (h.1, if stays h.1 then h.2 + 1 else h.2) }
  -- held ticks of the others
  (List.finRange 4).foldl (fun s r =>
    if held.contains r && s.regionRuns c r && x0.regions[r].round.isSome then
      s.updRegion c r fun g => { g with held := if g.held = 0xFFFF then g.held else g.held + 1 } else s) s

/-- UNCORR met by the rows of a core in the present tick (R297), once the rows of every core have fired (R324). -/
def State.fabricUncorr (s : State) (c : CoreIx) : State :=
  (List.finRange 4).foldl (fun s (r : RegionIx) =>
    match (s.ctx c).regions[r].uncorr with
    | some a => (s.updRegion c r fun g => { g with uncorr := none }).takeTrap c ⟨r.val, by omega⟩ ⟨0x07, BitVec.ofNat 32 a⟩
    | none => s) s

/-- The last row counter of a round (R286). -/
def RegionState.lastRcOf (g : RegionState) (k : RoundRun) : Nat :=
  if g.active.version = 0 || k.n = 0 then 0 else (k.n.toNat + g.active.depth) * g.active.period - 1

/-- ROUND_END (R286): the round is complete at the end of the tick whose row counter is its last. -/
def execRoundEnd (c : CoreIx) (r : RegionIx) (s : State) : Out :=
  let g := (s.ctx c).regions[r]
  match g.round with
  | some k => if k.moved && k.rc == g.lastRcOf k then
      .next (s.updRegion c r fun g => { g with round := none, lastRc := if g.active.version = 0 then g.lastRc else BitVec.ofNat 32 k.rc })
    else .next s
  | none => .next s

/-! ### Region commands (R304 to R314) -/

/-- Whether the head command of a region's queue may start in this tick (R305, R453, R455). -/
def State.regionReady (s : State) (c : CoreIx) (r : RegionIx) : Bool :=
  let g := (s.ctx c).regions[r]
  match g.queue with
  | [] => false
  | k :: _ =>
    let stopped := match s.coreLaunch? c with
      | some l => l.stopped s.tick && !s.stepFrees c (.region r)
      | none => false
    let idle := g.round.isNone
    !stopped && decide (k.tick < s.tick) && s.opRuns c k.owner &&
    match k.instr with
    | .jtab .. | .cfgld .. => g.port.isNone
    | .cfgact .. | .cfgdrop .. => g.port.isNone && idle
    | .lrel _ l =>
      match s.coreLaunch? c with
      | some n => (match (n.img.landings[l.val]?).join with
        | some d => (s.ctx c).regions[d.prod].round.isNone && (s.ctx c).regions[d.cons].round.isNone
        | none => true)
      | none => true
    | _ => idle

/-- The static formats that the active planes of a core push into each Landing (R301). -/
def State.landFormats (s : State) (l : Launch) (c : CoreIx) : LandFormats :=
  let t := landTable ((List.finRange 4).filterMap fun r => ((l.img.regions[r.val]?).join).map fun d => (d, (s.ctx c).regions[r].active))
  fun n => t.getD n []

/-- A region command refused at its start (R304). -/
def regionIllegal : Trap := illegal 6 0x3F 0

/-- A configuration breakpoint (R452, R458): the lowest register that matches. -/
def State.cfgBreak (s : State) (l : Launch) (c : CoreIx) (r : RegionIx) (version : BitVec 16) : Option (Fin 4) :=
  (List.finRange 4).find? fun k =>
    let b := s.tr.bps[k]
    b.en && b.kind && b.launch == l.num && bits b.mtch.toNat 0 16 == version.toNat && bits b.mtch.toNat 16 2 == r.val &&
      (b.any || (b.ix.toNat == l.ix c && b.iy.toNat == l.iy c))

/-- `cfgact` takes effect (R302, R309): the shadow plane becomes active, with a CFGV record and, in the bench state, a breakpoint. -/
def State.activate (s : State) (c : CoreIx) (r : RegionIx) (k : EngineCmd) (p : Plane) (l : Launch) : State :=
  let old := (s.ctx c).regions[r].active.version
  let s := s.updRegion c r fun g => { g with active := p, shadow := none }
  let s := s.record { typ := 0x0D, tick := s.tick, place := some (s.placeCore k.owner.launch c r.val), trace := true,
                      payload := [w64 (r.val + old.toNat * 4 + p.version.toNat * 2 ^ 18)] }
  if !s.bench then s else
  match s.cfgBreak l c r p.version with
  | some b => s.requestStop l.num 1 (BitVec.ofNat 2 b) c ⟨r.val, by omega⟩
  | none => s

/-- The write of a `tok` into the active plane (R311). -/
def tokWrite (port : Nat) (v : Word) (p : Plane) : Plane :=
  if port < 0x40 then
    if port % 4 = 0 then p.put 3 (port / 4) 0 (bits v.toNat 0 22)
    else p.put 3 (port / 4) (port % 4) (if bits v.toNat 0 16 = 0 then 1 else bits v.toNat 0 16)
  else if port < 0x44 then p.put 3 20 (4 + (port - 0x40)) (bits v.toNat 0 32)
  else p

/-- REGION_COMMAND_START (R305): the head command leaves the queue and starts. -/
def execRegionCommandStart (c : CoreIx) (r : RegionIx) (s : State) : Out :=
  let g := (s.ctx c).regions[r]
  match g.queue, s.coreLaunch? c with
  | k :: rest, some l =>
    if !s.regionReady c r then .next s else
    let s := (s.updRegion c r fun g => { g with queue := rest, started := true }).noteStep c (.region r)
    let q : SeqIx := k.owner.seq
    let dw (a : Nat) : Nat := readLE (s.core c).blockStore (a % 2 ^ 18) 8
    match k.instr with
    | .jtab .. =>
      let a := bits k.left.toNat 0 24
      let count := bits (dw a) 0 5
      if !(l.img.cfgTabs.any fun t => t.addr.toNat == a && t.ix == l.ix c && t.iy == l.iy c) then .next (s.takeTrap c q regionIllegal)
      else
        let n := (8 + 8 * count + 15) / 16
        let job : PortJob := ⟨k.owner, some (BitVec.ofNat 24 a), 0, 0, 0, n, n, none, false⟩
        .next (s.updRegion c r fun g => { g with port := some job })
    | .cfgld _ n =>
      match g.bound with
      | none => .next (s.takeTrap c q regionIllegal)
      | some t =>
        let e := dw (t.toNat + 8 + 8 * n.toNat)
        if bits (dw t.toNat) 0 5 ≤ n.toNat || bits e 40 2 ≠ r.val then .next (s.takeTrap c q regionIllegal)
        else
          let words := bits e 24 16
          let n := (words + 3) / 4
          let job : PortJob := ⟨k.owner, none, bits e 0 24, words, BitVec.ofNat 16 (bits e 48 16), n, n, none, false⟩
          .next (s.updRegion c r fun g => { g with shadow := none, loading := some g.active, port := some job })
    | .cfgact .. =>
      match g.shadow with
      | none => .next s
      | some p => if p.refused l.img (s.landFormats l c) r.val then .next (s.takeTrap c q regionIllegal) else .next (s.activate c r k p l)
    | .cfgdrop .. => .next (s.updRegion c r fun g => { g with shadow := none })
    | .run .. =>
      let n : BitVec 32 := k.left.setWidth 32
      .next (s.updRegion c r fun g =>
        if g.active.version = 0 then { g with round := some ⟨n, 0, k, false, s.tick, false⟩ }
        else { g with round := some ⟨n, 0, k, false, s.tick, false⟩, lastN := n, lastRc := 0, held := 0, sinks := Vector.replicate 4 0 })
    | .tok _ p => .next (s.updRegion c r fun g => { g with active := tokWrite p.toNat k.left g.active })
    | .lrel _ n => .next (s.updCtx c fun x => { x with landings := x.landings.set n [] })
    | _ => .next s
  | _, _ => .next s

/-- CONFIGURATION_LOAD_COMPLETE (R307, R308): at the end of the last port tick a table is bound, or the shadow plane is complete. -/
def execConfigurationLoadComplete (c : CoreIx) (r : RegionIx) (s : State) : Out :=
  let g := (s.ctx c).regions[r]
  match g.port with
  | none => .next s
  | some j =>
    if j.left ≠ 1 || !(j.rerun || s.opRuns c j.owner) then .next s else
    match j.table with
    | some t => .next (s.updRegion c r fun g => { g with port := none, bound := some t })
    | none =>
      let words := (List.range j.words).map fun k => (s.storeWord c (j.stream + 4 * k)).toNat
      let p := applyStream (j.words + 1) words (g.loading.getD .zero)
      let hard := s.hardError 4 c (j.stream % 2 ^ 18) (4 * j.words)
      .next (s.updRegion c r fun g =>
        { g with port := none, loading := none, shadow := some { p with version := j.version, bad := p.bad || hard } })

/-! ### The regions in a tick -/

/-- Region commands that start in this tick. -/
def State.regionDues (s : State) (c : CoreIx) : List Instr :=
  (List.finRange 4).flatMap fun r => if s.regionReady c r then [.regionCommandStart c r] else []

/-- Rounds and loads that end in this tick. -/
def State.regionEnds (s : State) (c : CoreIx) : List Instr :=
  (List.finRange 4).flatMap fun r =>
    let g := (s.ctx c).regions[r]
    (match g.round with | some k => if k.moved && k.rc == g.lastRcOf k then [.roundEnd c r] else [] | none => []) ++
    (match g.port with | some j => if j.left == 1 && (j.rerun || s.opRuns c j.owner) then [.configurationLoadComplete c r] else [] | none => [])

/-- A round that was cut in this tick is over: atomic slots begun stand, what else is in flight is discarded (R324). -/
def RegionState.dropCut (g : RegionState) : RegionState :=
  match g.round with
  | some k => if k.cut then { g with round := none, flights := g.flights.filter fun f => f.what == 2 } else g
  | none => g

/-- A region at the end of a tick: a cut takes effect, the row counter steps, the port counts down. -/
def RegionState.tickEnd (runs : Owner → Bool) (g : RegionState) : RegionState :=
  let g := g.dropCut
  let g := match g.round with
    | some k => if k.moved then { g with round := some { k with rc := k.rc + 1, moved := false }, lastRc := BitVec.ofNat 32 (k.rc + 1) } else g
    | none => g
  { g with started := false, port := g.port.map fun j => if j.rerun || runs j.owner then { j with left := j.left - 1 } else j }

/-- At the pre-emption tick: the ticks of the port's job that have passed (R478). -/
def RegionState.markSteps (g : RegionState) : RegionState := { g with port := g.port.map fun j => { j with redo := some (j.total - j.left) } }
/-- A swap-out discards the shadow plane of a load in progress; the job will be run again from its first word (R88, R324, R478). -/
def RegionState.abandonSteps (g : RegionState) : RegionState :=
  let g := g.dropCut
  { g with loading := if g.port.isSome then none else g.loading, port := g.port.map fun j => { j with left := j.total } }
/-- The port's job starts again from its first word (R478). -/
def RegionState.restartStep (g : RegionState) : RegionState :=
  { g with loading := (match g.port with | some j => if j.table.isNone then some g.active else g.loading | none => g.loading),
           port := g.port.map fun j => { j with rerun := true } }
/-- At r the suspension is over for the port. -/
def RegionState.resumeSteps (g : RegionState) : RegionState :=
  { g with loading := (match g.port with | some j => if j.table.isNone && g.loading.isNone then some g.active else g.loading | none => g.loading),
           port := g.port.map fun j => { j with redo := none, rerun := false } }

end Sys2Proof.Machine
end

