-- ==== Sys2Proof/Machine/Matrix.lean ====
section
/-! DEFINITION. The matrix engine's commands (R332 to R362): start conditions and faults, beats and k-steps in their ticks, completion, the read port, and what a swap-out abandons. -/

namespace Sys2Proof.Machine

/-! ### Units and conflict sets (R333) -/

def mxUnit : Instr → MxUnit
  | .mtld .. | .mtldw .. | .mtst .. | .mspill .. | .mfill .. => .load
  | .mrd .. => .read
  | _ => .compute

/-- Registers that a command reads and writes: tile t as t, physical accumulator tile p as 16 + p, the B stream as 48 (R333). -/
def State.mxSets (s : State) (c : CoreIx) (k : EngineCmd) : List Nat × List Nat :=
  let acc (n : Fin 32) : Nat := 16 + (s.tilePhys c n).val
  match k.instr with
  | .mtld _ n _ => ([], [n])
  | .mtldw _ n _ => ([], [n.val, 48])
  | .mtst _ n _ => ([n], [])
  | .mspill _ n _ => ([acc n], [])
  | .mfill _ n _ => ([], [acc n])
  | .mma _ _ d a => ([a.val, bits k.right.toNat 0 4], [acc d])
  | .mmaw _ _ d a _ => ([a], [acc d, 48])
  | .mchainB _ n _ _ | .mchainE _ n | .mzero _ n | .mpin _ n _ | .munpin _ n => ([], [acc n])
  | .mscacc _ d q _ _ => ([acc q, bits k.left.toNat 0 4], [acc d])
  | .mgdlt _ n q => ([4 * q.val, 4 * q.val + 1], [acc n])
  | .mfwrd _ n q => ([acc n, 4 * q.val + 2], [4 * q.val + 3])
  | .mfwchunk _ n q => ([4 * q.val, 4 * q.val + 1, 4 * q.val + 2], [acc n, 4 * q.val + 3])
  | .mrd _ n _ => ([acc n], [])
  | _ => ([], [])

/-- Whether a started command stands in the way of another (R333). -/
def State.mxBlocks (s : State) (c : CoreIx) (k : EngineCmd) (r : Option MxRun) : Bool :=
  match r with
  | none => false
  | some r =>
    let (rr, rw) := s.mxSets c r.cmd
    let (kr, kw) := s.mxSets c k
    rw.any (fun x => kr.contains x || kw.contains x) || rr.any fun x => kw.contains x

def MatrixState.unit (m : MatrixState) : MxUnit → Option MxRun
  | .load => m.load
  | .compute => m.compute
  | .read => m.read
def MatrixState.setUnit (m : MatrixState) (u : MxUnit) (r : Option MxRun) : MatrixState :=
  match u with
  | .load => { m with load := r }
  | .compute => { m with compute := r }
  | .read => { m with read := r }

/-- Whether the head command starts in this tick (R333). -/
def State.matrixReady (s : State) (c : CoreIx) : Bool :=
  let m := (s.ctx c).matrix
  match m.queue with
  | [] => false
  | k :: _ =>
    decide (k.tick < s.tick) && !m.started && s.opRuns c k.owner && (m.unit (mxUnit k.instr)).isNone &&
    !([m.load, m.compute, m.read].any fun r => s.mxBlocks c k r)

/-! ### Faults at the start (R339 to R356, R358) -/

/-- FMT = FP32, 16 rows, 64 columns (R351). -/
def fastShape (h : Shape) : Bool := h.fmt == some .fp32 && h.rows == 16 && h.cols == 64

/-- The fault that a command raises in its start tick, first of its rule's order (R358). -/
def State.matrixFault (s : State) (c : CoreIx) (k : EngineCmd) : Option Nat :=
  let m := (s.ctx c).matrix
  let pin (n : Nat) : Bool := m.owners[s.tilePhys c n].pin
  let chain (n : Nat) : Bool := (m.chain? (s.tilePhys c n)).isSome
  let first (l : List (Bool × Nat)) : Option Nat := (l.find? (·.1)).map (·.2)
  let fast (n q : Nat) (badN : Bool) : Option Nat :=
    first [(!pin n, 0x63),
      (!((List.range 4).all fun i => fastShape (k.shape (4 * q + i))) || (k.shape (4 * q + 3)).stat || m.owners[s.tilePhys c n].fmt != 4 || badN, 0x61)]
  match k.product, k.instr with
  | some p, _ =>
    let a := k.shape p.a
    let want := some (mmaFmt p.fmt)
    let badB := match p.tileB with
      | some t => let b := k.shape t; !b.valid || b.fmt != want || b.rows != a.cols
      | none => p.n = 0 || decide (64 < p.n)
    let other := match m.chain? (s.tilePhys c p.d) with
      | some ch => (match ch.fmt with | some f => f != p.fmt | none => false)
      | none => false
    first [(!a.valid || a.fmt != want, 0x61), (badB, 0x61), (pin p.d, 0x63), (other, 0x62)]
  | none, .mtld _ n _ | none, .mtldw _ n _ | none, .mtst _ n _ => first [(!(k.shape n).valid, 0x61)]
  | none, .mspill _ n _ => first [(!pin n, 0x63)]
  | none, .mfill _ n _ => first [(!pin n, 0x63), (chain n, 0x62)]
  | none, .mchainB _ n _ _ => first [(pin n, 0x63), (!chain n && m.chains.toList.all (·.isSome), 0x62)]
  | none, .mchainE _ n => first [(pin n, 0x63)]
  | none, .mzero _ n | none, .mpin _ n _ => first [(pin n, 0x63), (chain n, 0x62)]
  | none, .munpin _ n => first [(!pin n, 0x63)]
  | none, .mscacc _ d q _ _ =>
    first [((k.shape (bits k.left.toNat 0 4)).fmt != some .s9, 0x61), (pin d || pin q, 0x63), (chain d || chain q, 0x62)]
  | none, .mgdlt _ n q | none, .mfwrd _ n q => fast n q false
  | none, .mfwchunk _ n q => fast n q (k.tokens = 0 || decide (16 < k.tokens))
  | none, .mrd .. => first [(bits k.left.toNat 16 7 = 0 || decide (64 < bits k.left.toNat 16 7), 0x61)]
  | none, _ => none

/-- A command that ends with no further effect (R358). -/
def MatrixState.dropRun (m : MatrixState) (k : EngineCmd) : MatrixState :=
  match m.unit (mxUnit k.instr) with
  | none => m
  | some r =>
    if r.cmd ≠ k then m else
    let m := m.setUnit (mxUnit k.instr) none
    match mxUnit k.instr with | .compute => { m with progCut := true, progActive := false }.clearProg | _ => m

/-- A matrix fault (R358): the command that raises it has no effect. -/
def State.mxFault (s : State) (c : CoreIx) (k : EngineCmd) (code : Nat) : State :=
  (s.updMatrix c fun m => m.dropRun k).engineFault c k code (engineDetail k.instr)

/-- K-steps, tokens or rows of a command. -/
def EngineCmd.steps (k : EngineCmd) : Nat :=
  match k.product, k.instr with
  | some p, _ => p.last - p.ks0
  | none, .mfwchunk .. => k.tokens
  | none, .mrd .. => bits k.left.toNat 16 7
  | none, _ => 1

/-- MX_PROG at the start of a compute command (R362). -/
def MatrixState.startProg (m : MatrixState) (k : EngineCmd) : MatrixState :=
  let (total, done) : Nat × Nat := match k.product, k.instr with
    | some p, _ => (p.last, p.ks0)
    | none, .mfwchunk .. => (k.tokens, 0)
    | none, _ => (1, 0)
  { m with progOpc := BitVec.ofNat 7 (engineDetail k.instr), progCut := false, progActive := true, progTotal := BitVec.ofNat 8 total,
           progDone := BitVec.ofNat 8 done }

/-- MATRIX_COMMAND_START (R333): the head command leaves the queue; it raises its fault, or starts on its unit. -/
def execMatrixCommandStart (c : CoreIx) (s : State) : Out :=
  match (s.ctx c).matrix.queue with
  | [] => .next s
  | k :: rest =>
    if !s.matrixReady c then .next s else
    match s.matrixFault c k with
    | some code => .next (s.mxFault c k code)
    | none =>
      let run : MxRun := { cmd := k, start := s.tick, elapsed := 0, done := 0, total := k.steps, buf := [], chain := none, failed := false,
                           redo := none, rerun := false, attached := none, undo := [] }
      .next (s.updMatrix c fun m =>
        let m := { m with queue := rest, started := true }
        let m := m.setUnit (mxUnit k.instr) (some run)
        let m := match k.product with | some p => m.formChain (s.tilePhys c p.d) p.fmt | none => m
        match mxUnit k.instr with | .compute => m.startProg k | _ => m)

/-! ### Ticks of a command in progress (R334) -/

/-- Whether a command advances in this tick: the step of a cut command runs on under a suspension (R359), and one run again runs (R478). -/
def State.mxRuns (s : State) (c : CoreIx) (cut : Bool) (r : MxRun) : Bool :=
  r.rerun || s.opRuns c r.cmd.owner ||
  (cut && (s.core c).swap.isNone && (match s.coreLaunch? c with | some l => !l.frozen && l.stage == .running && l.susp.isSome | none => false))

/-- Whether a unit's command advances in this tick. -/
def State.mxUnitRuns (s : State) (c : CoreIx) (u : MxUnit) : Bool :=
  let m := (s.ctx c).matrix
  match m.unit u with
  | none => false
  | some r => s.mxRuns c (match u with | .compute => m.progCut | .load => r.failed | .read => false) r

/-- The tick of a command's last effect, counted from its start (R334). -/
def State.mxLast (s : State) (c : CoreIx) (r : MxRun) : Nat :=
  match r.cmd.product, r.cmd.instr with
  | some p, _ => 3 + mmaTicks p.fmt * r.total
  | none, .mtld .. | none, .mtldw .. | none, .mtst .. => 11
  | none, .mspill .. | none, .mfill .. => 44
  | none, .mchainE _ n => (match (s.ctx c).matrix.chain? (s.tilePhys c n) with | some k => if k.fmt = some .e4m3 then 3 else 0 | none => 0)
  | none, .mzero .. => 1
  | none, .mscacc .. => 19
  | none, .mgdlt .. => 79
  | none, .mfwrd .. => 67
  | none, .mfwchunk .. => 148 * r.total - 1
  | none, _ => 0

/-- An uncorrectable error in a read of a compute command (R358); in the tick of a cut the command only ends (R361). -/
def State.mxUncorr (s : State) (c : CoreIx) (r : MxRun) : State :=
  if r.failed then s.updMatrix c fun m => m.dropRun r.cmd else s.mxFault c r.cmd 0x65

/-- An effect of a compute command that reads these spans, unless they hold an uncorrectable error (R121, R358). -/
def State.mxEffect (s : State) (c : CoreIx) (r : MxRun) (spans : List (Fin 10 × Nat × Nat)) (f : State → State) : State :=
  if s.spansHard c spans then s.mxUncorr c r else f (s.spansSoft c r.cmd.owner.launch spans)

/-- K_STEP_END (R341, R353): the k-step or token whose last tick this is takes effect. -/
def execKStepEnd (c : CoreIx) (s : State) : Out :=
  match (s.ctx c).matrix.compute with
  | some r =>
    if !(s.mxUnitRuns c .compute && r.stepEnd == some r.elapsed) then .next s else
    .next (s.mxEffect c r (s.mxReads c r) fun s =>
      (s.stepEffect c r).updMatrix c fun m =>
        { m with compute := m.compute.map fun r => { r with buf := [], redo := r.redo.map fun _ => 0, rerun := r.rerun } })
  | none => .next s

/-! ### Load-unit beats and stream reads -/

/-- Whether a load-unit command stores to the A-buffer. -/
def isMxStore : Instr → Bool
  | .mtst .. | .mspill .. => true
  | _ => false

/-- Bytes captured by a command, in order of their place. -/
def MxRun.bytes (r : MxRun) (a n : Nat) : List Byte :=
  let buf := sortBy Prod.fst r.buf
  (List.range n).map fun i => sparseGet 0 buf (a + i)

/-- The header tick of `mfill` (R356): header bytes 0x00 to 0x1B are read and the checks of the image made; the fault it raises, if any. -/
def State.fillHeader (s : State) (c : CoreIx) (r : MxRun) : State :=
  match r.cmd.spill with
  | none => s
  | some (n, rg, base, _) =>
    let xs := (List.range 28).map fun i => base + i
    if s.rangeHard c rg xs then s.mxFault c r.cmd 0x65 else
    let head := xs.map fun x => s.chipRead (s.rangeByte c rg x)
    let s := s.rangeSoft c r.cmd.owner.launch rg xs
    let o := (s.ctx c).matrix.owners[s.tilePhys c n]
    let dw (k w : Nat) : Nat := leNat ((head.drop k).take w)
    let crc := crc32c (head.take 24 ++ r.bytes 0 16384)
    if dw 0 4 ≠ 0x4D465753 || bits (dw 0 8) 48 4 ≠ o.fmt.toNat || dw 24 4 ≠ crc.toNat then s.mxFault c r.cmd 0x64
    else if bits (dw 0 8) 32 16 ≠ o.owner.toNat then s.mxFault c r.cmd 0x63
    else s.updMatrix c fun m => { m with load := m.load.map fun r => { r with buf := r.buf ++ head.zipIdx.map fun e => (16384 + e.2, e.1) } }

/-- What the load unit does in this tick (R334), for commands that store or for those that load. -/
def State.loadUnitTick (s : State) (c : CoreIx) (store : Bool) : State :=
  match (s.ctx c).matrix.load with
  | some r =>
    if isMxStore r.cmd.instr != store || !s.mxUnitRuns c .load then s else
    match s.loadBeat c r with
    | (s', false) => if r.failed then s' else s'.mxFault c r.cmd 0x65
    | (s', true) => if r.elapsed = 36 && !store && !r.failed then s'.fillHeader c r else s'
  | none => s

/-- The rows of B that a product in the stream form reads in this tick (R341). -/
def State.streamTick (s : State) (c : CoreIx) : State :=
  match (s.ctx c).matrix.compute with
  | some r =>
    match r.cmd.product with
    | some p =>
      if !s.mxUnitRuns c .compute || r.total ≤ r.done then s else
      let rows := streamRows r.cmd p r.elapsed
      let xs := rows.flatMap fun q => (List.range (p.n * fmtBytes (mmaFmt p.fmt))).map fun b => p.base + q * p.pitch + b
      if s.rangeHard c p.range xs then s.mxUncorr c r else
      let data := rows.flatMap (s.readRow c p)
      (s.rangeSoft c r.cmd.owner.launch p.range xs).updMatrix c fun m => { m with compute := some { r with buf := r.buf ++ data } }
    | none => s
  | none => s

/-! ### Completion -/

/-- `mscacc` (R346). -/
def scaleElems (x : CoreCtx) (cbuf : Memory) (k : EngineCmd) (d p : Fin 32) (rnd : Round) (int : Bool) : Memory :=
  let t := bits k.left.toNat 0 4
  let scale (z : Nat) : Val := fmtDecode .s9 (readLE x.tiles (t * 4096 + 2 * (z % 2048)) 2 % 512)
  let sa := (List.range 64).map fun i => scale (bits k.left.toNat 16 11 + i)
  let sb := (List.range 64).map fun j => scale (bits k.left.toNat 32 11 + j)
  putAcc cbuf d ((grid 64 64).map fun ij =>
    let e := accElem cbuf p ij.1 ij.2
    let v : Val := if int then Val.ofInt (signedOf 32 e) else fp e
    (ij, toFp32 rnd 0 (Val.add (rnd == .rdn) (Val.mul (Val.mul v (sa.getD ij.1 .nan)) (sb.getD ij.2 .nan)) (fp (accElem cbuf d ij.1 ij.2)))))

/-- The tile contents changed by a command's last tick. -/
def State.setAcc (s : State) (c : CoreIx) (f : Memory → Memory) : State := s.updCore c fun k => { k with cbuf := f k.cbuf }

/-- The entry that `mpin` makes (R350). -/
def EngineCmd.pinEntry (k : EngineCmd) (fmt : Fmt) : Ownership :=
  { pin := true, owner := k.rcb, fmt := fmt.code, vder := k.polV, tokens := k.left, prog := 0 }

/-- The effect of a compute command in its last tick (R341 to R353). -/
def State.computeEnd (s : State) (c : CoreIx) (r : MxRun) : State :=
  let k := r.cmd
  let m := (s.ctx c).matrix
  let phys (n : Fin 32) : Fin 32 := s.tilePhys c n
  match k.instr with
  | .mma .. | .mmaw .. =>
    match r.chain with
    | some ch => if m.progCut && r.done < k.steps then s else s.mxEffect c r ch.reads fun s => s.setAcc c fun b => chainEnd b ch
    | none => s
  | .mchainB _ n rnd clr =>
    let s := s.updMatrix c fun m => (m.putChain (phys n) none).openChain ⟨phys n, rnd, none, []⟩
    if clr then (s.clearErrors 3 c ((phys n).val * 16384) 16384).setAcc c fun b => zeroAcc b (phys n) else s
  | .mchainE _ n =>
    match m.chain? (phys n) with
    | some ch => s.mxEffect c r ch.reads fun s => (s.setAcc c fun b => chainEnd b ch).updMatrix c fun m => m.putChain (phys n) none
    | none => s
  | .mzero _ n => (s.clearErrors 3 c ((phys n).val * 16384) 16384).setAcc c fun b => zeroAcc b (phys n)
  | .mscacc _ d q rnd int => s.mxEffect c r (s.mxReads c r) fun s => s.setAcc c fun b => scaleElems (s.ctx c) b k (phys d) (phys q) rnd int
  | .mpin _ n fmt => s.updMatrix c fun m => m.updOwner (phys n) fun _ => k.pinEntry fmt
  | .munpin _ n => s.updMatrix c fun m => m.updOwner (phys n) fun _ => .clear
  | .mgdlt _ n q => s.mxEffect c r (s.mxReads c r) fun s =>
      (s.setAcc c fun b => deltaStep (s.ctx c) b (phys n) q (bits k.right.toNat 0 4) (fp (bits k.left.toNat 0 32)) (fp (bits k.left.toNat 32 32))).updMatrix c
        fun m => m.updOwner (phys n) fun o => { o with tokens := o.tokens + 1 }
  | .mfwrd _ n q => s.mxEffect c r (s.mxReads c r) fun s =>
      (s.clearErrors 7 c ((4 * q.val + 3) * 4096 + bits k.left.toNat 0 4 * 256) 256).updCtx c fun x => queryStep x (s.core c).cbuf (phys n) q (bits k.left.toNat 0 4)
  | _ => s

/-- The effect of a load-unit command in its last tick (R334, R340, R355, R356). -/
def State.loadEnd (s : State) (c : CoreIx) (r : MxRun) : State :=
  match r.cmd.move, r.cmd.spill with
  | some (t, _, _, _, store), _ =>
    if !store && (r.cmd.shape t).stat then
      (s.clearErrors 7 c (t * 4096) 4096).updCtx c fun x => { x with tiles := writeBytes x.tiles (t * 4096) (r.bytes 0 4096) }
    else s
  | none, some (n, rg, base, true) =>
    let o := (s.ctx c).matrix.owners[s.tilePhys c n]
    let head := spillHead o
    let bytes := head ++ leBytes 4 (crc32c (head ++ r.bytes 0 16384)).toNat ++ leBytes 36 0
    match s.rangeWrite c rg (bytes.zipIdx.map fun e => (base + e.2, e.1)) with
    | (s', true) => s'
    | (s', false) => s'.mxFault c r.cmd 0x65
  | none, some (n, _, _, false) =>
    let p := s.tilePhys c n
    ((s.clearErrors 3 c (p.val * 16384) 16384).setAcc c fun b => writeBytes b (p.val * 16384) (r.bytes 0 16384)).updMatrix c fun m =>
      m.updOwner p fun o => { o with tokens := w64 (leNat (r.bytes 16392 8)) }
  | none, none => s

/-- MX_PROG as a compute command completes: DONE of a command without k-steps or tokens is 1 (R362). -/
def MatrixState.endProg (m : MatrixState) (r : MxRun) : MatrixState :=
  let stepped := r.stepEnd.isSome || r.cmd.product.isSome || (match r.cmd.instr with | .mfwchunk .. => true | _ => false)
  { m with progActive := false, progDone := if stepped then m.progDone else 1 }.clearProg

/-- Whether a unit's command completes in this tick: its last tick, a cut load, or a read port whose rows are written or whose round has ended. -/
def State.mxCompletes (s : State) (c : CoreIx) (u : MxUnit) : Bool :=
  match (s.ctx c).matrix.unit u, u with
  | none, _ => false
  | some r, .load => s.mxUnitRuns c .load && (r.failed || r.elapsed == s.mxLast c r)
  | some r, .compute => s.mxUnitRuns c .compute && r.elapsed == s.mxLast c r
  | some r, .read =>
    match r.cmd.instr, r.attached with
    | .mrd _ _ g, some t =>
      let x := (s.ctx c).regions[g]
      decide (r.total ≤ r.done) || (match x.round with | some k => k.start != t || (k.moved && k.rc == x.lastRcOf k) | none => true)
    | _, _ => false

/-- MATRIX_COMMAND_COMPLETE (R334): the effects of the command's last tick, and its completion token. -/
def execMatrixCommandComplete (c : CoreIx) (u : MxUnit) (s : State) : Out :=
  match (s.ctx c).matrix.unit u with
  | none => .next s
  | some r =>
    if !s.mxCompletes c u then .next s else
    match u with
    | .load =>
      let s := if r.failed then s else s.loadEnd c r
      .next (s.updMatrix c fun m => m.setUnit .load none)
    | .read => .next (s.updMatrix c fun m => m.setUnit .read none)
    | .compute =>
      if r.done < r.total && r.stepEnd.isSome then .next s else
      let s := s.computeEnd c r
      .next (s.updMatrix c fun m => if m.compute.isSome then (m.endProg r).setUnit .compute none else m)

/-! ### The read port (R347) -/

/-- The row of `mrd` whose tick this is goes to the latches at the end of the tick. -/
def State.readPortTick (s : State) (c : CoreIx) : State :=
  match (s.ctx c).matrix.read with
  | some r =>
    match r.cmd.instr with
    | .mrd _ n g =>
      let x := (s.ctx c).regions[g]
      match x.round with
      | none => s
      | some k =>
        if k.start < r.start || !(r.attached.isNone || r.attached == some k.start) then s else
        let tile := s.tilePhys c n
        let due := k.moved && decide (r.done < r.total) && k.rc == bits r.cmd.left.toNat 32 32 + r.done * x.active.period
        if !due then s.updMatrix c fun m => { m with read := some { r with attached := some k.start } }
        else
          let row := (bits r.cmd.left.toNat 0 6 + r.done) % 64
          let span := [(3, tile.val * 16384 + 256 * row, 256)]
          if s.spansHard c span then s.mxFault c r.cmd 0x65 else
          let ap := vecMap x.ap fun q _ => ofLanes fun l => w32 (accElem (s.core c).cbuf tile row (16 * q + l))
          (((s.spansSoft c r.cmd.owner.launch span).updRegion c g fun y => { y with ap }).updMatrix c fun m =>
            { m with read := some { r with attached := some k.start, done := r.done + 1 } })
    | _ => s
  | none => s

/-! ### The engine in a tick, and what a swap-out abandons -/

/-- The k-steps and completions of this tick, in order. -/
def State.matrixEnds (s : State) (c : CoreIx) : List Instr :=
  (match (s.ctx c).matrix.compute with
   | some r => if s.mxUnitRuns c .compute && r.stepEnd == some r.elapsed then [.kStepEnd c] else []
   | none => []) ++
  ([.load, .compute, .read].filter (s.mxCompletes c)).map fun u => .matrixCommandComplete c u

/-- The engine at the end of a tick. -/
def State.matrixTickEnd (s : State) (c : CoreIx) : State :=
  let step (u : MxUnit) (r : Option MxRun) : Option MxRun := if s.mxUnitRuns c u then r.map fun r => { r with elapsed := r.elapsed + 1 } else r
  let m := (s.ctx c).matrix
  if m.started || m.load.isSome || m.compute.isSome || m.read.isSome then
    s.updMatrix c fun m => { m with started := false, load := step .load m.load, compute := (step .compute m.compute).map fun r => { r with failed := false }, read := step .read m.read }
  else s

/-- The first tick of the step under way, or of the next one, counted from the command's start; 0 of a command that has none, or has not begun any (R359). -/
def MxRun.stepStart (r : MxRun) : Nat := if r.stepEnd.isNone || (r.done = 0 && !r.stepUnderWay) then 0 else r.nextStep

/-- At the pre-emption tick: the ticks of each unit's step that have passed (R478). -/
def MatrixState.markSteps (m : MatrixState) : MatrixState :=
  { m with compute := m.compute.map fun r => { r with redo := some (r.elapsed - r.stepStart) }
           load := m.load.map fun r => { r with redo := some r.elapsed } }

/-- A swap-out abandons the step under way with nothing written; it will be run again from its first tick (R359, R478). -/
def MatrixState.abandonSteps (m : MatrixState) : MatrixState :=
  { m with compute := m.compute.map fun r => { r with elapsed := r.stepStart, buf := [] }
           load := (m.load.filter fun r => !r.failed).map fun r => { r with elapsed := 0, buf := [], undo := [] } }

/-- At r the suspension is over for the engine. -/
def MatrixState.resumeSteps (m : MatrixState) : MatrixState :=
  let f (r : MxRun) : MxRun := { r with redo := none, rerun := false }
  { m with compute := m.compute.map f, load := m.load.map f }

/-- At restore every open chain is dropped without writing (R360). -/
def MatrixState.dropChains (m : MatrixState) : MatrixState :=
  { m with chains := Vector.replicate 2 none, compute := m.compute.map fun r => { r with chain := none } }

end Sys2Proof.Machine
end

