-- ==== Sys2Proof/Machine/Stochastic.lean ====
section
/-! DEFINITION. The stochastic engine's commands (R372 to R377, R392, R393): start conditions, faults, effect ticks, and what a swap-out abandons. -/

namespace Sys2Proof.Machine

def ssUnit : Instr → SsUnit
  | .sgen .. | .sregen .. | .b2s .. | .b2sv .. | .sgset .. => .gen
  | .s2b .. | .sld .. | .sst .. => .xfer
  | _ => .logic

def StochState.unit (x : StochState) : SsUnit → List SsRun
  | .logic => x.logic
  | .gen => x.gen
  | .xfer => x.xfer
def StochState.setUnit (x : StochState) (u : SsUnit) (l : List SsRun) : StochState :=
  match u with
  | .logic => { x with logic := l }
  | .gen => { x with gen := l }
  | .xfer => { x with xfer := l }

/-- Registers that a command reads and writes: stream s as s, count n as 64 + n, generator g as 80 + g (R375). -/
def ssSets (k : EngineCmd) : List Nat × List Nat :=
  let ms := List.range k.streams
  let src (lo : Nat) : List Nat := ms.map fun m => (ssReg k.left lo m).val
  let dst (d : Fin 64) : List Nat := ms.map fun m => (d.val + m) % 64
  let cnt (n : Nat) : List Nat := ms.map fun m => 64 + (cntReg n m).val
  match k.instr with
  | .sand _ d | .sor _ d | .sxor _ d | .sxnor _ d => (src 0 ++ src 8, dst d)
  | .smux _ d => (src 0 ++ src 8 ++ src 16, dst d)
  | .snot _ d | .smov _ d | .srot _ d => (src 0, dst d)
  | .sfill _ _ d => ([], dst d)
  | .scnt _ acc n => (src 0 ++ (if acc then cnt n else []), cnt n)
  | .sgen _ g fromCount _ d => ((80 + g.val) :: (if fromCount then cnt (bits k.left.toNat 0 4) else []), (80 + g.val) :: dst d)
  | .sregen _ g d => ((80 + g.val) :: src 0, (80 + g.val) :: dst d)
  | .b2s _ g _ _ d | .b2sv _ g _ _ d => ([80 + g.val], (80 + g.val) :: dst d)
  | .sgset _ g => ([], [80 + g.val])
  | .s2b _ _ a => (dst a, [])
  | .sst _ a => ([a], [])
  | .sld _ _ d => ([], [d])
  | _ => ([], [])

/-- Whether a started command stands in the way of another (R375). -/
def ssBlocks (k : EngineCmd) (r : SsRun) : Bool :=
  let (rr, rw) := ssSets r.cmd
  let (kr, kw) := ssSets k
  rw.any (fun x => kr.contains x || kw.contains x) || rr.any fun x => kw.contains x

/-- Whether the head command starts in this tick (R375). -/
def State.stochReady (s : State) (c : CoreIx) : Bool :=
  let x := (s.ctx c).stoch
  match x.queue with
  | [] => false
  | k :: _ =>
    decide (k.tick < s.tick) && !x.started && s.opRuns c k.owner && (x.unit (ssUnit k.instr)).all (fun r => decide (r.busy ≤ r.elapsed)) &&
    !((x.logic ++ x.gen ++ x.xfer).any (ssBlocks k))

/-! ### Faults at the start (R372, R373, R392) -/

/-- The first failure of R373: code and DETAIL. -/
def ssCheck (x : StochState) (k : EngineCmd) : Option (Nat × Nat) :=
  let reg (lo m : Nat) : Fin 64 × StreamReg := (ssReg k.left lo m, x.streams[ssReg k.left lo m])
  let lenBad (m : Nat) (a b : Fin 64 × StreamReg) : Option (Nat × Nat) :=
    if a.2.len ≠ b.2.len then some (0x72, m + a.1.val * 16 + b.1.val * 1024 + b.2.len.toNat * 2 ^ 16 + a.2.len.toNat * 2 ^ 18) else none
  let maskBad (m : Nat) (a b : Fin 64 × StreamReg) : Option (Nat × Nat) :=
    if a.2.mask &&& b.2.mask ≠ 0 then some (0x71, m + a.1.val * 16 + b.1.val * 1024 + (a.2.mask &&& b.2.mask).toNat * 2 ^ 16) else none
  let one (l : List (Option (Nat × Nat))) : Option (Nat × Nat) := l.findSome? id
  match k.instr with
  | .sand .. | .sor .. | .sxor .. | .sxnor .. =>
    (List.range k.streams).findSome? fun m => one [lenBad m (reg 0 m) (reg 8 m), maskBad m (reg 0 m) (reg 8 m)]
  | .smux .. =>
    (List.range k.streams).findSome? fun m =>
      one [lenBad m (reg 16 m) (reg 0 m), lenBad m (reg 16 m) (reg 8 m), maskBad m (reg 16 m) (reg 0 m), maskBad m (reg 16 m) (reg 8 m)]
  | _ => none

/-- A-buffer bytes that a command reads in its start tick. -/
def EngineCmd.ssReads (k : EngineCmd) : Nat × Nat :=
  match k.instr with
  | .b2sv .. => (ssOperand k.left, 4 * k.streams)
  | .sld _ len _ => (ssOperand k.left, lenBits len / 8)
  | _ => (0, 0)

/-- SSUNCORR of the reads of the start tick (R392). -/
def State.ssUncorr (s : State) (c : CoreIx) (k : EngineCmd) : Option (Nat × Nat) :=
  if s.ecc.isEmpty then none else
  match (ssSets k).1.find? fun r => decide (r < 64) && s.hardError 8 c (r * 512) 512 with
  | some r => some (0x73, 0x80000000 + r)
  | none => (s.ssHard c k.ssReads.1 k.ssReads.2).map fun a => (0x73, a)

/-- Correctable errors of the reads of the start tick (R121). -/
def State.ssSoft (s : State) (c : CoreIx) (k : EngineCmd) : State :=
  if s.ecc.isEmpty then s else
  let pw := s.placeCore k.owner.launch c 5
  let s := ((ssSets k).1.filter (· < 64)).foldl (fun s r => s.softRead pw none 8 c (r * 512) 512) s
  (List.range k.ssReads.2).foldl (fun s i => s.softRead pw none 1 c (s.aPhys c (s.ssOff c (k.ssReads.1 + i))) 1) s

/-- A stochastic fault (R392). -/
def State.ssFault (s : State) (c : CoreIx) (k : EngineCmd) (f : Nat × Nat) : State :=
  let s := s.updStoch c fun x => { x with faultCode := BitVec.ofNat 8 f.1, faultDetail := BitVec.ofNat 32 f.2 }
  s.engineFault c k f.1 f.2

/-- The banks that a command's reads access in its start tick. -/
def State.ssTouch (s : State) (c : CoreIx) (k : EngineCmd) : State :=
  (List.range ((k.ssReads.2 + 15) / 16)).foldl (fun s i => s.touch c (s.aPhys c (s.ssOff c (k.ssReads.1 + 16 * i)))) s

/-- STOCHASTIC_COMMAND_START (R375): the head command leaves the queue; it raises its fault, or starts with its sources read. -/
def execStochasticCommandStart (c : CoreIx) (s : State) : Out :=
  match (s.ctx c).stoch.queue with
  | [] => .next s
  | k :: rest =>
    if !s.stochReady c then .next s else
    match s.ssUncorr c k with
    | some f => .next (s.ssFault c k f)
    | none =>
      match ssCheck (s.ctx c).stoch k with
      | some f => .next (s.ssFault c k f)
      | none =>
        let run := s.ssRun c k
        let u := ssUnit k.instr
        .next (((s.ssSoft c k).ssTouch c k).updStoch c fun x => { x with queue := rest, started := true }.setUnit u (x.unit u ++ [run]))

/-! ### Effect ticks -/

/-- Whether a command advances in this tick. -/
def State.ssRuns (s : State) (c : CoreIx) (r : SsRun) : Bool := r.rerun || s.opRuns c r.cmd.owner

/-- Whether this tick is a command's effect tick. -/
def State.ssDue (s : State) (c : CoreIx) (r : SsRun) : Bool := s.ssRuns c r && r.elapsed == r.effect

/-- STOCHASTIC_EFFECT (R376): the writes of the unit's commands whose effect tick this is; they complete. -/
def execStochasticEffect (c : CoreIx) (u : SsUnit) (s : State) : Out :=
  let now := ((s.ctx c).stoch.unit u).filter (s.ssDue c)
  let s := s.updStoch c fun x => x.setUnit u ((x.unit u).filter fun r => !(now.contains r))
  .next (now.foldl (fun s r =>
    match s.ssEffect c r with
    | (s', none) => s'
    | (s', some a) => s'.ssFault c r.cmd (0x73, a)) s)

/-- The units with an effect in this tick. -/
def State.stochEnds (s : State) (c : CoreIx) : List Instr :=
  ([SsUnit.logic, .gen, .xfer].filter fun u => ((s.ctx c).stoch.unit u).any (s.ssDue c)).map fun u => .stochasticEffect c u

/-! ### The engine in a tick, and what a swap-out abandons -/

def StochState.mapRuns (x : StochState) (f : SsRun → SsRun) : StochState := { x with logic := x.logic.map f, gen := x.gen.map f, xfer := x.xfer.map f }

/-- The engine at the end of a tick. -/
def State.stochTickEnd (s : State) (c : CoreIx) : State :=
  let x := (s.ctx c).stoch
  if x.started || !x.logic.isEmpty || !x.gen.isEmpty || !x.xfer.isEmpty || x.cntNew ≠ 0 then
    s.updStoch c fun x => { x with started := false, cntNew := 0 }.mapRuns fun r => if s.ssRuns c r then { r with elapsed := r.elapsed + 1 } else r
  else s

/-- At the pre-emption tick: the ticks of each command that have passed (R478). -/
def StochState.markSteps (x : StochState) : StochState := x.mapRuns fun r => { r with redo := some r.elapsed }
/-- A swap-out abandons the commands in progress with nothing written (R393, R478). -/
def StochState.abandonSteps (x : StochState) : StochState := x.mapRuns fun r => { r with elapsed := 0 }
/-- At r the suspension is over for the engine. -/
def StochState.resumeSteps (x : StochState) : StochState := x.mapRuns fun r => { r with redo := none, rerun := false }

end Sys2Proof.Machine
end

