-- ==== Sys2Proof/Machine/Load.lean ====
section
/-! DEFINITION. Region control blocks (R22 to R24, R27) and launch images (R418, R421) read from memory, and the part of the Threshold check that judges an image for itself (R58, R91, R105, R185, R190, R214, R229, R257, R284, R285, R299, R303, R311, R313, R336, R338, R378, R380, R476). What it finds of schedules over time stands in Machine/Check.lean. -/

namespace Sys2Proof.Machine

/-- A reader of n little-endian bytes at an address. -/
abbrev Reader := Nat → Nat → Nat

/-- Whether n bytes at an address can be read. -/
abbrev Readable := Nat → Nat → Bool

/-- The reader of an issuing queue's address space (R22). -/
def State.reader (s : State) : Reader := s.readPhys

/-- Whether a span of n bytes has addresses of the form of R108. -/
def physOk (a : BitVec 56) (n : Nat) : Bool := bit a.toNat 55 || decide (a.toNat + n ≤ 2 ^ 37)

/-- The spans of that space that exist (R108) and hold no error that cannot be corrected (R121, R416). Reads of host memory by the scheduling core do not fail
(DESIGN CHOICE, log entry 11). -/
def State.readable (s : State) : Readable := fun a n => physOk (BitVec.ofNat 56 a) n && (bit a 55 || !s.hardError 0 0 a n)
/-- The reader of a graph's copies (R422). -/
def memReader (m : Memory) : Reader := readLE m
/-- A memory of the bytes from an address upward. -/
def memOf (base : Nat) : List Byte → Memory
  | [] => []
  | b :: t => if b = 0 then memOf (base + 1) t else (base, b) :: memOf (base + 1) t

/-! ### Region control blocks -/

/-- The RCB at an address (R22). -/
def readRcb (rd : Reader) (addr : Nat) : Rcb :=
  let w (k : Nat) : Nat := rd (addr + 8 * k) 8
  { addr := BitVec.ofNat 56 addr, magicOk := bits (w 0) 0 16 == 0x5243, depth := bits (w 0) 16 3, ovb := bit (w 0) 20, ovp := bit (w 0) 21,
    ovf := bit (w 0) 22, priority := bits (w 0) 24 8, fdom := BitVec.ofNat 16 (bits (w 0) 32 16), id := BitVec.ofNat 16 (bits (w 0) 48 16),
    parent := w64 (w 1), child := w64 (w 2), sibling := w64 (w 3),
    budget := { cores := bits (w 4) 0 7, cells := bits (w 4) 7 13, parts := bits (w 4) 20 9, slots := bits (w 4) 29 16, bufBytes := w 5 },
    image := w64 (w 6),
    reservedOk := !bit (w 0) 19 && !bit (w 0) 23 && bits (w 4) 45 19 == 0 && w 7 == 0 }

/-- The effective attributes of an RCB (R23), with the path from the root down to it. -/
structure Attr where
  depth : Nat
  budget : Budget
  priority : Nat
  fdom : BitVec 16
  path : List (BitVec 16 × Budget)
deriving DecidableEq, Repr

def Budget.le (a b : Budget) : Bool :=
  decide (a.cores ≤ b.cores) && decide (a.cells ≤ b.cells) && decide (a.parts ≤ b.parts) && decide (a.slots ≤ b.slots) &&
  decide (a.bufBytes ≤ b.bufBytes)

/-- The attributes that an RCB itself has below its parent (R23). -/
def Rcb.attr (r : Rcb) (p : Option Attr) : Attr :=
  let budget := match p with | some a => if r.ovb then r.budget else a.budget | none => r.budget
  { depth := r.depth, budget,
    priority := match p with | some a => if r.ovp then r.priority else a.priority | none => r.priority,
    fdom := match p with | some a => if r.ovf then r.fdom else a.fdom | none => r.fdom,
    path := (match p with | some a => a.path | none => []) ++ [(r.id, budget)] }

/-- The first two conditions of R24, and R23 for a root. -/
def Rcb.formOk (r : Rcb) (p : Option Attr) : Bool :=
  r.magicOk && r.reservedOk &&
  match p with
  | some a => r.depth == a.depth + 1
  | none => r.depth == 0 && r.ovb && r.ovp && r.ovf

/-- The last two conditions of R24: nothing overrides upward. -/
def Rcb.within (r : Rcb) (p : Option Attr) : Bool :=
  match p with
  | some a => (!r.ovp || decide (r.priority ≤ a.priority)) && (!r.ovb || r.budget.le a.budget)
  | none => true

/-- The ancestors of an RCB, root first, by its PARENT pointers (R27); none where they lead back or are more than 7. -/
def rcbChain (rd : Reader) : Nat → Nat → List Rcb → Option (List Rcb)
  | 0, addr, acc => if addr = 0 then some acc else none
  | fuel + 1, addr, acc =>
    if addr = 0 then some acc
    else if acc.any (fun r => r.addr.toNat == addr % 2 ^ 56) then none
    else let r := readRcb rd (addr % 2 ^ 56); rcbChain rd fuel r.parent.toNat (r :: acc)

/-- The attributes of the last of a chain of ancestors, or the first that offends (R24, R27). -/
def chainAttr : List Rcb → Option Attr → Except (BitVec 56) (Option Attr)
  | [], a => .ok a
  | r :: t, a => if r.formOk a then chainAttr t (some (r.attr a)) else .error r.addr

/-- An RCB still to be visited: its address, the RCB whose pointer names it, the attributes of its parent, whether its siblings follow. -/
structure RcbItem where
  addr : Nat
  owner : Nat
  attr : Option Attr
  siblings : Bool
deriving DecidableEq, Repr

/-- The RCB that R24 reports where one is found to offend: the first in tree order, which is an earlier one whose SIBLING pointer, not yet followed, leads back. -/
def firstOffender (found : Nat) (rest : List RcbItem) (seen : List Nat) : BitVec 56 :=
  match (rest.filter fun e => seen.contains (e.addr % 2 ^ 56)).getLast? with
  | some e => BitVec.ofNat 56 e.owner
  | none => BitVec.ofNat 56 found

/-- The launches of a subtree in pre-order, or the first RCB that breaks R24 or cannot be read (R27, R416). A pointer is read at its address modulo 2^56, aligned
or not, since R22 gives no consequence for any other (DESIGN CHOICE, log entry 59). `ok`: the spans that can be read. -/
def walkRcbs (rd : Reader) (ok : Readable) : Nat → List RcbItem → List Nat → List Spec → Except (BitVec 56) (List Spec)
  | _, [], _, acc => .ok acc.reverse
  | 0, e :: _, _, _ => .error (BitVec.ofNat 56 e.addr)
  | fuel + 1, e :: rest, seen, acc =>
    let addr := e.addr % 2 ^ 56
    if seen.contains addr then .error (firstOffender e.owner rest seen) else
    let r := readRcb rd addr
    if !ok addr 64 || !r.formOk e.attr || !r.within e.attr then .error (firstOffender addr rest seen) else
    let a := r.attr e.attr
    let next := (if r.child = 0 then [] else [⟨r.child.toNat, addr, some a, true⟩]) ++
      (if e.siblings && r.sibling ≠ 0 then [⟨r.sibling.toNat, addr, e.attr, true⟩] else [])
    let acc := if r.image = 0 then acc else ⟨r, a.path, a.priority, a.fdom⟩ :: acc
    walkRcbs rd ok fuel (next ++ rest) (addr :: seen) acc

/-- The launches that a launch packet names with the priority of the root of their tree (R27, R399), or the first offending RCB (R24). At most 2^16 RCBs
live at once, their ids being distinct. -/
def subtree (rd : Reader) (ok : Readable) (addr : Nat) : Except (BitVec 56) (Nat × List Spec) :=
  let named := readRcb rd addr
  match if ok addr 64 then rcbChain rd 8 named.parent.toNat [] else none with
  | none => .error (BitVec.ofNat 56 addr)
  | some chain =>
    match chain.find? fun r => !ok r.addr.toNat 64 with
    | some r => .error r.addr
    | none =>
    match chainAttr chain none with
    | .error a => .error a
    | .ok a =>
      match walkRcbs rd ok 65536 [⟨addr, addr, a, false⟩] (chain.map (·.addr.toNat)) [] with
      | .error b => .error b
      | .ok l => .ok ((chain.headD named).priority, l)

/-! ### The image (R418) -/

/-- A list of n results, or none if one is. -/
def collect {α : Type} (n : Nat) (f : Nat → Option α) : Option (List α) := (List.range n).mapM f

/-- A pointer double-word: offset and count, with reserved bits 0. -/
def pointer (w : Nat) : Option (Nat × Nat) := if bits w 56 8 = 0 then some (bits w 0 40, bits w 40 16) else none

/-- A table entry (R54, R58 to R60). `period`: none for a sporadic image, whose entries are tested against the length of a window instead (R421). -/
def readEntry (rd : Reader) (a : Nat) (period : Option Nat) : Option TableEntry :=
  let w (k : Nat) : Nat := rd (a + 8 * k) 8
  let policy (k : Nat) : Bool := bit (w 2) (28 + k)
  let fb := bits (w 1) 24 24
  let blk := bits (w 1) 0 24
  let isEnd := bit (w 2) 32
  let plain := !isEnd && !policy 3
  let fbdl := bits (w 1) 48 16
  let start := bits (w 0) 0 32
  let deadline := bits (w 0) 32 32
  let fallback : Option (BitVec 24) := if plain && fb ≠ 0xFFFFFF then some (BitVec.ofNat 24 fb) else none
  let e : TableEntry :=
    { start, deadline, block := BitVec.ofNat 24 blk, fallback, fbDeadline := fbdl, remain := bits (w 2) 0 20,
      win := if bits (w 2) 20 8 = 255 then none else some (bits (w 2) 20 8), policyC := policy 0, policyD := policy 1, policyV := policy 2,
      policyS := policy 3, isEnd, mark := bit (w 2) 33, arg := w64 (w 3) }
  let blockFits (b : Nat) : Bool := b % 32 == 0 && decide (b < 0x40000)
  if bits (w 2) 34 30 = 0 && (match period with | some n => decide (start < n) && decide (deadline + fbdl ≤ n) | none => true) && decide (start < deadline) && decide (1 ≤ fbdl) &&
      (if plain then blockFits blk && (fb == 0xFFFFFF || blockFits fb) else blk == 0 && fb == 0) && (!isEnd || deadline == start + 1)
  then some e else none

/-- When an entry has ended (R58). -/
def TableEntry.ends (e : TableEntry) : Nat := if e.fallback.isSome then e.deadline + e.fbDeadline else e.deadline

/-- Entries strictly ascending, none starting before the one before it has ended (R58). -/
def entriesOk : List TableEntry → Bool
  | a :: b :: t => decide (a.start < b.start) && decide (a.ends ≤ b.start) && entriesOk (b :: t)
  | _ => true

def ascending : List Nat → Bool
  | a :: b :: t => decide (a < b) && ascending (b :: t)
  | _ => true

/-- A slot reservation record (R268, R269). -/
def readResv (w : Nat) : Option Resv :=
  let r : Resv := { first := bits w 0 9, count := bits w 9 9, chan := bits w 18 3, die := bits w 21 2, ix := bits w 23 3, iy := bits w 26 3,
                    cch := ⟨bits w 29 2, Nat.mod_lt _ (by decide)⟩ }
  let fits := ((List.range 512).filter fun i => decide (r.first ≤ i) && i % 64 != 0).length
  if bits w 31 33 = 0 && r.first % 64 != 0 && decide (1 ≤ r.count) && decide (r.count ≤ 504) && decide (r.count ≤ fits) then some r else none

/-- The slots of a reservation (R268). -/
def Resv.slots (r : Resv) : List Nat := (List.range r.count).map r.slot

/-- Physical slots of reservations, as (die or quadrant, channel, slot) packed. -/
def slotKeys (l : List Resv) : List Nat := l.flatMap fun r => r.slots.map fun k => (r.die * 8 + r.chan) * 512 + k

/-- The image quadrant that bits 26 and 27 of a Pantry address name; the bit of a seam that is not declared is ignored (R99, R100). -/
def Image.quadOf (i : Image) (q : Nat) : Nat := b2n (q % 2 == 1 && i.sx != 0) + 2 * b2n (q / 2 % 2 == 1 && i.sy != 0)

/-- The size of a slice that an address space names (R94, R98), in bytes; 0 where the image holds none. -/
def Image.sliceBytes (i : Image) (pantry repl : Bool) : Nat :=
  if !pantry then 2 ^ i.alog
  else if repl then (if i.rplog = 7 then 0 else 2 ^ (20 + i.rplog)) else (if i.plog = 7 then 0 else 2 ^ (20 + i.plog))

/-- Spans of bytes, as (first, length). -/
abbrev Spans := List (Nat × Nat)

/-- A range of an A-buffer offset or a Pantry address lies in the launch's slice (R229, R257, R476). -/
def Image.rangeIn (i : Image) (pantry : Bool) (base size : Nat) : Bool :=
  if pantry then decide (base < 2 ^ 32) && decide (bits base 0 26 + size ≤ i.sliceBytes true (bit base 28))
  else decide (base + size ≤ i.sliceBytes false false)

/-- A parameter-window descriptor (R104, R105). -/
def readWindow (i : Image) (rd : Reader) (a : Nat) : Option Window :=
  let w0 := rd a 8
  let w1 := rd (a + 8) 8
  let d : Window := { valid := bit w0 0, pantry := bit w0 1, quad := bits w0 2 2, repl := bit w0 4, bound := bits w0 8 28, base := bits w1 0 26 }
  let size := if d.pantry then i.sliceBytes true d.repl else 2 ^ i.wlog
  if bits w0 5 3 = 0 && bits w0 36 28 = 0 && bits w1 26 38 = 0 &&
      d.base % 16 == 0 && (!d.valid || (d.bound != 0 && d.bound % 16 == 0 && decide (d.bound ≤ size))) then some d else none

/-- A table set (R50, R58, R59, R269) and the spans it names. A set with no SLOTS or WINS names offset 0 there; it
holds the binding sets 0 to the highest that its own entries name (DESIGN CHOICE, log entry 53). -/
def readSet (i : Image) (rd : Reader) (a : Nat) : Option (TableSet × Spans) := do
  let w (k : Nat) : Nat := rd (a + 8 * k) 8
  let period := if bits (w 0) 32 32 = 0 then 2 ^ 32 else bits (w 0) 32 32
  let nmcp := bits (w 0) 24 8
  guard (bits (w 0) 0 16 == 0x5453 && bits (w 0) 22 2 == 0 && period % 32768 == 0 && bits (w 6) 4 60 == 0 && w 7 == 0)
  guard (decide (a < 2 ^ 40) && decide (w 2 < 2 ^ 40) && decide (w 3 < 2 ^ 40) && decide (w 4 < 2 ^ 40) && decide (w 5 < 2 ^ 40))
  let mcps := (List.range nmcp).map fun k => rd (w 2 + 4 * k) 4
  guard (ascending mcps && mcps.all fun m => m % 32768 == 0 && decide (m < period))
  let tables ← collect (i.width * i.height * 7) fun k => do
    let d := rd (w 3 + 8 * k) 8
    let off := bits d 0 48
    let n := bits d 48 13
    guard (bits d 61 3 == 0 && decide (n ≤ 4096) && off % 32 == 0 && decide (off < 2 ^ 40))
    let es ← collect n fun j => readEntry rd (off + 32 * j) (if i.sporadic then none else some period)
    guard (entriesOk es)
    pure (es, (off, 32 * n))
  let entries := tables.flatMap (·.1)
  guard ((entries.filter (·.isEnd)).length == (if i.sporadic || bits (w 1) 0 32 = 0 then 0 else 1))
  let nresv := if w 4 = 0 then 0 else rd (w 4) 8
  guard (decide (nresv < 256))
  let resv ← collect nresv fun k => readResv (rd (w 4 + 8 + 8 * k) 8)
  guard (decide (slotKeys (resv.map fun r => { r with die := i.quadOf r.die })).Nodup)
  guard (resv.all fun r => decide (r.ix < i.width) && decide (r.iy < i.height))
  let nwin := if i.sporadic then 0 else entries.foldl (fun m e => match e.win with | some k => max m (k + 1) | none => m) 0
  guard (nwin == 0 || w 5 != 0)
  let wins ← collect nwin fun k => collect 8 fun j => readWindow i rd (w 5 + 128 * k + 16 * j)
  let set : TableSet :=
    { mode := BitVec.ofNat 4 (bits (w 0) 16 4), level := BitVec.ofNat 2 (bits (w 0) 20 2), period, instances := bits (w 1) 0 32,
      chmask := BitVec.ofNat 32 (bits (w 1) 32 32), mcps, tables := tables.map (·.1), resv, wins, safemode := BitVec.ofNat 4 (w 6) }
  guard (!i.sporadic || (set.mode = 0 && set.level = 0 && set.chmask = 0 && nmcp == 0 && w 4 == 0 && set.safemode = 0 && set.instances == 1 &&
    !(entries.any (·.isEnd))))
  pure (set, [(a, 64), (w 2, 4 * nmcp), (w 3, 8 * (i.width * i.height * 7))] ++ tables.map (·.2) ++
    (if w 4 = 0 then [] else [(w 4, 8 + 8 * nresv)]) ++ [(w 5, 128 * nwin)])

/-- An LSID range record (R228, R229). -/
def readLsid (i : Image) (rd : Reader) (a : Nat) : Option LsidRec :=
  let w0 := rd a 8
  let base := rd (a + 8) 8
  let r : LsidRec := { block := BitVec.ofNat 24 w0, lsid := BitVec.ofNat 5 (bits w0 24 5), store := bit w0 29, space := BitVec.ofNat 2 (bits w0 30 2),
                       size := bits w0 32 32, base }
  if r.space != 3 && r.size != 0 && r.size % 16 == 0 && base % 16 == 0 && (r.space == 2 || i.rangeIn (r.space == 1) base r.size) then some r else none

/-- A matrix range record (R336). -/
def readMxRange (i : Image) (rd : Reader) (a : Nat) : Option MxRange :=
  let w0 := rd a 8
  let r : MxRange := { num := bits w0 0 5, wbuf := bit w0 5, size := bits w0 32 32, base := rd (a + 8) 8 }
  if bits w0 6 26 = 0 && r.size != 0 && r.size % 16 == 0 && r.base % 16 == 0 &&
      decide (r.base + r.size ≤ (if r.wbuf then 2 ^ i.wlog else 2 ^ i.alog)) then some r else none

/-- A sharing-table entry (R126, R476). -/
def readShare (i : Image) (rd : Reader) (a : Nat) : Option Share :=
  let w0 := rd a 8
  let r : Share := { space := BitVec.ofNat 2 w0, divok := bit w0 2, base := rd (a + 8) 8, size := rd (a + 16) 8, key := w64 (rd (a + 24) 8) }
  let k := r.key.toNat
  let keyP := bits k 62 2 == 1
  if bits w0 3 61 = 0 && r.space != 3 && r.size != 0 && k % 8 == 0 && decide (bits k 62 2 < 2) && (r.space != 0 || !keyP) &&
      (r.space != 1 || i.sliceBytes true (bit r.base 28) != 0) && (!keyP || i.sliceBytes true (bit k 28) != 0) then some r else none

/-- Whether two byte ranges of one space meet. -/
def meets (a b : Nat × Nat) : Bool := decide (a.1 < b.1 + b.2) && decide (b.1 < a.1 + a.2)

/-- A range of offsets as its spans of a slice of n bytes, in which addresses wrap (R94, R99). -/
def wrapSpans (n base size : Nat) : Spans :=
  if n ≤ size then [(0, n)] else
  let o := base % n
  if o + size ≤ n then [(o, size)] else [(o, n - o), (0, o + size - n)]

/-- The storage that a range names, with its spans there, so that two ranges share a byte just where they name one storage and their spans meet: 0 the A-buffer
slice, 1 virtual space, 2 the replicated slice, 3 and up the slice of a quadrant (R94, R98 to R101). -/
def Image.storage (i : Image) (space base size : Nat) : Nat × Spans :=
  if space = 0 then (0, wrapSpans (2 ^ i.alog) base size)
  else if space = 1 then
    let repl := bit base 28
    (if repl then 2 else 3 + i.quadOf (bits base 26 2), wrapSpans (max 1 (i.sliceBytes true repl)) (bits base 0 26) size)
  else (1, [(base, size)])

/-- Whether two ranges share a byte. -/
def storageMeets (a b : Nat × Spans) : Bool := a.1 == b.1 && a.2.any fun x => b.2.any fun y => meets x y

/-- No two regions of the sharing table overlap, and no key lies inside a region (R126). -/
def sharesOk (i : Image) (l : List Share) : Bool :=
  let region (r : Share) : Nat × Spans := i.storage r.space.toNat r.base r.size
  let key (r : Share) : Nat × Spans := i.storage (bits r.key.toNat 62 2) (bits r.key.toNat 0 32) 8
  (List.range l.length).all fun m => (List.range l.length).all fun n =>
    match l[m]?, l[n]? with
    | some a, some b => (m == n || !storageMeets (region a) (region b)) && !storageMeets (region a) (key b)
    | _, _ => true

/-- A region declaration (R284, R418). -/
def readRegion (n w : Nat) : Option (Option RegionDecl) :=
  if !bit w 15 then (if w = 0 then some none else none) else
  let d : RegionDecl := { x := bits w 0 3, y := bits w 3 3, w := bits w 6 4, h := bits w 10 4 }
  if !bit w 14 &&
      ((d.w == 4 && d.h == 4 && d.x % 4 == 0 && d.y % 4 == 0) || (d.w == 8 && d.h == 4 && d.x == 0 && d.y % 4 == 0) ||
       (d.w == 4 && d.h == 8 && d.y == 0 && d.x % 4 == 0) || (n == 0 && d.x == 0 && d.y == 0 && d.w == 8 && d.h == 8))
  then some (some d) else none

/-- No two regions overlap (R284). -/
def regionsOk (l : List (Option RegionDecl)) : Bool :=
  (List.range 64).all fun k => decide ((l.filter fun d => match d with | some d => d.has k | none => false).length ≤ 1)

/-- A Landing declaration (R299, R328, R418). -/
def readLanding (regions : List (Option RegionDecl)) (w : Nat) : Option (Option LandDecl) :=
  if !bit w 15 then (if w = 0 then some none else none) else
  let d : LandDecl := { prod := ⟨bits w 0 2, Nat.mod_lt _ (by decide)⟩, cons := ⟨bits w 2 2, Nat.mod_lt _ (by decide)⟩, depth := bits w 4 5 }
  if bits w 9 6 = 0 && d.prod != d.cons && (regions.getD d.prod none).isSome && (regions.getD d.cons none).isSome &&
      decide (1 ≤ d.depth) && decide (d.depth ≤ 16) then some (some d) else none

/-- A route, in image coordinates (R20, R419). -/
def readRoute (i : Image) (w : Nat) : Option Route :=
  let r : Route := { sx := bits w 0 3, sy := bits w 3 3, dx := bits w 6 3, dy := bits w 9 3, cls := bits w 12 3 }
  let far (sx sy : Nat) : Bool × Bool :=
    (i.sx != 0 && (decide (i.sx ≤ sx) != decide (i.sx ≤ r.dx)), i.sy != 0 && (decide (i.sy ≤ sy) != decide (i.sy ≤ r.dy)))
  let seams := b2n (far r.sx r.sy).1 + b2n (far r.sx r.sy).2
  let near := (r.sx == r.dx && (r.sy + 1 == r.dy || r.dy + 1 == r.sy)) || (r.sy == r.dy && (r.sx + 1 == r.dx || r.dx + 1 == r.sx))
  if bits w 15 49 = 0 && decide (r.cls ≤ 4) && decide (r.sx < i.width) && decide (r.sy < i.height) &&
      (r.cls == 4 || (decide (r.dx < i.width) && decide (r.dy < i.height) &&
        (if r.cls = 0 then near && seams == 0 else if r.cls = 1 then seams == 0 else seams + 1 == r.cls))) then some r else none

/-- A configuration-table list entry (R418). -/
def readCfgTab (i : Image) (w : Nat) : Option CfgTab :=
  let t : CfgTab := { addr := BitVec.ofNat 24 w, ix := bits w 24 3, iy := bits w 27 3 }
  if bits w 30 34 = 0 && decide (t.ix < i.width) && decide (t.iy < i.height) then some t else none

def readPreload (i : Image) (w : Nat) : Option Preload :=
  let p : Preload := { va := BitVec.ofNat 52 w, ch := ⟨bits w 52 2, Nat.mod_lt _ (by decide)⟩, ix := bits w 54 3, iy := bits w 57 3 }
  if bits w 60 4 = 0 && decide (p.ix < i.width) && decide (p.iy < i.height) then some p else none

def readClass (w : Nat) : Option ClassRec :=
  if bits w 11 21 = 0 && bits w 56 8 = 0 && decide (bits w 8 3 < 7) then
    some { cls := BitVec.ofNat 8 w, seq := bits w 8 3, block := BitVec.ofNat 24 (bits w 32 24) } else none

/-- Whether 32 preload entries suffice for every channel (R115). -/
def preloadOk (l : List Preload) : Bool :=
  l.all fun p => decide ((l.filter fun q => q.ch == p.ch && q.ix == p.ix && q.iy == p.iy).length ≤ 32)

/-- The image at an address, format checked item by item (R418): its data and its extent. An item lies outside the image where it passes offset 2^40. -/
def readImage (rd : Reader) (base : Nat) : Option Image := do
  let r : Reader := fun o n => rd (base + o) n
  let w (k : Nat) : Nat := r (8 * k) 8
  let h := w 0
  guard (bits h 0 32 == 0x4547414D && bits h 33 3 == 0 && bits h 58 6 == 0 && w 15 == 0)
  let i : Image := { Image.empty with
    sporadic := bit h 32, width := bits h 36 4, height := bits h 40 4, sx := bits h 44 3, sy := bits h 47 3, xmin := bits h 50 3,
    ymin := bits h 53 3, hlanes := bits h 56 2, alog := bits (w 11) 0 5, wlog := bits (w 11) 5 5, clog := bits (w 11) 10 3,
    plog := bits (w 11) 13 3, rplog := bits (w 11) 16 3, ssBase := bits (w 10) 0 22, ssSize := bits (w 10) 22 23 }
  guard (decide (1 ≤ i.width) && decide (i.width ≤ 8) && decide (1 ≤ i.height) && decide (i.height ≤ 8) && decide (i.hlanes ≤ 2))
  let (setOff, nset) ← pointer (w 2)
  let setsOf (i : Image) : Option (List (TableSet × Spans)) := collect nset fun k => readSet i r (r (setOff + 8 * k) 8)
  if i.sporadic then do
    guard (i.width == 1 && i.height == 1 && i.sx == 0 && i.sy == 0 && nset == 1 &&
      [1, 3, 4, 5, 6, 7, 8, 9, 10, 11, 12, 13, 14].all fun k => w k == 0)
    let sets ← setsOf i
    guard (sets.all fun t => (t.1.tables.filter fun l => !l.isEmpty).length == 1 && t.1.tables.flatten.all fun e => !e.policyS)
    let spans := (0, 128) :: (setOff, 8) :: sets.flatMap (·.2)
    let last : Nat := spans.foldl (fun m p => if p.2 = 0 then m else max m (p.1 + p.2)) 0
    pure { i with sets := sets.map (·.1), extent := (List.range last).map fun o => BitVec.ofNat 8 (r o 1) }
  else do
    guard (decide (i.sx < i.width) && decide (i.sy < i.height) && decide (1 ≤ i.xmin) && decide (i.xmin ≤ 4) && decide (1 ≤ i.ymin) && decide (i.ymin ≤ 4))
    guard (bits (w 11) 19 45 == 0 && decide (12 ≤ i.alog) && decide (i.alog ≤ 22) && decide (16 ≤ i.wlog) && decide (i.wlog ≤ 24) && decide (i.clog ≤ 5))
    guard (bits (w 10) 45 19 == 0 && (i.ssSize == 0 || (i.ssBase % 16 == 0 && i.ssSize % 16 == 0 && decide (i.ssBase + i.ssSize ≤ 2 ^ i.alog))))
    let (blkOff, nblk) ← pointer (w 1)
    guard (nblk == i.width * i.height)
    let blocks ← collect nblk fun k => do
      let o := r (blkOff + 16 * k) 8
      let n := r (blkOff + 16 * k + 8) 8
      guard (decide (o < 2 ^ 40) && decide (1 ≤ n) && decide (n ≤ 262144))
      pure ((List.range n).map (fun j => BitVec.ofNat 8 (r (o + j) 1)), (o, n))
    guard (nset != 0)
    let sets ← setsOf i
    let (rtOff, nrt) ← pointer (w 3)
    let routes ← collect nrt fun k => readRoute i (r (rtOff + 8 * k) 8)
    let (lsOff, nls) ← pointer (w 4)
    let lsids ← collect nls fun k => readLsid i r (lsOff + 16 * k)
    guard (decide ((lsids.map fun e => e.block.toNat * 32 + e.lsid.toNat)).Nodup)
    let (mxOff, nmx) ← pointer (w 5)
    guard (decide (nmx ≤ 32))
    let mranges ← collect nmx fun k => readMxRange i r (mxOff + 16 * k)
    guard (decide (mranges.map (·.num)).Nodup)
    let (shOff, nsh) ← pointer (w 6)
    guard (decide (nsh ≤ 64))
    let shares ← collect nsh fun k => readShare i r (shOff + 32 * k)
    guard (sharesOk i shares)
    let (plOff, npl) ← pointer (w 7)
    let preload ← collect npl fun k => readPreload i (r (plOff + 8 * k) 8)
    guard (preloadOk preload)
    let (rgOff, nrg) ← pointer (w 8)
    guard (decide (nrg ≤ 64))
    let entry (k j : Nat) : Nat := r (rgOff + 32 * k + 8 * j) 8
    guard (!(List.range nrg).any fun k => rangeBad (entry k))
    let regions ← collect 4 fun n => readRegion n (bits (w 9) (16 * n) 16)
    guard (regionsOk regions)
    let (clOff, ncl) ← pointer (w 12)
    let classes ← collect ncl fun k => readClass (r (clOff + 8 * k) 8)
    let landings ← collect 4 fun n => readLanding regions (bits (w 13) (16 * n) 16)
    let (ctOff, nct) ← pointer (w 14)
    let cfgTabs ← collect nct fun k => readCfgTab i (r (ctOff + 8 * k) 8)
    let spans := [(0, 128), (blkOff, 16 * nblk), (setOff, 8 * nset), (rtOff, 8 * nrt), (lsOff, 16 * nls), (mxOff, 16 * nmx), (shOff, 32 * nsh),
      (plOff, 8 * npl), (rgOff, 32 * nrg), (clOff, 8 * ncl), (ctOff, 8 * nct)] ++ blocks.map (·.2) ++ sets.flatMap (·.2)
    let last : Nat := spans.foldl (fun m p => if p.2 = 0 then m else max m (p.1 + p.2)) 0
    guard (decide (last ≤ 2 ^ 40))
    pure { i with blocks := blocks.map (·.1), sets := sets.map (·.1), routes, lsids, mranges, shares, preload,
                  ranges := (List.range nrg).map fun k => rangeOf (entry k), regions, classes, landings, cfgTabs,
                  extent := (List.range last).map fun o => BitVec.ofNat 8 (r o 1) }

/-! ### Blocks (R168 to R190, R229, R254, R257) -/

/-- The targets of a word (R172, R177, R178), the second half of a 16-byte form included (R179). -/
def wordTargets (w : BitVec 32) (ins : Instr) : List Target :=
  let m := w.toNat / 2 ^ 25
  let t (b : BitVec 9) : List Target := match decodeTarget b with | .ok t => [t] | .error _ => []
  let lo : BitVec 9 := w.extractLsb' 0 9
  let hi : BitVec 9 := w.extractLsb' 9 9
  match ins with
  | .fan3 a b c => [a, b, c]
  | .fan4 a b c d => [a, b, c, d]
  | .ldQ _ _ _ a => [a, nextTarget a]
  | .ldpw _ _ .b16 _ a => [a, nextTarget a]
  | _ => if m ≤ 0x02 then t hi ++ t lo else if m ≤ 0x39 then t lo else if m = 0x3D || m = 0x3E then [] else t hi

/-- Whether a receiver has the slot that a target names (R174). -/
def hasSlot (w : BitVec 32) : Target → Bool
  | .left _ => (wordForm w).left
  | .right _ => (wordForm w).right
  | .gate _ => (wordForm w).pred.getLsbD 1 || (wordForm w).third
  | _ => true

/-- The exit number of an exit instruction. -/
def exitOf : Instr → Option Nat
  | .bro _ e _ => some e.toNat
  | .brx _ e _ => some e.toNat
  | .bend _ e => some e.toNat
  | _ => none

/-- A sequencer memory instruction's LSID, whether it is store-kind, and whether only the A-buffer will do (R184, R229). -/
def lsidUse : Instr → Option (BitVec 5 × Bool × Bool)
  | .ldB _ n _ _ | .ldH _ n _ _ | .ldW _ n _ _ | .ldD _ n _ _ | .ldQ _ n _ _ => some (n, false, true)
  | .stB _ n _ | .stH _ n _ | .stW _ n _ | .stD _ n _ | .stQ n _ => some (n, true, true)
  | .amoaddW _ n _ | .amoaddD _ n _ | .amominW _ n _ | .amominD _ n _ | .amomaxW _ n _ | .amomaxD _ n _ | .amoswapW _ n _ | .amoswapD _ n _ =>
    some (n, true, true)
  | .amocasW n _ | .amocasD n _ => some (n, true, true)
  | .acq _ n _ => some (n, false, false)
  | .waitw _ n _ => some (n, false, false)
  | .rel _ n => some (n, true, false)
  | _ => none

/-- The descriptor rules of one copy instruction (R257, R260 to R266). `d` gives its double-words. -/
def descOk (i : Image) (sets : List TableSet) (ix iy : Nat) (ch : ChanIx) (ins : Instr) (d : List Word) : Bool :=
  let f := dscF d
  let ss := dscS d
  let ds := dscD d
  let sb := (d.getD 1 0).toNat
  let db := (d.getD 2 0).toNat
  let sz := f 3 0 32
  let dz := f 3 32 32
  let x := f 4 0 24
  let y := f 4 24 12
  let z := f 4 36 12
  let aux := (d.getD 7 0).toNat
  let cw := f 0 32 22
  let set := isCpset ins
  let bind := isCpbind ins
  let spill := match ins with | .cpspill .. => true | _ => false
  let unspill := isCpunspill ins
  let virtOk (b n : Nat) : Bool := b % 1024 == 0 && n % 1024 == 0 && decide (b + n ≤ 2 ^ 52)
  let side (sp b n : Nat) : Bool :=
    if sp = 0 then b % 16 == 0 && i.rangeIn false b n
    else if sp = 1 then b % 16 == 0 && decide (b + n ≤ 2 ^ i.wlog)
    else if sp = 2 then b % 16 == 0 && i.rangeIn true b n
    else if sp = 3 then virtOk b n
    else decide (b * 16384 + n ≤ 16384 * 2 ^ i.clog)
  let cwSpan := (cw, 8)
  let one := y == 1 && z == 1
  let virt := ss == 3 || ds == 3
  let resv := f 0 8 8
  let p := if bit (d.getD 0 0).toNat 6 then (x + 1023) / 1024 else (x - 1 + 1023) / 1024 + 1
  bits (d.getD 0 0).toNat 7 1 == 0 && f 0 16 16 == 0 && f 0 54 10 == 0 && f 4 48 16 == 0 && decide (ss ≤ 4) && ss != 1 && decide (ds ≤ 4) &&
  decide (1 ≤ x) && decide (1 ≤ y) && decide (1 ≤ z) && cw % 8 == 0 && decide (cw + cwSpan.2 ≤ 2 ^ i.alog) &&
  !(ss == 3 && ds == 3) && (ss != 4 || spill) && (ds != 4 || unspill) &&
  sz % 16 == 0 && dz % 16 == 0 &&
  (if set then sz == 0 && ss == 0 && sb == 0 && (d.getD 5 0) == 0 else sz != 0 && side ss sb sz) &&
  (if bind then dz == 0 && db == 0 && ds == 0 else dz != 0 && side ds db dz) &&
  !(!set && ss == 0 && meets (sb, sz) cwSpan) && !(!bind && ds == 0 && meets (db, dz) cwSpan) &&
  !(!set && !bind && ss == ds && (if ss = 2 then storageMeets (i.storage 1 sb sz) (i.storage 1 db dz) else meets (sb, sz) (db, dz))) &&
  (if resv = 255 then true else virt && sets.all fun t =>
    match t.resv[resv]? with
    | some r => r.ix == ix && r.iy == iy && r.cch == ch && decide (z * y * p ≤ r.count)
    | none => false) &&
  match ins with
  | .cp1 .. => one && aux == 0
  | .cp2 .. => z == 1 && aux == 0
  | .cp3 .. => aux == 0
  | .cpmc .. => ds == 2 && bit db 28 && aux == 0
  | .cpset .. => true
  | .cpcmp .. => ss == 2 && bit sb 28 && ds == 0 && decide (16 ≤ dz) && one && x % 16 == 0 && aux == 0
  | .cphash .. => ss == 3 && bits aux 33 31 == 0
  | .cpspill .. => ss == 4 && (ds == 0 || ds == 2 || ds == 3) && x == 16384 && one && aux == 0
  | .cpunspill .. => ds == 4 && (ss == 0 || ss == 2 || ss == 3) && x == 16384 && one && aux == 0
  | .cpbind .. => (ss == 0 || ss == 2) && x == 2048 && one && aux == 0
  | _ => true

/-- The matrix range that an instruction names, and whether it must lie in the W-buffer (R336, R337). -/
def mxRangeUse : Instr → Option (Nat × Bool)
  | .mtld _ _ r | .mtst _ _ r | .mspill _ _ r | .mfill _ _ r => some (r.val, false)
  | .mtldw _ _ r => some (r.val, true)
  | .mmaw _ _ _ _ r => some (r.val, true)
  | _ => none

def needsStochRange : Instr → Bool
  | .b2sv .. | .s2b .. | .sld .. | .sst .. => true
  | _ => false

def isLoop : Instr → Bool
  | .loop .. => true
  | _ => false

/-- What an engine instruction asks of the image (R267, R284, R285, R311, R313, R336, R378). -/
def engineUseOk (i : Image) (sets : List TableSet) (q : SeqIx) (major : Nat) (ins : Instr) : Bool :=
  (!(0x50 ≤ major && major ≤ 0x5F) || (i.regions.getD q.val none).isSome) &&
  (!isLoop ins || (q == 0 && (match i.regions.getD 0 none with | some d => d.w == 8 && d.h == 8 | none => false))) &&
  (match mxRangeUse ins with | some (n, wb) => i.mranges.any fun r => r.num == n && r.wbuf == wb | none => true) &&
  (!needsStochRange ins || i.ssSize != 0) &&
  match ins with
  | .cpchk _ r _ => sets.all fun t => decide (r.toNat < t.resv.length)
  | .tok _ p => (64 ≤ p.toNat && decide (p.toNat < 68)) || p.toNat < 64 && (match i.regions.getD q.val none with | some d => d.owns (p.toNat / 16) | none => false)
  | .lwait _ n _ _ => (match i.landings.getD n.val none with | some d => d.prod.val == q.val || d.cons.val == q.val | none => false)
  | _ => true

/-- The instruction at word k of the block at an address, none where it is refused (R185). -/
def blockWord? (bs : Memory) (q : SeqIx) (a k : Nat) : Option (BitVec 32 × Instr) :=
  let w : BitVec 32 := BitVec.ofNat 32 (readLE bs (a + 32 + 4 * k) 4)
  match decodeWord w with
  | .ok ins => if ins.wf && Instr.allowed q (w.toNat / 2 ^ 25) ins then some (w, ins) else none
  | .error _ => none

/-- The block addresses of a jump table, or none where it is malformed (R183). -/
def tableBlocks (bs : Memory) (t : Nat) : Option (List Nat) :=
  let dw (k : Nat) : Nat := readLE bs (t + 8 * k) 8
  let n := dw 0
  if t % 32 = 0 && decide (t + 8 + 8 * n ≤ 0x38000) && decide (1 ≤ n) && decide (n ≤ 16) &&
      (List.range n).all (fun k => bits (dw (k + 1)) 24 8 == 0 && bits (dw (k + 1)) 44 20 == 0)
  then some ((List.range n).map fun k => bits (dw (k + 1)) 0 24) else none

/-- A block's body, or the word where its encoding is refused: header words are 0 to 7, body word k is 8 + k. -/
def blockBody (bs : Memory) (q : SeqIx) (a : Nat) : Except Nat (List (BitVec 32 × Instr)) :=
  let hw (k : Nat) : Nat := readLE bs (a + 4 * k) 4
  let len := bits (hw 0) 14 5
  if !(a % 32 == 0 && decide (a + 32 + 4 * (len + 1) ≤ 0x38000)) then .error 0 else
  match badHeader hw with
  | some k => .error k
  | none =>
  match (List.range (len + 1)).find? fun k => (blockWord? bs q a k).isNone with
  | some k => .error (8 + k)
  | none => .ok ((List.range (len + 1)).filterMap fun k => blockWord? bs q a k)

/-- The address a signed number of 32-byte units from a block's, where the block store has it (R185, R245). -/
def blockInt (a : Nat) (off : BitVec 20) : Option Nat :=
  let t : Int := a + off.toInt * 32
  if 0 ≤ t && t < 0x38000 then some t.toNat else none

/-- Whether a block stands at an address: in place, with a header that is one (R168 to R171). -/
def isBlock (bs : Memory) (a : Nat) : Bool :=
  let hw (k : Nat) : Nat := readLE bs (a + 4 * k) 4
  a % 32 == 0 && decide (a + 32 + 4 * (bits (hw 0) 14 5 + 1) ≤ 0x38000) && headerOk hw

/-- The targets of a block's register reads. -/
def blockReads (bs : Memory) (a : Nat) : List (Nat × Target) :=
  (List.range 8).filterMap fun k =>
    let f := bits (readLE bs (a + 4 * (2 + k / 2)) 4) (16 * (k % 2)) 16
    if bit f 15 then (match decodeTarget (BitVec.ofNat 9 f) with | .ok t => some (k, t) | .error _ => none) else none

/-- A value that an operand slot is sure to get, where it comes by constants, moves and fans alone (R58; which values the check can trace: DESIGN CHOICE, log entry 54). -/
def traceSlot (body : List (BitVec 32 × Instr)) (reads : List Target) : Nat → Target → Option Word
  | 0, _ => none
  | fuel + 1, t =>
    if reads.contains t then none else
    match (List.range body.length).filter fun k => match body[k]? with | some e => (wordTargets e.1 e.2).contains t | none => false with
    | [k] =>
      if h : k < 32 then
        let left : Option Word := traceSlot body reads fuel (.left ⟨k, h⟩)
        match body[k]? with
        | some (_, .const imm _) => some (imm.signExtend 64)
        | some (_, .constu imm _) => some (imm.setWidth 64)
        | some (_, .shlc imm _) => left.map fun (x : Word) => (x <<< (16 : Nat)) ||| (imm.setWidth 64 : Word)
        | some (_, .mov .always _ _) => left
        | some (_, .fan3 ..) => left
        | some (_, .fan4 ..) => left
        | _ => none
      else none
    | _ => none

/-- The blocks that may follow a block (R58, R183, R245, R315), whether a `loop` START among them is not traced, and the spans of its jump tables; or the exit
that names what is no block (R185). -/
def blockNext (bs : Memory) (a : Nat) (body : List (BitVec 32 × Instr)) : Except Nat (List Nat × Bool × Spans) :=
  let reads := (blockReads bs a).map (·.2)
  (List.range body.length).foldlM (fun (acc : List Nat × Bool × Spans) k =>
    match (body[k]? : Option (BitVec 32 × Instr)) with
    | some (_, .bro _ _ off) => match blockInt a off with | some b => if isBlock bs b then .ok (b :: acc.1, acc.2) else .error (8 + k) | none => .error (8 + k)
    | some (_, .brx _ _ off) =>
      match blockInt a off with
      | some t => match (tableBlocks bs t).filter (·.all (isBlock bs)) with | some l => .ok (l ++ acc.1, acc.2.1, (t, 8 + 8 * readLE bs t 8) :: acc.2.2) | none => .error (8 + k)
      | none => .error (8 + k)
    | some (_, .loop _) =>
      if h : k < 32 then
        match traceSlot body reads 32 (.right ⟨k, h⟩) with
        | some v =>
          let b := (v.setWidth 24 : BitVec 24).toNat
          -- a START that is no block start raises ILLEGAL when the frame redirects (R315)
          .ok (if isBlock bs b then b :: acc.1 else acc.1, acc.2)
        | none => .ok (acc.1, true, acc.2.2)
      else .ok acc
    | _ => .ok acc) ([], false, [])

/-- A block checked for itself (R168 to R184, R229, R239, R257): what may follow it, with the span of its bytes and of its jump tables, or the word that is
refused. `win`: the windows its activation binds, where they are to be judged. -/
def checkBlock (i : Image) (sets : List TableSet) (bs : Memory) (ix iy : Nat) (q : SeqIx) (win : Option (List Window)) (a : Nat) :
    Except Nat (List Nat × Bool × Spans) := do
  let hw (k : Nat) : Nat := readLE bs (a + 4 * k) 4
  let body ← blockBody bs q a
  let ok (b : Bool) (k : Nat) : Except Nat Unit := if b then .ok () else .error k
  let each (p : Nat → BitVec 32 → Instr → Bool) : Except Nat Unit :=
    match (List.range body.length).find? fun k => match body[k]? with | some e => !p k e.1 e.2 | none => false with
    | some k => .error (8 + k)
    | none => .ok ()
  let stores := bits (hw 1) 0 6
  let wslot (k : Nat) : Option Nat := let b := bits (hw (6 + k / 4)) (8 * (k % 4)) 8; if bit b 7 then some (bits b 0 6) else none
  let lands (t : Target) : Bool :=
    match t with
    | .null => true
    | .slot w => (wslot w).isSome
    | .left n | .right n | .gate n => match body[n.val]? with | some e => hasSlot e.1 t | none => false
  let reads := blockReads bs a
  (match reads.find? fun e => !lands e.2 || reads.any (fun f => f.2 == e.2 && decide (f.1 < e.1)) with | some e => .error (2 + e.1 / 2) | none => .ok ())
  (match (List.range 8).find? fun k => (wslot k).isSome && (List.range k).any (fun j => wslot j == wslot k) with | some k => .error (6 + k / 4) | none => .ok ())
  each fun k w ins => (wordTargets w ins).all fun t => lands t && (match t with | .left n | .right n | .gate n => decide (k < n.val) | _ => true)
  let targets := body.flatMap fun e => wordTargets e.1 e.2
  (match (List.finRange 8).find? fun (w : Fin 8) => (wslot w.val).isSome && !targets.contains (.slot w) && !(body.any fun e => match e.2 with | .nullw _ v => v == w | _ => false) with
   | some w => .error (6 + w.val / 4) | none => .ok ())
  ok (body.any fun e => (exitOf e.2).isSome) 0
  each fun _ _ ins => match exitOf ins with | some e => decide (e ≤ bits (hw 0) 11 3) | none => true
  -- LSIDs (R184, R229), monitors (R239)
  let storeIds := body.filterMap fun e => match e.2 with
    | .nullst _ n => some n.toNat
    | ins => (lsidUse ins).bind fun u => if u.2.1 then some u.1.toNat else none
  ok (decide (stores ≤ 32) && (List.range stores).all (fun n => storeIds.contains n) &&
    i.lsids.all fun r => r.block.toNat != a || r.store == decide (r.lsid.toNat < stores)) 1
  each fun _ _ ins =>
    (match ins with | .nullst _ n => decide (n.toNat < stores) | _ => true) &&
    match lsidUse ins with
    | some u => u.2.1 == decide (u.1.toNat < stores) && i.lsids.any fun r => r.block.toNat == a && r.lsid == u.1 && (if u.2.2 then r.space == 0 else r.space != 2)
    | none => true
  each fun k _ ins => match ins with
    | .waitw .. => decide (((body.take k).filter fun e => match e.2 with | .waitw .. => true | _ => false).length < 4)
    | _ => true
  -- windows, engines, copies
  each fun _ _ ins => match ins, win with
    | .ldpw _ w _ _ _, some l => (match l[w.val]? with | some d => d.valid | none => false)
    | _, _ => true
  each fun _ w ins => engineUseOk i sets q (w.toNat / 2 ^ 25) ins
  each fun _ _ ins => match copyChan? ins with
    | some ch => descOk i sets ix iy ch ins ((List.range 8).map fun k => w64 (readLE bs (0x38000 + 64 * copyDesc ins + 8 * k) 8))
    | none => true
  let (next, wild, tables) ← blockNext bs a body
  .ok (next, wild, (a, 32 + 4 * body.length) :: tables)

/-- Every block start of a block store: where a block stands that passes the check but for its windows (R58). -/
def blockStarts (i : Image) (sets : List TableSet) (bs : Memory) (ix iy : Nat) (q : SeqIx) (n : Nat) : List Nat :=
  ((List.range (n / 32)).map (32 * ·)).filter fun a => match checkBlock i sets bs ix iy q none a with | .ok _ => true | .error _ => false

/-- Every block that exits and loops reach from some blocks is checked (R58, R185): the bytes that they and their jump tables take, or the block and word
refused. `n`: the bytes of the block store. -/
def checkBlocks (i : Image) (sets : List TableSet) (bs : Memory) (ix iy : Nat) (q : SeqIx) (win : Option (List Window)) (n : Nat) :
    Nat → List Nat → List Nat → Spans → Except (Nat × Nat) Spans
  | _, [], _, used => .ok used
  | 0, a :: _, _, _ => .error (a, 0)
  | fuel + 1, a :: rest, seen, used =>
    match checkBlock i sets bs ix iy q win a with
    | .ok (next, wild, spans) =>
      let next := next ++ if wild then blockStarts i sets bs ix iy q n else []
      let new := next.eraseDups.filter fun b => b != a && !seen.contains b && !rest.contains b
      checkBlocks i sets bs ix iy q win n fuel (new ++ rest) (a :: seen) (spans ++ used)
    | .error k => .error (a, k)

/-- A listed configuration table (R190, R303): its entries in place, each for a declared region, no stream over blocks or jump tables, or with a command
that is refused whatever plane it is applied to. -/
def cfgTabOk (i : Image) (bs : Memory) (used : Spans) (t : Nat) : Bool :=
  let dw (k : Nat) : Nat := readLE bs (t + 8 * k) 8
  let n := dw 0
  t % 32 == 0 && decide (1 ≤ n) && decide (n ≤ 16) && decide (t + 8 + 8 * n ≤ 0x38000) &&
  (List.range n).all fun k =>
    let e := dw (k + 1)
    let at' := bits e 0 24
    let words := bits e 24 16
    at' % 32 == 0 && words != 0 && bits e 42 6 == 0 && bits e 48 16 != 0 && decide (at' + 4 * words ≤ 0x38000) &&
    (used.all fun u => !meets u (at', 4 * words)) &&
    match i.regions.getD (bits e 40 2) none with
    | some d => !streamBad d words ((List.range words).map fun j => readLE bs (at' + 4 * j) 4)
    | none => false

/-! ### What planes a configuration stream can meet (R303) -/

/-- What a region's sequencer may have made of its region: the table bound, the shadow plane, the active plane. -/
structure CfgFlow where
  bound : Option Nat
  shadow : Option Plane
  active : Plane
deriving DecidableEq, Repr

/-- The plane that entry n of a table loads on an active plane, where the entry is for the region (R302, R304). -/
def loadedPlane (bs : Memory) (r t n : Nat) (active : Plane) : Option Plane :=
  let e := readLE bs (t + 8 + 8 * n) 8
  let words := bits e 24 16
  if n < bits (readLE bs t 8) 0 5 && bits e 40 2 == r then
    let p := applyStream (words + 1) ((List.range words).map fun j => readLE bs (bits e 0 24 + 4 * j) 4) { active with bad := false }
    some { p with version := BitVec.ofNat 16 (bits e 48 16) }
  else none

/-- A region command's effect (R302, R304 to R308, R311), and the plane that it loads. A `tok` may write any value; of those only whether they are 0 counts, and an
extent is never 0. -/
def CfgFlow.step (bs : Memory) (tabs : List Nat) (r : Nat) (ins : Instr) (left : Option Word) (x : CfgFlow) : List CfgFlow × List Plane :=
  match ins with
  | .jtab _ =>
    match left with
    | some a => ([if tabs.contains (a.setWidth 24 : BitVec 24).toNat then { x with bound := some (a.setWidth 24 : BitVec 24).toNat } else x], [])
    | none => (tabs.map fun t => { x with bound := some t }, [])
  | .cfgld _ n =>
    match x.bound.bind fun t => loadedPlane bs r t n.toNat x.active with
    | some p => ([{ x with shadow := some p }], [p])
    | none => ([x], [])
  | .cfgact _ => ([match x.shadow with | some p => { x with active := p, shadow := none } | none => x], [])
  | .cfgdrop _ => ([{ x with shadow := none }], [])
  | .tok _ p => ([{ x with active := tokWrite p.toNat 1 x.active }], [])
  | _ => ([x], [])

/-- What a block's region commands come to: where every one of them is performed, where the activation is cut between them or in a load, which drops the shadow plane
(R88, R324), and the planes loaded. -/
structure FlowEnds where
  whole : List CfgFlow
  cuts : List CfgFlow
  planes : List Plane
deriving DecidableEq, Repr

/-- A block's region commands, in order; a predicated one may issue or not. -/
def CfgFlow.block (bs : Memory) (tabs : List Nat) (r : Nat) (reads : List Target) (body : List (BitVec 32 × Instr)) (x : CfgFlow) : FlowEnds :=
  (List.range body.length).foldl (fun (acc : FlowEnds) k =>
    match body[k]? with
    | none => acc
    | some (w, ins) =>
      let left : Option Word := if h : k < 32 then traceSlot body reads 32 (.left ⟨k, h⟩) else none
      let out := acc.whole.map fun y => y.step bs tabs r ins left
      let stay := if (wordForm w).pred.getLsbD 1 then acc.whole else []
      let dropped := match ins with | .cfgld .. => acc.whole.map fun y => { y with shadow := none } | _ => []
      { whole := (stay ++ out.flatMap (·.1)).eraseDups, cuts := (acc.cuts ++ acc.whole ++ dropped).eraseDups, planes := acc.planes ++ out.flatMap (·.2) })
    ⟨[x], [], []⟩

/-- Every plane that the blocks of a region's sequencer can load: any of its activations may follow any other, cut or complete (DESIGN CHOICE, log entry 54). Work
beyond the fuel is left to the free verdict. -/
def cfgPlanes (bs : Memory) (tabs : List Nat) (q : SeqIx) (starts : List Nat) : Nat → List (Nat × CfgFlow) → List (Nat × CfgFlow) → List Plane → List Plane
  | 0, _, _, acc => acc
  | _, [], _, acc => acc
  | fuel + 1, e :: rest, seen, acc =>
    match blockBody bs q e.1 with
    | .error _ => cfgPlanes bs tabs q starts fuel rest (e :: seen) acc
    | .ok body =>
      let ends := e.2.block bs tabs q.val ((blockReads bs e.1).map (·.2)) body
      let next := match blockNext bs e.1 body with | .ok (l, _, _) => l | .error _ => []
      let after := (ends.whole.flatMap fun f => (next ++ starts).map fun b => (b, f)) ++ ends.cuts.flatMap fun f => starts.map fun b => (b, f)
      let new := after.eraseDups.filter fun w => w != e && !seen.contains w && !rest.contains w
      cfgPlanes bs tabs q starts fuel (new ++ rest) (e :: seen) (acc ++ ends.planes)

/-- The planes that the streams of the listed tables can produce on a core, by region. `starts`: the first blocks of the activations of each of the four sequencers. -/
def planesOf (bs : Memory) (tabs : List Nat) (starts : SeqIx → List Nat) : List (List Plane) :=
  if tabs.isEmpty then [] else
  (List.range 4).map fun r =>
    if h : r < 4 then
      let q : SeqIx := ⟨r, by omega⟩
      (cfgPlanes bs tabs q (starts q) 1048576 ((starts q).map fun a => (a, ⟨none, none, .zero⟩)) [] []).eraseDups
    else []

/-- No plane that the streams of the listed tables can produce on a core is refused (R292 to R301, R303). -/
def Image.planesOk (i : Image) (bs : Memory) (tabs : List Nat) (starts : SeqIx → List Nat) : Bool :=
  if tabs.isEmpty then true else
  let all := planesOf bs tabs starts
  let t := landTable ((List.range 4).flatMap fun r => match (i.regions[r]?).join with | some d => (all.getD r []).map fun p => (d, p) | none => [])
  (List.range 4).all fun r => (all.getD r []).all fun p => !p.refused i (fun n => t.getD n []) r

/-- A record for a block that no activation reaches, against the header that stands at its address in a block store (R229). -/
def recordFits (bs : Memory) (r : LsidRec) : Bool :=
  !isBlock bs r.block.toNat || r.store == decide (r.lsid.toNat < bits (readLE bs (r.block.toNat + 4) 4) 0 6)

/-- The blocks with which the activations of a table entry start: its own and its fallback. -/
def TableEntry.firsts (e : TableEntry) : List Nat :=
  if e.isEnd || e.policyS then [] else e.block.toNat :: (match e.fallback with | some f => if f = e.block then [] else [f.toNat] | none => [])

/-- The blocks that the class records permit in the windows of a sequencer of image core p (R418). -/
def Image.permitted (i : Image) (sets : List TableSet) (p : Nat) (q : SeqIx) : List Nat :=
  ((i.classes.filter fun c => c.seq == q.val && sets.any fun t => (t.tables.getD (p * 7 + q.val) []).any fun e => e.policyS && e.arg.toNat % 256 == c.cls.toNat).map
    (·.block.toNat)).eraseDups

/-- Every block with which an activation of a sequencer of image core p can start. -/
def Image.firstBlocks (i : Image) (sets : List TableSet) (p : Nat) (q : SeqIx) : List Nat :=
  (sets.flatMap (fun t => (t.tables.getD (p * 7 + q.val) []).flatMap TableEntry.firsts) ++ i.permitted sets p q).eraseDups

/-- What the Threshold check finds of an image that can be made of it alone (R58, R185, R303), its sets as rewritten by placement: the image core with the block and word
that it reports, where it reports one. -/
def Image.check (i : Image) (sets : List TableSet) : Except (Option (Nat × Nat × Nat)) Unit := do
  let reached ← (List.range (i.width * i.height)).mapM fun p => do
    let ix := p % i.width
    let iy := p / i.width
    let bytes := i.blocks.getD p []
    let bs := memOf 0 bytes
    let table (t : TableSet) (q : SeqIx) : List TableEntry := t.tables.getD (p * 7 + q.val) []
    let run (q : SeqIx) (win : Option (List Window)) (starts : List Nat) : Except (Option (Nat × Nat × Nat)) Spans :=
      match checkBlocks i sets bs ix iy q win bytes.length 8192 starts [] [] with
      | .ok l => .ok l
      | .error e => .error (some (p, e))
    let entries ← (List.finRange 7).mapM fun q => sets.mapM fun t => (table t q).mapM fun e => run q (some ((e.win.bind fun k => t.wins[k]?).getD [])) e.firsts
    let classes ← (List.finRange 7).mapM fun q => run q none (i.permitted sets p q)
    let used := entries.flatten.flatten.flatten ++ classes.flatten
    let tabs := (i.cfgTabs.filter fun t => t.ix == ix && t.iy == iy).map (·.addr.toNat)
    if !(tabs.all fun t => cfgTabOk i bs used t) then .error none
    else if !i.planesOk bs tabs (i.firstBlocks sets p) then .error none
    else .ok (used.map (·.1))
  let rest := i.lsids.filter fun r => !reached.any fun l => l.contains r.block.toNat
  match (List.range (i.width * i.height)).findSome? fun p => (rest.find? fun r => !recordFits (memOf 0 (i.blocks.getD p [])) r).map fun r => (p, r.block.toNat, 1) with
  | some e => .error (some e)
  | none => .ok ()

/-- The image passes (R58, R185, R303). -/
def Image.checked (i : Image) (sets : List TableSet) : Bool := match i.check sets with | .ok _ => true | .error _ => false

/-- The block and word that the check reports (R185). -/
def Image.badBlock (i : Image) (sets : List TableSet) : Option (Nat × Nat × Nat) := match i.check sets with | .error b => b | .ok _ => none

/-! ### What a launch uses (R25, R95) -/

/-- The quadrants that an image's seams make. -/
def Image.quads (i : Image) : List Nat :=
  (List.range 4).filter fun q => (q % 2 == 0 || i.sx != 0) && (q / 2 == 0 || i.sy != 0)

/-- Budget components of one launch (R25): the slots are the union over its table sets (R269). -/
def Image.uses (i : Image) : Budget :=
  if i.sporadic then ⟨1, 0, 0, 0, 0⟩ else
  let n := i.width * i.height
  let parts (p : Nat) : Nat := if p = 7 then 0 else 2 ^ p
  { cores := n, cells := n * ((i.regions.filterMap fun d => d.map fun d => d.w * d.h).sum),
    parts := i.quads.length * (parts i.plog + parts i.rplog),
    slots := ((i.sets.flatMap fun t => slotKeys t.resv).eraseDups).length,
    bufBytes := n * (2 ^ i.alog + 2 ^ i.wlog + 16384 * 2 ^ i.clog) }

def Budget.zero : Budget := ⟨0, 0, 0, 0, 0⟩
def Budget.add (a b : Budget) : Budget := ⟨a.cores + b.cores, a.cells + b.cells, a.parts + b.parts, a.slots + b.slots, a.bufBytes + b.bufBytes⟩

end Sys2Proof.Machine
end

