-- ==== Sys2Proof/Machine/Check.lean ====
section
/-! DEFINITION. The part of the Threshold check that judges an image over time (R58, R92, R131, R137, R250, R252, R258, R266, R272, R297, R298, R300, R326, R332, R335, R347, R374, R377, R462).
Each access and each engine operation gets a window of ticks of an instance under zero freeze. What the windows settle is decided; where they depend on data, predicates or
addresses that the check cannot trace, the manual does not say how they are bounded, and the verdict stays open (DESIGN CHOICE, log entry 10). -/

namespace Sys2Proof.Machine

/-- What a part of the check comes to. -/
inductive Finding where
  | sound
  | undecided
  | broken
deriving DecidableEq, Repr

/-- Several parts together. -/
def Finding.all (l : List Finding) : Finding := if l.contains .broken then .broken else if l.contains .undecided then .undecided else .sound

/-- Sound where one test holds, broken where another does. -/
def Finding.of (sound broken : Bool) : Finding := if sound then .sound else if broken then .broken else .undecided

/-- The image passes a part of the check: where the windows leave it open, as a free verdict says. -/
def Finding.passes (v : Finding) (free : Bool) : Bool := match v with | .sound => true | .undecided => free | .broken => false

/-! ### Ticks of a block's words (R200, R201, R204) -/

/-- When something happens, in ticks from a block's start: at `lo` at the earliest and, unless it waits for something, at `hi` at the latest; `sure`: no predicate and no
choice of senders keeps it from happening. -/
structure Firing where
  lo : Nat
  hi : Option Nat
  sure : Bool
deriving DecidableEq, Repr

def addHi : Option Nat → Option Nat → Option Nat
  | some a, some b => some (a + b)
  | _, _ => none
def maxHi : Option Nat → Option Nat → Option Nat
  | some a, some b => some (max a b)
  | _, _ => none

def Firing.add (f : Firing) (d : Nat × Option Nat) : Firing := ⟨f.lo + d.1, addHi f.hi d.2, f.sure⟩

/-- The first of several that may each happen or not. -/
def Firing.oneOf : List Firing → Option Firing
  | [] => none
  | [f] => some f
  | f :: l => some (l.foldl (fun a b => ⟨min a.lo b.lo, maxHi a.hi b.hi, false⟩) { f with sure := false })

/-- The last of several that all happen. -/
def Firing.allOf (l : List Firing) : Firing := l.foldl (fun a b => ⟨max a.lo b.lo, maxHi a.hi b.hi, a.sure && b.sure⟩) ⟨0, some 0, true⟩

/-- After how many ticks consumers of a word's result fire (R201, R239, R243, R248, R313): the least, and the most unless the word waits; `pantry`: its key or word lies in
the Pantry, 12 to 88 ticks away. -/
def resultTicks (pantry : Bool) : Instr → Nat × Option Nat
  | .mul .. | .mulh .. | .mulhu .. | .muli .. => (3, some 3)
  | .div .. | .divu .. | .rem .. | .remu .. => (20, some 20)
  | .ldB .. | .ldH .. | .ldW .. | .ldD .. | .ldQ .. => (4, some 4)
  | .acq .. => if pantry then (28, some 180) else (4, some 4)
  | .ldpw .. => (4, some 180)
  | .waitw .. => (if pantry then 29 else 5, none)
  | .bwait .. | .lwait .. | .fence .. => (2, none)
  | _ => (1, some 1)

/-- The operand and predicate slots that a word waits for (R174, R175). -/
def wordNeeds (w : BitVec 32) (k : Nat) : List Target :=
  if h : k < 32 then
    let f := wordForm w
    (if f.left then [.left ⟨k, h⟩] else []) ++ (if f.right then [.right ⟨k, h⟩] else []) ++ (if f.pred.getLsbD 1 || f.third then [.gate ⟨k, h⟩] else [])
  else []

/-- A word's firing, from the deliveries of the words before it; none where a slot of it gets nothing. -/
def wordFiring (reads : List Target) (done : List (List Target × Option Firing)) (w : BitVec 32) (k : Nat) : Option Firing :=
  let ready (t : Target) : Option Firing :=
    Firing.oneOf ((if reads.contains t then [⟨1, some 1, true⟩] else []) ++ done.filterMap fun e => if e.1.contains t then e.2 else none)
  ((wordNeeds w k).mapM ready).map fun l => { Firing.allOf (⟨1, some 1, true⟩ :: l) with sure := l.all (·.sure) && !(wordForm w).pred.getLsbD 1 }

/-- A block as the check sees it over time: its words with their firings, its commit, and what may follow. -/
structure BlockView where
  addr : Nat
  body : List (BitVec 32 × Instr)
  reads : List Target
  fires : List (Option Firing)
  commit : Firing
  next : List Nat
  wild : Bool

/-- The record of an LSID of a block (R228). -/
def Image.lsid? (i : Image) (addr : Nat) (n : BitVec 5) : Option LsidRec := i.lsids.find? fun r => r.block.toNat == addr && r.lsid == n

/-- Whether a word names a Pantry location. -/
def Image.inPantry (i : Image) (addr : Nat) (ins : Instr) : Bool :=
  match (lsidUse ins).bind fun u => i.lsid? addr u.1 with | some r => r.space == 1 | none => false

/-- A well-formed block over time. It commits once its write slots, store LSIDs and an exit are resolved (R204), a slot being written in tick f + L - 1. -/
def viewBlock (i : Image) (bs : Memory) (q : SeqIx) (a : Nat) : Option BlockView :=
  match blockBody bs q a with
  | .error _ => none
  | .ok body =>
    let reads := (blockReads bs a).map (·.2)
    let step (acc : List (Option Firing) × List (List Target × Option Firing)) (e : (BitVec 32 × Instr) × Nat) :=
      let f := wordFiring reads acc.2 e.1.1 e.2
      (acc.1 ++ [f], acc.2 ++ [(wordTargets e.1.1 e.1.2, f.map fun f => f.add (resultTicks (i.inPantry a e.1.2) e.1.2))])
    let fires := (body.zipIdx.foldl step ([], [])).1
    let words := (body.zip fires).filterMap fun e => e.2.map fun f => (e.1, f)
    let header (k : Nat) : Nat := readLE bs (a + 4 * k) 4
    let written (w : Fin 8) : List Firing := (if reads.contains (.slot w) then [⟨1, some 1, true⟩] else []) ++ words.filterMap fun e =>
      if (wordTargets e.1.1 e.1.2).contains (.slot w) then
        let d := resultTicks (i.inPantry a e.1.2) e.1.2
        some (e.2.add (d.1 - 1, d.2.map (· - 1)))
      else match e.1.2 with | .nullw _ v => if v = w then some e.2 else none | _ => none
    let stored (n : Nat) : List Firing := words.filterMap fun e =>
      match e.1.2 with
      | .nullst _ m => if m.toNat = n then some e.2 else none
      | ins => (match lsidUse ins with | some u => if u.2.1 && u.1.toNat == n then some e.2 else none | none => none)
    let exits : List Firing := words.filterMap fun e => if (exitOf e.1.2).isSome then some e.2 else none
    let commit := Firing.allOf (((List.finRange 8).map written ++ (List.range (bits (header 1) 0 6)).map stored ++ [exits]).filterMap Firing.oneOf)
    match blockNext bs a body with
    | .ok (next, wild, _) => some ⟨a, body, reads, fires, commit, next.eraseDups, wild⟩
    | .error _ => none

/-! ### Blocks of an activation (R58, R250) -/

/-- A block that an activation may run: from tick `lo` of the instance on, before `last`; `first`: it starts with the activation, at `lo` exactly; `sure`: nothing but a trap
keeps it from running. -/
structure BlockStart where
  addr : Nat
  lo : Nat
  last : Nat
  first : Bool
  sure : Bool
deriving DecidableEq, Repr

/-- Every block that an activation may run; none where the work passes the fuel. -/
def reachBlocks (view : Nat → Option BlockView) (wild : List Nat) : Nat → List BlockStart → List (BlockStart × BlockView) → Option (List (BlockStart × BlockView))
  | _, [], acc => some acc
  | 0, _, _ => none
  | fuel + 1, r :: rest, acc =>
    if r.last ≤ r.lo || acc.any (fun e => e.1.addr == r.addr && e.1.first == r.first && e.1.lo ≤ r.lo && e.1.last == r.last && (e.1.sure || !r.sure)) then
      reachBlocks view wild fuel rest acc
    else
      match view r.addr with
      | none => reachBlocks view wild fuel rest acc
      | some v =>
        let next := v.next ++ if v.wild then wild else []
        let sure := r.sure && v.commit.sure && next.length == 1
        reachBlocks view wild fuel ((next.map fun b => ⟨b, r.lo + v.commit.lo + 1, r.last, false, sure⟩) ++ rest) ((r, v) :: acc)

/-- A block of an activation on a sequencer of an image core, by the number of its table entry. -/
structure Act where
  core : Nat
  seq : SeqIx
  entry : Nat
  start : BlockStart
  view : BlockView

/-- The ticks of an instance in which something happens that happens in a block's ticks `f`, `d` ticks on, and whether it is certain. Where it depends on a wait, and in a
later block of the activation, the window runs to the activation's end (R250). -/
def Act.window (a : Act) (f : Firing) (d : Nat) : Option (Nat × Nat × Bool) :=
  let lo := a.start.lo + f.lo + d
  let hi := match a.start.first, f.hi with | true, some h => min (a.start.lo + h + d) a.start.last | _, _ => a.start.last
  if a.start.last ≤ lo then none else some (lo, max lo hi, a.start.sure && a.start.first && f.sure && (f.hi.isNone || f.hi == some f.lo))

/-- What an operand slot of a word is sure to get. -/
def Act.traced (a : Act) (t : Fin 32 → Target) (k : Nat) : Option Word := if h : k < 32 then traceSlot a.view.body a.view.reads 32 (t ⟨k, h⟩) else none

/-- The words of a block that can fire, with their numbers. -/
def Act.words (a : Act) : List (Nat × BitVec 32 × Instr × Firing) :=
  (a.view.body.zip a.view.fires).zipIdx.filterMap fun e => e.1.2.map fun f => (e.2, e.1.1.1, e.1.1.2, f)

/-- The blocks that the tables of a set run on each sequencer of a core, sporadic windows running any block that their class permits (R418). -/
def Image.acts (i : Image) (t : TableSet) (p : Nat) : Option (List Act) :=
  let bytes := i.blocks.getD p []
  let bs := memOf 0 bytes
  (List.finRange 7).foldlM (fun (acc : List Act) q =>
    (t.tables.getD (p * 7 + q.val) []).zipIdx.foldlM (fun acc e =>
      if e.1.isEnd then some acc else
      let starts : List BlockStart :=
        if e.1.policyS then (i.classes.filter fun c => c.seq == q.val && e.1.arg.toNat % 256 == c.cls.toNat).map fun c => ⟨c.block.toNat, e.1.start, e.1.ends, false, false⟩
        else ⟨e.1.block.toNat, e.1.start, e.1.deadline, true, true⟩ ::
          (match e.1.fallback with | some f => [⟨f.toNat, e.1.start, e.1.ends, false, false⟩] | none => [])
      let views := fun a => viewBlock i bs q a
      let wild := if starts.any fun s => (match views s.addr with | some v => v.wild | none => false) then blockStarts i [t] bs (p % i.width) (p / i.width) q bytes.length else []
      (reachBlocks views wild 65536 starts []).map fun l => acc ++ l.map fun b => ⟨p, q, e.2, b.1, b.2⟩) acc) []

/-! ### Accesses to banks (R92, R250) -/

/-- Accesses to banks of the A-buffer of a core: the banks that they may reach, in what window, and what they belong to; `firm`: one access for certain, in every tick of
the window as R250 counts it. -/
structure BankUse where
  core : Nat
  bank : Nat
  count : Nat
  lo : Nat
  hi : Nat
  firm : Bool
  group : Nat × Nat × Nat × Nat
deriving DecidableEq, Repr

/-- Whether two uses can reach one bank. -/
def BankUse.meets (a b : BankUse) : Bool :=
  a.core == b.core && (decide (256 ≤ a.count) || decide (256 ≤ b.count) || decide ((b.bank + 256 - a.bank % 256) % 256 < a.count) || decide ((a.bank + 256 - b.bank % 256) % 256 < b.count))

/-- Two uses together (R92, R250): they must not reach one bank in overlapping windows. What one group does in one tick belongs together, as the stores of a block. -/
def BankUse.judge (a b : BankUse) : Finding :=
  .of (decide (a.hi < b.lo) || decide (b.hi < a.lo) || !a.meets b) (a.firm && b.firm && a.count == 1 && b.count == 1 && a.group != b.group)

/-- Bytes and displacement of an access (R231 to R239). -/
def accessForm : Instr → Nat × Int
  | .ldB _ _ d _ | .stB _ _ d => (1, d.toInt)
  | .ldH _ _ d _ | .stH _ _ d => (2, 2 * d.toInt)
  | .ldW _ _ d _ | .stW _ _ d => (4, 4 * d.toInt)
  | .ldD _ _ d _ | .stD _ _ d => (8, 8 * d.toInt)
  | .ldQ _ _ d _ => (16, 16 * d.toInt)
  | .stQ _ d => (16, 16 * d.toInt)
  | .amoaddW .. | .amominW .. | .amomaxW .. | .amoswapW .. | .amocasW .. => (4, 0)
  | _ => (8, 0)

/-- When a word accesses its location (R124, R231, R236 to R239): from its firing, or from the commit, so many ticks on, for so many ticks; whether it writes there. -/
def accessTicks : Instr → Bool × Nat × Nat × Bool
  | .waitw .. => (false, 2, 3, false)
  | .stB .. | .stH .. | .stW .. | .stD .. | .stQ .. | .rel .. => (true, 0, 1, true)
  | .amoaddW .. | .amoaddD .. | .amominW .. | .amominD .. | .amomaxW .. | .amomaxD .. | .amoswapW .. | .amoswapD .. | .amocasW .. | .amocasD .. => (true, 0, 3, true)
  | _ => (false, 2, 1, false)

/-- The ticks of a word's access: the first, the latest last, whether certain; a key write of `rel` may come later than its commit (R238). -/
def Act.accessWindow (a : Act) (ins : Instr) (f : Firing) (period : Nat) : Option (Nat × Nat × Bool) :=
  let (late, d, n, _) := accessTicks ins
  (a.window (if late then { a.view.commit with sure := a.view.commit.sure && f.sure } else f) d).map fun w =>
    match ins with
    | .rel .. => (w.1, period, false)
    | _ => (w.1, w.2.1 + n - 1, w.2.2)

/-- The bank uses of a block's own accesses. -/
def Act.uses (i : Image) (period : Nat) (a : Act) : List BankUse :=
  a.words.filterMap fun e =>
    let (k, _, ins, f) := e
    match (lsidUse ins).bind fun u => i.lsid? a.start.addr u.1 with
    | some r =>
      if r.space ≠ 0 then none else
      (a.accessWindow ins f period).map fun w =>
        let (bank, count) : Nat × Nat :=
          match a.traced .left k with
          | some x => ((effective (some r) (x + BitVec.ofInt 64 (accessForm ins).2) (accessForm ins).1).2 / 16 % 256, 1)
          | none => (r.base / 16 % 256, r.size / 16)
        ⟨a.core, bank, count, w.1, w.2.1, w.2.2, (0, a.seq.val * 4096 + a.entry, a.start.addr, if (accessTicks ins).1 then 32 else k)⟩
    | none => none

/-! ### Engine operations (R58, R252, R266, R272, R305, R334, R376) -/

/-- The queue of an engine word: a copy channel, the matrix engine (4), the stochastic engine (5), a region's sequencer (6 and up). -/
def queueOf (q : SeqIx) (w : BitVec 32) (ins : Instr) : Option Nat :=
  let m := w.toNat / 2 ^ 25
  match copyChan? ins with
  | some ch => some ch.val
  | none =>
    if 0x60 ≤ m && m ≤ 0x6A then some 4 else if 0x70 ≤ m && m ≤ 0x74 then some 5 else
    match ins with
    | .jtab .. | .cfgld .. | .cfgact .. | .cfgdrop .. | .run .. | .tok .. | .lrel .. => some (6 + q.val)
    | _ => none

/-- An engine operation: its word, its traced operand, its descriptor and reservation, the window of its issue; `sure`: it is issued for certain; `once`: at most once in an
instance; `done`: its worst-case completion, where that is bounded. -/
structure EngineOp where
  act : Act
  word : Nat
  ins : Instr
  queue : Nat
  left : Option Word
  desc : List Word
  resv : Option Resv
  lo : Nat
  hi : Nat
  sure : Bool
  once : Bool
  done : Option Nat

/-- Whether a virtual range lies whole in LPDDR 6 by the image's range table (R109). -/
def Image.inDram (i : Image) (base size : Nat) : Bool :=
  i.ranges.any fun e => e.valid && !e.offset.getLsbD 55 && decide (e.base.toNat ≤ base) && decide (base + size ≤ e.limit.toNat)

/-- When a copy that comes to the head of its channel in tick h completes, without misses (R270 to R272): at the earliest, or at the latest with the 3 ticks of R274. -/
def EngineOp.copyDone (i : Image) (o : EngineOp) (late : Bool) (h : Nat) : Option Nat :=
  let d := o.desc
  let rows := dscF d 4 24 12 * dscF d 4 36 12
  let x := dscF d 4 0 24
  let rate := if dscS d = 2 || dscD d = 2 then 64 else 256
  let rho := if late then 88 else 12
  let spare := if late then 3 else 0
  let onChip (sp : Nat) : Nat := if sp = 2 then 2 * rho else 0
  let virt := dscS d == 3 || dscD d == 3
  if isCpbind o.ins then some (h + 8 + 2048 / rate + onChip (dscS d) + 89 + spare)
  else if !virt then
    let units := if late then rows * (x / 16 + 2) else rows * ((x + 15) / 16)
    some (h + 8 + (16 * units + rate - 1) / rate + onChip (dscS d) + onChip (dscD d) + spare)
  else
    let pieces := rows * (if bit (d.getD 0 0).toNat 6 then (x + 1023) / 1024 else (x - 1 + 1023) / 1024 + 1)
    let least := if late then pieces else rows * ((x + 1023) / 1024)
    let dram : Option Nat := o.resv.map fun r =>
      nextWheel (64 * r.slot 0) (h + 32 + rho + onChip (dscS d)) + 64 * (r.slot (least - 1) - r.slot 0) +
        (if isCphash o.ins then 405 else 160 + rho + 1) + (if dscS d = 3 then onChip (dscD d) else 0) + spare
    let mapped := (dscS d ≠ 3 || i.inDram (d.getD 1 0).toNat (dscF d 3 0 32)) && (dscD d ≠ 3 || i.inDram (d.getD 2 0).toNat (dscF d 3 32 32))
    let host := if late then h + 100 + onChip (dscS d) + onChip (dscD d) + 16400 * ((pieces + 7) / 8) else h + 1
    if mapped then dram else match dram with | some t => some (if late then max t host else min t host) | none => some host

/-- When an operation that its engine comes to in tick h completes, at the earliest or at the latest (R286, R305, R307, R308, R334, R376); none where that is not bounded. -/
def EngineOp.doneFrom (i : Image) (o : EngineOp) (late : Bool) (h : Nat) : Option Nat :=
  let span (least most : Nat) : Option Nat := some (h + (if late then most else least) - 1)
  match o.ins with
  | .mtld .. | .mtldw .. | .mtst .. => span 12 12
  | .mspill .. | .mfill .. => span 45 45
  | .mma .. | .mmaw .. => span 4 (4 + 32 * 4)
  | .mchainE .. => span 1 4
  | .mzero .. => span 2 2
  | .mscacc .. => span 20 20
  | .mgdlt .. => span 80 80
  | .mfwrd .. => span 68 68
  | .mfwchunk .. => span 148 (148 * 16)
  | .mchainB .. | .mpin .. | .munpin .. => span 1 1
  | .mrd .. => if late then none else span 1 1
  | .jtab .. => span 1 9
  | .cfgld .. => span 1 16384
  | .cfgact .. | .cfgdrop .. | .tok .. => span 1 1
  | .lrel .. => if late then none else span 1 1
  | .run .. =>
    match o.left with
    | some n => if late && i.landings.any (·.isSome) then none else span (bits n.toNat 0 32) ((bits n.toNat 0 32 + 16) * 16)
    | none => if late then none else span 1 1
  | ins => if (copyChan? ins).isSome then o.copyDone i late h else span 1 (4 * 16 + 2)

/-- The engine operations of a block. -/
def Act.ops (i : Image) (t : TableSet) (a : Act) : List EngineOp :=
  let bs := memOf 0 (i.blocks.getD a.core [])
  a.words.filterMap fun e =>
    let (k, w, ins, f) := e
    match queueOf a.seq w ins, a.window a.view.commit 0 with
    | some queue, some c =>
      let desc := if (copyChan? ins).isSome then (List.range 8).map fun j => w64 (readLE bs (0x38000 + 64 * copyDesc ins + 8 * j) 8) else []
      let inTime := match f.hi with | some h => decide (h ≤ a.view.commit.lo) | none => false
      some { act := a, word := k, ins, queue, left := a.traced .left k, desc, resv := t.resv[dscF desc 0 8 8]?, lo := c.1, hi := c.2.1,
             sure := a.start.sure && f.sure && a.view.commit.sure && inTime, once := a.start.first, done := none }
    | _, _ => none

/-- The operations of one queue, with their worst-case completions: one after another, where it is certain in which order they are issued, each at most once. -/
def settleQueue (i : Image) (l : List EngineOp) : List EngineOp :=
  let l := sortBy (fun o => o.lo * 64 + o.word) l
  let inOrder := (l.zip (l.drop 1)).all fun e => decide (e.1.hi ≤ e.2.lo) || (e.1.lo == e.2.lo && e.1.hi == e.2.hi && e.1.act.start == e.2.act.start && e.1.act.entry == e.2.act.entry)
  if !(inOrder && l.all (·.once)) then l else
  (l.foldl (fun (acc : List EngineOp × Option Nat) o =>
    let done := acc.2.bind fun t => o.doneFrom i true (max (o.hi + 1) (t + 1))
    (acc.1 ++ [{ o with done }], done)) ([], some 0)).1

/-- The engine operations of a table set. -/
def Image.opsOf (i : Image) (t : TableSet) (acts : List Act) : List EngineOp :=
  let ops := acts.flatMap (·.ops i t)
  let keys := (ops.map fun o => (o.act.core, o.queue)).eraseDups
  keys.flatMap fun k => settleQueue i (ops.filter fun o => o.act.core == k.1 && o.queue == k.2)

/-- The earliest completion of an operation. -/
def EngineOp.soonest (i : Image) (o : EngineOp) : Nat := (o.doneFrom i false (o.lo + 1)).getD o.lo

/-- R58: no operation issued before an MCP position or the end entry completes after it. -/
def opsEndInTime (i : Image) (ops : List EngineOp) (places : List Nat) : Finding :=
  .all (ops.flatMap fun o => places.map fun p => .of (decide (p ≤ o.lo) || (match o.done with | some e => decide (e ≤ p) | none => false))
    (o.sure && decide (o.hi < p) && decide (p < o.soonest i)))

/-- R252, R332, R374: no queue of a copy channel, of the matrix engine or of the stochastic engine holds more than 12 commands. -/
def queuesOk (ops : List EngineOp) : Finding :=
  .all (ops.filterMap fun o => if 6 ≤ o.queue then none else
    let mine := ops.filter fun x => x.act.core == o.act.core && x.queue == o.queue
    some (.of (mine.all (·.once) && decide (mine.length ≤ 12))
      (decide (12 < (mine.filter fun x => x.sure && x.act.seq == o.act.seq && x.act.entry == o.act.entry && x.act.start == o.act.start).length))))

/-- R266: the span of a `cpbind` meets that of no copy with a virtual side. -/
def bindsOk (i : Image) (ops : List EngineOp) : Finding :=
  .all ((ops.filter fun o => isCpbind o.ins).flatMap fun o => (ops.filter fun x => (copyChan? x.ins).isSome && (dscS x.desc == 3 || dscD x.desc == 3)).map fun x =>
    let before (a b : EngineOp) : Bool := match a.done with | some e => decide (e < b.lo) | none => false
    .of (before o x || before x o) (o.sure && x.sure && decide (o.hi ≤ x.soonest i) && decide (x.hi ≤ o.soonest i)))

/-- R347: an `mrd` finds a round of its region to attach to. -/
def readPortsOk (ops : List EngineOp) : Finding :=
  .all (ops.filterMap fun o => match o.ins with
    | .mrd _ _ r => some (.of false (o.sure && !ops.any fun x => x.act.core == o.act.core && x.queue == 6 + r.val && (match x.ins with | .run .. => true | _ => false)))
    | _ => none)

/-! ### S cells (R297, R298) -/

/-- The half of its banks that an S-cell row reaches, where it is one for the whole round (R295, R297): its generator's strides are multiples of 128. -/
def rowHalf (p : Plane) (e : Nat × Nat × Nat × Nat) : Option Nat :=
  let g := bits e.2.2.2 21 4
  if (List.range 3).all fun k => p.get 3 g (1 + k) == 1 || p.get 3 g (4 + k) % 128 == 0 then
    some (((((p.get 3 g 0 : Int) + 64 * signedOf 9 (bits e.2.2.2 12 9)) % 128).toNat) / 64)
  else none

/-- Two rows of one S cell that meet on one half in one tick (R297): only an atomic, which takes three ticks, can meet a row of another tick, its own next iteration among
them. `fixed`: no `tok` reaches a generator. -/
def sCellsOk (p : Plane) (fixed : Bool) : Finding :=
  let rows := p.rows.filter fun e => e.1 == 1
  .all (rows.flatMap fun a => if bits a.2.2.2 29 2 ≠ 2 then [] else (rows.filter fun b => b.2.1 == a.2.1).flatMap fun b => [1, 2].filterMap fun d =>
    if p.period = 0 || (rowIx a + d) % p.period != rowIx b % p.period then none else
    some (match fixed, rowHalf p a, rowHalf p b with | true, some x, some y => .of (x != y) (x == y && a != b) | _, _, _ => .undecided))

/-- Every plane that the streams of a core's listed tables can produce, by region. -/
def Image.corePlanes (i : Image) (p : Nat) : List (List Plane) :=
  let bs := memOf 0 (i.blocks.getD p [])
  let tabs := (i.cfgTabs.filter fun t => t.ix + i.width * t.iy == p).map (·.addr.toNat)
  planesOf bs tabs (i.firstBlocks i.sets p)

/-- The S cells that the rounds of a region can reach, with whether some row of them writes. -/
def stripes (planes : List Plane) : List (Nat × Bool) :=
  let rows := planes.flatMap fun p => p.rows.filter fun e => e.1 == 1
  ((rows.map fun e => sCellNumber e.2.1).eraseDups).map fun c => (c, rows.any fun e => sCellNumber e.2.1 == c && bits e.2.2.2 29 2 != 0)

/-! ### What engine operations reach -/

/-- The storage of one core's own memory in the check's numbering; those of `Image.storage` are below 1,024. -/
def coreStore (space core : Nat) : Nat := 1024 * (space + 1) + core

/-- A range in a space by its code of R255, as storage with its spans. -/
def Image.place (i : Image) (core space base size : Nat) : Nat × Spans :=
  if space = 0 then (coreStore 0 core, wrapSpans (2 ^ i.alog) base size)
  else if space = 1 then (coreStore 1 core, [(base, size)])
  else if space = 2 then i.storage 1 base size
  else if space = 3 then i.storage 2 base size
  else (coreStore 2 core, [(16384 * base, max size 16384)])

/-- The accumulator tiles that a matrix command reads or writes (R333), with whether it writes. -/
def accUse : Instr → Option Word → List (Nat × Bool)
  | .mspill _ n _, _ => [(n.val, false)]
  | .mfill _ n _, _ => [(n.val, true)]
  | .mma _ _ n _, _ => [(n.val, true)]
  | .mmaw _ _ n _ _, _ => [(n.val, true)]
  | .mchainE _ n, _ => [(n.val, true)]
  | .mzero _ n, _ => [(n.val, true)]
  | .mscacc _ n p _ _, _ => [(n.val, true), (p.val, false)]
  | .mrd _ n _, _ => [(n.val, false)]
  | .mgdlt _ n _, _ => [(n.val, true)]
  | .mfwrd _ n _, _ => [(n.val, false)]
  | .mfwchunk _ n _, _ => [(n.val, true)]
  | _, _ => []

/-- The ranges that an engine operation reaches, with whether it writes there (R258, R335, R377). -/
def EngineOp.places (i : Image) (o : EngineOp) : List ((Nat × Spans) × Bool) :=
  let c := o.act.core
  if o.queue < 4 then
    let d := o.desc
    (if isCpset o.ins then [] else [(i.place c (dscS d) (d.getD 1 0).toNat (dscF d 3 0 32), false)]) ++
    (if isCpbind o.ins then [] else [(i.place c (dscD d) (d.getD 2 0).toNat (dscF d 3 32 32), true)]) ++
    [(i.place c 0 (dscF d 0 32 22) (if isCphash o.ins then 56 else 8), true)]
  else if o.queue = 4 then
    (match mxRangeUse o.ins with
     | some (n, _) => (i.mranges.filter fun r => r.num == n).map fun r =>
        (i.place c (b2n r.wbuf) r.base r.size, match o.ins with | .mtst .. | .mspill .. => true | _ => false)
     | none => []) ++ (accUse o.ins o.left).map fun e => (i.place c 4 e.1 16384, e.2)
  else if o.queue = 5 && needsStochRange o.ins then [(i.place c 0 i.ssBase i.ssSize, match o.ins with | .s2b .. | .sst .. => true | _ => false)]
  else []

/-- The bank uses of an engine operation: its A-buffer ranges from its issue to its completion (R274, R335, R377). -/
def EngineOp.uses (i : Image) (period : Nat) (o : EngineOp) : List BankUse :=
  let last := o.done.getD period
  (o.places i).flatMap fun e => if e.1.1 ≠ coreStore 0 o.act.core then [] else e.1.2.map fun s =>
    ⟨o.act.core, s.1 / 16 % 256, s.2 / 16 + 1, o.lo + 1, max (o.lo + 1) last, false, (1, o.act.seq.val * 4096 + o.act.entry, o.act.start.addr, o.word)⟩

/-- The bank uses of a region's rounds (R298): the eight banks of each S cell that its planes use. -/
def EngineOp.roundUses (planes : List (List Plane)) (period : Nat) (o : EngineOp) : List BankUse :=
  match o.ins with
  | .run .. => (stripes (planes.getD (o.queue - 6) [])).map fun e =>
    ⟨o.act.core, 8 * e.1, 8, o.lo + 1, max (o.lo + 1) (o.done.getD period), false, (2, o.queue, 0, 0)⟩
  | _ => []

/-! ### Races (R131, R137, R258, R298, R335, R377, R462) -/

/-- A declared memory access: what it is, its storage, whether it writes, its ticks, and the tick from which its writes are visible, none where that is not bounded. -/
structure Node where
  name : RaceNode
  store : Nat × Spans
  write : Bool
  lo : Nat
  hi : Nat
  vis : Option Nat
  firm : Bool
  engine : Nat

/-- The nodes of a block's LSID ranges (R131). -/
def Act.nodes (i : Image) (period : Nat) (a : Act) : List Node :=
  a.words.filterMap fun e =>
    let (_, _, ins, f) := e
    match (lsidUse ins).bind fun u => (i.lsid? a.start.addr u.1).map fun r => (u.1, r) with
    | some (n, r) =>
      (a.accessWindow ins f period).map fun w =>
        let t := accessTicks ins
        -- keys and words waited for are no data of their own
        { name := ⟨a.core, a.seq.val, a.start.addr, n.toNat⟩, store := i.place a.core (if r.space = 1 then 2 else 0) r.base r.size, write := t.2.2.2,
          lo := w.1, hi := w.2.1, vis := if (match ins with | .rel .. => true | _ => false) then none else some (w.2.1 + 1), firm := w.2.2, engine := 16 }
    | none => none

/-- The nodes of an engine operation, from its issue to its completion: of a copy its word is visible in its tick, of the others one tick on (R258, R335, R377). -/
def EngineOp.nodes (i : Image) (period : Nat) (o : EngineOp) : List Node :=
  (o.places i).map fun e =>
    { name := ⟨o.act.core, o.act.seq.val, o.act.start.addr, 32 + o.word⟩, store := e.1, write := e.2, lo := o.lo, hi := o.done.getD period,
      vis := o.done.map fun t => if o.queue < 4 then t else t + 1, firm := false, engine := o.queue }

/-- The nodes of a region's rounds: the stripes of its S cells, visible outside from the tick after the round's last (R298, R462). -/
def EngineOp.roundNodes (i : Image) (planes : List (List Plane)) (period : Nat) (o : EngineOp) : List Node :=
  match o.ins with
  | .run .. => (stripes (planes.getD (o.queue - 6) [])).map fun e =>
    { name := ⟨o.act.core, o.act.seq.val, o.act.start.addr, 32 + o.word⟩,
      store := (coreStore 0 o.act.core, (List.range (2 ^ i.alog / 4096)).map fun k => (4096 * k + 128 * e.1, 128)), write := e.2,
      lo := o.lo + 1, hi := o.done.getD period, vis := o.done.map (· + 1), firm := false, engine := o.queue }
  | _ => []

/-- The nodes of window bindings (R131): each window of a table entry's binding set, read at any tick of its activation. -/
def Image.windowNodes (i : Image) (t : TableSet) (p : Nat) : List Node :=
  (List.finRange 7).flatMap fun (q : SeqIx) => (t.tables.getD (p * 7 + q.val) []).flatMap fun e => ((e.win.bind fun k => t.wins[k]?).getD []).filterMap fun d =>
    if !d.valid || e.isEnd then none else
    some { name := ⟨p, q.val, e.block.toNat, 64⟩, write := false, lo := e.start, hi := e.ends, vis := none, firm := false, engine := 17,
           store := if d.pantry then (if d.repl then 2 else 3 + i.quadOf d.quad, wrapSpans (max 1 (i.sliceBytes true d.repl)) d.base d.bound) else i.place p 1 d.base d.bound }

/-- Whether a race between two nodes is tolerated (R137): on replicas of a region whose sharing entry says so. -/
def Image.divergenceOk (i : Image) (a b : Node) : Bool :=
  a.store.1 == 2 && i.shares.any fun s => s.divok && s.space == 1 && storageMeets (i.storage 1 s.base s.size) a.store && storageMeets (i.storage 1 s.base s.size) b.store

/-- Two nodes together (R130, R131): one that writes and overlaps another is ordered against it by a time edge, or by a join or a key bracket, which the check does not
trace here: `syncs` says whether the launch uses any. Commands of the matrix engine order their own tiles (R333). -/
def Image.judge (i : Image) (syncs : Bool) (a b : Node) : Finding :=
  let edge (w x : Node) : Bool := w.write && (match w.vis with | some v => decide (v ≤ x.lo) | none => false)
  let late (r w : Node) : Bool := !r.write && decide (r.hi < w.lo)
  .of (!(a.write || b.write) || !storageMeets a.store b.store || edge a b || edge b a || i.divergenceOk a b ||
       (a.engine == 4 && b.engine == 4 && decide (a.store.1 / 1024 = 3)))
    (a.firm && b.firm && !syncs && !late a b && !late b a && (a.name.core != b.name.core || a.name.seq != b.name.seq))

/-- Words that synchronise (R125, R128). -/
def isSync : Instr → Bool
  | .acq .. | .rel .. | .waitw .. | .bwait .. | .arrive .. | .fence .. | .lwait .. => true
  | _ => false

/-- Every pair of a list. -/
def pairs {α : Type} : List α → List (α × α)
  | [] => []
  | a :: l => l.map (fun b => (a, b)) ++ pairs l

/-- The pairs of nodes of a table set that no traced edge orders. -/
def Image.racing (i : Image) (t : TableSet) (acts : List Act) : List (Finding × RaceNode × RaceNode) :=
  let ops := i.opsOf t acts
  let cores := List.range (i.width * i.height)
  let planes := if ops.any fun o => 6 ≤ o.queue then cores.map i.corePlanes else []
  let nodes := acts.flatMap (·.nodes i t.period) ++ ops.flatMap (fun o => o.nodes i t.period ++ o.roundNodes i (planes.getD o.act.core []) t.period) ++
    cores.flatMap (i.windowNodes t)
  let syncs := acts.any fun a => a.view.body.any fun e => isSync e.2
  (pairs nodes).filterMap fun e => match i.judge syncs e.1 e.2 with | .sound => none | v => some (v, e.1.name, e.2.name)

/-- The schedule of a table set: ends of operations, queues, binds, read ports, S cells, held rounds, banks. -/
def Image.scheduleOf (i : Image) (t : TableSet) (acts : List Act) : Finding :=
  let ops := i.opsOf t acts
  let cores := List.range (i.width * i.height)
  let planes := if ops.any fun o => 6 ≤ o.queue then cores.map i.corePlanes else []
  let places := t.mcps ++ (t.tables.flatten.filter (·.isEnd)).map (·.start)
  let uses := acts.flatMap (·.uses i t.period) ++ ops.flatMap fun o => o.uses i t.period ++ o.roundUses (planes.getD o.act.core []) t.period
  let rounds := ops.any fun o => match o.ins with | .run .. => true | _ => false
  let fixed := !ops.any fun o => match o.ins with | .tok _ n => decide (n.toNat < 64) | _ => false
  .all [opsEndInTime i ops places, queuesOk ops, bindsOk i ops, readPortsOk ops, .all (planes.flatten.flatten.map (sCellsOk · fixed)),
        .of (!rounds || i.landings.all (·.isNone)) false, .all ((pairs uses).map fun e => e.1.judge e.2)]

/-- The acts of a table set on all cores. -/
def Image.allActs (i : Image) (t : TableSet) : Option (List Act) :=
  (List.range (i.width * i.height)).foldlM (fun acc p => (i.acts t p).map (acc ++ ·)) []

/-- The verdict on the schedule of an image, its sets as rewritten by placement (R58, R92, R250, R252, R266, R272, R297, R300, R332, R347, R374). -/
def Image.schedule (i : Image) : Finding :=
  if i.sporadic then .undecided else .all (i.sets.map fun t => match i.allActs t with | some l => i.scheduleOf t l | none => .undecided)

/-- The pairs that the race check finds (R131), none of them ordered by a traced edge. -/
def Image.raceList (i : Image) : List (Finding × RaceNode × RaceNode) :=
  i.sets.flatMap fun t => match i.allActs t with | some l => i.racing t l | none => [(.undecided, ⟨0, 0, 0, 0⟩, ⟨0, 0, 0, 0⟩)]

/-- The verdict of the race check. -/
def Image.races (i : Image) : Finding := .all (i.raceList.map (·.1))

end Sys2Proof.Machine
end

