-- ==== Sys2Proof/Machine/Launch.lean ====
section
/-! DEFINITION. A launch over time: its origin tick (R29, R53, R96, R115), entries that come due (R51 to R60), overruns and fallbacks (R66 to R69), mode and throttle switches (R61 to R63), boundary freezes (R75) and halting freezes (R70 to R76). -/

namespace Sys2Proof.Machine

/-! ### Records (R436) -/

/-- A FREEZE record: the causes as a bit set, the first frozen tick; it ends with the tick before this one (R73). -/
def State.freezeRec (s : State) (n : LaunchNo) (causes first : Nat) : State :=
  s.record { typ := 0x06, tick := s.tick, place := some (placeNoCore n), trace := false,
             payload := [w64 (causes % 256 + (s.tick - first) * 2 ^ 8), w64 (first % 2 ^ 63)] }

/-- Current mode and level of a launch. -/
def Launch.current (l : Launch) : BitVec 4 × BitVec 2 := match l.set? with | some t => (t.mode, t.level) | none => (0, 0)

/-- SRC code of a mode request's rank (R62, R436). -/
def rankSrc (rank : Nat) : Nat := if rank = 2 then 0 else if rank = 1 then 1 else 2

/-- A MODE record (R436): status 0 switched, 1 superseded, 2 refused, 3 null. -/
def State.modeRec (s : State) (n : LaunchNo) (old new : BitVec 4 × BitVec 2) (status src : Nat) (urgent : Bool) : State :=
  s.record { typ := 0x02, tick := s.tick, place := some (placeNoCore n), trace := false,
             payload := [w64 (old.1.toNat + old.2.toNat * 2 ^ 4 + new.1.toNat * 2 ^ 6 + new.2.toNat * 2 ^ 10 + status * 2 ^ 12 + src * 2 ^ 14 + b2n urgent * 2 ^ 16)] }

/-- Cancellation by health or firmware (R39, R83, R87): a FAULT record of source 6, then the fault domain. -/
def State.healthCancel (s : State) (n : LaunchNo) : State :=
  match s.launch? n with
  | none => s
  | some l => (s.faultRec (some (placeNoCore n)) 6 0 0 true l.fdom 0 l.tag.toNat 0).cancelDomain l.fdom

/-! ### Modes and levels (R61 to R63) -/

/-- Channels in service (R39). -/
def State.chmask (s : State) : BitVec 32 := ~~~s.health.fenced

/-- The table set for a mode, a level and the channels in service. -/
def Launch.setFor (l : Launch) (mode : BitVec 4) (level : BitVec 2) (mask : BitVec 32) : Option Nat :=
  l.img.sets.findIdx? fun t => t.mode == mode && t.level == level && t.chmask == mask

/-- A mode request (R62): rank 2 from the safety monitor, 1 from the front end, 0 from a graph. -/
def State.modeRequest (s : State) (n : LaunchNo) (mode : BitVec 4) (urgent : Bool) (rank : Nat) : State :=
  match s.launch? n with
  | none => s
  | some l =>
    let level := l.pendLevel.getD l.current.2
    let lower := match l.pendMode with | some p => decide (rank < p.rank) | none => false
    if lower then s.modeRec n l.current (mode, level) 1 (rankSrc rank) urgent
    else if (l.setFor mode level s.chmask).isNone then s.modeRec n l.current (mode, level) 2 (rankSrc rank) urgent
    else s.updLaunch n fun l =>
      { l with pendMode := some ⟨mode, urgent, rank, s.tick⟩,
               urgentAt := if urgent && l.urgentFrom.isNone then some (match l.urgentAt with | some t => t | none => s.tick + 24) else none }

/-- A level request from the health core (R62). -/
def State.levelRequest (s : State) (n : LaunchNo) (level : BitVec 2) : State :=
  match s.launch? n with
  | none => s
  | some l =>
    let mode := match l.pendMode with | some p => p.mode | none => l.current.1
    if (l.setFor mode level s.chmask).isNone then s.modeRec n l.current (mode, level) 2 3 false
    else s.updLaunch n fun l => { l with pendLevel := some level }

/-- Whether a switch point in this tick takes the pending mode (R62, R63, R86): pending for 24 ticks, or at the end of an urgent switch's drains, or together
with a pending level, or equal to the current mode, which only clears it. -/
def Launch.taken (l : Launch) (tick : Nat) (p : PendMode) : Bool :=
  l.urgentFrom.isSome || decide (p.tick + 24 ≤ tick) || l.pendLevel.isSome || p.mode == l.current.1

/-- The mode and level that a switch point in this tick asks for, and whether anything asks. -/
def Launch.asked (l : Launch) (tick : Nat) : Option (BitVec 4 × BitVec 2) :=
  let mode := (l.pendMode.filter (l.taken tick)).map PendMode.mode
  if mode.isSome || l.pendLevel.isSome || l.chmaskNew then some (mode.getD l.current.1, l.pendLevel.getD l.current.2) else none

/-! ### Position and outstanding work (R51, R75) -/

/-- The position in the current set (R51). -/
def Launch.position (l : Launch) : Nat := (l.ltime - l.setStart).toNat
/-- The position in the current period instance. -/
def Launch.inPeriod (l : Launch) : Nat := match l.set? with | some t => l.position - l.inst * t.period | none => 0

/-- Whether an engine operation of a launch is outstanding (R75). -/
def State.outstanding (s : State) (l : Launch) : Bool := l.cores.any fun c => (s.ctx c).busyFor fun _ => true

/-- Whether a boundary at this tick needs a boundary freeze (R75). -/
def State.needsFreeze (s : State) (l : Launch) : Bool :=
  match s.recordedFreeze l.num 4 (l.urgentFrom.getD s.tick) with
  | some m => decide (s.tick < m)
  | none => s.tick % 32768 ≠ 0 || s.outstanding l

/-- A boundary freeze begins in this tick; its record counts from `first` (R75, R86). -/
def State.beginBoundary (s : State) (l : Launch) (first : Nat) (after : AfterBoundary) : State :=
  let busy := s.outstanding l
  s.updLaunch l.num fun l => { l with boundary := some ⟨first, after, busy, s.tick⟩ }

/-! ### Entries (R51, R54 to R60) -/

/-- The table of a sequencer in the current set. -/
def Launch.table (l : Launch) (c : CoreIx) (q : SeqIx) : List TableEntry :=
  match l.set? with | some t => t.tables.getD (l.pos c * 7 + q.val) [] | none => []

/-- The entry of a table at a position, with its number. -/
def entryAt (es : List TableEntry) (p : Nat) : Option (Nat × TableEntry) := (es.zipIdx.find? fun e => e.1.start == p).map fun e => (e.2, e.1)

/-- The host launch's entry that comes due on a sequencer in this tick. -/
def State.hostEntry? (s : State) (c : CoreIx) (q : SeqIx) : Option (Launch × Nat × TableEntry) :=
  match s.coreLaunch? c with
  | none => none
  | some l =>
    if l.timeHeld s.tick || l.stepped.contains (c, q, l.ltime) then none else
    match entryAt (l.table c q) l.inPeriod, l.set? with
    | some (k, e), some t => if e.isEnd && l.inst + 1 ≠ t.instances then none else some (l, k, e)
    | _, _ => none

/-- The generated launch that runs in a window of a sequencer (R60). -/
def State.guest? (s : State) (c : CoreIx) (q : SeqIx) : Option (Launch × WindowBind) :=
  s.launches.findSome? fun g => match g.window with | some w => if w.core = c && w.seq = q then some (g, w) else none | none => none

/-- The table of a generated launch (R421). -/
def Launch.guestTable (g : Launch) : List TableEntry := match g.img.sets with | t :: _ => t.tables.flatten | [] => []

/-- The generated launch's entry that comes due on a sequencer in this tick: positions count from the window's start (R60). -/
def State.guestEntry? (s : State) (c : CoreIx) (q : SeqIx) : Option (Launch × Nat × TableEntry) :=
  match s.guest? c q, s.coreLaunch? c with
  | some (g, w), some h =>
    if h.timeHeld s.tick then none else (entryAt g.guestTable (h.ltime.toNat - w.start)).map fun e => (g, e.1, e.2)
  | _, _ => none

/-- The binding set of an entry in its due tick (R57, R103); a generated launch names those of the launch that owns its window (R421). -/
def State.bindWindows (s : State) (l : Launch) (e : TableEntry) : List Window :=
  let owner := match l.window with | some w => s.launch? w.host | none => some l
  match owner.bind Launch.set?, e.win with
  | some t, some k => t.wins.getD k []
  | _, _ => []

/-- An activation of an entry (R52, R54, R57): `cap` bounds the deadline ticks of a generated launch's (R60). -/
def State.activation (s : State) (l : Launch) (k : Nat) (e : TableEntry) (cap : Option Nat) : Activation :=
  let limit (t : Nat) : Nat := match cap with | some m => min t m | none => t
  { id := s.fe.actSerial, launch := l.num, entry := BitVec.ofNat 12 k, inst := BitVec.ofNat 32 l.inst, isFallback := false, fallback := e.fallback,
    deadline := limit (l.instTick + e.deadline), fbDeadline := limit (l.instTick + e.deadline + e.fbDeadline), arg := e.arg, windows := s.bindWindows l e,
    remain := e.remain, ran := 0, polC := e.policyC, polD := e.policyD, polV := e.policyV, mark := e.mark, drain := false, drainLimit := 0,
    halted := false, pwbSeen := 0 }

/-- An entry's activation starts (R57). -/
def State.startEntry (s : State) (c : CoreIx) (q : SeqIx) (l : Launch) (k : Nat) (e : TableEntry) (cap : Option Nat) : State :=
  if (s.seq c q).act.isSome then s else
  let a := s.activation l k e cap
  ({ s with fe := { s.fe with actSerial := s.fe.actSerial + 1 } }).startActivation c q a e.block

/-- The LAUNCH record, and the queue's launch register, at an origin tick (R414, R415, R436). -/
def State.launchRec (s : State) (l : Launch) : State :=
  let (queue, gen, graph) := match l.source with | .queue q => (q.val, 0, 0) | .graph g => (0, 1, g.val)
  let level := (match l.set? with | some t => t.level.toNat | none => 0)
  let s := s.record { typ := 0x01, tick := s.tick, place := some (placeNoCore l.num), trace := false,
                      payload := [w64 (l.rcbId.toNat + queue * 2 ^ 16 + gen * 2 ^ 20 + graph * 2 ^ 21 + l.tag.toNat * 2 ^ 27 + level * 2 ^ 59),
                                  w64 (s.tick % 2 ^ 63)] ++ digestWords l.digest }
  match l.source with
  | .queue q => s.updQueue q fun x => { x with lnRcb := l.rcbId, lnCount := x.lnCount + 1, lnLaunch := l.num }
  | .graph _ => s

/-- Every RCB of the paths keeps within its budget, counting the given uses (R25). -/
def budgetsHold (uses : List (List (BitVec 16 × Budget) × Budget)) : Bool :=
  uses.all fun u => u.1.all fun p =>
    ((uses.filter fun v => v.1.any fun r => r.1 == p.1).foldl (fun t v => t.add v.2) Budget.zero).le p.2

/-- What the launches that stand use (R25), generated ones while they run. -/
def State.usesNow (s : State) : List (List (BitVec 16 × Budget) × Budget) :=
  (s.launches.filter fun l => l.cls.isNone || l.window.isSome).map fun l => (l.path, l.img.uses)

/-- A window's start (R60; under replay the recorded window, R441): the oldest launch pending for its class since at least 1,024 ticks is bound to it, and starts
its entry at position 0. A launch that would break the budget of an RCB is held back (R25). -/
def State.openWindow (s : State) (c : CoreIx) (q : SeqIx) (h : Launch) (e : TableEntry) : State :=
  let fits (g : Launch) : Bool :=
    g.cls == some (e.arg.setWidth 8) && g.window.isNone &&
    (if s.tr.rpActive then (s.recorded 0x01).any fun r => bit (recWord r 3) 20 && recLaunch r == g.num && recTick r == s.tick % 2 ^ 63
     else decide (g.pendingFrom + 1024 ≤ s.tick)) &&
    (match g.source with | .graph x => (match s.fe.graphs[x].bind (·.binding) with | some (_, n) => n == h.num | none => false) | .queue _ => false)
  match s.launches.find? fits with
  | none => s
  | some g =>
    if !budgetsHold (s.usesNow ++ [(g.path, g.img.uses)]) then s else
    let w : WindowBind := { host := h.num, core := c, seq := q, start := h.ltime.toNat, deadline := h.instTick + e.deadline }
    let s := s.updLaunch g.num fun g => { g with window := some w, stage := .running, origin := s.tick, instTick := s.tick, ltime := 0 }
    let s := match s.launch? g.num with | some g => s.launchRec g | none => s
    match s.launch? g.num, entryAt g.guestTable 0 with
    | some g, some (k, f) => s.startEntry c q g k f (some w.deadline)
    | _, _ => s

/-- ENTRY_DUE (R51, R57, R59, R60): an activation starts, a window opens, or the end entry brings the launch to its retirement. -/
def execEntryDue (c : CoreIx) (q : SeqIx) (s : State) : Out :=
  match s.hostEntry? c q with
  | some (l, k, e) =>
    if e.isEnd then (if s.needsFreeze l then .next (s.beginBoundary l s.tick .retire) else .next (s.endLaunch l.num false))
    else if e.policyS then .next (s.openWindow c q l e)
    else .next (s.startEntry c q l k e none)
  | none =>
    match s.guestEntry? c q with
    | some (g, k, e) => .next (s.startEntry c q g k e (g.window.map WindowBind.deadline))
    | none => .next s

/-- The entries due in this tick: an end entry before the others, since no entry starts at the boundary it makes (R59, R75). -/
def State.entryDues (s : State) : List Instr :=
  let all := allCores.flatMap fun c => allSeqs.map fun q => (c, q)
  let kind (p : CoreIx × SeqIx) : Option Bool := match s.hostEntry? p.1 p.2 with
    | some (_, _, e) => some e.isEnd
    | none => if (s.guestEntry? p.1 p.2).isSome then some false else none
  ((all.filter fun p => kind p == some true) ++ all.filter fun p => kind p == some false).map fun p => .entryDue p.1 p.2

/-! ### The origin tick -/

/-- A core made ready for a launch (R28, R96, R115, R266, R418): its slices cleared, block store and records loaded, its context as after reset, the range
table installed, the caches filled from the preload list (the order of use among preloads: DESIGN CHOICE, log entry 51). -/
def State.readyCore (s : State) (l : Launch) (c : CoreIx) : State :=
  let g := l.grant c
  let x : CoreCtx := { CoreCtx.init with ranges := l.img.ranges, chans := Vector.ofFn fun ch => { CopyChan.init with cache := s.preloaded l c ch } }
  let s := s.updCore c fun k =>
    { k with launch := l.num, ctx := x, abuf := sparseClear k.abuf g.aBase (2 ^ l.img.alog), wbuf := sparseClear k.wbuf g.wBase (2 ^ l.img.wlog),
             cbuf := sparseClear k.cbuf (g.cBase * 16384) (16384 * 2 ^ l.img.clog), blockStore := memOf 0 (l.img.blocks.getD (l.pos c) []),
             storeOwner := l.num, lsids := l.img.lsids, swap := none, arrivals := k.arrivals.filter fun a => a.launch != l.num }
  ((((s.clearErrors 1 c g.aBase (2 ^ l.img.alog)).clearErrors 2 c g.wBase (2 ^ l.img.wlog)).clearErrors 3 c (g.cBase * 16384) (16384 * 2 ^ l.img.clog)).clearErrors
    4 c 0 262144).clearErrors 7 c 0 65536 |>.clearErrors 8 c 0 65536

/-- The Pantry partitions granted to a launch read as zero (R96). -/
def State.clearParts (s : State) (l : Launch) : State :=
  let clear (log : Nat) (s : State) (b : Nat × Nat) : State :=
    let d : Fin 4 := ⟨b.1 % 4, Nat.mod_lt _ (by decide)⟩
    ({ s with dies := s.dies.set d { s.dies[d] with pantry := sparseClear s.dies[d].pantry (b.2 * 2 ^ 20) (2 ^ (20 + log)) } }).clearErrors 5 d (b.2 * 2 ^ 20) (2 ^ (20 + log))
  l.replBase.foldl (clear l.img.rplog) (l.quadBase.foldl (clear l.img.plog) s)

/-- A launch that is refused when it is to start: its queue freezes with reason 4, and it ends as a cancelled one (R115, R416). -/
def State.refuseAtOrigin (s : State) (l : Launch) : State :=
  let s := match l.source with
    | .queue q => if s.fe.queues[q].frozen then s else s.freezeQueue q 4 l.packet.toNat l.tag true
    | .graph _ => s
  s.endLaunch l.num true

/-- ORIGIN_TICK (R29, R51, R53, R96): launch time is 0; every core of the rectangle is ready; a standing safety request becomes pending. A preload entry that faults
refuses the launch (R115). -/
def execOriginTick (n : LaunchNo) (s : State) : Out :=
  match s.launch? n with
  | none => .next s
  | some l =>
    if l.stage ≠ .placed || l.origin ≠ s.tick then .next s else
    if s.preloadFaults l then .next (s.refuseAtOrigin l) else
    let s := s.preloadSoft l
    let s := l.cores.foldl (fun s c => s.readyCore l c) (s.clearParts l)
    let s := s.updLaunch n fun l => { l with stage := .running, ltime := 0, setStart := 0, inst := 0, instTick := s.tick }
    let s := s.launchRec l
    let safe := match l.set? with | some t => t.safemode | none => 0
    .next (if s.host.mreq then s.modeRequest n safe true 2 else s)

/-! ### Overrun and fallback (R66 to R69) -/

/-- OVERRUN (R66 to R69): the block is abandoned, its engine operations are cut, and the fallback starts; without one, or at the fallback's own deadline
tick, the fault domain is cancelled. A deadline tick within a boundary freeze takes effect at M, that of a fallback too (DESIGN CHOICE, log entry 56). -/
def execOverrun (c : CoreIx) (q : SeqIx) (s : State) : Out :=
  match (s.seq c q).act with
  | none => .next s
  | some a =>
    if a.isFallback || a.drain || !s.seqRuns c q || s.tick < a.deadline then .next s else
    let block := match (s.seq c q).run with | some r => r.addr | none => (s.seq c q).actCur
    let s := s.setCause c q ⟨0x08, 0⟩ block
    let s := s.updSeq c q fun x => { x with overrun := true, answered := true }
    let s := (s.abandon c q).cutActivation c a
    let s := s.record { typ := 0x04, tick := s.tick, place := some (s.placeCore a.launch c q), trace := false,
                        payload := [w64 (a.entry.toNat + a.inst.toNat * 2 ^ 12), w64 (a.deadline % 2 ^ 63), w64 (s.tick % 2 ^ 63)] }
    match a.fallback with
    | some fb =>
      if s.tick < a.fbDeadline then .next (s.startFallback c q a fb) else .next (s.faultCancel c q a.launch 0 0x08 0 block.toNat)
    | none => .next (s.faultCancel c q a.launch 0 0x08 0 block.toNat)

/-- FALLBACK_DEADLINE (R68): a fallback that has not committed by its deadline tick cancels the fault domain; one within a boundary freeze does so at M, one within
a halting freeze in the first unfrozen tick (DESIGN CHOICE, log entry 56). -/
def execFallbackDeadline (c : CoreIx) (q : SeqIx) (s : State) : Out :=
  match (s.seq c q).act with
  | none => .next s
  | some a =>
    if !a.isFallback || a.drain || !s.seqRuns c q || s.tick < a.fbDeadline then .next s else
    let block := match (s.seq c q).run with | some r => r.addr | none => (s.seq c q).actCur
    .next ((s.setCause c q ⟨0x08, 0⟩ block).faultCancel c q a.launch 0 0x08 0 block.toNat)

/-- The deadlines that have come (R66, R68, R69): first those that cancel the fault domain, since all else is then void for its launches (R89). None is raised
while the launch is stopped by the debugger (R453). -/
def State.deadlineDues (s : State) : List Instr :=
  let due (cancels : Bool) : List Instr := allCores.flatMap fun c => allSeqs.flatMap fun q =>
    match (s.seq c q).act, s.coreLaunch? c with
    | some a, some l =>
      if a.drain || !s.seqRuns c q || l.stopped s.tick then []
      else if a.isFallback then (if a.fbDeadline ≤ s.tick && cancels then [.fallbackDeadline c q] else [])
      else if a.deadline ≤ s.tick && cancels == (a.fallback.isNone || decide (a.fbDeadline ≤ s.tick)) then [.overrun c q] else []
    | _, _ => []
  due true ++ due false

/-! ### Boundaries (R59, R61, R75) -/

/-- The next period instance begins in this tick (R51). -/
def State.nextInstance (s : State) (n : LaunchNo) : State := s.updLaunch n fun l => { l with inst := l.inst + 1, instTick := s.tick }

/-- The requests acted on are no longer pending. -/
def Launch.clearAsked (l : Launch) (tick : Nat) : Launch :=
  { l with pendMode := l.pendMode.filter fun p => !l.taken tick p, pendLevel := none, chmaskNew := false,
           urgentAt := l.urgentAt.filter fun _ => l.pendMode.isSome && !(l.pendMode.any (l.taken tick)) }

/-- The source and urgency of the request acted on (R436). -/
def Launch.askedBy (l : Launch) (tick : Nat) : Nat × Bool :=
  match l.pendMode with | some p => if l.taken tick p then (rankSrc p.rank, p.urgent) else (3, false) | none => (3, false)

/-- What a switch point in this tick comes to (R39, R61 to R63): the set to change to, or nothing with its MODE record of status refused or null; none where
the channels in service leave the launch no set. -/
def State.atSwitch (s : State) (l : Launch) : Option (State × AfterBoundary) :=
  match l.asked s.tick with
  | none => some (s, .resume)
  | some a =>
    let by' := l.askedBy s.tick
    let report (status : Nat) : State := if l.pendMode.isSome || l.pendLevel.isSome then s.modeRec l.num l.current a status by'.1 by'.2 else s
    let clear (s : State) : State := s.updLaunch l.num (·.clearAsked s.tick)
    match l.setFor a.1 a.2 s.chmask with
    | none =>
      -- the request is refused; new channels in service still ask for the variant of the current mode and level (R39)
      if !l.chmaskNew then some (clear (report 2), .resume) else
      match l.setFor l.current.1 l.current.2 s.chmask with
      | none => none
      | some k => some (clear (report 2), if k = l.setIx then .resume else .switch k 3 false)
    | some k => if k = l.setIx then some (clear (report 3), .resume) else some (clear s, .switch k by'.1 by'.2)

/-- The switch itself, at M (R61 to R63): the new set is current at position 0, with its MODE and THROTTLE records. -/
def State.switchSet (s : State) (n : LaunchNo) (k src : Nat) (urgent : Bool) : State :=
  match s.launch? n with
  | none => s
  | some l =>
    let s' := s.updLaunch n fun l => { l with setIx := k, setStart := l.ltime, inst := 0, instTick := s.tick, mcpAt := none }
    match s'.launch? n with
    | none => s'
    | some l' =>
      let s' := s'.modeRec n l.current l'.current 0 src urgent
      if l.current.2 = l'.current.2 then s' else
        s'.record { typ := 0x0B, tick := s'.tick, place := some (placeNoCore n), trace := false,
                    payload := [w64 (l.current.2.toNat + l'.current.2.toNat * 4)] }

/-- What takes effect in tick M (R75). -/
def State.afterBoundary (s : State) (n : LaunchNo) : AfterBoundary → State
  | .nextInst => s.nextInstance n
  | .switch k src u => s.switchSet n k src u
  | .resume => s
  | .retire => s.endLaunch n false

/-- Whether the drains of an urgent switch are over (R86). -/
def State.drained (s : State) (l : Launch) : Bool := !(l.cores.any fun c => allSeqs.any fun q => match (s.seq c q).act with | some a => a.drain | none => false)

/-- Whether the launch stands at a switch point: an MCP position that it has not yet passed, or the end of an urgent switch's drains (R61, R86). -/
def State.atSwitchPoint (s : State) (l : Launch) : Bool :=
  l.stage == .running && !l.frozen && l.susp.isNone && l.boundary.isNone && !l.stopped s.tick &&
  if l.urgentFrom.isSome then s.drained l
  else l.mcpAt != some l.position && (match l.set? with
    | some t => t.mcps.contains (l.position % t.period)
    | none => false)

/-- SWITCH_POINT (R61, R63, R75, R86): the boundary freeze that every switch point has begins, or the set changes at once. The held ticks of an urgent
switch's drains are in the same FREEZE record; the entries due as they end start in the same tick. -/
def execSwitchPoint (n : LaunchNo) (s : State) : Out :=
  match s.launch? n with
  | none => .next s
  | some l =>
    if !s.atSwitchPoint l then .next s else
    match s.atSwitch l with
    | none => .next (s.healthCancel n)
    | some (t, after) =>
      let first := l.urgentFrom.getD s.tick
      let t := t.updLaunch n fun l => { l with urgentFrom := none, mcpAt := some l.position }
      if s.needsFreeze l then .next (t.beginBoundary l first after) else
      let t := if l.urgentFrom.isSome then t.freezeRec n (2 ^ 4) first else t
      let t := t.afterBoundary n after
      .next (if s.phase = .waits then { t with todo := t.todo ++ t.entryDues.map Work.event } else t)

/-- Whether the launch stands at the end of a period instance (R51, R59). -/
def State.atBoundary (s : State) (l : Launch) : Bool :=
  !l.timeHeld s.tick && match l.set? with | some t => l.inPeriod == t.period | none => false

/-- INSTANCE_BOUNDARY (R51, R75). -/
def execInstanceBoundary (n : LaunchNo) (s : State) : Out :=
  match s.launch? n with
  | none => .next s
  | some l =>
    if !s.atBoundary l then .next s
    else if s.needsFreeze l then .next (s.beginBoundary l s.tick .nextInst)
    else .next (s.nextInstance n)

/-- Whether this tick is M (R75; under replay as recorded, R76). A halting freeze that covers M moves it to the next multiple of 32,768 (DESIGN CHOICE, log entry 63). -/
def State.boundaryOver (s : State) (l : Launch) : Bool :=
  match l.boundary with
  | none => false
  | some b => match s.recordedFreeze l.num 4 b.first with
    | some m => !l.frozen && l.susp.isNone && decide (m ≤ s.tick)
    | none => !l.frozen && l.susp.isNone && s.tick % 32768 == 0 && !s.outstanding l && (!b.wasBusy || decide (b.lastBusy + 24 ≤ s.tick))

/-- BOUNDARY_FREEZE_END (R75): the FREEZE record; then the next instance, the new set or the retirement takes effect. -/
def execBoundaryFreezeEnd (n : LaunchNo) (s : State) : Out :=
  match s.launch? n with
  | none => .next s
  | some l =>
    match l.boundary with
    | none => .next s
    | some b =>
      if !s.boundaryOver l then .next s else
      .next (((s.freezeRec n (2 ^ 4) b.first).updLaunch n fun l => { l with boundary := none }).afterBoundary n b.after)

/-- Whether the launch has no boundary freeze to remember or its outstanding work is noted (R75). -/
def State.noteBusy (s : State) (l : Launch) : State :=
  match l.boundary with
  | some _ => if s.outstanding l then s.updLaunch l.num fun l => { l with boundary := l.boundary.map fun b => { b with wasBusy := true, lastBusy := s.tick } } else s
  | none => s

/-! ### Halting freezes (R70 to R74) -/

/-- The causes that hold the launch in this tick (R71): from 24 ticks after they are raised to 24 ticks after they are resolved. -/
def Launch.active (l : Launch) (tick : Nat) : List Cause :=
  l.causes.filter fun c => decide (c.raised + 24 ≤ tick) && (match c.resolved with | some t => decide (tick < t + 24) | none => true)

def causeBits (cs : List Cause) : BitVec 8 := cs.foldl (fun b c => setBit b c.code) 0

/-- HALTING_FREEZE (R71): from this tick on every sequencer and engine of the rectangle is halted; a launch that is placed, from its origin tick on. -/
def execHaltingFreeze (n : LaunchNo) (s : State) : Out :=
  match s.launch? n with
  | none => .next s
  | some l =>
    if l.frozen || l.stage = .placed || (l.active s.tick).isEmpty then .next s
    else .next (s.updLaunch n fun l => { l with frozenFrom := some s.tick, seen := causeBits (l.active s.tick) })

/-- HALTING_FREEZE_END (R71, R73): the first unfrozen tick, with the FREEZE record. -/
def execHaltingFreezeEnd (n : LaunchNo) (s : State) : Out :=
  match s.launch? n with
  | none => .next s
  | some l =>
    match l.frozenFrom with
    | none => .next s
    | some first =>
      if !(l.active s.tick).isEmpty then .next s else
      .next ((s.freezeRec n l.seen.toNat first).updLaunch n fun l =>
        { l with frozenFrom := none, seen := 0, causes := l.causes.filter fun c => match c.resolved with | some t => decide (s.tick < t + 24) | none => true })

/-- The causes of a freeze that goes on are gathered (R73). -/
def Launch.noteCauses (l : Launch) (tick : Nat) : Launch := if l.frozen then { l with seen := l.seen ||| causeBits (l.active tick) } else l

/-- The two dies that a UCIe link joins (R468); none where it joins one to the hall die. -/
def linkDies : Nat → Option (Nat × Nat)
  | 0 => some (0, 1)
  | 1 => some (2, 3)
  | 2 => some (0, 2)
  | 3 => some (1, 3)
  | _ => none

/-- Whether a route of the launch's routing tables passes a link (R20, R70): a two-seam route crosses the x seam first. -/
def Launch.usesLink (l : Launch) (link : Nat) : Bool :=
  l.img.routes.any fun r =>
    let a := (coreDie (coreAt r.sx r.sy)).val
    if r.cls = 4 then link == 4 + a
    else
      let b := (coreDie (coreAt r.dx r.dy)).val
      let mid := a / 2 * 2 + b % 2
      let hop (x y : Nat) : Bool := x != y && (match linkDies link with | some (u, v) => (x == u && y == v) || (x == v && y == u) | none => false)
      hop a mid || hop mid b

/-- A retrain or spare-lane repair step (R39, R70, R468): a halting freeze of every launch with a route over the link, and the link's count. -/
def State.retrainStep (s : State) (link : Fin 8) (ticks : Nat) : State :=
  let s := { s with host := { s.host with retrain := s.host.retrain.set link (if s.host.retrain[link] = 0xFFFFFFFF then 0xFFFFFFFF else s.host.retrain[link] + 1) } }
  s.launches.foldl (fun s l =>
    if l.usesLink link then s.raiseCause l.num 2 (some (s.tick + min ticks 4096)) else s) s

/-- UCIE_RETRAIN_STEP (R39, R70). -/
def execUcieRetrainStep (link : Fin 8) (ticks : BitVec 13) (s : State) : Out := .next (s.retrainStep link ticks.toNat)

end Sys2Proof.Machine
end

