-- ==== Sys2Proof/Machine/Preempt.lean ====
section
/-! DEFINITION. Pre-emption (R77 to R85, R87), the urgent switch (R86), and what a suspension abandons and runs again (R477, R478). -/

namespace Sys2Proof.Machine

/-! ### Responses (R79) -/

inductive Response where
  | drain
  | checkpoint
  | kill
deriving DecidableEq, Repr

/-- The response to one activation: the first condition of R79 that holds; under an urgent switch none is checkpointed (R86). -/
def response (a : Activation) (rem tokens : Nat) (urgent : Bool) : Response :=
  if a.isFallback then (if rem ≤ 4096 then .drain else .kill)
  else if a.polD && rem ≤ 4096 then .drain
  else if !urgent && a.polC && 1 ≤ tokens then .checkpoint
  else .kill

/-- What is left to an activation (R79). -/
def Activation.left (a : Activation) (p : Nat) : Nat := if a.isFallback then a.fbDeadline - p else a.remain - a.ran

/-- The running activations of a rectangle, in ascending core index and sequencer number. -/
def State.activations (s : State) (l : Launch) : List (CoreIx × SeqIx × Activation) :=
  (allCores.filter fun c => l.cores.contains c && (s.core c).launch == l.num).flatMap fun c =>
    allSeqs.filterMap fun q => (s.seq c q).act.map fun a => (c, q, a)

/-- The responses to all of them, with the tokens left (R79). -/
def respond (p : Nat) (urgent : Bool) : List (CoreIx × SeqIx × Activation) → Nat → List (CoreIx × SeqIx × Activation × Response) × Nat
  | [], t => ([], t)
  | (c, q, a) :: rest, t =>
    let r := response a (a.left p) t urgent
    let (out, t') := respond p urgent rest (if r = .checkpoint then t - 1 else t)
    ((c, q, a, r) :: out, t')

/-- One response takes effect (R79, R80). -/
def State.applyResponse (s : State) (x : CoreIx × SeqIx × Activation × Response) : State :=
  let (c, q, a, r) := x
  match r with
  | .drain => s.updSeq c q fun y => { y with act := some { a with drain := true, drainLimit := min (s.tick + 4096) (if a.isFallback then a.fbDeadline else a.deadline) } }
  | .checkpoint => s.updSeq c q fun y => { y with act := some { a with halted := true } }
  | .kill => s.kill c q a

/-- A list in parts of n. -/
def chunks {α : Type} (n : Nat) : Nat → List α → List (List α)
  | 0, _ => []
  | _, [] => []
  | fuel + 1, l => l.take n :: chunks n fuel (l.drop n)

/-- The PREEMPT records of one victim (R79, R436). -/
def State.preemptRecs (s : State) (victim newcomer : LaunchNo) (tokens : Nat) (xs : List (CoreIx × SeqIx × Activation × Response)) : State :=
  let entry (x : CoreIx × SeqIx × Activation × Response) : Word :=
    let (c, q, a, r) := x
    let code := match r with | .drain => 0 | .checkpoint => 1 | .kill => 2
    w64 (c.val + q.val * 2 ^ 6 + code * 2 ^ 9 + b2n a.isFallback * 2 ^ 11 + min (a.left s.tick) 0xFFFFF * 2 ^ 12)
  let parts := match xs with | [] => [[]] | _ => chunks 28 64 xs
  parts.zipIdx.foldl (fun s e =>
    s.record { typ := 0x07, tick := s.tick, place := some (placeNoCore victim), trace := false,
               payload := w64 (newcomer.toNat + tokens % 256 * 2 ^ 16 + e.2 % 256 * 2 ^ 24 + e.1.length * 2 ^ 32) :: e.1.map entry }) s

/-! ### The pre-emption tick and the urgent switch -/

/-- The recorded pre-emption of a launch in this tick (R441). -/
def State.recordedPreempt (s : State) (n : LaunchNo) : List (List Word) :=
  (s.recorded 0x07).filter fun r => recLaunch r == n && recTick r == s.tick % 2 ^ 63 && bits (recWord r 3) 0 16 != 0

/-- Whether a chosen pre-emption takes effect in this tick; a replay injects it at its recorded tick. One whose tick falls in a halting freeze, a debug stop or a suspension
takes effect after it, and one whose tick falls in the drains of an urgent switch takes effect there: the drained activations are answered again (DESIGN CHOICE, log
entry 63). -/
def State.preemptNow (s : State) (l : Launch) : Bool :=
  l.stage == .running && !l.frozen && l.susp.isNone && !l.stopped s.tick &&
  match l.chosen with
  | some c => if s.tr.rpActive then !(s.recordedPreempt l.num).isEmpty else decide (c.at' ≤ s.tick)
  | none => false

/-- The response that a replay records for an activation (R441). -/
def State.replayed (s : State) (n : LaunchNo) (x : CoreIx × SeqIx × Activation × Response) : CoreIx × SeqIx × Activation × Response :=
  let (c, q, a, r) := x
  let words := (s.recordedPreempt n).flatMap fun r => (List.range (bits (recWord r 3) 32 5)).map fun k => recWord r (4 + k)
  match words.find? fun w => bits w 0 6 == c.val && bits w 6 3 == q.val with
  | some w => (c, q, a, if bits w 9 2 = 0 then .drain else if bits w 9 2 = 1 then .checkpoint else .kill)
  | none => (c, q, a, r)

/-- PREEMPTION (R79, R80, R478): at p each running activation of the victim gets its response, and the suspension begins. -/
def execPreemption (n : LaunchNo) (s : State) : Out :=
  match s.launch? n with
  | none => .next s
  | some l =>
    match l.chosen with
    | none => .next s
    | some ch =>
      if !s.preemptNow l then .next s else
      let (group, t) := match s.launch? ch.newcomer with | some k => (k.group, k.tokens) | none => (0, 0)
      let (xs, t') := respond s.tick false (s.activations l) t
      let xs := if s.tr.rpActive then xs.map (s.replayed n) else xs
      let s := s.preemptRecs n ch.newcomer t xs
      let s := l.cores.foldl (fun s c => s.updCtx c fun x =>
        { x with regions := x.regions.map RegionState.markSteps, matrix := x.matrix.markSteps, stoch := x.stoch.markSteps }) s
      let s := xs.foldl State.applyResponse s
      -- a stop requested in this tick is acted on at r (R458)
      let s := s.updLaunch n fun l => { l with chosen := none, susp := some ⟨s.tick, ch.newcomer, false, 0, none, false⟩,
                                               dstop := l.dstop.map fun d => if d.stopped.isNone && d.from' == s.tick + 1 then { d with from' := DebugStop.atResume } else d }
      .next ((s.setTokens group t').settleTokens group)

/-- Whether an urgent switch starts in this tick. -/
def State.urgentNow (s : State) (l : Launch) : Bool :=
  l.stage == .running && !l.frozen && l.susp.isNone && l.urgentFrom.isNone && !l.stopped s.tick &&
  (match l.urgentAt with | some t => decide (t ≤ s.tick) | none => false) &&
  (match l.boundary with | some b => b.after != .retire | none => true)

/-- URGENT_SWITCH (R86): every running activation is drained or killed; launch time holds from this tick. In a boundary freeze nothing runs, and this
tick is the switch point. -/
def execUrgentSwitch (n : LaunchNo) (s : State) : Out :=
  match s.launch? n with
  | none => .next s
  | some l =>
    if !s.urgentNow l then .next s else
    let (xs, _) := respond s.tick true (s.activations l) 0
    let s := s.preemptRecs n 0 0 xs
    let s := xs.foldl State.applyResponse s
    match l.boundary with
    | some b =>
      (match s.atSwitch { l with urgentFrom := some s.tick } with
      | none => .next (s.healthCancel n)
      | some (t, after) => .next (t.updLaunch n fun l =>
          { l with urgentAt := none, boundary := some { b with after := if after = .resume then b.after else after } }))
    | none => .next (s.updLaunch n fun l => { l with urgentAt := none, urgentFrom := some s.tick })

/-- DRAIN_KILL (R80, R86): a drained activation that has not committed by its limit is killed; one that would commit in that very tick is killed before the
tick's commits, and one whose limit falls within a halting freeze in the first unfrozen tick (DESIGN CHOICE, log entry 56). -/
def execDrainKill (c : CoreIx) (q : SeqIx) (s : State) : Out :=
  match (s.seq c q).act with
  | some a => if a.drain && s.seqRuns c q && decide (a.drainLimit ≤ s.tick) then .next (s.kill c q a) else .next s
  | none => .next s

def State.drainDues (s : State) : List Instr :=
  allCores.flatMap fun c => allSeqs.flatMap fun q =>
    match (s.seq c q).act with
    | some a => if a.drain && s.seqRuns c q && decide (a.drainLimit ≤ s.tick) then [.drainKill c q] else []
    | none => []

/-! ### The Attic (R81, R82) -/

/-- Whether a core of a suspended launch starts its swap-out in this tick: its last drained activation has ended (R81). -/
def State.swapDue (s : State) (c : CoreIx) : Bool :=
  match s.coreLaunch? c with
  | none => false
  | some l =>
    (match l.susp with | some p => decide (p.at' ≤ s.tick) && !p.restoring | none => false) && l.stage == .running && (s.core c).swap.isNone &&
    !(allSeqs.any fun q => match (s.seq c q).act with | some a => a.drain | none => false)

/-- SWAP_OUT (R81, R87, R278, R478): the core's mailbox is emptied, the pieces under way of its copies end, the steps under way are abandoned, with nothing that they wrote
left standing, and the swap takes 3,800 ticks. -/
def execSwapOut (c : CoreIx) (s : State) : Out :=
  if !s.swapDue c then .next s else
  .next ((((s.dropCut c).endPieces c).undoLoad c).updCore c fun k => { k with swap := some (true, 3800), mailHead := 0, mailLen := 0, mailboxFull := false, ctx :=
    { k.ctx with regions := k.ctx.regions.map RegionState.abandonSteps, matrix := k.ctx.matrix.abandonSteps, stoch := k.ctx.stoch.abandonSteps } })

/-- The pinned tiles that are saved (R82): every pinned tile of the slice but those marked re-derivable. -/
def State.savedTiles (s : State) (c : CoreIx) : List (Nat × List Byte) :=
  ((List.finRange 32).filter fun t => let o := (s.ctx c).matrix.owners[t]; o.pin && !o.vder).map fun t => (t.val, readBytes (s.core c).cbuf (t.val * 16384) 16384)

/-- SWAP_OUT_END (R81): the context is in the Attic, and the core is free to the newcomer. -/
def execSwapOutEnd (c : CoreIx) (s : State) : Out :=
  if (s.core c).swap ≠ some (true, 0) then .next s else
  let n := (s.core c).launch
  let a : Attic := { launch := n, ctx := s.ctx c, tilesSaved := s.savedTiles c }
  let s := s.updCore c fun k => { k with swap := none, launch := 0, attic := some a, ctx := .init }
  let out := match s.launch? n with | some l => l.cores.all fun d => (s.core d).launch != n | none => false
  .next (if out then s.updLaunch n fun l => { l with stage := .suspended } else s)

/-- Whether every core of a launch is free (R29). -/
def State.coresFree (s : State) (l : Launch) : Bool := l.cores.all fun c => (s.core c).launch == 0 && (s.core c).swap.isNone

/-- A launch's origin tick: under replay the recorded one (R441). -/
def State.recordedOrigin (s : State) (n : LaunchNo) (t : Nat) : Nat :=
  match (s.recorded 0x01).find? fun r => recLaunch r == n with | some r => recWord r 4 | none => t

/-- Whether a launch is of a subtree. -/
def State.inGroup (s : State) (group n : LaunchNo) : Bool := s.launches.any fun k => k.num == n && k.group == group

/-- Whether every core of a subtree is free to it (R29): those it is placed on, and every core of every victim it displaces (R81). -/
def State.groupFree (s : State) (group : LaunchNo) : Bool :=
  (s.launches.all fun k => k.group != group || k.stage != .placed || s.coresFree k) &&
  s.launches.all fun v => !(v.chosen.any fun c => s.inGroup group c.newcomer) && !(v.susp.any fun p => s.inGroup group p.newcomer && v.stage != .suspended)

/-- Launches of the same source that reached the scheduling core before a subtree and have not started (R138, R414). -/
def State.aheadOf (s : State) (src : Source) (serial : Nat) : List Launch :=
  s.launches.filter fun k => k.source == src && decide (k.serial < serial) && k.stage == .placed && k.cls.isNone

/-- An origin tick for a launch of a queue: no earlier than those of the launches before it; 0, not yet known, while one of those is not (R138, R414). -/
def State.queueOrigin (s : State) (src : Source) (serial t : Nat) : Nat :=
  let a := s.aheadOf src serial
  if a.any fun k => k.origin == 0 then 0 else a.foldl (fun m k => max m k.origin) t

/-- Newcomers whose cores have all become free take the first multiple of 32,768 after this tick as their origin tick, all of a subtree alike (R29), in queue
order (R138). -/
def State.settleOrigins (s : State) : State :=
  { s with launches := s.launches.map fun l =>
      if l.stage = .placed && l.cls.isNone && l.origin = 0 && s.groupFree l.group
      then { l with origin := s.recordedOrigin l.num (s.queueOrigin l.source l.serial ((s.tick / 32768 + 1) * 32768)) } else l }

/-! ### Restore (R83, R87, R477, R478) -/

/-- Whether restore can start: every core of the victim stands in its Attic and no other launch holds it (R83). -/
def State.restoreDue (s : State) (l : Launch) : Bool :=
  l.stage == .suspended && (match l.susp with | some p => !p.restoring | none => false) &&
  (l.cores.all fun c => (s.core c).launch == 0 && (s.core c).attic.map Attic.launch == some l.num) &&
  !(s.launches.any fun k => k.num != l.num && k.cls.isNone && k.stage != .suspended && k.cores.any fun c => l.cores.contains c)

/-- The loader writes block stores and LSID records again where another launch has written them, and the swap-in of 3,800 ticks begins (R83). -/
def State.beginSwapIn (s : State) (l : Launch) : State :=
  l.cores.foldl (fun s c => s.updCore c fun k =>
    let k := if k.storeOwner = l.num then k else { k with blockStore := memOf 0 (l.img.blocks.getD (l.pos c) []), lsids := l.img.lsids, storeOwner := l.num }
    { k with swap := some (false, 3800) }) s

/-- RESTORE (R83): the loader starts, taking a number of ticks that the manual leaves open where it has something to write (DESIGN CHOICE, log entry 11), under replay none, since r is recorded (R76); the image's
digest is measured again. -/
def execRestore (n : LaunchNo) (s : State) : Out :=
  match s.launch? n with
  | none => .next s
  | some l =>
    if !s.restoreDue l then .next s else
    let load := l.cores.any fun c => (s.core c).storeOwner != n
    let wait := if load && !s.tr.rpActive then Config.openDelay s.fresh else 0
    let bad := load && sha384 ((List.range l.img.extent.length).map fun o => BitVec.ofNat 8 (s.reader (l.imgAddr + o) 1)) != l.digest
    let s := { s with fresh := s.fresh + b2n (load && !s.tr.rpActive) }
    let s := s.updLaunch n fun l => { l with susp := l.susp.map fun p => { p with restoring := true, loadLeft := wait, badImage := bad } }
    .next (if wait = 0 then s.beginSwapIn l else s)

/-- The context as a swap-in brings it back (R81 to R83, R360): the translation caches refilled from the preload list, open chains dropped, unsaved tiles
and their token counters 0. -/
def State.swapIn (s : State) (l : Launch) (c : CoreIx) : State :=
  match (s.core c).attic with
  | none => s
  | some a =>
    let m := a.ctx.matrix.dropChains
    let owners := m.owners.map fun o => if o.pin && o.vder then { o with tokens := 0 } else o
    let x := { a.ctx with matrix := { m with owners }, chans := a.ctx.chans.mapIdx fun i y => { y with cache := s.preloaded l c ⟨i % 4, Nat.mod_lt _ (by decide)⟩ } }
    let g := l.grant c
    let s := s.updCore c fun k =>
      let cleared := sparseClear k.cbuf (g.cBase * 16384) (16384 * 2 ^ l.img.clog)
      { k with launch := l.num, swap := none, attic := none, ctx := x,
               cbuf := a.tilesSaved.foldl (fun b t => if g.cBase ≤ t.1 && t.1 < g.cBase + 2 ^ l.img.clog then writeBytes b (t.1 * 16384) t.2 else b) cleared }
    let s := s.softRead (s.placeCore l.num c 7) none 6 c 0 (2 ^ 20)
    if s.hardError 6 c 0 (2 ^ 20) then s.healthCancel l.num else s

/-- The ticks of each unit's abandoned step that had passed at p (R478). -/
def CoreCtx.stepTicks (x : CoreCtx) : List (StepUnit × Nat) :=
  ((List.finRange 4).filterMap fun r => x.regions[r].port.bind fun j => j.redo.map fun e => (StepUnit.port r, e)) ++
  (match x.matrix.compute with | some r => (match r.redo with | some e => [(StepUnit.matrixCompute, e)] | none => []) | none => []) ++
  (match x.matrix.load with | some r => (match r.redo with | some e => [(StepUnit.matrixLoad, e)] | none => []) | none => []) ++
  [SsUnit.logic, .gen, .xfer].flatMap fun u => (x.stoch.unit u).filterMap fun r => r.redo.map fun e => (StepUnit.stoch u, e)

/-- The longest of them over the rectangle. -/
def State.maxStep (s : State) (l : Launch) : Nat := l.cores.foldl (fun m c => ((s.ctx c).stepTicks.foldl (fun m e => max m e.2) m)) 0

/-- The first tick from t on that lies a multiple of 32,768 after p. -/
def nextTurn (p t : Nat) : Nat := t + (32768 - (t - p) % 32768) % 32768

/-- Restore as it goes on (R83, R87): the swap-in once the loader has ended, the contexts back, one mailbox entry a tick, then the resume tick. -/
def State.restoreTick (s : State) (n : LaunchNo) : State :=
  match s.launch? n with
  | none => s
  | some l =>
    match l.susp with
    | none => s
    | some p =>
      if !p.restoring then s
      else if l.cores.any fun c => (s.core c).launch == 0 then
        if p.loadLeft ≠ 0 then s
        else if l.cores.all fun c => (s.core c).swap.isNone then s.beginSwapIn l
        else if l.cores.all fun c => (s.core c).swap == some (false, 0) then l.cores.foldl (fun s c => s.swapIn l c) s else s
      else s

/-- The mailbox replay of a restored launch, and its resume tick once every mailbox is empty (R83, R87). -/
def State.replayTick (s : State) (n : LaunchNo) : State :=
  match s.launch? n with
  | none => s
  | some l =>
    match l.susp with
    | none => s
    | some p =>
      if !p.restoring || p.resume.isSome || (l.cores.any fun c => (s.core c).launch != n) then s
      else if l.cores.any fun c => (s.core c).mailLen != 0 then l.cores.foldl State.replayArrival s
      else
        let r := nextTurn p.at' (s.tick + s.maxStep l)
        -- under replay the recorded one (R76, R441)
        let r := match s.recordedFreeze n 3 p.at' with | some m => if s.tick + s.maxStep l ≤ m && s.tick < m then m else r | none => r
        s.updLaunch n fun l => { l with susp := some { p with resume := some r } }

/-- Whether a unit's abandoned step restarts in this tick (R478). -/
def State.restartDues (s : State) : List Instr :=
  s.launches.flatMap fun l =>
    match l.susp.bind (·.resume) with
    | none => []
    | some r => l.cores.flatMap fun c => ((s.ctx c).stepTicks.filter fun e => decide (0 < e.2) && s.tick + e.2 == r).map fun e => .engineStepRestart c e.1

/-- Commands of a unit run again from their first tick: their sources are read as at a start, with what the reads meet (R121, R392, R478). -/
def State.rerunStoch (s : State) (c : CoreIx) (u : SsUnit) (rerun : Bool) (sel : SsRun → Bool) : State :=
  ((s.ctx c).stoch.unit u).foldl (fun s k =>
    if !(sel k && ((s.ctx c).stoch.unit u).contains k) then s else
    match s.ssUncorr c k.cmd with
    | some f => (s.updStoch c fun x => x.setUnit u ((x.unit u).filter fun y => y != k)).ssFault c k.cmd f
    | none => ((s.ssSoft c k.cmd).ssTouch c k.cmd).updStoch c fun x =>
        x.setUnit u ((x.unit u).map fun y => if y = k then { s.ssRun c k.cmd with redo := k.redo, rerun } else y)) s

/-- ENGINE_STEP_RESTART (R478): the step is run again from its first tick, reading the restored state. -/
def execEngineStepRestart (c : CoreIx) (u : StepUnit) (s : State) : Out :=
  match (s.coreLaunch? c).bind fun l => l.susp.bind (·.resume) with
  | none => .next s
  | some r =>
    let e := r - s.tick
    match u with
    | .matrixCompute => .next (s.updMatrix c fun m => { m with compute := m.compute.map fun k => if k.redo = some e then { k with rerun := true } else k })
    | .matrixLoad => .next (s.updMatrix c fun m => { m with load := m.load.map fun k => if k.redo = some e then { k with rerun := true } else k })
    | .stoch u => .next (s.rerunStoch c u true fun k => k.redo == some e && !k.rerun)
    | .port g => .next (s.updRegion c g fun x => if x.port.bind (·.redo) = some e then x.restartStep else x)

/-- A waiting instruction of a restored block at r (R477). -/
def State.resumeWait (s : State) (c : CoreIx) (w : Waiting) : Waiting :=
  match w.kind with
  | .waitw p a e r true woken => { w with kind := .waitw p a e r true (woken || s.watched c p a != e) }
  | .bwait u p _ woken => { w with kind := .bwait u p false woken }
  | _ => w

/-- A sequencer of a restored core at r, d ticks after p (R52, R83). -/
def SeqState.resume (d : Nat) (waits : Waiting → Waiting) (x : SeqState) : SeqState :=
  { x with act := x.act.map fun a => { a with halted := false, deadline := a.deadline + d, fbDeadline := a.fbDeadline + d }
           run := x.run.map fun r => { r with waits := r.waits.map waits } }

/-- A copy channel of a restored core at r: the next piece takes the first recurrence of its slot that follows r (R278), and the walk's served tick comes d ticks later than
it would have (R478). -/
def State.resumeChan (s : State) (c : CoreIx) (d : Nat) (x : CopyChan) : CopyChan :=
  { x with run := x.run.map fun r => { r with slot0 := match s.copyResv c r.desc with
             | some v => if r.next < r.pieces.length then nextWheel (64 * v.slot r.next) s.tick else r.slot0 + d
             | none => r.slot0 + d },
           walk := x.walk.map fun w => { w with served := w.served.map fun t => (t.1 + d, t.2) } }

/-- The banks that the atomic slots of a restored context hold, with the ticks left (R133, R297, R325). -/
def CoreCtx.slotHolds (x : CoreCtx) : List (Nat × Nat) :=
  (x.amos.filter fun a => !a.done).map (fun a => (bankOf a.addr, a.left + 1)) ++
  x.regions.toList.flatMap fun g => (g.flights.filter fun f => f.what == 2).flatMap fun f => (List.range 4).map fun b => (bankOf (f.dst + 16 * b), f.left)

/-- A core at r. Stochastic commands that no restart has computed again are, since they run from their first tick. -/
def State.resumeCore (s : State) (d : Nat) (c : CoreIx) : State :=
  let s' := (s.updCore c fun k => { k with bankHolds := k.bankHolds ++ k.ctx.slotHolds }).updCtx c fun x =>
    { x with seqs := x.seqs.map (SeqState.resume d (s.resumeWait c)), chans := x.chans.map (s.resumeChan c d), regions := x.regions.map RegionState.resumeSteps,
             matrix := x.matrix.resumeSteps }
  (([SsUnit.logic, .gen, .xfer].foldl (fun s u => s.rerunStoch c u false fun k => !k.rerun) s').updStoch c StochState.resumeSteps)

/-- LAUNCH_RESUME (R83, R85): launch time runs again from r; a full mailbox or an altered image cancels the fault domain (R83, R87). -/
def execLaunchResume (n : LaunchNo) (s : State) : Out :=
  match s.launch? n with
  | none => .next s
  | some l =>
    match l.susp with
    | none => .next s
    | some p =>
      if p.resume ≠ some s.tick then .next s else
      let s := s.freezeRec n (2 ^ 3) p.at'
      if p.badImage || l.cores.any (fun c => (s.core c).mailboxFull) then .next (s.healthCancel n) else
      let d := s.tick - p.at'
      let s := l.cores.foldl (fun s c => s.resumeCore d c) s
      .next { s with launches := s.launches.map fun k =>
        if k.num = n then { k with susp := none, stage := .running, instTick := k.instTick + d,
                                   dstop := k.dstop.map fun x => if x.stopped.isNone then { x with from' := s.tick + 1 } else x }
        else match k.window with
          | some w => if w.host = n then { k with instTick := k.instTick + d, window := some { w with deadline := w.deadline + d } } else k
          | none => k }

end Sys2Proof.Machine
end

