-- ==== Sys2Proof/Machine/Placement.lean ====
section
/-! DEFINITION. Placement (R25, R28, R29, R33 to R36, R77, R78, R94, R98, R264, R269, R415, R419). Which of several free slices is granted, and how many ticks the check takes, the manual leaves open (DESIGN CHOICE, log entries 11 and 18). -/

namespace Sys2Proof.Machine

/-! ### Origins (R33, R34) -/

/-- The cores of a rectangle at an origin. -/
def rectCores (i : Image) (ox oy : Nat) : List CoreIx :=
  (List.range (i.width * i.height)).map fun k => coreAt (ox + k % i.width) (oy + k / i.width)

/-- Working modules of a link (R33, R39); none when the link is lost. -/
def State.linkWidth (s : State) (link : Fin 8) : Nat := if s.health.linkLost.getLsbD link then 0 else s.health.modules[link].val

/-- The first two parts of R33 and its last: where the seams fall, and the width of the links they cross. -/
def State.originFits (s : State) (i : Image) (ox oy : Nat) : Bool :=
  let lowX := decide (ox + i.width ≤ 4)
  let lowY := decide (oy + i.height ≤ 4)
  decide (ox + i.width ≤ 8) && decide (oy + i.height ≤ 8) &&
  (if i.sx = 0 then lowX || decide (4 ≤ ox) else ox + i.sx == 4) && (if i.sy = 0 then lowY || decide (4 ≤ oy) else oy + i.sy == 4) &&
  (i.sx == 0 || ((i.sy == 0 && !lowY) || decide (i.xmin ≤ s.linkWidth 0)) && ((i.sy == 0 && lowY) || decide (i.xmin ≤ s.linkWidth 1))) &&
  (i.sy == 0 || ((i.sx == 0 && !lowX) || decide (i.ymin ≤ s.linkWidth 2)) && ((i.sx == 0 && lowX) || decide (i.ymin ≤ s.linkWidth 3))) &&
  (rectCores i ox oy).all fun c => !(s.health.defective ||| s.health.marked).getLsbD c

/-- Every origin in the order of R34. -/
def origins : List (Nat × Nat) := (List.range 64).map fun k => (k % 8, k / 8)

/-- Whether a launch occupies a core that a newcomer asks for. -/
def Launch.occupies (l : Launch) (c : CoreIx) : Bool := l.cls.isNone && l.cores.contains c

/-- Whether every core of a rectangle is free, the cores of some launches being counted as free (R33, R77). -/
def State.rectFree (s : State) (i : Image) (ox oy : Nat) (asFree : Launch → Bool) : Bool :=
  (rectCores i ox oy).all fun c => !(s.launches.any fun l => l.occupies c && !asFree l)

/-! ### Slices and partitions (R94, R98) -/

/-- The lowest aligned base of a size at which no occupied span (base, size) stands. -/
def lowestFree (total size : Nat) (occupied : List (Nat × Nat)) : Option Nat :=
  ((List.range (total / size)).map (· * size)).find? fun b => !(occupied.any fun o => meets (b, size) o)

/-- The slices of a core for an image, beside those that other launches hold there (R78, R94). -/
def State.grantCore (s : State) (i : Image) (c : CoreIx) : Option Grant := do
  let held := s.launches.filter fun l => l.occupies c
  let a ← lowestFree (2 ^ 22) (2 ^ i.alog) (held.map fun l => ((l.grant c).aBase, 2 ^ l.img.alog))
  let w ← lowestFree (2 ^ 24) (2 ^ i.wlog) (held.map fun l => ((l.grant c).wBase, 2 ^ l.img.wlog))
  let t ← lowestFree 32 (2 ^ i.clog) (held.map fun l => ((l.grant c).cBase, 2 ^ l.img.clog))
  pure ⟨a, w, t⟩

/-- The partitions of a die that launches hold. -/
def State.partsHeld (s : State) (d : Nat) : List (Nat × Nat) :=
  s.launches.flatMap fun l => (l.quadBase.filter fun b => b.1 == d).map (fun b => (b.2, 2 ^ l.img.plog)) ++ (l.replBase.filter fun b => b.1 == d).map fun b => (b.2, 2 ^ l.img.rplog)

/-- Partitions for a slice on each of some dies (R98). -/
def State.grantParts (s : State) (log : Nat) (dies : List Nat) (taken : List (Nat × Nat × Nat)) : Option (List (Nat × Nat)) :=
  if log = 7 then some [] else
  dies.mapM fun d => (lowestFree 64 (2 ^ log) (s.partsHeld d ++ (taken.filter fun t => t.1 == d).map fun t => t.2)).map fun b => (d, b)

/-! ### Placing one launch -/

/-- The next launch number (R415): 0 and the numbers still held are skipped. -/
def State.freeNumber (s : State) : Nat → LaunchNo → LaunchNo
  | 0, n => n
  | fuel + 1, n => if n = 0 || s.launches.any (fun l => l.num == n) then s.freeNumber fuel (n + 1) else n

/-- The number that a launch of an RCB takes (R415): the next one; under replay the one of the next recorded PLACE record of that RCB that no launch has taken yet. -/
def State.numberFor (s : State) (rcb : BitVec 16) : LaunchNo :=
  let given (n : Nat) : Bool := s.launches.any (fun l => l.num.toNat == n) ||
    s.tr.buffer.any fun r => r.typ == 0x0C && (match r.payload with | w :: _ => bits w.toNat 0 16 == n | [] => false)
  match (s.recordsLeft 0x0C).find? fun r => bits (recWord r 2) 16 16 == rcb.toNat && !given (bits (recWord r 2) 0 16) with
  | some r => BitVec.ofNat 16 (recWord r 2)
  | none => s.freeNumber 65536 s.fe.nextLaunch

/-- The image at an address (R418); none where it is not well formed or cannot be read (R108, R121, R416). -/
def State.imageAt (s : State) (a : Nat) : Option Image :=
  if !s.readable a 128 then none else
  match readImage s.reader a with
  | some i => if s.readable a i.extent.length then some i else none
  | none => none

/-- The image of a launch. -/
def State.imageOf (s : State) (sp : Spec) : Option Image := s.imageAt (sp.rcb.image.toNat % 2 ^ 56)

/-- The slots of UCIe links that an image asks for at an origin (R469): none where no route of it leaves its die. -/
def Image.linkSlots (i : Image) (ox oy : Nat) : List Nat := if i.routes.all fun r => decide (r.cls ≤ 1) then [] else Config.linkGrants i.extent ox oy

/-- The first table set (R53): mode 0, the channels in service, the lowest level at or above the one the health core asks for. -/
def Image.firstSet (i : Image) (mask : BitVec 32) (level : Nat) : Option Nat :=
  (List.range 4).findSome? fun v => if v < level then none else
    i.sets.findIdx? fun t => t.mode == 0 && t.level.toNat == v && t.chmask == mask

/-- The image with its routes, slot reservations and ranges rewritten for an origin (R35, R197, R419). -/
def Image.placed (i : Image) (ox oy : Nat) : Image :=
  let die (q : Nat) : Nat :=
    (coreDie (coreAt (ox + if i.sx ≠ 0 && q % 2 == 1 then i.sx else 0) (oy + if i.sy ≠ 0 && q / 2 % 2 == 1 then i.sy else 0))).val
  -- the die field of a valid range entry in LPDDR 6 names an image quadrant (R197)
  let ranges := i.ranges.map fun (e : RangeEntry) => if e.valid && !e.offset.getLsbD 55 then
    { e with offset := BitVec.ofNat 56 (e.offset.toNat - bits e.offset.toNat 35 2 * 2 ^ 35 + die (bits e.offset.toNat 35 2) * 2 ^ 35) } else e
  { i with ranges, routes := i.routes.map fun r => { r with sx := r.sx + ox, sy := r.sy + oy, dx := r.dx + ox, dy := r.dy + oy },
           sets := i.sets.map fun t => { t with resv := t.resv.map fun r => { r with die := die r.die } } }

/-- The DRAM slots that a launch reserves (R269): the union over its table sets. -/
def Image.slots (i : Image) : List Nat := i.sets.flatMap fun t => slotKeys t.resv

/-- What comes of trying to place one launch. -/
inductive Try where
  | placed (s : State)
  | waits
  | refused (r : Option Report)

/-- Whether a launch may be displaced by a newcomer of a priority and group (R77): one that an earlier launch of the group has chosen, for its other cores too. -/
def Launch.lower (l : Launch) (mine : LaunchNo → Bool) (priority : Nat) (group : LaunchNo) : Bool :=
  l.stage == .running && l.cls.isNone && l.susp.isNone && l.chosen.all (fun c => mine c.newcomer) && decide (l.priority < priority) && l.group != group

/-- In the bench state the race check can be set to report, and the launch loads all the same (R131). -/
def State.reportsRaces (s : State) : Bool := s.bench && s.host.reportRaces

/-- The rewritten image passes the checks that depend on the origin, on schedules and on races (R28, R58, R115, R131, R269); a part that the windows leave open is a free
verdict (DESIGN CHOICE, log entry 10). -/
def State.admitted (s : State) (i : Image) (ptroot : Nat) : Bool :=
  (i.sets.all fun t => t.resv.all fun r => t.chmask.getLsbD (8 * r.die + r.chan)) && i.checked i.sets && i.schedule.passes (Config.scheduleAdmitted i.extent) &&
  (i.races.passes (Config.raceFree i.extent) || s.reportsRaces) &&
  i.preload.all fun p =>
    match s.walkAll (fun n => s.health.fenced.getLsbD n) p.va.toNat 3 ptroot 1 with | .ok _ => true | .error _ => false

/-- One launch placed at an origin, with its victims chosen (R33 to R36, R77, R94, R98, R264, R269, R415, R469); none where something it needs is held. -/
def State.placeAt (s : State) (w : Waiting') (sp : Spec) (img : Image) (setIx : Nat) (group : Option LaunchNo) (o : Nat × Nat) (victims : List LaunchNo) :
    Try :=
  let num := s.numberFor sp.rcb.id
  let group := group.getD num
  let ptroot := Config.pageRoot num.toNat % 2 ^ 22 * 2 ^ 15
  let i := img.placed o.1 o.2
  let dies := (i.quads.map fun q => (coreDie (coreAt (o.1 + if q % 2 = 1 then i.sx else 0) (o.2 + if q / 2 = 1 then i.sy else 0))).val)
  let lanes := ((List.finRange 2).filter fun n => s.fe.hasherBusy[n].isNone).take i.hlanes
  match (rectCores i o.1 o.2).mapM (s.grantCore i), s.grantParts i.plog dies [] with
  | some grants, some quadBase =>
    match s.grantParts i.rplog dies (if i.plog = 7 then [] else quadBase.map fun b => (b.1, b.2, 2 ^ i.plog)) with
    | none => .waits
    | some replBase =>
      let links := img.linkSlots o.1 o.2
      if lanes.length < i.hlanes || i.slots.any (fun k => s.fe.slotsHeld.any fun h => h.1 == k) || links.any (fun k => s.fe.linkSlots.any fun h => h.1 == k) then .waits
      else if !s.admitted i ptroot then .refused ((i.badBlock i.sets).map fun b => .block (b.1 % i.width) (b.1 / i.width) b.2.1 b.2.2)
      else
        let l : Launch :=
          { num, rcbId := sp.rcb.id, rcbAddr := sp.rcb.addr, path := sp.path, fdom := sp.fdom, priority := sp.priority, source := w.source, tag := w.tag,
            graphGen := false, packet := w.packet, serial := w.serial, img := i, imgAddr := sp.rcb.image.toNat % 2 ^ 56, digest := sha384 i.extent,
            stage := .placed, ox := o.1, oy := o.2, grants, quadBase, replBase, ptroot, sidebase := Config.sideBase num.toNat % 2 ^ 34 * 8, lanes,
            origin := 0, ltime := 0, setIx, setStart := 0, inst := 0, instTick := 0, pendMode := none, pendLevel := none, causes := [],
            frozenFrom := none, seen := 0, boundary := none, urgentAt := none, urgentFrom := none, chosen := none, susp := none, dstop := none,
            displaced := false, window := none, cls := none, pendingFrom := 0, chmaskNew := false, mcpAt := none, group, tokens := w.tokens, stepped := [], modeWas := 0, displacedWas := false }
        let s := { s with
          launches := (s.launches.map fun (v : Launch) => if victims.contains v.num && v.chosen.isNone then { v with chosen := some ⟨s.tick + 24, num⟩ } else v) ++ [l],
          fe := { s.fe with nextLaunch := num + 1, slotsHeld := s.fe.slotsHeld ++ (i.slots.eraseDups.map fun k => (k, num)),
                            linkSlots := s.fe.linkSlots ++ links.map fun k => (k, num),
                            hasherBusy := lanes.foldl (fun (h : Vector (Option LaunchNo) 2) (n : Fin 2) => h.set n (some num)) s.fe.hasherBusy,
                            reports := s.fe.reports ++ if i.races.passes (Config.raceFree i.extent) then [] else [Report.races num (i.raceList.map Prod.snd)] } }
        .placed (s.record { typ := 0x0C, tick := s.tick, place := none, trace := false,
                            payload := [w64 (num.toNat + sp.rcb.id.toNat * 2 ^ 16 + i.width * 2 ^ 32 + i.height * 2 ^ 36 + i.sx * 2 ^ 40 + i.sy * 2 ^ 43 +
                                             o.1 * 2 ^ 46 + o.2 * 2 ^ 49)] })
  | _, _ => .waits

/-- Whether R78 lets a victim be displaced. -/
def State.displaceable (s : State) (l : Launch) : Bool :=
  !(l.cores.any fun c => (s.core c).attic.isSome) && l.urgentFrom.isNone && l.boundary.isNone

/-- The origin that a replay records for a launch number (R36, R441). -/
def State.recordedPlace (s : State) (n : LaunchNo) : Option (Nat × Nat) :=
  ((s.recorded 0x0C).find? fun r => bits (recWord r 2) 0 16 == n.toNat).map fun r => (bits (recWord r 2) 46 3, bits (recWord r 2) 49 3)

/-- Whether a launch is refused for itself, whatever else runs: its image cannot be read, is one of a generated launch, has no first table set, or fits no origin
of an empty module (R28, R34, R53). -/
def State.hopeless (s : State) (sp : Spec) : Bool :=
  match s.imageOf sp with
  | none => true
  | some img => img.sporadic || (img.firstSet s.chmask s.host.level.toNat).isNone || !(origins.any fun o => s.originFits img o.1 o.2)

/-- The throttle level that a launch starts with: under replay that of its LAUNCH record (R53). -/
def State.startLevel (s : State) (n : LaunchNo) : Nat :=
  match (s.recorded 0x01).find? fun r => recLaunch r == n with
  | some r => bits (recWord r 3) 59 2
  | none => s.host.level.toNat

/-- One launch of a subtree: refused, held back, or placed at the first valid origin, or by displacement where its packet carries tokens (R34, R77, R78). -/
def State.placeOne (s : State) (w : Waiting') (sp : Spec) (group : Option LaunchNo) : Try :=
  match s.imageOf sp with
  | none => .refused none
  | some img =>
    if img.sporadic then .refused none else
    match img.firstSet s.chmask (s.startLevel (s.numberFor sp.rcb.id)) with
    | none => .refused none
    | some setIx =>
      let possible : List (Nat × Nat) := (match s.recordedPlace (s.numberFor sp.rcb.id) with | some o => [o] | none => origins).filter fun o => s.originFits img o.1 o.2
      if possible.isEmpty then .refused none
      else if !budgetsHold (s.usesNow ++ [(sp.path, img.uses)]) then .waits
      else match possible.find? fun o => s.rectFree img o.1 o.2 fun _ => false with
        | some o => s.placeAt w sp img setIx group o []
        | none =>
          if w.tokens = 0 then .waits else
          let mine (n : LaunchNo) : Bool := s.launches.any fun k => k.num == n && some k.group == group
          let lower (l : Launch) : Bool := l.lower mine sp.priority (group.getD 0)
          match possible.find? fun o => s.rectFree img o.1 o.2 lower with
          | none => .waits
          | some o =>
            let victims := s.launches.filter fun l => lower l && (rectCores img o.1 o.2).any l.occupies
            if victims.all s.displaceable then s.placeAt w sp img setIx group o (victims.map (·.num)) else .waits

/-- The launches of a subtree in pre-order, all or none (R27). -/
def placeAll (w : Waiting') : List Spec → Option LaunchNo → State → Try
  | [], _, s => .placed s
  | sp :: rest, group, s =>
    match s.placeOne w sp group with
    | .placed s' => placeAll w rest (some (group.getD (match s'.launches.getLast? with | some l => l.num | none => 0))) s'
    | .waits => if rest.any s.hopeless then .refused none else .waits
    | .refused r => .refused r

/-- Whether the subtree's own launches exceed a budget with no other launch running (R25). -/
def State.exceedsAlone (s : State) (specs : List Spec) : Bool :=
  let uses := specs.filterMap fun sp => (s.imageOf sp).map fun i => (sp.path, i.uses)
  !budgetsHold uses

/-- One packet with the scheduling core (R27 to R29, R34, R399): placed, held back, or refused. After a thermal trip no die can run a launch (R475). -/
def State.placePacket (s : State) (w : Waiting') : Try :=
  match w.specs with
  | none => .refused (w.offender.map .rcb)
  | some specs =>
    let primax := match w.source with | .queue q => s.fe.queues[q].primax.toNat | .graph _ => 255
    if s.host.tripped then .waits else if primax < w.priority || s.exceedsAlone specs then .refused none else placeAll w specs none s

/-- The launches of a packet just placed: their origin tick where no victim stands in the way, their serial numbers in the issuing queue, and the tokens that
no displacement will use back in the pool (R29, R399). -/
def State.settlePlaced (s : State) (w : Waiting') (old : List LaunchNo) : State :=
  let new := s.launches.filter fun l => !old.contains l.num
  let displaces := s.launches.any fun l => match l.chosen with | some c => new.any fun k => k.num == c.newcomer | none => false
  let origin := ((s.tick + Config.openDelay s.fresh) / 32768 + 1) * 32768
  let s := { s with fresh := s.fresh + 1,
                    launches := s.launches.map fun (l : Launch) => if new.any (fun k => k.num == l.num) then { l with origin := if displaces then 0 else s.recordedOrigin l.num (s.queueOrigin w.source w.serial origin) } else l }
  let s := s.updExec w.source fun e => { e with issued := (e.issued.filter fun p => p != (w.serial, 0)) ++ new.map fun l => (w.serial, l.num) }
  if displaces then s else
  match new with
  | l :: _ => (s.returnTokens w.source w.tokens).setTokens l.group 0
  | [] => s.returnTokens w.source w.tokens

/-- A packet that has been tried and waits. -/
def State.markTried (s : State) (w : Waiting') : State :=
  { s with fe := { s.fe with waiting := s.fe.waiting.map fun x => if x.source = w.source && x.serial = w.serial then { x with tried := true } else x } }

/-- Every waiting packet tried once, in order, or, but for `again`, those that have not been tried; a packet waits behind an earlier one of its queue (R34, R414). -/
def tryPackets (again : Bool) : List Waiting' → List Source → State → State
  | [], _, s => s
  | w :: rest, behind, s =>
    if behind.contains w.source || (w.tried && !again) then tryPackets again rest (w.source :: behind) s else
    match s.placePacket w with
    | .placed s' =>
      let s' := { s' with fe := { s'.fe with waiting := s'.fe.waiting.filter fun x => !(x.source == w.source && x.serial == w.serial) } }
      tryPackets again rest behind (s'.settlePlaced w (s.launches.map (·.num)))
    | .waits => tryPackets again rest (w.source :: behind) (s.markTried w)
    | .refused r => tryPackets again rest (w.source :: behind)
        { s.markTried w with todo := s.todo ++ [.event (.launchRefused w.source w.packet)], fe := { (s.markTried w).fe with reports := s.fe.reports ++ r.toList } }

/-- Whether waiting packets are tried again in this tick: after a retirement, and at every multiple of 32,768 (R34). -/
def State.tryAgain (s : State) : Bool := s.fe.tryPlace || s.tick % 32768 == 0

/-- LAUNCH_PLACEMENT (R34): the scheduling core tries the launch packets it has, in the order they reached it: new ones, and the others when it tries again. -/
def execLaunchPlacement (s : State) : Out := .next (tryPackets s.tryAgain s.fe.waiting [] { s with fe := { s.fe with tryPlace := false } })

/-- LAUNCH_REFUSED (R34, R399, R414, R416): the queue freezes with reason 4 where execution stands, FE_QFAULT naming the `pk.launch`; its tokens return, and the launch counts as
cancelled for DEP and for signals. -/
def execLaunchRefused (src : Source) (packet : BitVec 56) (s : State) : Out :=
  match s.fe.waiting.find? fun w => w.source == src && w.packet == packet with
  | none => .next s
  | some w =>
    let s := { s with fe := { s.fe with waiting := s.fe.waiting.filter (fun x => x != w) } }
    let s := s.returnTokens src w.tokens
    let s := s.updExec src fun e => { e.ended w.serial 0 true w.tag with refused := e.refused ++ [w.serial] }
    match src with
    | .queue q => .next (if s.fe.queues[q].frozen then s else s.freezeQueue q 4 packet.toNat w.tag false)
    | .graph _ => .next s

end Sys2Proof.Machine
end

