-- ==== Sys2Proof/Machine/FrontEnd.lean ====
section
/-! DEFINITION. The front end (R396 to R417): levels and the fetch window, the packets, pending signals, freezing and going on. -/

namespace Sys2Proof.Machine

/-! ### Reads and writes of the front end (R121, R396, R403) -/

/-- A double-word read by the front end or firmware; none on an error that cannot be corrected (R121, R416). -/
def State.feRead (s : State) (a : Nat) : State × Option Word :=
  if bit a 55 then
    let s' := { s with fresh := s.fresh + 1 }
    if Config.hostReadFails s.fresh then (s', none) else (s', some (w64 (s.readPhys a 8)))
  else if s.hardError 0 0 a 8 then (s, none)
  else (s.softRead (placeNoCore 0) none 0 0 a 8, some (w64 (s.readPhys a 8)))

/-- Bytes written by the front end, firmware or host (R121): a partial write of a burst with an error that cannot be corrected writes nothing. -/
def State.feWrite (s : State) (a : Nat) (bytes : List Byte) : State × Bool :=
  if bit a 55 then (s.writePhys a bytes, true)
  else if s.badWrite 0 0 a bytes.length then (s, false)
  else (((s.softWrite (placeNoCore 0) none 0 0 a bytes.length).clearErrors 0 0 a bytes.length).writePhys a bytes, true)

/-- Whether a tick lies in one of the slots of front end, firmware and host (R119). -/
def isFrontSlot (t : Nat) : Bool := t % 8192 / 64 == 64

/-! ### Levels and the fetch window (R400 to R402) -/

/-- The size of a queue's ring. -/
def QueueState.ring (q : QueueState) : Nat := 2 ^ q.sizelog.toNat

/-- HEAD (R397). -/
def QueueState.head (q : QueueState) : Nat := match q.exec.levels.getLast? with | some l => l.pos | none => 0

/-- Whether a queue executes in its ring. -/
def QueueState.atRing (q : QueueState) : Bool := q.exec.levels.length == 1

/-- The address of double-word k of the packet at the current level: in the ring, modulo its size. -/
def QueueState.dwAddr (q : QueueState) (k : Nat) : Nat :=
  match q.exec.levels with
  | [] => 0
  | l :: _ => if q.atRing then l.base.toNat + (l.pos + 8 * k) % q.ring else l.base.toNat + l.pos + 8 * k

/-- The double-words from the packet on that may be read: below TAIL (the old one in the tick of a TAIL write, R429), or within the buffer. -/
def QueueState.avail (q : QueueState) : Nat :=
  match q.exec.levels with
  | [] => 0
  | l :: _ => if q.atRing then ((q.tailWas.getD q.tail).toNat / 8 * 8 % q.ring + q.ring - l.pos) % q.ring / 8 else l.left / 8

/-- A double-word of the window that differs from memory: it has been read already, or is read now; the manual leaves open which (R402, DESIGN CHOICE, log entry 5).
LPDDR 6 is read in a front-end slot only (R396). -/
def State.pickWindow (s : State) (e : Nat × Word) : State × (Nat × Word) :=
  let cur := w64 (s.readPhys e.1 8)
  if cur = e.2 || !(bit e.1 55 || isFrontSlot s.tick) then (s, e) else ({ s with fresh := s.fresh + 1 }, if Config.readsOld s.fresh then e else (e.1, cur))

/-- A whole window so. -/
def pickAll : FetchWindow → State → FetchWindow × State
  | [], s => ([], s)
  | e :: t, s =>
    let (s, e) := s.pickWindow e
    let (t, s) := pickAll t s
    (e :: t, s)

/-- A queue's window as a tick passes (R402). -/
def State.refreshWindow (s : State) (q : QueueIx) : State :=
  if s.fe.queues[q].exec.window.isEmpty then s else
  let (w, s) := pickAll s.fe.queues[q].exec.window s
  s.updExec (.queue q) fun e => { e with window := w }

/-- The window from the present packet on (R401): bytes behind it are dropped, bytes that now lie within 256 bytes of it enter. -/
def State.fillWindow (s : State) (q : QueueIx) : State :=
  let s := s.refreshWindow q
  let x := s.fe.queues[q]
  let w := (List.range (min 32 x.avail)).map fun k =>
    let a := x.dwAddr k
    match x.exec.window.find? fun e => e.1 == a with
    | some e => e
    | none => (a, w64 (s.readPhys a 8))
  s.updExec (.queue q) fun e => { e with window := w }

/-- Double-word k of the present packet of a queue, through the window; beyond it, from memory. -/
def State.queueDw (s : State) (q : QueueIx) (k : Nat) : Word :=
  let x := s.fe.queues[q]
  match x.exec.window.find? fun e => e.1 == x.dwAddr k with
  | some e => e.2
  | none => w64 (s.readPhys (x.dwAddr k) 8)

/-- Double-word k of the present packet of a queue or graph run. -/
def State.packetDw (s : State) : Source → Nat → Word
  | .queue q, k => s.queueDw q k
  | .graph g, k =>
    match s.fe.graphs[g] with
    | some x => (match x.run with | some e => x.words.getD (e.at' / 8 + k) 0 | none => 0)
    | none => 0

/-- The SIZE of a header (R191). -/
def hdrSize (h : Word) : Nat := bits h.toNat 8 8

/-- The present packet's double-words, header first. -/
def State.packetWords (s : State) (src : Source) : List Word :=
  (List.range (1 + hdrSize (s.packetDw src 0))).map (s.packetDw src)

/-- Whether the packet's reads meet an error, or name no memory (R108, R121, R416, reason 7). -/
def State.packetUnreadable (s : State) (src : Source) : State × Bool :=
  match src with
  | .graph g =>
    -- a graph's packets stand in front-end SRAM
    let a := match s.exec? src with | some e => e.at' | none => 0
    let n := 8 + 8 * hdrSize (s.packetDw src 0)
    if s.hardError 9 g a n then (s, true) else (s.softRead (placeNoCore 0) none 9 g a n, false)
  | .queue q =>
    let x := s.fe.queues[q]
    let addrs := (List.range (1 + hdrSize (s.packetDw src 0))).map x.dwAddr
    if addrs.any fun a => !physOk (BitVec.ofNat 56 a) 8 then (s, true)
    else if addrs.any fun a => bit a 55 then ({ s with fresh := s.fresh + 1 }, Config.hostReadFails s.fresh)
    else if addrs.any fun a => s.hardError 0 0 a 8 then (s, true)
    else (if s.ecc.isEmpty then s else addrs.foldl (fun s a => s.softRead (placeNoCore 0) none 0 0 a 8) s, false)

/-- One level as a packet of n bytes is done: its place, its skip count, its loop (R404, R406). True when a loop pass begins. -/
def Level.advance (l : Level) (n : Nat) (ring : Option Nat) : Level × Bool :=
  let pos := match ring with | some r => (l.pos + n) % r | none => l.pos + n
  let l := { l with pos, left := l.left - n, skip := l.skip - 1 }
  if l.loopPasses = 0 then (l, false)
  else if l.loopDone + 1 < l.loopBody then ({ l with loopDone := l.loopDone + 1 }, false)
  else if 1 < l.loopPasses then ({ l with loopDone := 0, loopPasses := l.loopPasses - 1, pos := l.loopStart, left := l.loopLeft }, true)
  else ({ l with loopDone := 0, loopPasses := 0 }, false)

/-- A packet of n bytes is done at the innermost level; a buffer that is used up returns to the packet after its `pk.ib` (R400). True where the fetch window
is discarded. -/
def advanceLevels (ring : Option Nat) : Nat → List Level → List Level × Bool
  | _, [] => ([], false)
  | n, [l] => let (l, b) := l.advance n ring; ([l], b)
  | n, l :: rest =>
    let (l, b) := l.advance n none
    if l.left = 0 then ((advanceLevels ring 24 rest).1, true) else (l :: rest, b)

/-- The present packet, of n bytes, is done. -/
def Stream'.done (e : Stream') (ring : Option Nat) (n : Nat) : Stream' :=
  let (ls, discard) := advanceLevels ring n e.levels
  { e with levels := ls, window := if discard then [] else e.window, waiting := none, waitFrom := none, waitEnd := none }

/-- The ring size that a stream's outermost level wraps at. -/
def State.ringOf (s : State) : Source → Option Nat
  | .queue q => some s.fe.queues[q].ring
  | .graph _ => none

/-- The present packet of the executing source, of n bytes, is done; a graph's last packet ends its run (R425). -/
def State.packetDone (s : State) (n : Nat) : State :=
  let s := s.updExec s.source fun e => e.done (s.ringOf s.source) n
  match s.source with
  | .queue _ => s
  | .graph g =>
    match s.fe.graphs[g] with
    | some x => s.updExec s.source fun e => if x.words.length * 8 ≤ e.at' then { e with ending := true } else e
    | none => s

/-- A packet freezes its queue (R416), or ends its graph's run cancelled (R426). -/
def State.packetFails (s : State) (reason : Nat) (tag : BitVec 32) : State :=
  match s.source with
  | .queue q => s.freezeQueue q reason s.packetAt.toNat tag true
  | .graph _ => s.updExec s.source fun e => { e with failed := true, failTag := tag }

/-- The bytes of a packet, header included (R191, R403). -/
def packetBytes : Instr → Nat
  | .pkNop _ n => 8 + 8 * n.toNat
  | .pkFfence _ | .pkEnd _ => 8
  | .pkLoop .. | .pkMode .. | .pkBind .. | .pkUnbind .. => 16
  | .pkLaunch .. | .pkIb .. => 24
  | .pkPred .. | .pkWait .. | .pkGraphRun .. | .pkGraphLoad .. | .pkGraphUnload .. | .pkCopy .. => 32
  | .pkSignal .. | .pkIngress .. => 40
  | _ => 8

/-- Whether every address that a packet names has the form of R108 (R396). -/
def packetAddrsOk : Instr → Bool
  | .pkLaunch _ a _ _ => physOk a 64
  | .pkIb _ a n => physOk a (8 * n.toNat)
  | .pkPred _ a _ _ _ | .pkWait _ a _ _ _ => physOk a 8
  | .pkSignal _ a _ _ _ _ _ _ => physOk a 8
  | .pkGraphLoad _ _ a n => physOk a (8 * n.toNat)
  | .pkIngress _ _ _ d n => physOk d n.toNat
  | .pkCopy _ a d n => physOk a n.toNat && physOk d n.toNat
  | _ => true

/-- The packet that double-words make, where it is well formed (R191 to R193, R403). -/
def packetOf (ws : List Word) : Option Instr :=
  match ws with
  | [] => none
  | h :: pl =>
    match decodePacket h pl with
    | .ok i => if i.wf && packetAddrsOk i then some i else none
    | .error _ => none

/-! ### Packets -/

/-- COND (R404). -/
def condHolds (c : Cond) (w v : Word) : Bool :=
  match c with
  | .eq => w == v
  | .ne => w != v
  | .ltu => decide (w.toNat < v.toNat)
  | .geu => decide (v.toNat ≤ w.toNat)
  | .all => w &&& v == v
  | .none => w &&& v == 0

/-- Whether packets at the present level of a source have no buffer to keep within (R400, R404, R406): in a ring or a graph. -/
def State.unbounded (s : State) : Source → Bool
  | .queue q => s.fe.queues[q].atRing
  | .graph _ => true

/-- Whether the next n packets of the present level, from double-word k on, lie in their indirect buffer of `limit` double-words, by their headers. -/
def State.packetsFit (s : State) (src : Source) : Nat → Nat → Nat → Bool
  | 0, k, limit => s.unbounded src || decide (k ≤ limit)
  | n + 1, k, limit =>
    s.unbounded src || (decide (k < limit) && s.packetsFit src n (k + 1 + hdrSize (s.packetDw src k)) limit)

/-- The double-words of the present level, from the packet on. -/
def State.levelDws (s : State) : Source → Nat
  | .queue q => s.fe.queues[q].avail
  | .graph g => match s.fe.graphs[g] with | some x => (match x.run with | some e => x.words.length - e.at' / 8 | none => 0) | none => 0

/-- The innermost level of the executing source. -/
def State.level? (s : State) : Option Level := (s.exec? s.source).bind fun e => e.levels.head?

/-- The innermost level changed. -/
def State.updLevel (s : State) (f : Level → Level) : State :=
  s.updExec s.source fun e => { e with levels := match e.levels with | l :: t => f l :: t | [] => [] }

def execPkNop (tag : BitVec 32) (size : BitVec 8) (s : State) : Out := .next (s.packetDone (packetBytes (.pkNop tag size)))

/-- The stream of the executing source; an empty one where it has none. -/
def State.stream (s : State) : Stream' := (s.exec? s.source).getD .init

/-- The number of a generated launch (R415, R441): the next one; under replay that of the next recorded LAUNCH record of a generated launch of its RCB. -/
def State.generatedNumber (s : State) (rcb : BitVec 16) : LaunchNo :=
  match (s.recordsLeft 0x01).find? fun r => bit (recWord r 3) 20 && bits (recWord r 3) 0 16 == rcb.toNat && !(s.launches.any fun l => l.num == recLaunch r) with
  | some r => recLaunch r
  | none => s.freeNumber 65536 s.fe.nextLaunch

/-- A generated launch (R60, R415, R425): it holds its number and is pending for the graph's class from this tick. -/
def State.generate (s : State) (g : GraphIx) (cls : BitVec 8) (host : Launch) (serial : Nat) (tag : BitVec 32) (x : Spec × Image) : State :=
  let num := s.generatedNumber x.1.rcb.id
  let l : Launch :=
    { num, rcbId := x.1.rcb.id, rcbAddr := x.1.rcb.addr, path := x.1.path, fdom := x.1.fdom, priority := x.1.priority, source := .graph g, tag, graphGen := true,
      packet := s.packetAt, serial, img := x.2, imgAddr := x.1.rcb.image.toNat % 2 ^ 56, digest := sha384 x.2.extent, stage := .placed, ox := host.ox, oy := host.oy,
      grants := [], quadBase := [], replBase := [], ptroot := host.ptroot, sidebase := host.sidebase, lanes := host.lanes, origin := 0, ltime := 0, setIx := 0,
      setStart := 0, inst := 0, instTick := 0, pendMode := none, pendLevel := none, causes := [], frozenFrom := none, seen := 0, boundary := none,
      urgentAt := none, urgentFrom := none, chosen := none, susp := none, dstop := none, displaced := false, window := none, cls := some cls,
      pendingFrom := s.tick, chmaskNew := false, mcpAt := none, group := num, tokens := 0, stepped := [], modeWas := 0, displacedWas := false }
  let s := { s with launches := s.launches ++ [l], fe := { s.fe with nextLaunch := num + 1 } }
  s.updExec (.graph g) fun e => { e with issued := e.issued ++ [(serial, num)] }

/-- The FAULT record of a launch that completes as cancelled because the error token has reached it (R417). -/
def State.tokenRec (s : State) (addr : Nat) (tag : BitVec 32) : State := s.faultRec none 4 5 0 false 0 addr tag.toNat 0

/-- `pk.launch` (R27, R399, R414, R425): the subtree goes to the scheduling core with the tokens it carries; in a graph's run it becomes generated launches.
With DEP it waits for the previous launch, and never starts behind a cancelled one (R417). A subtree that exceeds a budget alone is refused at once (R25). -/
def execPkLaunch (tag : BitVec 32) (rcb : BitVec 56) (tokens : BitVec 8) (dep : Bool) (s : State) : Out :=
  let e := s.stream
  let prev := e.nextSerial - 1
  if dep && e.issued.any (fun p => p.1 == prev) then .next s
  else if dep && e.refused.contains prev then
    -- the queue has frozen once for the refused launch; this one completes as cancelled (R414, R417)
    .next (((s.updExec s.source fun e =>
      { e with nextSerial := e.nextSerial + 1, cancelled := e.cancelled ++ [e.nextSerial], refused := e.refused ++ [e.nextSerial] }).tokenRec s.packetAt.toNat tag).packetDone 24)
  else if dep && e.cancelled.contains prev then
    .next ((s.updExec s.source fun e => { e with nextSerial := e.nextSerial + 1, cancelled := e.cancelled ++ [e.nextSerial] }).packetFails 5 tag)
  else match s.source with
    | .queue q =>
      let pool := (s.fe.queues[q].tokWas.getD s.fe.queues[q].tokens).toNat
      let c := min tokens.toNat pool
      let found := subtree s.reader s.readable rcb.toNat
      let (priority, specs) := match found with | .ok (p, l) => (p, some l) | .error _ => (0, none)
      let offender := match found with | .ok _ => none | .error a => some a
      let w : Waiting' := { source := s.source, serial := e.nextSerial, packet := s.packetAt, tag, tokens := c, priority, specs, offender, tried := false }
      let s := s.updQueue q fun x => if c = 0 then x else { x with tokens := BitVec.ofNat 8 (pool - c), tokWas := none }
      let s := { s with fe := { s.fe with waiting := s.fe.waiting ++ [w] } }
      .next ((s.updExec s.source fun e => { e with nextSerial := e.nextSerial + 1, issued := e.issued ++ [(w.serial, 0)] }).packetDone 24)
    | .graph g =>
      match s.fe.graphs[g] with
      | none => .next s
      | some x =>
        match x.binding.bind fun b => (s.launch? b.2).map fun h => (b.1, h), x.subtrees.find? fun t => t.1 == e.at' with
        | some (cls, h), some (_, l) =>
          if !budgetsHold (l.map fun y => (y.1.path, y.2.uses)) then .next (s.packetFails 4 tag) else
          let s' := s.updExec s.source fun e => { e with nextSerial := e.nextSerial + 1 }
          .next ((l.foldl (fun s y => s.generate g cls h e.nextSerial tag y) s').packetDone 24)
        | _, _ => .next (s.packetFails 8 tag)

/-- `pk.ib` (R400): the buffer is entered at the next level; at level 2 the queue freezes. -/
def execPkIb (tag : BitVec 32) (addr : BitVec 56) (len : BitVec 20) (s : State) : Out :=
  if 3 ≤ s.stream.levels.length then .next (s.packetFails 2 tag) else
  let l : Level := { base := addr, pos := 0, left := 8 * len.toNat, loopStart := 0, loopLeft := 0, loopBody := 0, loopDone := 0, loopPasses := 0, skip := 0 }
  .next (s.updExec s.source fun e => { e with levels := l :: e.levels, window := [] })

/-- `pk.pred` (R404): one read; where the test fails the next COUNT packets of the level have no effect. -/
def execPkPred (tag : BitVec 32) (addr : BitVec 56) (value : Word) (cond : Cond) (count : BitVec 8) (s : State) : Out :=
  match s.level? with
  | none => .next s
  | some l =>
    let past := l.loopPasses ≠ 0 && decide (l.loopBody < l.loopDone + 1 + count.toNat)
    if past || !s.packetsFit s.source count.toNat 4 (s.levelDws s.source) then .next (s.packetFails 3 tag) else
    match s.feRead addr.toNat with
    | (s, none) => .next (s.packetFails 7 tag)
    | (s, some w) =>
      let s := s.packetDone 32
      .next (if condHolds cond w value then s else s.updLevel fun l => { l with skip := count.toNat })

/-- `pk.loop` (R406): the next BODY packets, COUNT times; refused where it is met inside an active loop of its level, or its body reaches past its buffer's
end. -/
def execPkLoop (tag : BitVec 32) (count : BitVec 16) (body : BitVec 8) (s : State) : Out :=
  match s.level? with
  | none => .next s
  | some l =>
    if l.loopPasses ≠ 0 || !s.packetsFit s.source body.toNat 2 (s.levelDws s.source) then .next (s.packetFails 3 tag) else
    let s := s.packetDone 16
    .next ((s.updLevel fun l => { l with loopStart := l.pos, loopLeft := l.left, loopBody := body.toNat, loopDone := 0, loopPasses := count.toNat }).updExec s.source
      fun e => { e with window := [] })

/-- One read of a `pk.wait` (R405): the queue goes on when the test holds, else it keeps the double-words that it executes with (R402); `late` in the tick of its timeout.
Its reads after the first come in every tick: R405 asks for one in 4,096 ticks, and the slots of R119 are 8,192 apart (DESIGN CHOICE, log entry 4). -/
def State.waitRead (s : State) (tag : BitVec 32) (addr : BitVec 56) (value : Word) (cond : Cond) (timeout : BitVec 32) (late : Bool) : State :=
  match s.feRead addr.toNat with
  | (s, none) => s.packetFails 7 tag
  | (s, some w) =>
    if condHolds cond w value then s.packetDone 32
    else if late then (s.updExec s.source fun e => { e with waiting := none, waitFrom := none, waitEnd := none }).packetFails 6 tag
    else
      let ws := s.packetWords s.source
      s.updExec s.source fun e =>
        match e.waitFrom with
        | some _ => e
        | none => { e with waiting := some ws, waitFrom := some s.tick, waitEnd := if timeout = 0 then none else some (s.tick + timeout.toNat * 1024) }

/-- `pk.wait` (R405). -/
def execPkWait (tag : BitVec 32) (addr : BitVec 56) (value : Word) (cond : Cond) (timeout : BitVec 32) (s : State) : Out :=
  .next (s.waitRead tag addr value cond timeout false)

/-- PK_WAIT_TIMEOUT (R405): the last read of a `pk.wait`; the queue freezes with reason 6 unless the test holds. -/
def execPkWaitTimeout (src : Source) (s : State) : Out :=
  match s.exec? src with
  | none => .next s
  | some e =>
    if !(match e.waitEnd with | some t => decide (t ≤ s.tick) | none => false) then .next s else
    let s := { s with source := src, packetAt := BitVec.ofNat 56 e.at' }
    match packetOf (e.waiting.getD (s.packetWords src)) with
    | some (.pkWait tag addr value cond timeout) => .next (s.waitRead tag addr value cond timeout true)
    | _ => .next (s.packetFails 1 0)

/-- A SIGNAL record (R436). -/
def State.signalRec (s : State) (src : Source) (p : PendSignal) (v : Word) (err : Bool) : State :=
  let (queue, gen, graph) := match src with | .queue q => (q.val, 0, 0) | .graph g => (0, 1, g.val)
  s.record { typ := 0x10, tick := s.tick, place := none, trace := false,
             payload := [w64 (queue + gen * 2 ^ 4 + graph * 2 ^ 5 + b2n err * 2 ^ 11 + bit63 v * 2 ^ 12 + p.tag.toNat * 2 ^ 13), w64 p.addr.toNat, low63 v] }

/-- A signal is written (R408): VALUE, or ERRVAL in its place, or the sum of that and the word; then its interrupt. False on an error that cannot be corrected. -/
def State.writeSignal (s : State) (src : Source) (p : PendSignal) : State × Bool :=
  let a := p.addr.toNat
  let v := if p.error then p.errval else p.value
  match (match p.op with | .add => (let r := s.feRead a; (r.1, r.2.map (· + v))) | _ => (s, some v)) with
  | (s, none) => (s, false)
  | (s, some w) =>
    match s.feWrite a (leBytes 8 w.toNat) with
    | (s, false) => (s, false)
    | (s, true) => let s := s.signalRec src p w p.error; (if p.irq then s.irq p.vector.toNat else s, true)

/-- `pk.signal` (R408): written at once behind no pending signal, or joined to the pending list. -/
def execPkSignal (tag : BitVec 32) (addr : BitVec 56) (value : Word) (op : SigOp) (after irq : Bool) (vector : BitVec 8) (errval : Word) (s : State) : Out :=
  let e := s.stream
  let p : PendSignal := { addr, value, op, irq, vector, errval, tag, afterSerial := e.nextSerial, fromSerial := e.lastAfter,
                          error := after && e.cancelled.any fun k => decide (e.lastAfter ≤ k) && decide (k < e.nextSerial) }
  if after then
    if 16 ≤ e.pending.length then .next s
    else .next ((s.updExec s.source fun e => { e with pending := e.pending ++ [p], lastAfter := e.nextSerial }).packetDone 40)
  else if !e.pending.isEmpty then .next s
  else match s.writeSignal s.source p with
    | (s, true) => .next (s.packetDone 40)
    | (s, false) => .next (s.packetFails 7 tag)

/-- Whether a pending signal may be written (R408): every launch issued before it has ended. -/
def Stream'.ripe (e : Stream') (p : PendSignal) : Bool := e.issued.all fun k => decide (p.afterSerial ≤ k.1)

/-- SIGNAL_WRITE (R408): the oldest pending signal of a queue or graph run is written. -/
def execSignalWrite (src : Source) (s : State) : Out :=
  match s.exec? src with
  | none => .next s
  | some e =>
    match e.pending with
    | [] => .next s
    | p :: rest =>
      if !e.ripe p then .next s else
      let s := s.updExec src fun e => { e with pending := rest }
      match s.writeSignal src p, src with
      | (s, true), _ => .next s
      | (s, false), .queue q => .next (if s.fe.queues[q].frozen then s else s.freezeQueue q 7 e.at' p.tag false)
      | (s, false), .graph _ => .next (s.updExec src fun e => { e with failed := true, failTag := if e.failed then e.failTag else p.tag })

/-- `pk.ffence` (R409). -/
def execPkFfence (_ : BitVec 32) (s : State) : Out := .next ((s.updExec s.source fun e => { e with window := [] }).packetDone 8)

/-- `pk.mode` (R62, R410): a mode request for a running launch; a MODE record refuses any other. -/
def execPkMode (_ : BitVec 32) (launch : LaunchNo) (mode : BitVec 4) (urgent : Bool) (s : State) : Out :=
  let rank := match s.source with | .queue _ => 1 | .graph _ => 0
  let running : Bool := match s.launch? launch with | some l => l.stage != .placed && l.cls.isNone | none => false
  let s := if running then s.modeRequest launch mode urgent rank else s.modeRec launch (0, 0) (mode, 0) 2 (rankSrc rank) urgent
  .next (s.packetDone 16)

/-- Bytes of a transfer in ascending order until a read or write fails (R413): DRAM, in bursts of 32 bytes (R121), or host memory on either side. -/
def State.transfer (s : State) (src dst n : Nat) : State × Option (List Byte) :=
  let failed := bit src 55 && Config.hostReadFails s.fresh
  let s := if bit src 55 then { s with fresh := s.fresh + 1 } else s
  if failed then (s, none) else
  let hard := if bit src 55 || s.ecc.isEmpty then none else (List.range n).find? fun i => s.hardError 0 0 (src + i) 1
  let bytes := s.readPhysBytes src (hard.getD n)
  let s := if bit src 55 then s else s.softRead (placeNoCore 0) none 0 0 src n
  let units := groupBy 32 (fun x => dst + x) (bytes.zipIdx.map fun e => (e.2, e.1))
  let (s, ok) := units.foldl (fun (r : State × Bool) u => if r.2 then r.1.feWrite (dst + u.1) u.2 else r) (s, true)
  (s, if ok && hard.isNone then some bytes else none)

/-- `pk.ingress` (R413): through a lane of the ingress hasher that no launch holds, with its INGRESS record. -/
def execPkIngress (tag : BitVec 32) (id : BitVec 32) (src dst : BitVec 56) (len : BitVec 32) (s : State) : Out :=
  match (List.finRange 2).find? fun n => s.fe.hasherBusy[n].isNone with
  | none => .next s
  | some lane =>
    match s.transfer src.toNat dst.toNat len.toNat with
    | (s, none) => .next (s.packetFails 7 tag)
    | (s, some bytes) =>
      let s := s.record { typ := 0x03, tick := s.tick, place := some (placeNoCore 0), trace := false,
                          payload := [w64 (id.toNat + lane.val * 2 ^ 32 + servoCode s.tm.servo * 2 ^ 34), w64 len.toNat, w64 (s.tick % 2 ^ 63), w64 (s.tick % 2 ^ 63),
                                      low63 s.tm.ns] ++ digestWords (sha384 bytes) }
      .next (s.packetDone 40)

/-- `pk.copy` (R413). -/
def execPkCopy (tag : BitVec 32) (src dst : BitVec 56) (len : BitVec 32) (s : State) : Out :=
  match s.transfer src.toNat dst.toNat len.toNat with
  | (s, none) => .next (s.packetFails 7 tag)
  | (s, some _) => .next (s.packetDone 32)

/-- A `pk.end` at level 0 is complete (R407). -/
def Stream'.settled (e : Stream') : Bool := e.pending.isEmpty && e.issued.isEmpty

/-- `pk.end` (R407): it returns from a buffer; at level 0 it waits for what the queue has issued; in a graph it ends the run. -/
def execPkEnd (_ : BitVec 32) (s : State) : Out :=
  match s.source with
  | .graph _ => .next (s.updExec s.source fun e => { e with ending := true })
  | .queue _ =>
    match s.stream.levels with
    | _ :: rest@(_ :: _) =>
      .next (s.updExec s.source fun e => { e with levels := (advanceLevels (s.ringOf s.source) 24 rest).1, window := [], waiting := none, waitFrom := none, waitEnd := none })
    | _ => if s.stream.settled then .next (s.packetDone 8) else .next (s.updExec s.source fun e => { e with ending := true })

/-- END_COMPLETION (R407): a `pk.end` at level 0 completes, and the packet after it is next; in a frozen queue nothing does (R416). -/
def execEndCompletion (q : QueueIx) (s : State) : Out :=
  let e := s.fe.queues[q].exec
  if e.ending && e.settled && !s.fe.queues[q].frozen then .next ({ s with source := .queue q }.updExec (.queue q) fun e => { e.done (some s.fe.queues[q].ring) 8 with ending := false })
  else .next s

/-! ### Enabling, discarding and resuming (R397, R416, R417) -/

/-- QUEUE_ENABLE (R397): a write of ENABLE over 0 clears HEAD, the level stack, the loops and FROZEN; an invalid SIZELOG leaves ENABLE 0. -/
def execQueueEnable (q : QueueIx) (sizelog : BitVec 5) (s : State) : Out :=
  let ok (v : BitVec 5) : Bool := decide (12 ≤ v.toNat) && decide (v.toNat ≤ 24)
  let s := s.updQueue q fun x => if ok sizelog then { x with sizelog } else x
  let x := s.fe.queues[q]
  if x.enable || !ok x.sizelog then .next s else
  let l : Level := { base := x.base, pos := 0, left := 0, loopStart := 0, loopLeft := 0, loopBody := 0, loopDone := 0, loopPasses := 0, skip := 0 }
  .next (s.updQueue q fun x => { x with enable := true, frozen := false, exec :=
    { x.exec with levels := [l], window := [], waiting := none, waitFrom := none, waitEnd := none, ending := false } })

/-- QUEUE_DISCARD (R397): a frozen queue goes on at TAIL, with no level stack, loop or fetch window. -/
def execQueueDiscard (q : QueueIx) (s : State) : Out :=
  let x := s.fe.queues[q]
  if !x.frozen then .next s else
  let l : Level := { base := x.base, pos := x.tail.toNat / 8 * 8 % x.ring, left := 0, loopStart := 0, loopLeft := 0, loopBody := 0, loopDone := 0, loopPasses := 0, skip := 0 }
  .next (s.updQueue q fun x => { x with frozen := false, exec := { x.exec with levels := [l], window := [], waiting := none, waitFrom := none, waitEnd := none, ending := false } })

/-- The launch that a DEP = 1 packet would have issued behind a cancelled one counts as cancelled, with its FAULT record (R417). -/
def State.passToken (s : State) (q : QueueIx) (p : Option Instr) : State :=
  let e := s.fe.queues[q].exec
  match p with
  | some (.pkLaunch tag _ _ true) =>
    if e.cancelled.contains (e.nextSerial - 1) then
      (s.updExec (.queue q) fun e => { e with nextSerial := e.nextSerial + 1, cancelled := e.cancelled ++ [e.nextSerial] }).tokenRec e.at' tag
    else s
  | _ => s

/-- QUEUE_RESUME (R397, R417): a frozen queue goes on at the packet after the one that froze, or where it stands after a refusal found late. -/
def execQueueResume (q : QueueIx) (s : State) : Out :=
  let x := s.fe.queues[q]
  if !x.frozen then .next s else
  let size := 8 + 8 * hdrSize (s.queueDw q 0)
  let p := if x.reason = 5 then packetOf (s.packetWords (.queue q)) else none
  let skip := x.skipOnResume && x.avail ≠ 0
  .next ((if skip then s.passToken q p else s).updQueue q fun x => { x with frozen := false, exec :=
    { (if skip then x.exec.done (some x.ring) size else x.exec) with window := [], waiting := none, waitFrom := none, waitEnd := none, ending := false } })

/-! ### What the front end does in a tick -/

/-- Whether a queue has a packet ready (R398, R400): enabled, not frozen, the packet wholly before TAIL. -/
def State.queueReady (s : State) (q : QueueIx) : Bool :=
  let x := s.fe.queues[q]
  x.enable && !x.frozen && !x.exec.ending && !x.exec.levels.isEmpty && decide (1 ≤ x.avail) &&
  (!x.atRing || decide (1 + hdrSize (s.queueDw q 0) ≤ x.avail))

/-- Whether a graph's run has a packet ready. -/
def State.graphReady (s : State) (g : GraphIx) : Bool :=
  match s.fe.graphs[g].bind (·.run) with
  | some e => !e.ending && !e.failed && e.cancelled.isEmpty
  | none => false

def srcOf (k : Nat) : Source := if k < 16 then .queue ⟨k % 16, Nat.mod_lt _ (by decide)⟩ else .graph ⟨(k - 16) % 64, Nat.mod_lt _ (by decide)⟩
def State.srcReady (s : State) : Source → Bool
  | .queue q => s.queueReady q
  | .graph g => s.graphReady g

/-- Whether the front end may execute a packet of a source in this tick (R119, R396): in one of its slots, or where a `pk.wait` reads again. -/
def State.slotFor (s : State) (src : Source) : Bool := isFrontSlot s.tick || (match s.exec? src with | some e => e.waiting.isSome | none => false)

/-- The next queue or graph run to be served, in cyclic order after the last one (R398). -/
def State.nextSource (s : State) : Option (Fin 80) :=
  ((List.range 80).map fun k => (⟨(s.fe.last.val + 1 + k) % 80, Nat.mod_lt _ (by decide)⟩ : Fin 80)).find? fun k => s.slotFor (srcOf k) && s.srcReady (srcOf k)

/-- Every queue and graph run. -/
def allSources : List Source := (List.finRange 16).map Source.queue ++ (List.finRange 64).map Source.graph

/-- How many pending signals of a stream may be written in a row; into LPDDR 6 in a front-end slot only (R396). -/
def Stream'.ripeCount (e : Stream') (slot : Bool) : Nat := (e.pending.takeWhile fun p => e.ripe p && (slot || bit p.addr.toNat 55)).length

/-- Signals, ends and timeouts that are due (R405, R407, R408). -/
def State.streamDues (s : State) : List Instr :=
  allSources.flatMap fun src =>
    match s.exec? src with
    | none => []
    | some e =>
      List.replicate (e.ripeCount (isFrontSlot s.tick)) (.signalWrite src) ++
      (match src with
       | .queue q => if e.ending && e.settled && !s.fe.queues[q].frozen then [.endCompletion q] else []
       | .graph _ => []) ++
      (match e.waitEnd with
       | some t => if t ≤ s.tick && (match src with | .queue q => !s.fe.queues[q].frozen | .graph _ => !e.failed) then [.pkWaitTimeout src] else []
       | none => [])

end Sys2Proof.Machine
end

