-- ==== Sys2Proof/Machine/Graph.lean ====
section
/-! DEFINITION. Resident graphs (R411, R412, R420 to R426), their triggers, and the firmware's mailboxes (R427). -/

namespace Sys2Proof.Machine

/-! ### What a graph holds (R420 to R422) -/

/-- The packets of a graph with their byte offsets and sizes; none where one is malformed or reaches past the end (R420, R422). -/
def graphPackets : Nat → Nat → List Word → Option (List (Nat × Nat × Instr))
  | _, _, [] => some []
  | 0, _, _ :: _ => none
  | fuel + 1, off, h :: rest => do
    let n := hdrSize h
    guard (decide (n ≤ rest.length))
    let i ← packetOf (h :: rest.take n)
    let more ← graphPackets fuel (off + 8 + 8 * n) (rest.drop n)
    pure ((off, 8 + 8 * n, i) :: more)

/-- Whether R403 allows a packet in a graph, and R422 its operands. -/
def graphAllows : Instr → Bool
  | .pkIb .. | .pkFfence .. | .pkGraphRun .. | .pkGraphLoad .. | .pkGraphUnload .. | .pkBind .. | .pkUnbind .. | .pkIngress .. => false
  | .pkWait _ _ _ _ t => t != 0
  | .pkLaunch _ _ t _ => t == 0
  | _ => true

/-- Whether the loops and predicates from a packet on keep to R404 and R406, which bound them by the loop body that holds them (a graph has no indirect buffer,
R420); `body`: the packets left of that body, none outside a loop. -/
def graphShape : List Instr → Option Nat → Bool
  | [], _ => true
  | i :: rest, body =>
    (match i, body with
     | .pkPred _ _ _ _ n, some left => decide (n.toNat < left)
     | .pkLoop .., some _ => false
     | _, _ => true) &&
    graphShape rest (match body, i with
      | some n, _ => if n ≤ 1 then none else some (n - 1)
      | none, .pkLoop _ _ b => some b.toNat
      | none, _ => none)

/-- The images of a subtree, every one a sporadic image (R421, R422). -/
def State.sporadicSpecs (s : State) (specs : List Spec) : Option (List (Spec × Image)) :=
  specs.mapM fun sp => (s.imageOf sp).bind fun i => if i.sporadic then some (sp, i) else none

/-- The subtrees of a graph's launches; none where the load refuses the graph (R422). -/
def State.graphSubtrees (s : State) (ps : List (Nat × Nat × Instr)) : Option (List (Nat × List (Spec × Image))) :=
  (ps.filterMap fun p => match p.2.2 with | .pkLaunch _ a _ _ => some (p.1, a) | _ => none).mapM fun p =>
    match subtree s.reader s.readable p.2.toNat with
    | .ok (_, l) => (s.sporadicSpecs l).map fun x => (p.1, x)
    | .error _ => none

/-- The graph that double-words make, where the checks of R422 pass. -/
def State.loadGraph (s : State) (ws : List Word) : Option GraphState := do
  let ps ← graphPackets 256 0 ws
  guard (decide (ws.length ≤ 2048) && !ps.isEmpty && ps.all (fun p => graphAllows p.2.2) && graphShape (ps.map (·.2.2)) none)
  let t ← s.graphSubtrees ps
  pure { words := ws, subtrees := t, binding := none, run := none }

/-- Whether a run of a graph is in progress. -/
def State.graphBusy (s : State) (g : GraphIx) : Bool := match s.fe.graphs[g] with | some x => x.run.isSome | none => false
/-- Whether a graph is bound. -/
def State.graphBound (s : State) (g : GraphIx) : Bool := match s.fe.graphs[g] with | some x => x.binding.isSome | none => false

/-! ### Packets (R411, R412) -/

/-- The trigger steps of this tick with one more, in ascending source number (R136). -/
def insertTrigger (src : Fin 18) (g : GraphIx) : List Work → List Work
  | [] => [.event (.graphTrigger src g)]
  | .event (.graphTrigger a b) :: t =>
    if src < a then .event (.graphTrigger src g) :: .event (.graphTrigger a b) :: t else .event (.graphTrigger a b) :: insertTrigger src g t
  | w :: t => w :: insertTrigger src g t

/-- `pk.graph` run (R411, R424): a trigger is pushed; the queue waits while an earlier push of its own is still retried. -/
def execPkGraphRun (_ : BitVec 32) (g : GraphIx) (s : State) : Out :=
  match s.source with
  | .graph _ => .next s
  | .queue q =>
    let src : Fin 18 := ⟨1 + q.val, by omega⟩
    if s.fe.pushes.any fun p => p.1 == src then .next s else
    .next ({ s with fe := { s.fe with pushes := s.fe.pushes ++ [(src, g)] }, todo := insertTrigger src g s.todo }.packetDone 32)

/-- `pk.graph` load (R411, R422): the checked stream is loaded, its subtrees copied; a bound graph, or a refused load, freezes the queue with reason 8. -/
def execPkGraphLoad (tag : BitVec 32) (g : GraphIx) (addr : BitVec 56) (len : BitVec 12) (s : State) : Out :=
  if s.graphBound g then .next (s.packetFails 8 tag)
  else if s.graphBusy g then .next s
  else
    let n := len.toNat
    let unread := if bit addr.toNat 55 then Config.hostReadFails s.fresh else s.hardError 0 0 addr.toNat (8 * n)
    let s := if bit addr.toNat 55 then { s with fresh := s.fresh + 1 } else s
    if unread then .next (s.packetFails 7 tag) else
    let s := if bit addr.toNat 55 || n = 0 then s else s.softRead (placeNoCore 0) none 0 0 addr.toNat (8 * n)
    match s.loadGraph ((List.range n).map fun k => w64 (s.readPhys (addr.toNat + 8 * k) 8)) with
    | none => .next (s.packetFails 8 tag)
    | some x =>
      .next ({ s with fe := { s.fe with graphs := s.fe.graphs.set g (some x), gerr := s.fe.gerr &&& ~~~(BitVec.ofNat 64 (2 ^ g.val)) } }.packetDone 32)

/-- `pk.graph` unload (R411): it waits while a run is in progress; a bound graph freezes the queue with reason 8. -/
def execPkGraphUnload (tag : BitVec 32) (g : GraphIx) (s : State) : Out :=
  if s.graphBound g then .next (s.packetFails 8 tag)
  else if s.graphBusy g then .next s
  else .next ({ s with fe := { s.fe with graphs := s.fe.graphs.set g none } }.packetDone 32)

/-- The windows of a class on a sequencer in a launch's table sets (R60): their lengths. -/
def Launch.windowsOf (l : Launch) (cls : BitVec 8) (seq : Nat) : List Nat :=
  l.img.sets.flatMap fun t => (List.range (l.img.width * l.img.height)).flatMap fun p =>
    ((t.tables.getD (p * 7 + seq) []).filter fun e => e.policyS && e.arg.setWidth 8 == cls).map fun e => e.deadline - e.start

/-- The sequencer whose descriptor holds the entries of a sporadic image (R421). -/
def Image.sporadicSeq (i : Image) : Nat :=
  match i.sets with
  | t :: _ => (t.tables.findIdx? fun es => !es.isEmpty).getD 0
  | [] => 0

/-- No block that a generated entry reaches in a window of the class reads a window that the entry's WIN does not bind there (R58, R105). -/
def Launch.windowsBound (l : Launch) (cls : BitVec 8) (seq : Nat) (i : Image) : Bool :=
  let q : SeqIx := ⟨seq % 7, Nat.mod_lt _ (by decide)⟩
  l.img.sets.all fun u => (List.range (l.img.width * l.img.height)).all fun p =>
    !((u.tables.getD (p * 7 + seq) []).any fun e => e.policyS && e.arg.setWidth 8 == cls) ||
    (let bytes := l.img.blocks.getD p []
     i.sets.all fun t => t.tables.flatten.all fun e =>
      match checkBlocks l.img l.img.sets (memOf 0 bytes) (p % l.img.width) (p / l.img.width) q (some ((e.win.bind fun k => u.wins[k]?).getD [])) bytes.length 8192
        ((e.block.toNat :: (match e.fallback with | some f => [f.toNat] | none => [])).eraseDups) [] [] with
      | .ok _ => true
      | .error _ => false)

/-- The checks of R423 for one sporadic image. -/
def Launch.bindable (l : Launch) (cls : BitVec 8) (i : Image) : Bool :=
  let seq := i.sporadicSeq
  let ws := l.windowsOf cls seq
  let allowed (b : BitVec 24) : Bool := l.img.classes.any fun c => c.cls == cls && c.seq == seq && c.block == b
  !ws.isEmpty && (i.sets.all fun t => t.tables.flatten.all fun e =>
    ws.all (fun n => decide (e.deadline + e.fbDeadline ≤ n)) && allowed e.block && (match e.fallback with | some f => allowed f | none => true) &&
    match e.win with | some k => l.img.sets.all (fun u => decide (k < u.wins.length)) | none => true) &&
  l.windowsBound cls seq i

/-- `pk.bind` (R412, R423). -/
def execPkBind (tag : BitVec 32) (g : GraphIx) (cls : BitVec 8) (launch : LaunchNo) (s : State) : Out :=
  match s.fe.graphs[g], s.launch? launch with
  | some x, some l =>
    if x.binding.isSome || l.stage = .placed || l.cls.isSome || !(x.subtrees.all fun t => t.2.all fun y => l.bindable cls y.2) then .next (s.packetFails 8 tag)
    else .next ((s.updGraph g fun x => { x with binding := some (cls, launch) }).packetDone 16)
  | _, _ => .next (s.packetFails 8 tag)

/-- Generated launches of a graph that are still pending complete as cancelled (R412, R426). -/
def State.cancelPending (s : State) (g : GraphIx) : State :=
  let pend (l : Launch) : Bool := l.source == Source.graph g && l.cls.isSome && l.window.isNone
  let gone := s.launches.filter pend
  gone.foldl (fun s l => s.updExec (.graph g) fun e => e.ended l.serial l.num true l.tag) { s with launches := s.launches.filter fun l => !pend l }

/-- `pk.bind` with UNBIND (R412): the binding is removed, and the graph's pending generated launches complete as cancelled. -/
def execPkUnbind (tag : BitVec 32) (g : GraphIx) (_ : BitVec 8) (launch : LaunchNo) (s : State) : Out :=
  let running := match s.launch? launch with | some l => l.stage != .placed | none => false
  if s.fe.graphs[g].isNone || !running then .next (s.packetFails 8 tag)
  else .next (((s.updGraph g fun x => { x with binding := none }).cancelPending g).packetDone 16)

/-! ### Triggers and runs (R424 to R426) -/

/-- FE_GERR's bit of a graph is set. -/
def State.graphErr (s : State) (g : GraphIx) : State := { s with fe := { s.fe with gerr := setBit s.fe.gerr g } }

/-- GRAPH_TRIGGER (R424): a trigger that a source has pushed enters the trigger queue of 16; one of a graph that is not loaded is discarded. -/
def execGraphTrigger (src : Fin 18) (g : GraphIx) (s : State) : Out :=
  let waits := (s.fe.pushes.filter fun p => p.1 == 17).idxOf? (src, g)
  let drop : FrontEnd := { s.fe with pushes := s.fe.pushes.erase (src, g), stores := match waits with | some k => s.fe.stores.eraseIdx k | none => s.fe.stores }
  if s.fe.graphs[g].isNone then .next ({ s with fe := drop }.graphErr g)
  else if 16 ≤ s.fe.triggers.length then .next { s with fe := { s.fe with pushes := if s.fe.pushes.contains (src, g) then s.fe.pushes else s.fe.pushes ++ [(src, g)] } }
  else .next { s with fe := { drop with triggers := s.fe.triggers ++ [g] } }

/-- A run as it starts: level 0 over the whole graph. -/
def runStart (bytes : Nat) : Stream' :=
  { Stream'.init with levels := [{ base := 0, pos := 0, left := bytes, loopStart := 0, loopLeft := 0, loopBody := 0, loopDone := 0, loopPasses := 0, skip := 0 }] }

/-- GRAPH_RUN_START (R424, R425): the trigger at the head is popped, unless its graph is running. -/
def execGraphRunStart (s : State) : Out :=
  match s.fe.triggers with
  | [] => .next s
  | g :: t =>
    match s.fe.graphs[g] with
    | none => .next ({ s with fe := { s.fe with triggers := t } }.graphErr g)
    | some x =>
      if x.run.isSome then .next s
      else .next ({ s with fe := { s.fe with triggers := t } }.updGraph g fun x => { x with run := some (runStart (8 * x.words.length)) })

/-- Whether a run is at its end: normally, or cancelled (R425, R426). -/
def Stream'.over (e : Stream') : Bool := e.failed || !e.cancelled.isEmpty || (e.ending && e.settled)

/-- Pending signals of a cancelled run are written with ERRVAL, oldest first. -/
def writeErrors (g : GraphIx) : List PendSignal → State → State
  | [], s => s
  | p :: t, s => writeErrors g t (s.writeSignal (.graph g) { p with error := true }).1

/-- GRAPH_RUN_END (R425, R426): a run ends; a cancelled one cancels its pending launches, writes its pending signals with ERRVAL and sets FE_GERR. -/
def execGraphRunEnd (g : GraphIx) (s : State) : Out :=
  match s.fe.graphs[g].bind (·.run) with
  | none => .next s
  | some e =>
    if !e.over then .next s
    else if e.failed || !e.cancelled.isEmpty then
      let s := s.cancelPending g
      let s := writeErrors g e.pending s
      let s := (s.faultRec none 5 g.val 0 false 0 e.at' e.failTag.toNat 0).graphErr g
      .next (s.updGraph g fun x => { x with run := none })
    else .next (s.updGraph g fun x => { x with run := none })

/-! ### Mailboxes (R427, R428) -/

/-- A message pushed into a mailbox of 16, or left with its sender (R136, R427). -/
def State.pushMessage (s : State) (dst : Fin 8) (m : Message) : State :=
  if 16 ≤ s.fe.mailboxes[dst].length || s.fe.outbox.any (fun o => o.1 == dst && o.2.src == m.src) then { s with fe := { s.fe with outbox := s.fe.outbox ++ [(dst, m)] } }
  else { s with fe := { s.fe with mailboxes := s.fe.mailboxes.set dst (s.fe.mailboxes[dst] ++ [m]) } }

/-- MAILBOX_MESSAGE (R427): a message with the next sequence number of its sender and receiver; a core has no mailbox from itself. -/
def execMailboxMessage (src dst : Fin 8) (typ : Byte) (a b c : Word) (s : State) : Out :=
  if src = dst then .next s else
  let k : Fin 64 := ⟨src.val * 8 + dst.val, by omega⟩
  let m : Message := { src, typ, seq := s.fe.mailSeq[k], a, b, c }
  .next ({ s with fe := { s.fe with mailSeq := s.fe.mailSeq.set k (s.fe.mailSeq[k] + 1) } }.pushMessage dst m)

/-- In a tick each firmware core first takes its oldest message (R136, R427). -/
def State.mailTick (s : State) : State := { s with fe := { s.fe with mailboxes := s.fe.mailboxes.map fun m => m.drop 1 } }

/-- Senders below a number retry, in ascending core number (R136, R427). -/
def State.mailRetry (s : State) (below : Nat) : State :=
  let (retry, stay) := s.fe.outbox.partition fun o => decide (o.2.src.val < below)
  (sortBy (fun o => o.2.src.val) retry).foldl (fun s o => s.pushMessage o.1 o.2) { s with fe := { s.fe with outbox := stay } }

/-! ### What the front end does in a tick -/

/-- Runs at their end, the trigger at the head, and the pushes, in ascending source number. -/
def State.graphDues (s : State) : List Instr :=
  ((List.finRange 64).filter fun g => match s.fe.graphs[g].bind (·.run) with | some e => e.over | none => false).map Instr.graphRunEnd ++
  (if s.fe.triggers.isEmpty then [] else [.graphRunStart]) ++
  (sortBy (fun p => p.1.val) s.fe.pushes).map fun p => .graphTrigger p.1 p.2

end Sys2Proof.Machine
end

