-- ==== Sys2Proof/Machine/Trace.lean ====
section
/-! DEFINITION. The trace and debug engine: the Cellar (R431 to R437), the retention store (R440), replay (R441), exports (R443 to R445), profiling (R446 to R448), `tstop` (R450) and debug (R451 to R457). -/

namespace Sys2Proof.Machine

/-! ### The Cellar (R431 to R434, R437, R440) -/

def cellarWords : Nat := 4194304

/-- Ring order (R434): event tick, core of the place word, sequencer; last the records that name no core, by type. A BOOT record is the first of its ring (R440). -/
def Rec.key (r : Rec) : Nat :=
  if r.typ = 0x15 then 0 else r.tick * 1024 + match r.place with
    | some w => if bit w.toNat 31 then 512 + r.typ.toNat else bits w.toNat 16 6 * 8 + bits w.toNat 28 3
    | none => 512 + r.typ.toNat

/-- A header word (R432). -/
def header (typ len seq tick : Nat) : Word := w64 (2 ^ 63 + typ * 2 ^ 56 + len * 2 ^ 48 + seq % 2 ^ 16 * 2 ^ 32 + tick % 2 ^ 32)

/-- The words of a record with its sequence number (R432). -/
def Rec.image (r : Rec) (seq : Nat) : List Word :=
  header r.typ.toNat r.words seq r.tick :: w64 (r.tick % 2 ^ 63) :: (match r.place with | some p => [p] | none => []) ++ r.payload

/-- Words of a ring written from a position on. -/
def putWords : Sparse Word → Nat → List Word → Sparse Word
  | m, _, [] => m
  | m, p, w :: ws => putWords (sparsePut 0 m p w) (p + 1) ws

/-- Words placed in the Cellar and, but while retained records stand there, in the retention store (R433, R440). -/
def TraceState.put (t : TraceState) (ws : List Word) : TraceState :=
  { t with ring := putWords t.ring t.wptr.toNat ws, wptr := t.wptr + BitVec.ofNat 22 ws.length, cseq := t.cseq + 1,
           retention := if t.retentionHeld then t.retention
                        else sparsePut [] t.retention (t.cseq.toNat % 4096) (ws ++ List.replicate (32 - ws.length) 0) }

/-- The words to the ring's end, where a record would pass it (R433). -/
def TraceState.skipFor (t : TraceState) (r : Rec) : Nat :=
  let room := cellarWords - t.wptr.toNat
  if room < r.words then room else 0

/-- The SKIP record before a record that would pass the ring's end (R433). -/
def TraceState.skip (t : TraceState) (r : Rec) : TraceState :=
  let room := t.skipFor r
  if room = 0 then t else t.put (header 0 room t.cseq.toNat r.tick :: List.replicate (room - 1) 0)

/-- A record placed at the write position, behind its SKIP (R433). -/
def TraceState.place (t : TraceState) (r : Rec) : TraceState := let t := t.skip r; t.put (r.image t.cseq.toNat)

/-- What the writer does in a tick with the records of the buffer: it places whole records of at most n words in all, SKIP included, each 256 ticks after its
event tick (R433, R434); and the records placed. A SKIP is placed without its record where the words left hold the SKIP alone. -/
def TraceState.write (now : Nat) : List Rec → Nat → TraceState → TraceState × List Rec
  | [], _, t => (t, [])
  | r :: rest, n, t =>
    let skip := t.skipFor r
    if now < r.tick + 256 then (t, [])
    else if skip + r.words ≤ n then let (t, l) := TraceState.write now rest (n - skip - r.words) (t.place r); (t, r :: l)
    else if skip ≤ n then (t.skip r, [])
    else (t, [])

/-! ### Replay (R441) -/

/-- Types whose third word is a place word (R435, R436). -/
def placeType (typ : Nat) : Bool := (1 ≤ typ && typ ≤ 9) || typ == 0x0B || typ == 0x0E || typ == 0x13

/-- The replay stops at a difference (R441): TR_RPSTAT latches it with the recorded record's sequence number, and every launch freezes. -/
def State.mismatch (s : State) (seq typ : Nat) : State :=
  let s := { s with tr := { s.tr with rpActive := false, rpMismatch := true, rpSeq := BitVec.ofNat 16 seq, rpType := BitVec.ofNat 7 typ } }
  let s := s.faultRec none 7 typ 0 false 0 0 0 seq
  s.launches.foldl (fun s l => s.raiseCause l.num 0 none) s

/-- A record of the bench unit is compared with its recorded counterpart, all but SEQ (R441); the records of a launch that was stopped are not (R457). One with no
counterpart left is a difference, with the sequence number 0 (DESIGN CHOICE, log entry 63). -/
def State.compareRecord (s : State) (r : Rec) : State :=
  let skip (n : LaunchNo) : Bool := s.tr.rpSkip.contains n
  if !s.tr.rpActive || !replayClass r.typ.toNat || (placeType r.typ.toNat && (match r.place with | some w => skip (w.setWidth 16) | none => false)) then s else
  let left := (s.tr.rpRecords.filter fun k => replayClass (recType k)).drop s.tr.rpPos
  let n := (left.takeWhile fun k => placeType (recType k) && skip (recLaunch k)).length
  match (left.drop n).head? with
  | none => s.mismatch 0 r.typ.toNat
  | some k =>
    let strip (l : List Word) : List Word := match l with | h :: t => w64 (h.toNat / 2 ^ 48 * 2 ^ 48 + h.toNat % 2 ^ 32) :: t | [] => []
    if strip (r.image 0) = strip k then { s with tr := { s.tr with rpPos := s.tr.rpPos + n + 1 } } else s.mismatch (bits (recWord k 0) 32 16) (recType k)

/-- What a replay injects in a tick (R76, R441): halting freezes at their first frozen tick, and the recorded mode and level requests at their event ticks. -/
def State.injectReplay (s : State) : State :=
  if !s.tr.rpActive then s else
  let s := (s.recorded 0x06).foldl (fun s r =>
    if recWord r 4 ≠ s.tick then s else
    [1, 2].foldl (fun s k =>
      if bit (recWord r 3) k then
        s.updLaunch (recLaunch r) fun l => { l with causes := l.causes ++ [⟨k, s.tick - 24, some (s.tick + bits (recWord r 3) 8 55 - 24)⟩] }
      else s) s) s
  let s := (s.recorded 0x02).foldl (fun s r =>
    if recTick r ≠ s.tick then s else
    let w := recWord r 3
    let src := bits w 14 2
    if src = 3 then s.levelRequest (recLaunch r) (BitVec.ofNat 2 (bits w 10 2))
    else s.modeRequest (recLaunch r) (BitVec.ofNat 4 (bits w 6 4)) (bit w 16) (if src = 0 then 2 else if src = 1 then 1 else 0)) s
  (s.recorded 0x0B).foldl (fun s r => if recTick r = s.tick then s.levelRequest (recLaunch r) (BitVec.ofNat 2 (bits (recWord r 3) 2 2)) else s) s

/-- Recorded cancellations of a tick that nothing of the replay itself has brought (R441). -/
def State.injectCancels (s : State) : State :=
  (s.recorded 0x08).foldl (fun s r =>
    let d : BitVec 16 := BitVec.ofNat 16 (bits (recWord r 3) 45 16)
    if recTick r = s.tick && bit (recWord r 3) 44 && s.launches.any (fun l => l.fdom == d && l.stage != .placed) then
      (s.record { typ := 0x08, tick := s.tick, place := r[2]?, payload := r.drop 3, trace := false }).cancelDomain d
    else s) s

/-- The wall time at a tick that the recorded PTPADJ records give (R48), in units of 2^-32 ns: `from'` is the tick reached, `inc` the increment there. -/
def wallFrom : List (List Word) → Nat → Nat → Int → Nat → Int × Nat
  | [], from', inc, wall, t => (wall + inc * (t - from'), inc)
  | r :: rest, from', inc, wall, t =>
    if t < recTick r then (wall + inc * (t - from'), inc) else
    let wall := wall + inc * (recTick r - from')
    let step : Int := if bit (recWord r 3) 40 then (BitVec.ofNat 63 (recWord r 4)).toInt * 2 ^ 32 else 0
    wallFrom rest (recTick r) (bits (recWord r 3) 0 40) (wall + step) t

/-- The servo state that a replay records (R47, R436): of an INGRESS record whose first tick this is, else of the last PTPADJ record. -/
def State.replayServo (s : State) : Servo :=
  let servoOf (k : Nat) : Servo := if k = 0 then .free else if k = 1 then .pps else if k = 2 then .locked else .holdover
  match (s.recorded 0x03).find? fun r => recWord r 5 == s.tick with
  | some r => servoOf (bits (recWord r 3) 34 2)
  | none => (s.recorded 0x0A).foldl (fun v r => if recTick r ≤ s.tick then servoOf (bits (recWord r 2) 40 2) else v) .free

/-- The wall-time register under replay (R48), with the servo state. -/
def State.replayWall (s : State) : State :=
  if !s.tr.rpActive then s else
  let (wall, inc) := wallFrom (s.recorded 0x0A) 0 incNominal.toNat 0 s.tick
  let w : BitVec 96 := BitVec.ofInt 96 wall
  { s with tm := { s.tm with ns := w.extractLsb' 32 64, frac := w.extractLsb' 0 32, inc := BitVec.ofNat 40 inc, incNew := none, servo := s.replayServo } }

/-! ### The steps of the writer -/

/-- CELLAR_RECORD_PLACE (R433, R434, R441): the records whose time has come are placed, each compared under replay. -/
def execCellarRecordPlace (s : State) : Out :=
  let sorted := sortBy Rec.key s.tr.buffer
  let (tr, now) := TraceState.write s.tick sorted 32 s.tr
  let s := { s with tr := { tr with buffer := sorted.drop now.length } }
  .next (now.foldl State.compareRecord s)

/-- Whether a LOSS record is due (R437). -/
def TraceState.lossDue (t : TraceState) : Bool := t.waiting < 32768 && t.lossCount != 0

/-- LOSS (R437): a record of the drops since the last one, once the buffer holds fewer than 32,768 words. -/
def execLoss (s : State) : Out :=
  if !s.tr.lossDue then .next s else
  .next ({ s with tr := { s.tr with lossCount := 0 } }.record
    { typ := 0x14, tick := s.tick, place := none, payload := [w64 s.tr.lossCount.toNat], trace := false })

/-- TSTOP_EFFECT (R450): the `tstop`s whose tick has come; a later one replaces a pending stop. -/
def execTstopEffect (s : State) : Out :=
  let one (t : TraceState) (e : Nat × Bool) : TraceState :=
    if e.2 then { t with tron := true, stopAfter := none }
    else if t.post = 0 then { t with tron := false, stopAfter := none } else { t with stopAfter := some t.post.toNat }
  let t := (s.tr.tstops.filter fun e => e.1 == s.tick).foldl one s.tr
  .next { s with tr := { t with tstops := t.tstops.filter fun e => e.1 != s.tick } }

/-- The answer to a register read of 4 or 8 bytes. -/
def partBytes (p : RegPart) (v : Nat) : List Byte :=
  match p with
  | .low => leBytes 4 v
  | .high => leBytes 4 (v / 2 ^ 32)
  | .whole => leBytes 8 v

/-- The endpoint returns data to the host. -/
def State.reply (s : State) (r : Reply) : State := { s with host := { s.host with replies := s.host.replies ++ [r] } }

/-- CLOST_READ (R437, R460, R480): the count is returned, and cleared where the read covers it. -/
def execClostRead (p : RegPart) (s : State) : Out :=
  let s' := s.reply (.data (partBytes p (if s.bench then s.tr.clost.toNat else 0)))
  .next (if p = .high || !s.bench then s' else { s' with tr := { s'.tr with clost := 0 } })

/-- PLOST_READ (R447, R460, R480). -/
def execPlostRead (p : RegPart) (s : State) : Out :=
  let s' := s.reply (.data (partBytes p (if s.bench then s.tr.plost.toNat else 0)))
  .next (if p = .high || !s.bench then s' else { s' with tr := { s'.tr with plost := 0 } })

/-- RETENTION_STORE_CLEAR (R440): the retained records are gone, and the writer fills the store again. -/
def execRetentionStoreClear (s : State) : Out := .next { s with tr := { s.tr with retention := [], retentionHeld := false, retentionFrom := 0 } }

/-! ### Profiling (R447, R448) -/

/-- Bytes of the profiling ring. -/
def TraceState.profSize (t : TraceState) : Nat := 2 ^ t.psizelog.toNat

/-- One profiling record written into its ring in DRAM, behind a SKIP where it would pass the end. `words` gives it from its sequence number. -/
def State.profPut (s : State) (len tick : Nat) (words : Nat → List Word) : State :=
  let put (s : State) (ws : List Word) : State :=
    let (s, _) := s.feWrite (s.tr.pbase.toNat + s.tr.ppos) (ws.flatMap fun w => leBytes 8 w.toNat)
    { s with tr := { s.tr with ppos := (s.tr.ppos + 8 * ws.length) % s.tr.profSize, pseq := s.tr.pseq + 1 } }
  let room := (s.tr.profSize - s.tr.ppos) / 8
  let s := if room < len then put s (header 0 room s.tr.pseq.toNat tick :: List.replicate (room - 1) 0) else s
  put s (words s.tr.pseq.toNat)

/-- The PROF record of a core, but for its header (R447). -/
def State.profOf (s : State) (c : CoreIx) : List Word :=
  let n := (s.core c).launch
  w64 (s.tick % 2 ^ 63) :: s.placeCore n c 7 :: ((s.core c).counters.toList.map low63) ++
    (allSeqs.map fun q => w64 ((s.seq c q).actCur.toNat + (s.seq c q).actEntry.toNat * 2 ^ 24))

/-- Whether a sample tick has come (R447). -/
def State.profDue (s : State) : Bool := s.tr.pen && s.tr.interval != 0 && s.tick % (1024 * s.tr.interval.toNat) == 0

/-- PROF_SAMPLE (R447): one record per core; a sample still unwritten is dropped. -/
def execProfSample (s : State) : Out :=
  if !s.profDue then .next s else
  .next { s with tr := { s.tr with prof := allCores.map s.profOf, plost := BitVec.ofNat 32 (min 0xFFFFFFFF (s.tr.plost.toNat + s.tr.prof.length)) } }

/-- In each tick of a front-end slot a record of the sample goes into the ring (R119, R447). -/
def State.profTick (s : State) : State :=
  match s.tr.prof with
  | [] => s
  | ws :: rest =>
    if !isFrontSlot s.tick then s else
    { s with tr := { s.tr with prof := rest } }.profPut 17 (recWord ws 0) fun seq => header 0x16 17 seq (recWord ws 0) :: ws

/-- Whether the scan tick has come (R448). -/
def State.scanDue (s : State) : Bool := s.tick % 2 ^ 25 == 0 && s.tick != 0

/-- The side-table entries of a launch that are not 0, by index. -/
def State.sideEntries (s : State) (l : Launch) : List Nat :=
  ((s.dram.filter fun e => l.sidebase ≤ e.1 && e.1 < l.sidebase + 2 ^ 27).map fun e => (e.1 - l.sidebase) / 8).eraseDups

/-- SCAN (R448): the entries of each running launch's side table are to be read. -/
def execScan (s : State) : Out :=
  if !s.scanDue then .next s else
  let all := s.launches.flatMap fun l => if l.stage = .placed || l.cls.isSome then [] else (s.sideEntries l).map fun k => (l.num, k, l.sidebase + 8 * k)
  .next { s with tr := { s.tr with scanLeft := s.tr.scanLeft ++ all } }

/-- One side-table entry read and cleared (R117, R448); with profiling on it is recorded where a count of it is not 0. An entry with an error that cannot be corrected
stays as it is (DESIGN CHOICE, log entry 11). -/
def State.scanEntry (s : State) (e : LaunchNo × Nat × Nat) : State :=
  if s.hardError 0 0 e.2.2 8 then s else
  let s := s.softRead (placeNoCore e.1) none 0 0 e.2.2 8
  let v := readLE s.dram e.2.2 8 % 2 ^ 48
  let s := (s.feWrite e.2.2 (leBytes 8 0)).1
  if !s.tr.pen || v = 0 then s else
  s.profPut 4 s.tick fun seq => [header 0x17 4 seq s.tick, w64 (s.tick % 2 ^ 63), w64 (e.1.toNat + e.2.1 * 2 ^ 16), w64 v]

/-- A scan goes on in the translation slots (R119, R448), 64 entries in each, as a channel serves reads (R116; DESIGN CHOICE, log entry 11). -/
def State.scanTick (s : State) : State :=
  if s.tr.scanLeft.isEmpty || !isWalkSlot s.tick then s else
  (s.tr.scanLeft.take 64).foldl State.scanEntry { s with tr := { s.tr with scanLeft := s.tr.scanLeft.drop 64 } }

/-! ### Exports (R443 to R445) -/

/-- A list of bytes of exactly n. -/
def exactly (n : Nat) (l : List Byte) : List Byte := (l ++ List.replicate n 0).take n

/-- The places of the records of the Cellar, oldest first: a header in the ring has its record whole behind it (R439). -/
def TraceState.cellar (t : TraceState) : List Nat :=
  let heads := t.ring.filter fun e => bit e.2.toNat 63
  ((heads.filter fun e => t.wptr.toNat ≤ e.1) ++ heads.filter fun e => e.1 < t.wptr.toNat).map (·.1)

/-- The slots of the retained records, oldest first. -/
def TraceState.retained (t : TraceState) : List Nat :=
  if !t.retentionHeld then [] else
  ((t.retention.filter fun e => t.retentionFrom ≤ e.1) ++ t.retention.filter fun e => e.1 < t.retentionFrom).map (·.1)

/-- The record at a place of the Cellar (kind 0) or a slot of the retention store (kind 1). -/
def TraceState.recordAt (t : TraceState) (kind p : Nat) : List Word :=
  if kind = 0 then (List.range (bits (sparseGet 0 t.ring p).toNat 48 8)).map fun k => sparseGet 0 t.ring (p + k)
  else let r := sparseGet [] t.retention p; r.take (bits (recWord r 0) 48 8)

/-- The sequence number of a record (R432). -/
def recSeq (r : List Word) : Nat := bits (recWord r 0) 32 16

/-- Places with the sequence numbers of what stands there, in segments of at most 4,096 records, with sequence numbers that run on (R443, R444). -/
def segments : List (Nat × Nat) → List (List (Nat × Nat)) → List (List (Nat × Nat))
  | [], acc => acc
  | r :: rest, acc =>
    match acc.reverse with
    | seg :: before =>
      if seg.length < 4096 && (match seg.getLast? with | some k => r.2 == (k.2 + 1) % 65536 | none => true)
      then segments rest (before.reverse ++ [seg ++ [r]]) else segments rest (acc ++ [[r]])
    | [] => segments rest [[r]]

/-- One segment with its chain value and signature (R443, R444), and the chain value. -/
def segmentBytes (chain : List Byte) (index kind : Nat) (seg : List (List Word)) : List Byte × List Byte :=
  let recs := seg.flatMap fun r => r.flatMap fun w => leBytes 8 w.toNat
  let head := leBytes 4 index ++ leBytes 4 seg.length ++ leBytes 4 (seg.map List.length).sum ++ leBytes 4 kind ++
    leBytes 2 (match seg.head? with | some r => recSeq r | none => 0) ++ List.replicate 14 0
  let h := sha384 (chain ++ head ++ recs)
  (head ++ recs ++ h ++ exactly 96 (Config.sign h) ++ List.replicate 16 0, h)

/-- LIFECYCLE code (R436, R468). -/
def lifecycleCode : Lifecycle → Nat
  | .manufacture => 0
  | .vehicle => 1
  | .bench => 2

/-- The segments of an export of a tick range (R443, R445), SKIP omitted: the retained records, where there are any, all of them in segment 0; then those of the Cellar. -/
def TraceState.plan (t : TraceState) (first last : Nat) : List (Nat × List (Nat × Nat)) :=
  let entry (kind p : Nat) : Nat × Nat := (p, recSeq (t.recordAt kind p))
  let kept := (t.retained.filter fun p => recType (t.recordAt 1 p) != 0).map (entry 1)
  let wanted := t.cellar.filter fun p => let r := t.recordAt 0 p; recType r != 0 && decide (first ≤ recTick r) && decide (recTick r ≤ last)
  (if kept.isEmpty then [] else [(1, kept)]) ++ (segments (wanted.map (entry 0)) []).map fun g => (0, g)

/-- The file header (R443). -/
def State.exportHead (s : State) (first last : Nat) (segs : List (Nat × List (Nat × Nat))) : List Byte :=
  leBytes 4 0x58525459 ++ leBytes 2 1 ++ leBytes 2 (b2n (segs.any fun g => g.1 == 1)) ++ exactly 16 Config.serial ++ leBytes 8 (lifecycleCode s.host.lifecycle) ++
    leBytes 8 first ++ leBytes 8 last ++ leBytes 4 segs.length ++ leBytes 4 (segs.map fun g => g.2.length).sum ++ exactly 48 Config.keyDigest ++ List.replicate 24 0

/-- EXPORT_BUILD (R443 to R445): an export of a range of event ticks begins with its header; its segments are read one after another while recording goes on. When each
is read the manual leaves open (DESIGN CHOICE, log entry 11). -/
def execExportBuild (first last : Word) (s : State) : Out :=
  let segs := s.tr.plan first.toNat last.toNat
  let head := s.exportHead first.toNat last.toNat segs
  .next { s with fresh := s.fresh + 1, tr := { s.tr with building := s.tr.building ++ [⟨head, sha384 head, 0, segs, Config.openDelay s.fresh⟩] } }

/-- The next segment of an export is read, of records as they stand now: one that has been overwritten since is not among them (R445, R458). -/
def Build.read (t : TraceState) (b : Build) (wait : Nat) : Build :=
  match b.segs with
  | [] => b
  | (kind, seg) :: rest =>
    let recs := (seg.filter fun e => recSeq (t.recordAt kind e.1) == e.2).map fun e => t.recordAt kind e.1
    let (bytes, h) := segmentBytes b.chain b.index kind recs
    { bytes := b.bytes ++ bytes, chain := h, index := b.index + 1, segs := rest, wait }

/-- The exports in work: the first of them goes on, and leaves once every segment has been read. -/
def State.exportTick (s : State) : State :=
  match s.tr.building with
  | [] => s
  | b :: rest =>
    if b.segs.isEmpty then { s with tr := { s.tr with building := rest, exports := s.tr.exports ++ [b.bytes] } }
    else if b.wait ≠ 0 then { s with tr := { s.tr with building := { b with wait := b.wait - 1 } :: rest } }
    else { s with fresh := s.fresh + 1, tr := { s.tr with building := b.read s.tr (Config.openDelay s.fresh) :: rest } }

/-- YARETTE_EXPORT_LOAD (R441): on a bench unit the records of an export are loaded, and a replay with ON = 1 runs. -/
def execYaretteExportLoad (records : List (List Word)) (s : State) : Out :=
  if !s.bench then .next s else .next { s with tr := { s.tr with rpRecords := records, rpPos := 0, rpActive := s.tr.rpOn && !s.tr.rpMismatch } }

/-- A write of TR_RPCTL.ON (R441, R460): clearing it ends the replay and what a mismatch froze. -/
def State.writeRpctl (s : State) (on : Bool) : State :=
  if on then { s with tr := { s.tr with rpOn := true, rpActive := !s.tr.rpRecords.isEmpty && !s.tr.rpMismatch } }
  else { s with tr := { s.tr with rpOn := false, rpActive := false, rpMismatch := false },
                launches := s.launches.map fun l => { l with causes := l.causes.map fun c => if c.code = 0 && c.resolved.isNone then { c with resolved := some s.tick } else c } }

/-- REPLAY_TICK_PRESET (R41, R446, R460): the tick counter takes the value, and the counters of every core are cleared, before any launch has started. -/
def execReplayTickPreset (v : Word) (s : State) : Out :=
  if !s.bench || !s.tr.rpOn || s.fe.actSerial ≠ 1 || s.fe.queues.toList.any (fun q => q.lnCount != 0) then .next s else
  .next (State.replayWall { s with tick := v.toNat, cores := s.cores.map fun k => { k with counters := Vector.replicate 7 0 } })

/-! ### Debug (R451 to R457) -/

/-- A STOP record (R436, R453, R456), TR_DBGSTAT and the bench interrupt. After a launch's first STOP record DISPLACED stands in bit 5 (R457; DESIGN CHOICE, log
entry 63). -/
def State.stopRec (s : State) (l : Launch) (d : DebugStop) (reason : BitVec 3) (z : Nat) : State :=
  let place := if d.seq = 7 then placeNoCore l.num else s.placeCore l.num d.core d.seq
  s.record { typ := 0x13, tick := s.tick, place := some place, trace := false,
             payload := [w64 (reason.toNat + (if d.reason = 0 || d.reason = 1 then d.bp.toNat else 0) * 8 + b2n (d.again || d.stopped.isSome) * 2 ^ 5), w64 (z % 2 ^ 63)] }

/-- TR_DBGSTAT. -/
def State.dbgStat (s : State) (n : LaunchNo) (reason : BitVec 3) (stepping stopped : Bool) : State :=
  { s with tr := { s.tr with dbgLaunch := n, dbgReason := reason, dbgDisplaced := true, dbgStepping := stepping, dbgStopped := stopped } }

/-- Nothing of a stopped launch runs or is in flight (R453): region commands that wait to start stay (R454). -/
def State.quiet (s : State) (l : Launch) : Bool :=
  l.cores.all fun c =>
    let x := s.ctx c
    allSeqs.all (fun q => x.seqs[q].run.isNone && x.seqs[q].rels.isEmpty) && x.amos.isEmpty && (s.core c).heldWrites.isEmpty &&
    x.chans.toList.all (fun k => k.queue.isEmpty) &&
    x.regions.toList.all (fun g => g.port.isNone && g.round.isNone && g.flights.isEmpty) &&
    x.matrix.queue.isEmpty && x.matrix.load.isNone && x.matrix.compute.isNone && x.matrix.read.isNone &&
    x.stoch.queue.isEmpty && x.stoch.logic.isEmpty && x.stoch.gen.isEmpty && x.stoch.xfer.isEmpty && (s.core c).arrivals.isEmpty

/-- Whether tick z of a stop has come. -/
def State.stopDue (s : State) (l : Launch) : Bool :=
  match l.dstop with
  | some d => decide (d.from' ≤ s.tick) && d.stopped.isNone && l.susp.isNone && s.quiet l
  | none => false

/-- DEBUG_STOP (R453, R457): at z the STOP record is written and the bench interrupt raised. -/
def execDebugStop (n : LaunchNo) (s : State) : Out :=
  match s.launch? n with
  | none => .next s
  | some l =>
    match l.dstop with
    | none => .next s
    | some d =>
      if !s.stopDue l then .next s else
      let s := (s.stopRec l d d.reason s.tick).dbgStat n d.reason false true
      .next ((s.updLaunch n fun l => { l with dstop := some { d with stopped := some s.tick } }).irq 16)

/-- A block that a drain or step timeout abandons is held as the successor (R454, R455). -/
def SeqState.holdBlock (x : SeqState) : SeqState :=
  match x.run with
  | some r => { x with run := none, succ := some r.addr, succLoop := false }
  | none => x

/-- Whether the drain of a stop has lasted 2^20 ticks (R454). -/
def State.drainLate (s : State) (l : Launch) : Bool :=
  match l.dstop with
  | some d => d.stopped.isNone && d.reason != 7 && decide (d.from' + 2 ^ 20 ≤ s.tick) && l.susp.isNone
  | none => false

/-- DRAIN_TIMEOUT (R454): the blocks still running are abandoned and held; the STOP record will carry REASON 7. -/
def execDrainTimeout (n : LaunchNo) (s : State) : Out :=
  match s.launch? n with
  | none => .next s
  | some l =>
    if !s.drainLate l then .next s else
    let s := l.cores.foldl (fun s c => s.updCtx c fun x => { x with seqs := x.seqs.map SeqState.holdBlock }) s
    .next (s.updLaunch n fun l => { l with dstop := l.dstop.map fun d => { d with reason := 7 } })

/-- HALT (R453): a stop request from the host, in the bench state. -/
def execHalt (l : LaunchNo) (s : State) : Out :=
  match s.launch? l with
  | some x => if s.bench && x.stage != .placed then .next (s.requestStop l 3 0 0 7) else .next s
  | none => .next s

/-- The entry that a step may start: one whose start position the launch has reached (R455). -/
def Launch.stepEntry (l : Launch) (c : CoreIx) (q : SeqIx) : Option (Nat × TableEntry) :=
  if l.stepped.contains (c, q, l.ltime) then none else
  match entryAt (l.table c q) l.inPeriod with
  | some (k, e) => if e.isEnd || e.policyS then none else some (k, e)
  | none => none

/-- STEP (R455): one unit of a stopped launch is released; one with nothing to run ends its step at once. -/
def execStep (n : LaunchNo) (c : CoreIx) (u : DebugUnit) (s : State) : Out :=
  match s.launch? n with
  | none => .next s
  | some l =>
    match l.dstop with
    | none => .next s
    | some d =>
      if !s.bench || d.stopped.isNone || d.step.isSome || d.resume.isSome || l.susp.isSome || !l.cores.contains c then .next s else
      let begin' (s : State) (started : Bool) : State :=
        (s.updLaunch n fun l => { l with dstop := some { d with step := some (c, u, s.tick), started } }).dbgStat n s.tr.dbgReason true true
      let unit : Fin 8 := match u with | .seq q => ⟨q.val, by omega⟩ | .region r => ⟨r.val, by omega⟩
      let none' : State := (s.stopRec l { d with core := c, seq := unit, reason := 4 } 4 s.tick).dbgStat n 4 false true
      match u with
      | .seq q =>
        if (s.seq c q).succ.isSome || (s.seq c q).held.isSome then .next (begin' (s.updSeq c q fun x => { x with stepping := true }) false)
        else match l.stepEntry c q with
          | some (k, e) =>
            if (s.seq c q).act.isSome then .next none' else
            let s := begin' (s.updSeq c q fun x => { x with stepping := true }) true
            .next ((s.startEntry c q l k e none).updLaunch n fun l => { l with stepped := (c, q, l.ltime) :: l.stepped })
          | none => .next none'
      | .region r => if (s.ctx c).regions[r].queue.isEmpty then .next none' else .next (begin' s false)

/-- Whether the step of a stopped launch has ended (R455). -/
def State.stepOver (s : State) (l : Launch) : Bool :=
  match l.dstop with
  | some d => d.step.isSome && d.started && s.quiet l
  | none => false

/-- Whether a step has lasted 2^20 ticks (R455). -/
def State.stepLate (s : State) (l : Launch) : Bool :=
  match l.dstop with
  | some d => (match d.step with | some (_, _, t) => decide (t + 2 ^ 20 ≤ s.tick) | none => false)
  | none => false

/-- A step ends with a STOP record. -/
def State.endStep (s : State) (l : Launch) (d : DebugStop) (reason : BitVec 3) : State :=
  match d.step with
  | none => s
  | some (c, u, _) =>
    let unit : Fin 8 := match u with | .seq q => ⟨q.val, by omega⟩ | .region r => ⟨r.val, by omega⟩
    let s := (s.stopRec l { d with core := c, seq := unit, reason } reason s.tick).dbgStat l.num reason false true
    let s := s.updCtx c fun x => { x with seqs := x.seqs.map fun q => { q with stepping := false } }
    s.updLaunch l.num fun l => { l with dstop := some { d with step := none, started := false } }

/-- STEP_DONE (R455). -/
def execStepDone (n : LaunchNo) (s : State) : Out :=
  match s.launch? n with
  | none => .next s
  | some l => match l.dstop with | some d => if s.stepOver l then .next (s.endStep l d 4) else .next s | none => .next s

/-- STEP_TIMEOUT (R455): the block is abandoned and starts again at the next step or resume. -/
def execStepTimeout (n : LaunchNo) (s : State) : Out :=
  match s.launch? n with
  | none => .next s
  | some l =>
    match l.dstop with
    | some d =>
      if !s.stepLate l then .next s else
      let s := match d.step with | some (c, .seq q, _) => s.updSeq c q SeqState.holdBlock | _ => s
      .next (s.endStep l d 5)
    | none => .next s

/-- RESUME (R456): the stop ends at r, the first tick at least 24 after the write that lies a multiple of 32,768 after c + 1. -/
def execResume (n : LaunchNo) (s : State) : Out :=
  match s.launch? n with
  | none => .next s
  | some l =>
    match l.dstop with
    | none => .next s
    | some d =>
      if !s.bench || d.stopped.isNone || d.step.isSome || d.resume.isSome then .next s else
      .next (s.updLaunch n fun l => { l with dstop := some { d with resume := some (nextTurn d.from' (s.tick + 24)) } })

/-- The deadline ticks of a launch and of what runs in it move by d ticks (R52). -/
def State.shiftDeadlines (s : State) (l : Launch) (d : Nat) : State :=
  let s := l.cores.foldl (fun s c => s.updCtx c fun x => { x with seqs := x.seqs.map fun q =>
    { q with act := q.act.map fun a => { a with deadline := a.deadline + d, fbDeadline := a.fbDeadline + d } } }) s
  { s with launches := s.launches.map fun k =>
      if k.num = l.num then { k with instTick := k.instTick + d }
      else match k.window with
        | some w => if w.host = l.num then { k with instTick := k.instTick + d, window := some { w with deadline := w.deadline + d } } else k
        | none => k }

/-- The stop ends at r (R456). -/
def State.resumeDebug (s : State) (n : LaunchNo) : State :=
  match s.launch? n with
  | none => s
  | some l =>
    match l.dstop with
    | none => s
    | some d =>
      if d.resume ≠ some s.tick then s else
      let s := (s.stopRec l d 6 (d.stopped.getD s.tick)).dbgStat n 6 false false
      (s.shiftDeadlines l (s.tick - d.from')).updLaunch n fun l => { l with dstop := none }

/-- The stops, timeouts and steps that come to their end in this tick. -/
def State.debugDues (s : State) : List Instr :=
  s.launches.flatMap fun l =>
    (if s.drainLate l && !s.stopDue l then [.drainTimeout l.num] else []) ++
    (if s.drainLate l || s.stopDue l then [.debugStop l.num] else []) ++
    (if s.stepOver l then [.stepDone l.num] else if s.stepLate l then [.stepTimeout l.num] else [])

end Sys2Proof.Machine
end

