-- ==== Sys2Proof/Machine/Servo.lean ====
section
/-! DEFINITION. Wall time and the servo (R42 to R48). What rate and offset correction make of INC, and the length of a Sync interval, the manual leaves open (DESIGN CHOICE, log entry 13). -/

namespace Sys2Proof.Machine

/-- Ticks of a second (R4). -/
def second : Nat := 1900000000

/-- The limits of INC: 500 ppm about nominal (R43). -/
def incSlack : Nat := 1130255
def clampInc (v : BitVec 40) : BitVec 40 := BitVec.ofNat 40 (max (incNominal.toNat - incSlack) (min (incNominal.toNat + incSlack) v.toNat))

def State.updTime (s : State) (f : TimeState → TimeState) : State := { s with tm := f s.tm }

/-- INC written by core 4: it takes effect in the next tick (R43). -/
def State.setInc (s : State) (v : BitVec 40) : State := s.updTime fun t => { t with incNew := some (clampInc v) }

/-- A PTPADJ record (R436). -/
def State.ptpRec (s : State) (old new : BitVec 40) (step : Option Int) : State :=
  s.record { typ := 0x0A, tick := s.tick, place := none, trace := false,
             payload := [w64 (old.toNat + servoCode s.tm.servo * 2 ^ 40), w64 (new.toNat + b2n step.isSome * 2 ^ 40),
                         w64 (BitVec.ofInt 63 (step.getD 0)).toNat] }

/-- The wall time leaves its course in this tick (R467). -/
def State.notePast (s : State) : State := s.updTime fun t => { t with past := (s.tick, t.ns, t.frac, t.inc) :: t.past }

/-- The first tick of a new INC, with its record (R43). -/
def State.incTick (s : State) : State :=
  match s.tm.incNew with
  | some v => ((s.notePast.updTime fun t => { t with inc := v, incNew := none }).ptpRec s.tm.inc v none)
  | none => s

/-- Wall time as a tick passes (R42, R43). -/
def TimeState.advance (t : TimeState) : TimeState :=
  let w : BitVec 96 := (t.ns ++ t.frac : BitVec 96) + t.inc.setWidth 96
  { t with ns := w.extractLsb' 32 64, frac := w.extractLsb' 0 32 }

/-- Whether 1PPS edges are arriving. -/
def State.edgesArrive (s : State) : Bool := match s.tm.lastEdge with | some k => decide (s.tick < k + 2 * second) | none => false

/-- Whether a Sync of this offset steps the wall time (R45). -/
def State.syncSteps (s : State) (offset : Int) : Bool :=
  let first := match s.tm.lastSync with | some k => decide (k ≤ s.tm.holdFrom) | none => true
  decide (1000000 < offset.natAbs) &&
  (s.tm.servo == .free || s.tm.servo == .pps || (s.tm.servo == .holdover && decide (s.tm.holdFrom + second < s.tick) && first))

/-- PTP_SYNC (R44 to R46): the servo steps, corrects INC, or changes its state. -/
def execPtpSync (offset : Int) (s : State) : Out :=
  if s.tr.rpActive then .next s
  else if s.syncSteps offset then
    .next ((s.notePast.updTime fun t => { t with ns := t.ns + BitVec.ofInt 64 offset, goodSyncs := 0, badSyncs := 0, lastSync := some s.tick }).ptpRec s.tm.inc s.tm.inc (some offset))
  else
    let good := if offset.natAbs < 1000 then s.tm.goodSyncs + 1 else 0
    let bad := if 1000000 < offset.natAbs then s.tm.badSyncs + 1 else 0
    let s' := s.updTime fun t => { t with goodSyncs := good, badSyncs := bad, lastSync := some s.tick }
    if s.tm.servo = .locked then
      if bad < 8 then .next (s'.setInc (Config.servoInc (servoCode .locked) offset s.tm.inc))
      else
        let dest : Servo := if s.edgesArrive then .pps else .free
        let s' := s'.updTime fun t => { t with servo := dest, goodSyncs := 0, badSyncs := 0 }
        .next (s'.setInc (if dest = .free then incNominal else Config.servoInc (servoCode .pps) 0 s.tm.inc))
    else if 8 ≤ good then
      .next ((s'.updTime fun t => { t with servo := .locked, goodSyncs := 0, badSyncs := 0 }).setInc (Config.servoInc (servoCode .locked) offset s.tm.inc))
    else .next s'

/-- PPS_EDGE (R44): four seconds of edges lead from FREE, or from a HOLDOVER entered from PPS, to PPS, where each edge corrects the rate. -/
def execPpsEdge (s : State) : Out :=
  if s.tr.rpActive then .next s else
  let edges := if s.edgesArrive then s.tm.edges + 1 else 1
  let gap : Int := match s.tm.lastEdge with | some k => (s.tick : Int) - k | none => 0
  let s' := s.updTime fun t => { t with edges, lastEdge := some s.tick }
  let toPps := 4 ≤ edges && (s.tm.servo == .free || (s.tm.servo == .holdover && s.tm.fromPps))
  if toPps || s.tm.servo == .pps then .next ((s'.updTime fun t => { t with servo := .pps }).setInc (Config.servoInc (servoCode .pps) gap s.tm.inc))
  else .next s'

/-- Whether Syncs or edges have failed for as long as R44 says. -/
def State.holdoverDue (s : State) : Bool :=
  match s.tm.servo with
  | .locked => (match s.tm.lastSync with | some k => decide (k + 3 * Config.syncInterval ≤ s.tick) | none => false)
  | .pps => !s.edgesArrive
  | _ => false

/-- HOLDOVER (R44): INC is held as it was, and Syncs counted in PPS go on counting. -/
def execHoldover (s : State) : Out :=
  if !s.holdoverDue || s.tr.rpActive then .next s
  else .next (s.updTime fun t =>
    { t with servo := .holdover, fromPps := t.servo == .pps, holdFrom := s.tick, edges := 0, badSyncs := 0, goodSyncs := if t.servo == .pps then t.goodSyncs else 0 })

/-- Whether HOLDOVER has lasted 60 s. -/
def State.expiryDue (s : State) : Bool := s.tm.servo == .holdover && decide (s.tm.holdFrom + 60 * second ≤ s.tick)

/-- HOLDOVER_EXPIRY (R44): FREE, with INC nominal. The edges counted before do not count toward PPS (DESIGN CHOICE, log entry 63). -/
def execHoldoverExpiry (s : State) : Out :=
  if !s.expiryDue || s.tr.rpActive then .next s else .next ((s.updTime fun t => { t with servo := .free, edges := 0 }).setInc incNominal)

/-- INC_WRITE (R43). -/
def execIncWrite (v : BitVec 40) (s : State) : Out := if s.tr.rpActive then .next s else .next (s.setInc v)

/-- The wall time at a tick (R467): on the course that it had then; under replay as the recorded PTPADJ records give it (R48). -/
def State.wallAt (s : State) (t : Nat) : Word :=
  if s.tr.rpActive then (BitVec.ofInt 96 (wallFrom (s.recorded 0x0A) 0 incNominal.toNat 0 t).1).extractLsb' 32 64 else
  let back (now : Nat) (ns : Word) (frac : Word32) (inc : BitVec 40) : Word := ((ns ++ frac : BitVec 96) - BitVec.ofNat 96 ((now - t) * inc.toNat)).extractLsb' 32 64
  match (s.tm.past.filter fun e => decide (t < e.1)).getLast? with
  | some e => back e.1 e.2.1 e.2.2.1 e.2.2.2
  | none => back s.tick s.tm.ns s.tm.frac s.tm.inc

/-- PTM_DIALOGUE (R467): the ticks at which the request left and the response arrived, with the wall time at each. -/
def execPtmDialogue (t1 t4 : Word) (s : State) : Out :=
  .next { s with host := { s.host with ptmT1 := t1, ptmT4 := t4, ptmW1 := s.wallAt t1.toNat, ptmW4 := s.wallAt t4.toNat } }

end Sys2Proof.Machine
end

