-- ==== Sys2Proof/Machine/Health.lean ====
section
/-! DEFINITION. Degradation (R38 to R40), the throttle levels and the thermal trip (R475), the safety monitor (R473). -/

namespace Sys2Proof.Machine

/-- A HEALTH record (R436): what was lost, where, and the affected field after the change. -/
def State.healthRec (s : State) (kind where' after : Nat) : State :=
  s.record { typ := 0x11, tick := s.tick, place := none, trace := false, payload := [w64 (kind + where' % 2 ^ 16 * 16), w64 (after % 2 ^ 63)] }

def State.updHealth (s : State) (f : Health → Health) : State := { s with health := f s.health }

/-- Whether a launch, running, placed or suspended, holds a core. -/
def State.coreHeld (s : State) (c : CoreIx) : Bool := (s.core c).launch != 0 || (s.core c).attic.isSome || s.launches.any fun l => l.occupies c

/-- CORE_MARKED_DEFECTIVE (R38, R39): placement avoids the core from now on. A launch on it runs to its end unless a fault in the core cancels it, and the core is
defective once that launch is gone; the record shows the map with the marked cores (DESIGN CHOICE, log entry 43). -/
def execCoreMarkedDefective (c : CoreIx) (s : State) : Out :=
  let s := s.updHealth fun h => if s.coreHeld c then { h with marked := setBit h.marked c } else { h with defective := setBit h.defective c }
  .next (s.healthRec 0 c (s.health.defective ||| s.health.marked).toNat)

/-- CHANNEL_FENCED (R38, R39): each launch switches to the variant for the new mask at its next mode-change point. -/
def execChannelFenced (ch : DramChan) (s : State) : Out :=
  let s := s.updHealth fun h => { h with fenced := setBit h.fenced ch }
  let s : State := { s with launches := s.launches.map fun (l : Launch) => { l with chmaskNew := true } }
  .next (s.healthRec 1 ch s.health.fenced.toNat)

/-- Whether a launch spans the seam that a link joins (R33, R39): the x seam by links 0 and 1, the y seam by 2 and 3. A hall link is used by its hall routes. -/
def Launch.spans (l : Launch) (link : Fin 8) : Bool :=
  match link.val with
  | 0 => l.img.sx != 0 && decide (l.oy < 4)
  | 1 => l.img.sx != 0 && decide (4 < l.oy + l.img.height)
  | 2 => l.img.sy != 0 && decide (l.ox < 4)
  | 3 => l.img.sy != 0 && decide (4 < l.ox + l.img.width)
  | _ => l.usesLink link

/-- The declared minimum of modules on such a seam. -/
def Launch.minModules (l : Launch) (link : Fin 8) : Nat := if link.val < 2 then l.img.xmin else if link.val < 4 then l.img.ymin else 1

/-- Launches cancelled by health in a tick (R39, R40): one that is already gone is not cancelled again. A launch that is placed and has not reached its origin tick
runs nothing: it alone is cancelled, with its FAULT record (DESIGN CHOICE, log entry 43). -/
def State.cancelWhere (s : State) (p : Launch → Bool) : State :=
  (s.launches.filter fun l => l.cls.isNone && p l).foldl (fun s l =>
    match s.launch? l.num with
    | some k => if k.stage = .placed then (s.faultRec (some (placeNoCore k.num)) 6 0 0 true k.fdom 0 k.tag.toNat 0).endLaunch k.num true else s.healthCancel k.num
    | none => s) s

/-- The spare lanes of a link's modules once one of them is lost: the modules in service are the first ones. -/
def dropModule (v : Vector (BitVec 3) 4) (k : Fin 4) : Vector (BitVec 3) 4 :=
  Vector.ofFn fun j => if j < k then v[j] else v.toList.getD (j.val + 1) 0

/-- A module of a link is lost (R39): in this tick no lane of the link takes a spare any more (R40), and launches whose minimum is no longer met are cancelled in this tick. -/
def State.loseModule (s : State) (link : Fin 8) (k : Fin 4) : State :=
  let s := s.updHealth fun h => { h with modules := h.modules.set link (h.modules[link] - 1), spares := h.spares.set link (dropModule h.spares[link] k),
                                              dropNow := setBit h.dropNow link }
  let s := s.healthRec 3 link s.health.modules[link].val
  s.cancelWhere fun l => l.spans link && decide (s.linkWidth link < l.minModules link)

/-- Which of a link's modules in service an event of this tick strikes (DESIGN CHOICE, log entry 43). -/
def State.struck (s : State) (link : Fin 8) : Fin 4 :=
  ⟨(Config.laneModule (8 * s.tick + link.val)).val % max 1 (min 4 s.health.modules[link].val), Nat.lt_of_lt_of_le (Nat.mod_lt _ (by omega)) (by omega)⟩

/-- Whether the module that an event strikes has a spare lane left, of its four (R39). -/
def State.spareLeft (s : State) (link : Fin 8) : Bool := !s.health.dropNow.getLsbD link && decide (s.health.spares[link][s.struck link].toNat < 4)

/-- The spare lanes in use on a link, over its modules (R468). -/
def Health.sparesUsed (h : Health) (link : Fin 8) : Nat := (h.spares[link].toList.map BitVec.toNat).sum

/-- UCIE_MODULE_LOST (R39). -/
def execUcieModuleLost (link : Fin 8) (s : State) : Out :=
  if s.health.modules[link] = 0 then .next s else .next (s.loseModule link (s.struck link))

/-- UCIE_LANE_LOST (R39): a spare of the lane's module takes its place in a repair step, whose length up to 4,096 ticks the manual leaves open (DESIGN CHOICE,
log entry 11); with no spare left the module is lost. A lane of a module that has been lost in
this tick changes nothing more (R40). -/
def execUcieLaneLost (link : Fin 8) (s : State) : Out :=
  if s.health.modules[link] = 0 then .next s
  else if s.spareLeft link then
    let k := s.struck link
    let d := Config.openDelay s.fresh
    let s := { s with fresh := s.fresh + 1 }.updHealth fun h => { h with spares := h.spares.set link (h.spares[link].set k (h.spares[link][k] + 1)) }
    .next ((s.healthRec 2 link (s.health.sparesUsed link)).retrainStep link d)
  else if s.health.dropNow.getLsbD link then .next s
  else .next (s.loseModule link (s.struck link))

/-- INTER_DIE_LINK_LOST (R39): every launch that spans the link is cancelled in this tick. -/
def execInterDieLinkLost (link : Fin 8) (s : State) : Out :=
  let s := s.updHealth fun h => { h with linkLost := setBit h.linkLost link }
  .next ((s.healthRec 4 link s.health.linkLost.toNat).cancelWhere fun l => l.spans link)

/-! ### Power of the work dies (R474) -/

/-- A work die is switched off: its cores, its Pantry and its LPDDR 6 lose what they hold. -/
def State.cutDie (s : State) (d : Fin 4) : State :=
  { s with host := { s.host with dieOff := setBit s.host.dieOff d },
           cores := vecMap s.cores fun c k => if h : c < 64 then (if coreDie ⟨c, h⟩ = d then .init else k) else k,
           dies := s.dies.set d ⟨[], [], [], []⟩,
           dram := s.dram.filter fun e => !(d.val * 2 ^ 35 ≤ e.1 && e.1 < (d.val + 1) * 2 ^ 35) }

/-- A die that health has fenced whole: every core defective and every channel fenced (DESIGN CHOICE, log entry 43). -/
def Health.dieFenced (h : Health) (d : Fin 4) : Bool :=
  (allCores.all fun c => coreDie c != d || h.defective.getLsbD c) && (List.range 8).all fun k => h.fenced.getLsbD (8 * d.val + k)

/-- Dies that health has fenced whole are switched off. -/
def State.dieTick (s : State) : State :=
  if s.health.fenced = 0 then s else
  (List.finRange 4).foldl (fun s d => if s.health.dieFenced d && !s.host.dieOff.getLsbD d then s.cutDie d else s) s

/-! ### Throttle levels and the trip (R475) -/

/-- The threshold of a level in degrees Celsius. -/
def threshold (level : Nat) : Int := 90 + 5 * level

/-- Core 7 asks every running launch for a level; new launches start at it (R53, R62). -/
def State.askLevel (s : State) (v : Nat) : State :=
  let s := { s with host := { s.host with level := BitVec.ofNat 2 v } }
  s.launches.foldl (fun s l => if l.stage = .placed || l.cls.isSome then s else s.levelRequest l.num (BitVec.ofNat 2 v)) s

/-- The level that a temperature calls for. -/
def levelFor (t : Int) : Nat := if threshold 3 ≤ t then 3 else if threshold 2 ≤ t then 2 else if threshold 1 ≤ t then 1 else 0

/-- When the temperature began to stay 5 degrees below the present level's threshold. -/
def State.cooling (s : State) : State :=
  let cool := s.host.level != 0 && decide (s.host.celsius ≤ threshold s.host.level.toNat - 5)
  { s with host := { s.host with coolSince := if cool then some (s.host.coolSince.getD s.tick) else none } }

/-- THERMAL_EVENT (R475): a higher level is requested at its threshold, but for a replay, which draws on no sensor (R442); at 115 degrees the trip follows. -/
def execThermalEvent (celsius : Int) (s : State) : Out :=
  let s := { s with host := { s.host with celsius } }
  let s := if s.tr.rpActive then s else (if s.host.level.toNat < levelFor celsius then s.askLevel (levelFor celsius) else s).cooling
  .next (if 115 ≤ celsius && !s.host.tripped then { s with todo := s.todo ++ [.event .thermalTrip] } else s)

/-- Whether a step back is due. -/
def State.stepBackDue (s : State) : Bool := match s.host.coolSince with | some t => decide (t + 2 ^ 30 ≤ s.tick) && s.host.level != 0 | none => false

/-- THROTTLE_STEP_BACK (R475): one level back; the 2^30 ticks start again. -/
def execThrottleStepBack (s : State) : Out :=
  if !s.stepBackDue then .next s else
  let s := s.askLevel (s.host.level.toNat - 1)
  .next { s with host := { s.host with coolSince := none } }.cooling

/-- THERMAL_TRIP (R474, R475): the thermal interrupt, FE_SMON.THERM, every launch cancelled, the work dies switched off; they stay so until the next module reset. -/
def execThermalTrip (s : State) : Out :=
  if s.host.celsius < 115 || s.host.tripped then .next s else
  let s := ({ s with host := { s.host with therm := true, smonNew := setBit s.host.smonNew 3, tripped := true } }.irq 17).cancelWhere fun _ => true
  .next ((List.finRange 4).foldl State.cutDie s)

/-! ### The safety monitor (R473) -/

/-- SMON_MREQ has been high for 64 ticks, and MREQ 0 for 64. -/
def State.mreqDue (s : State) : Bool := s.host.mreqPin && decide (64 ≤ s.host.mreqRun) && !s.host.mreq && decide (64 ≤ s.host.mreqZero)

/-- SAFETY_MODE_REQUEST (R53, R62, R473): MREQ becomes 1, and every running launch receives a request for its set's SAFEMODE with U = 1. -/
def execSafetyModeRequest (s : State) : Out :=
  if !s.mreqDue then .next s else
  let s := { s with host := { s.host with mreq := true } }
  .next (if s.tr.rpActive then s else s.launches.foldl (fun s l =>
    if l.stage = .placed || l.cls.isSome then s else s.modeRequest l.num (match l.set? with | some t => t.safemode | none => 0) true 2) s)

/-- SMON_MREQ_LOW (R473): the input has fallen, and MREQ returns to 0. -/
def execSmonMreqLow (s : State) : Out :=
  if s.host.mreqPin || !s.host.mreq then .next s else .next { s with host := { s.host with mreq := false, mreqZero := 0 } }

/-- HEARTBEAT_TOGGLE (R473): SMON_HB toggles if core 7 has written its watchdog since the last multiple of 2^20; each core's count starts anew. -/
def execHeartbeatToggle (s : State) : Out :=
  if s.tick % 2 ^ 20 ≠ 0 || s.tick = 0 then .next s else
  .next { s with host := { s.host with hb := if s.host.watchdog[7] then !s.host.hb else s.host.hb, watchdog := Vector.replicate 8 true } }

/-- WATCHDOG_MISS (R473): a firmware core has missed its watchdog. -/
def execWatchdogMiss (core : Fin 8) (s : State) : Out := .next { s with host := { s.host with wdog := true, smonNew := setBit s.host.smonNew 2, watchdog := s.host.watchdog.set core false } }

/-- SMON_ERR (R473): a cause bit of FE_SMON, or a boot failure. -/
def HostState.errCause (h : HostState) : Bool := h.therm || h.wdog || h.cancel || h.bootFailed

/-- The pins as a tick passes; whether the safety-error interrupt comes with the assertion of SMON_ERR is open (R467, R473, DESIGN CHOICE, log entry 20). -/
def State.pinTick (s : State) : State :=
  let h := s.host
  let rises := h.errCause && !h.err
  let raised := rises && Config.safetyIrq s.fresh
  let masked := bit h.msix[18].ctrl.toNat 0
  { s with
    fresh := s.fresh + b2n rises
    host := { h with mreqRun := min 64 (h.mreqRun + 1), mreqZero := if h.mreq then 0 else min 64 (h.mreqZero + 1), err := h.errCause,
                     irqs := h.irqs ++ (if raised && !masked then [18] else []),
                     pba := if raised && masked then setBit h.pba 18 else h.pba } }

end Sys2Proof.Machine
end

