-- ==== Sys2Proof/Machine/Boot.lean ====
section
/-! DEFINITION. Module reset and boot (R41, R440, R470), supply collapse (R474), lifecycle changes (R472), attestation (R471) and page moves (R117). -/

namespace Sys2Proof.Machine

/-- The retention store as it goes through a reset or a collapse (R440): what it holds stays, the oldest record first. -/
def TraceState.retain (t : TraceState) : TraceState :=
  { TraceState.init with retention := t.retention, retentionHeld := !t.retention.isEmpty,
                         retentionFrom := if t.retentionHeld then t.retentionFrom else t.cseq.toNat % 4096, exports := t.exports }

/-- The BOOT record (R436, R470). -/
def State.bootRec (s : State) (cause : BitVec 6) : State :=
  s.record { typ := 0x15, tick := s.tick, place := none, trace := false,
             payload := w64 (lifecycleCode s.host.lifecycle + cause.toNat * 4) :: digestWords (exactly 48 Config.firmwareDigest) }

/-- MODULE_RESET (R41, R440, R470, R472): every register takes its reset value, a lifecycle change takes effect, the degradation state and the retained records
stay; memories keep their contents (DEDUCED, log entry 19). The boot begins, `bootOk` telling whether the firmware image verifies. -/
def execModuleReset (cause : BitVec 6) (bootOk : Bool) (s : State) : Out :=
  let r := State.reset
  let keep (k : CoreState) : CoreState := { CoreState.init with abuf := k.abuf, wbuf := k.wbuf, cbuf := k.cbuf, blockStore := k.blockStore }
  let s' : State :=
    { r with cores := s.cores.map keep, dies := s.dies.map fun d => { d with holds := [], held := [] }, dram := s.dram, hostMem := s.hostMem, ecc := s.ecc,
             inputs := s.inputs, fresh := s.fresh, health := s.health.afterReset, tr := s.tr.retain,
             host := { r.host with lifecycle := s.host.lifecycleNext.getD s.host.lifecycle, bootCause := cause, signed := bootOk, rollback := s.host.rollback,
                                   version := s.host.version, mreqPin := s.host.mreqPin, celsius := s.host.celsius, quotes := s.host.quotes, replies := s.host.replies } }
  .next s'

/-- The boot (R470), step by step: how long each takes the manual leaves open (DESIGN CHOICE, log entry 11). An image whose signature does not verify, or with a version
below the anti-rollback counter, ends it, and only configuration space and FE_LCS are left; core 5 writes the BOOT record, and once core 1 has trained the links the
front end accepts packets. -/
def State.bootTick (s : State) : State :=
  if 5 ≤ s.host.boot || s.host.bootFailed then s
  else if s.host.bootLeft ≠ 0 then { s with host := { s.host with bootLeft := s.host.bootLeft - 1 } }
  else if s.host.boot = 1 && (!s.host.signed || decide (s.host.version < s.host.rollback)) then { s with host := { s.host with bootFailed := true } }
  else
    let s := if s.host.boot = 3 then s.bootRec s.host.bootCause else s
    { s with fresh := s.fresh + 1, host := { s.host with boot := s.host.boot + 1, bootLeft := Config.openDelay s.fresh } }

/-- SUPPLY_COLLAPSE (R440, R474): all but the retention store, the non-volatile store and the host's own memory is lost, until a module reset. -/
def execSupplyCollapse (s : State) : Out :=
  let r := State.reset
  .next { r with hostMem := s.hostMem, inputs := s.inputs, fresh := s.fresh, health := s.health.afterReset, tr := s.tr.retain,
                 host := { r.host with lifecycle := s.host.lifecycle, lifecycleNext := s.host.lifecycleNext, mreqPin := s.host.mreqPin, celsius := s.host.celsius,
                                       rollback := s.host.rollback, version := s.host.version, quotes := s.host.quotes, replies := s.host.replies, powered := false } }

/-- LIFECYCLE_CHANGE (R472): written now, taking effect at the next module reset; bench to vehicle needs no authority. -/
def execLifecycleChange (target : Lifecycle) (authorised : Bool) (s : State) : Out :=
  let ok := match s.host.lifecycle, target with
    | .manufacture, .vehicle => authorised
    | .vehicle, .bench => authorised
    | .bench, .vehicle => true
    | _, _ => false
  .next (if ok then { s with host := { s.host with lifecycleNext := some target } } else s)

/-- The degradation state in bytes: its layout the manual leaves open (DESIGN CHOICE, log entry 8). -/
def Health.bytes (h : Health) : List Byte :=
  leBytes 8 (h.defective ||| h.marked).toNat ++ leBytes 4 h.fenced.toNat ++ (h.modules.toList.flatMap fun m => leBytes 1 m.val) ++
  (h.spares.toList.flatMap fun v => v.toList.flatMap fun n => leBytes 1 n.toNat) ++ leBytes 1 h.linkLost.toNat

/-- What a quote covers (R471), in the order of the rule. -/
def State.quoteBody (s : State) (nonce : BitVec 256) : List Byte :=
  leBytes 32 nonce.toNat ++ exactly 16 Config.serial ++ leBytes 1 (lifecycleCode s.host.lifecycle) ++ exactly 48 Config.firmwareDigest ++
  sha384 s.health.bytes ++ leBytes 8 s.tick

/-- ATTESTATION_REQUEST (R471): core 6 answers with a signed quote. -/
def execAttestationRequest (nonce : BitVec 256) (s : State) : Out :=
  let body := s.quoteBody nonce
  .next { s with host := { s.host with quotes := s.host.quotes ++ [body ++ exactly 96 (Config.sign body)] } }

/-! ### Page tables seen from a physical address (R110, R111, R117, R133) -/

/-- Indices of the entries of a table that hold anything. -/
def State.tableIxs (s : State) (table : Nat) : List Nat :=
  ((s.dram.filter fun e => table ≤ e.1 && e.1 < table + 32768).map fun e => (e.1 - table) / 16).eraseDups

/-- The leaves that walks through a table's entries find (R110 to R113): physical base, size, SYSATOM; of a group of 64 its first entry alone counts (R112).
The first argument is 4 less the level. -/
def State.leaves (s : State) : Nat → Nat → List (Nat × Nat × Bool)
  | 0, _ => []
  | left + 1, table =>
    let level := 3 - left
    (s.tableIxs table).flatMap fun k =>
      match s.walkLevel (fun _ => false) table level (k * 2 ^ (52 - 11 * level)) with
      | .leaf x => [(x.phys, x.size, bit (readLE s.dram (table + 16 * if x.size = 2 ^ 25 then k / 64 * 64 else k) 8) 6)]
      | .table t => s.leaves left t
      | .fault _ => []

/-- The context of a launch's core, in the Attic while the launch has given the core up (R81). -/
def State.ctxOf (s : State) (l : Launch) (c : CoreIx) : CoreCtx :=
  match (s.core c).attic with
  | some a => if a.launch = l.num then a.ctx else s.ctx c
  | none => s.ctx c

/-- The spans that a launch maps: its range table on each core, and its page tables. -/
def State.maps (s : State) (l : Launch) : List (Nat × Nat × Bool) :=
  ((l.cores.head?.map fun c => (s.ctxOf l c).ranges).getD []).filterMap (fun e =>
    if e.valid then some (e.offset.toNat, e.limit.toNat - e.base.toNat, e.sysatom) else none) ++ s.leaves 3 l.ptroot

/-- Bytes of a span copied within DRAM: those that stand there, over a cleared destination. -/
def moveSpan (m : Memory) (src dst n : Nat) : Memory :=
  (m.filter fun e => src ≤ e.1 && e.1 < src + n).foldl (fun k e => writeByte k (dst + (e.1 - src)) e.2) (sparseClear m dst n)

/-- PAGE_MOVE (R117): a page that no running launch maps is moved, with a PAGEMV record. -/
def execPageMove (old new : BitVec 56) (size : BitVec 2) (s : State) : Out :=
  let n := if size = 0 then 2 ^ 19 else if size = 1 then 2 ^ 25 else 2 ^ 30
  let mapped := s.launches.any fun l => l.cls.isNone && (s.maps l).any fun e => meets (e.1, e.2.1) (old.toNat, n)
  if mapped then .next s else
  let s := { s with dram := moveSpan s.dram old.toNat new.toNat n }
  .next (s.record { typ := 0x12, tick := s.tick, place := none, trace := false, payload := [w64 old.toNat, w64 new.toNat, w64 size.toNat] })

end Sys2Proof.Machine
end

