-- ==== Sys2Proof/Machine/HostLink.lean ====
section
/-! DEFINITION. The host link (R463 to R468, R480): the register windows of BAR0 (R397, R460, R464, R468), BAR2 (R465), AtomicOps (R133), the link's state. -/

namespace Sys2Proof.Machine

/-! ### Register values (R5, R397, R460, R464, R468) -/

/-- A field value at a bit position. -/
def at' (v lo : Nat) : Nat := v * 2 ^ lo

/-- A set of indices as a bit mask. -/
def maskOf (n : Nat) (p : Nat → Bool) : Nat := ((List.range n).map fun k => b2n (p k) * 2 ^ k).sum

def queueIx (k : Nat) : QueueIx := ⟨k % 16, Nat.mod_lt _ (by decide)⟩
def graphIx (k : Nat) : GraphIx := ⟨k % 64, Nat.mod_lt _ (by decide)⟩

/-- A register of a queue's block (R397); WO registers read 0, and so does IDLE of a queue that is not enabled (DESIGN CHOICE, log entry 63). -/
def QueueState.reg (x : QueueState) (off : Nat) : Nat :=
  match off with
  | 0x00 => x.base.toNat
  | 0x08 => at' (b2n x.enable) 8 + x.sizelog.toNat
  | 0x10 => x.head % 2 ^ 24
  | 0x18 => x.tail.toNat
  | 0x20 => at' x.exec.pending.length 32 + at' x.reason.toNat 24 + at' ((x.exec.levels.length - 1) % 4) 16 +
      at' (b2n (x.enable && x.head == x.tail.toNat / 8 * 8 % x.ring && x.exec.pending.isEmpty && x.exec.issued.isEmpty)) 1 + b2n x.frozen
  | 0x30 => at' x.primax.toNat 8 + x.tokens.toNat
  | 0x38 => x.fault.toNat
  | _ => 0

/-- The front-end register window (R397). -/
def State.feReg (s : State) (off : Nat) : Nat :=
  if off < 0x400 then s.fe.queues[queueIx (off / 64)].reg (off % 64)
  else if off = 0x408 then maskOf 64 fun g => s.fe.graphs[graphIx g].isSome
  else if off = 0x410 then maskOf 64 fun g => s.graphBusy (graphIx g)
  else if off = 0x418 then s.fe.gerr.toNat
  else if 0x480 ≤ off && off < 0x500 then
    let x := s.fe.queues[queueIx ((off - 0x480) / 8)]
    at' x.lnRcb.toNat 32 + at' x.lnCount.toNat 16 + x.lnLaunch.toNat
  else 0

/-- A breakpoint register (R460). -/
def Breakpoint.reg (b : Breakpoint) : Nat :=
  at' (b2n b.en) 63 + at' (b2n b.kind) 62 + at' (b2n b.any) 61 + at' b.ix.toNat 58 + at' b.iy.toNat 55 + at' b.seq.toNat 52 + at' b.launch.toNat 32 + b.mtch.toNat

/-- The trace window (R460). -/
def TraceState.reg (t : TraceState) (off : Nat) : Nat :=
  match off with
  | 0x000 => t.wptr.toNat
  | 0x008 => t.cseq.toNat
  | 0x010 => t.clost.toNat
  | 0x018 => at' t.post.toNat 16 + b2n t.tron
  | 0x020 => t.pbase.toNat
  | 0x028 => at' t.interval.toNat 16 + at' t.psizelog.toNat 1 + b2n t.pen
  | 0x030 => t.plost.toNat
  | 0x040 => t.bps[0].reg
  | 0x048 => t.bps[1].reg
  | 0x050 => t.bps[2].reg
  | 0x058 => t.bps[3].reg
  | 0x068 => at' t.dbgLaunch.toNat 32 + at' t.dbgReason.toNat 3 + at' (b2n t.dbgDisplaced) 2 + at' (b2n t.dbgStepping) 1 + b2n t.dbgStopped
  | 0x070 => b2n t.rpOn
  | 0x080 => at' t.rpSeq.toNat 32 + at' t.rpType.toNat 8 + at' (b2n t.rpMismatch) 1 + b2n t.rpActive
  | _ => 0

/-- The hall control window (R468); the links' MODS and SPARE are there once core 1 has trained the links (R470). -/
def State.hallReg (s : State) (off : Nat) : Nat :=
  let h := s.host
  match off with
  | 0x000 => h.herr.toNat
  | 0x008 => h.ptmT1.toNat
  | 0x010 => h.ptmT4.toNat
  | 0x018 => lifecycleCode h.lifecycle
  | 0x020 => at' (b2n h.mreq) 4 + at' (b2n h.therm) 3 + at' (b2n h.wdog) 2 + at' (b2n h.cancel) 1 + b2n h.errCause
  | _ =>
    if 0x040 ≤ off && off < 0x080 then
      let n : Fin 8 := ⟨(off - 0x040) / 8 % 8, Nat.mod_lt _ (by decide)⟩
      at' h.retrain[n].toNat 32 +
        if h.boot < 5 then 0 else at' (if s.health.sparesUsed n < 16 then s.health.sparesUsed n else Config.allSpares.toNat) 8 + s.linkWidth n
    else 0

/-- The MSI-X table (R464): address, data, vector control (PRESUMED, log entry 12). -/
def HostState.msixReg (h : HostState) (off : Nat) : Nat :=
  let e := h.msix[off / 16 % 64]'(Nat.mod_lt _ (by decide))
  if off % 16 = 0 then e.addr.toNat else e.data.toNat + at' e.ctrl.toNat 32

/-- A 64-bit register of BAR0, at an offset that is a multiple of 8 (R464); `trace`: whether the trace window is open to the reader, for the host in the bench state
(R460). -/
def State.bar0 (s : State) (off : Nat) (trace : Bool := s.bench) : Nat :=
  if s.host.bootFailed then (if off = 0x3018 then s.hallReg 0x018 else 0)
  else if off < 0x1000 then s.feReg off
  else if off < 0x2000 then (if trace then s.tr.reg (off - 0x1000) else 0)
  else if off < 0x2400 then s.host.msixReg (off - 0x2000)
  else if off = 0x2800 then s.host.pba.toNat
  else if 0x3000 ≤ off && off < 0x4000 then s.hallReg (off - 0x3000)
  else 0

/-- Bits of FE_HERR (R468), noted as set in this tick (R6). -/
def State.hostErr (s : State) (k : Nat) : State := { s with host := { s.host with herr := setBit s.host.herr k, herrNew := setBit s.host.herrNew k } }

/-- Whether an access to BAR0 is of 4 or 8 bytes, naturally aligned (R465). -/
def barSizeOk (off size : Nat) : Bool := (size == 4 || size == 8) && off % size == 0

/-- The bytes that a read returns (R480). -/
def State.barBytes (s : State) (off size : Nat) (trace : Bool) : List Byte := leBytes size (s.bar0 (off / 8 * 8) trace / 2 ^ (8 * (off % 8)))

/-- What a read clears: the RC fields among the bits returned, TR_CLOST and TR_PLOST (R460, R480). -/
def State.barClears (s : State) (off : Nat) (trace : Bool) : State :=
  if !trace then s
  else if off = 0x1010 then { s with tr := { s.tr with clost := 0 } }
  else if off = 0x1030 then { s with tr := { s.tr with plost := 0 } }
  else s

/-- A host read of BAR0 (R465, R470, R480): a malformed one gets an Unsupported Request, with BADSIZE, as does after a boot failure any that does not name FE_LCS
(DESIGN CHOICE, log entry 63). -/
def State.barRead (s : State) (off size : Nat) : State :=
  if s.host.bootFailed && off / 8 * 8 ≠ 0x3018 then s.reply .unsupported
  else if !barSizeOk off size then (s.hostErr 1).reply .unsupported
  else (s.reply (.data (s.barBytes off size s.bench))).barClears off s.bench

/-- The windows that are open to the firmware cores (R460, R468). -/
def firmwareWindow (off : Nat) : Bool := (0x1000 ≤ off && off < 0x2000) || (0x3000 ≤ off && off < 0x4000)

/-- A firmware core reads a register, in every lifecycle state. -/
def State.firmwareRead (s : State) (off size : Nat) : State :=
  if !(firmwareWindow off && barSizeOk off size) then s else (s.reply (.firmware (s.barBytes off size true))).barClears off true

/-- A word of the Cellar ring read (R431): by a firmware core in every lifecycle state, by the host in the bench state. -/
def State.ringRead (s : State) (firmware : Bool) (word : Nat) : State :=
  let bytes := leBytes 8 (sparseGet 0 s.tr.ring word).toNat
  s.reply (if firmware then .firmware bytes else if s.bench then .data bytes else .unsupported)

/-! ### Register writes (R5, R6, R429, R480) -/

/-- A write of 4 or 8 bytes to a 64-bit register: the bits written, and which they are. -/
structure RegWrite where
  val : Nat
  mask : Nat
deriving DecidableEq, Repr

/-- The register with the written bits in place (R480). -/
def RegWrite.over (w : RegWrite) (old : Nat) : Nat := Nat.lor (Nat.land old (2 ^ 64 - 1 - w.mask)) w.val

/-- Whether a write reaches a bit. -/
def RegWrite.hits (w : RegWrite) (k : Nat) : Bool := bit w.mask k

def State.thenExec (o : Out) (s : State) : State := match o with | .next t => t | _ => s

/-- A write to a queue's block (R397): BASE stands while ENABLE = 1, TAIL and TOKENS keep their old value for the hardware of this tick (R429). -/
def State.writeQueueReg (s : State) (q : QueueIx) (off : Nat) (w : RegWrite) : State :=
  let x := s.fe.queues[q]
  let v := w.over (x.reg off)
  match off with
  | 0x00 => if x.enable then s else s.updQueue q fun x => { x with base := BitVec.ofNat 56 v }
  | 0x08 =>
    if !w.hits 0 then s
    else if bit v 8 then State.thenExec (execQueueEnable q (BitVec.ofNat 5 v) s) s
    else s.updQueue q fun x => { x with enable := false, sizelog := if 12 ≤ v % 32 && v % 32 ≤ 24 then BitVec.ofNat 5 v else x.sizelog }
  | 0x18 => s.updQueue q fun x => { x with tail := BitVec.ofNat 24 v, tailWas := some (x.tailWas.getD x.tail) }
  | 0x28 =>
    if bit w.val 1 then State.thenExec (execQueueDiscard q s) s
    else if bit w.val 0 then State.thenExec (execQueueResume q s) s else s
  | 0x30 => s.updQueue q fun x => { x with primax := BitVec.ofNat 8 (v / 256), tokens := BitVec.ofNat 8 v, tokWas := if w.hits 0 then some (x.tokWas.getD x.tokens) else x.tokWas }
  | _ => s

/-- A host write of FE_TRIG (R424): the push joins the others of this tick. -/
def State.pushTrigger (s : State) (src : Fin 18) (g : GraphIx) : State := { s with fe := { s.fe with pushes := s.fe.pushes ++ [(src, g)] } }

/-- A write to the trace window (R451, R458, R460). -/
def State.writeTrace (s : State) (off : Nat) (w : RegWrite) : State :=
  let v := w.over (s.tr.reg off)
  let bp (k : Fin 4) : State :=
    let b : Breakpoint :=
      { en := bit v 63, kind := bit v 62, any := bit v 61, ix := BitVec.ofNat 3 (v / 2 ^ 58), iy := BitVec.ofNat 3 (v / 2 ^ 55), seq := BitVec.ofNat 3 (v / 2 ^ 52),
        launch := BitVec.ofNat 16 (v / 2 ^ 32), mtch := BitVec.ofNat 24 v }
    { s with tr := { s.tr with bps := s.tr.bps.set k b } }
  match off with
  | 0x018 => { s with tr := { s.tr with post := BitVec.ofNat 16 (v / 2 ^ 16), tron := bit v 0 } }
  | 0x020 => { s with tr := { s.tr with pbase := BitVec.ofNat 56 v } }
  | 0x028 =>
    let n := bits v 1 5
    { s with tr := { s.tr with interval := BitVec.ofNat 32 (v / 2 ^ 16), psizelog := if 16 ≤ n && n ≤ 30 then BitVec.ofNat 5 n else s.tr.psizelog, pen := bit v 0 } }
  | 0x040 => bp 0
  | 0x048 => bp 1
  | 0x050 => bp 2
  | 0x058 => bp 3
  | 0x060 =>
    let n : LaunchNo := BitVec.ofNat 16 (w.val / 2 ^ 32)
    let c : CoreIx := ⟨bits w.val 4 6 % 64, Nat.mod_lt _ (by decide)⟩
    let u := bits w.val 10 3
    let s := if bit w.val 0 then State.thenExec (execHalt n s) s else s
    if bit w.val 2 then
      (if bit w.val 3 then (if h : u < 4 then State.thenExec (execStep n c (.region ⟨u, h⟩) s) s else s)
       else if h : u < 7 then State.thenExec (execStep n c (.seq ⟨u, h⟩) s) s else s)
    else if bit w.val 1 then State.thenExec (execResume n s) s else s
  | 0x070 => if w.hits 0 then s.writeRpctl (bit v 0) else s
  | 0x078 => State.thenExec (execReplayTickPreset (w64 w.val) s) s
  | _ => s

/-- A write to the MSI-X table (R464): an entry unmasked with its bit pending sends its message. -/
def State.writeMsix (s : State) (off : Nat) (w : RegWrite) : State :=
  let k : Fin 64 := ⟨off / 16 % 64, Nat.mod_lt _ (by decide)⟩
  let v := w.over (s.host.msixReg off)
  let e := s.host.msix[k]
  let e := if off % 16 = 0 then { e with addr := w64 v } else { e with data := BitVec.ofNat 32 v, ctrl := BitVec.ofNat 32 (bits v 32 1) }
  let s := { s with host := { s.host with msix := s.host.msix.set k e } }
  if bit e.ctrl.toNat 0 || !s.host.pba.getLsbD k then s
  else { s with host := { s.host with pba := s.host.pba &&& ~~~(BitVec.ofNat 64 (2 ^ k.val)), irqs := s.host.irqs ++ [k] } }

/-- A write to the hall control window (R468): W1C bits, of which one that the hardware sets in this tick stays (R6); a cause of SMON_ERR clears only once its
condition has ended (R473). -/
def State.writeHall (s : State) (off : Nat) (w : RegWrite) : State :=
  match off with
  | 0x000 => { s with host := { s.host with herr := (s.host.herr &&& ~~~(BitVec.ofNat 4 w.val)) ||| s.host.herrNew } }
  | 0x020 =>
    let clears (k : Nat) : Bool := bit w.val k && !s.host.smonNew.getLsbD k
    { s with host := { s.host with therm := s.host.therm && !(clears 3 && decide (s.host.celsius < 115)),
                                   wdog := s.host.wdog && !(clears 2 && s.host.watchdog.toList.all id),
                                   cancel := s.host.cancel && !clears 1 } }
  | _ => s

/-- The bits that an access of n bytes at an offset writes (R480). -/
def regWrite (a n : Nat) (value : Word) : RegWrite := ⟨value.toNat % 2 ^ (8 * n) * 2 ^ (8 * (a % 8)), (2 ^ (8 * n) - 1) * 2 ^ (8 * (a % 8))⟩

/-- REGISTER_WRITE (R5, R465, R480): a BAR0 write of 4 or 8 bytes, naturally aligned; any other is dropped, with BADSIZE. After a boot failure, and without
power, nothing is reached (R470). -/
def execRegisterWrite (off : BitVec 16) (size : BitVec 8) (value : Word) (s : State) : Out :=
  let a := off.toNat
  if s.host.bootFailed || !s.host.powered then .next s
  else if !barSizeOk a size.toNat then .next (s.hostErr 1)
  else
    let w := regWrite a size.toNat value
    let r := a / 8 * 8
    .next (
      if r < 0x400 then s.writeQueueReg (queueIx (r / 64)) (r % 64) w
      else if r = 0x400 then s.pushTrigger 0 (graphIx (w.val % 64))
      else if r = 0x418 then { s with fe := { s.fe with gerr := s.fe.gerr &&& ~~~(BitVec.ofNat 64 w.val) } }
      else if 0x1000 ≤ r && r < 0x2000 then (if s.bench then s.writeTrace (r - 0x1000) w else s)
      else if 0x2000 ≤ r && r < 0x2400 then s.writeMsix (r - 0x2000) w
      else if 0x3000 ≤ r && r < 0x4000 then s.writeHall (r - 0x3000) w
      else s)

/-- A firmware core writes a register of the trace or the hall control window, in every lifecycle state (R460, R468). -/
def State.firmwareWrite (s : State) (a size : Nat) (value : Word) : State :=
  if !(firmwareWindow a && barSizeOk a size) then s
  else if a < 0x2000 then s.writeTrace (a / 8 * 8 - 0x1000) (regWrite a size value) else s.writeHall (a / 8 * 8 - 0x3000) (regWrite a size value)

/-! ### BAR2 (R121, R465) -/

/-- Whether an access to LPDDR 6 names a fenced channel. -/
def State.fencedSpan (s : State) (a n : Nat) : Bool := (List.range 32).any fun k => s.health.fenced.getLsbD k && decide (k * 2 ^ 32 < a + n) && decide (a < (k + 1) * 2 ^ 32)

/-- Whether it names the LPDDR 6 of a work die that is switched off, which answers nothing (R474; DESIGN CHOICE, log entry 43). -/
def State.offSpan (s : State) (a n : Nat) : Bool := (List.finRange 4).any fun d => s.host.dieOff.getLsbD d && decide (d.val * 2 ^ 35 < a + n) && decide (a < (d.val + 1) * 2 ^ 35)

/-- HOST_BAR2_READ (R465): data, or Unsupported Request on a fenced channel, or Completer Abort at an error that cannot be corrected. -/
def execHostBar2Read (addr : BitVec 37) (len : BitVec 10) (s : State) : Out :=
  let a := addr.toNat
  let n := len.toNat
  if s.host.bootFailed || !s.host.powered then .next s
  else if s.fencedSpan a n then .next ((s.hostErr 2).reply .unsupported)
  else if s.offSpan a n then .next (s.reply .unsupported)
  else if s.hardError 0 0 a n then .next ((s.hostErr 3).reply .abort)
  else .next ((s.softRead (placeNoCore 0) none 0 0 a n).reply (.data (readBytes s.dram a n)))

/-- HOST_BAR2_WRITE (R121, R465): bytes in DRAM; one that covers part of a burst with an error that cannot be corrected is dropped whole. -/
def execHostBar2Write (addr : BitVec 37) (data : List Byte) (s : State) : Out :=
  let a := addr.toNat
  if s.host.bootFailed || !s.host.powered then .next s
  else if s.fencedSpan a data.length then .next (s.hostErr 2)
  else if s.offSpan a data.length then .next s
  else match s.feWrite a data with
    | (s', true) => .next s'
    | (s', false) => .next (s'.hostErr 3)

/-- Whether a DRAM address lies in a page or range with SYSATOM = 1 of some launch (R133). -/
def State.sysatom (s : State) (a : Nat) : Bool := s.launches.any fun l => (s.maps l).any fun e => e.2.2 && decide (e.1 ≤ a) && decide (a < e.1 + e.2.1)

/-- HOST_ATOMICOP (R133, R465): FetchAdd, Swap or CAS on a SYSATOM = 1 page; Unsupported Request otherwise. -/
def execHostAtomicop (addr : BitVec 37) (op : HostAtomic) (size : BitVec 5) (operand compare : BitVec 128) (s : State) : Out :=
  let a := addr.toNat
  let n := size.toNat
  if s.host.bootFailed || !s.host.powered then .next s
  else if s.fencedSpan a n then .next ((s.hostErr 2).reply .unsupported)
  else if s.offSpan a n then .next (s.reply .unsupported)
  else if !s.sysatom a then .next (s.reply .unsupported)
  else if s.hardError 0 0 a n then .next ((s.hostErr 3).reply .abort)
  else
    let old := readLE s.dram a n
    let m := 2 ^ (8 * n)
    let new := match op with
      | .fetchAdd => (old + operand.toNat) % m
      | .swap => operand.toNat % m
      | .cas => if old = compare.toNat % m then operand.toNat % m else old
    .next ((s.softRead (placeNoCore 0) none 0 0 a n).writePhys a (leBytes n new) |>.reply (.data (leBytes n old)))

/-! ### The link (R463, R468) -/

/-- LINK_DOWN (R468). -/
def execLinkDown (s : State) : Out := .next { s.hostErr 0 with host := { (s.hostErr 0).host with linkUp := false, width := 0, rate := 0 } }

/-- LINK_TRAINING (R463): the link is up at a width and rate of its rule; no tick of a launch changes. -/
def execLinkTraining (width : BitVec 5) (gts : BitVec 8) (s : State) : Out := .next <| if !linkOk width gts then s else { s with host := { s.host with linkUp := true, width, rate := gts } }

end Sys2Proof.Machine
end

