-- ==== Sys2Proof/Machine/Dispatch.lean ====
section
/-! DEFINITION. One arm per constructor of `Instr`: each calls its own meaning. -/

namespace Sys2Proof.Machine

def exec (i : Instr) (s : State) : Host.Outcome State Fault Refusal :=
  match i with
  | .add p t u => Sys2Proof.Machine.execAdd p t u s
  | .sub p t u => Sys2Proof.Machine.execSub p t u s
  | .mul p t u => Sys2Proof.Machine.execMul p t u s
  | .mulh p t u => Sys2Proof.Machine.execMulh p t u s
  | .mulhu p t u => Sys2Proof.Machine.execMulhu p t u s
  | .div p t u => Sys2Proof.Machine.execDiv p t u s
  | .divu p t u => Sys2Proof.Machine.execDivu p t u s
  | .rem p t u => Sys2Proof.Machine.execRem p t u s
  | .remu p t u => Sys2Proof.Machine.execRemu p t u s
  | .and p t u => Sys2Proof.Machine.execAnd p t u s
  | .or p t u => Sys2Proof.Machine.execOr p t u s
  | .xor p t u => Sys2Proof.Machine.execXor p t u s
  | .shl p t u => Sys2Proof.Machine.execShl p t u s
  | .shr p t u => Sys2Proof.Machine.execShr p t u s
  | .sra p t u => Sys2Proof.Machine.execSra p t u s
  | .min p t u => Sys2Proof.Machine.execMin p t u s
  | .minu p t u => Sys2Proof.Machine.execMinu p t u s
  | .max p t u => Sys2Proof.Machine.execMax p t u s
  | .maxu p t u => Sys2Proof.Machine.execMaxu p t u s
  | .clz p t u => Sys2Proof.Machine.execClz p t u s
  | .popcnt p t u => Sys2Proof.Machine.execPopcnt p t u s
  | .sextB p t u => Sys2Proof.Machine.execSextB p t u s
  | .sextH p t u => Sys2Proof.Machine.execSextH p t u s
  | .sextW p t u => Sys2Proof.Machine.execSextW p t u s
  | .zextB p t u => Sys2Proof.Machine.execZextB p t u s
  | .zextH p t u => Sys2Proof.Machine.execZextH p t u s
  | .zextW p t u => Sys2Proof.Machine.execZextW p t u s
  | .mov p t u => Sys2Proof.Machine.execMov p t u s
  | .not p t u => Sys2Proof.Machine.execNot p t u s
  | .teq p t u => Sys2Proof.Machine.execTeq p t u s
  | .tne p t u => Sys2Proof.Machine.execTne p t u s
  | .tlt p t u => Sys2Proof.Machine.execTlt p t u s
  | .tltu p t u => Sys2Proof.Machine.execTltu p t u s
  | .tle p t u => Sys2Proof.Machine.execTle p t u s
  | .tleu p t u => Sys2Proof.Machine.execTleu p t u s
  | .tgt p t u => Sys2Proof.Machine.execTgt p t u s
  | .tge p t u => Sys2Proof.Machine.execTge p t u s
  | .addi p imm t => Sys2Proof.Machine.execAddi p imm t s
  | .muli p imm t => Sys2Proof.Machine.execMuli p imm t s
  | .andi p imm t => Sys2Proof.Machine.execAndi p imm t s
  | .ori p imm t => Sys2Proof.Machine.execOri p imm t s
  | .xori p imm t => Sys2Proof.Machine.execXori p imm t s
  | .shli p imm t => Sys2Proof.Machine.execShli p imm t s
  | .shri p imm t => Sys2Proof.Machine.execShri p imm t s
  | .srai p imm t => Sys2Proof.Machine.execSrai p imm t s
  | .teqi p imm t => Sys2Proof.Machine.execTeqi p imm t s
  | .tnei p imm t => Sys2Proof.Machine.execTnei p imm t s
  | .tlti p imm t => Sys2Proof.Machine.execTlti p imm t s
  | .tltui p imm t => Sys2Proof.Machine.execTltui p imm t s
  | .tlei p imm t => Sys2Proof.Machine.execTlei p imm t s
  | .tleui p imm t => Sys2Proof.Machine.execTleui p imm t s
  | .tgti p imm t => Sys2Proof.Machine.execTgti p imm t s
  | .tgei p imm t => Sys2Proof.Machine.execTgei p imm t s
  | .const imm t => Sys2Proof.Machine.execConst imm t s
  | .constu imm t => Sys2Proof.Machine.execConstu imm t s
  | .shlc imm t => Sys2Proof.Machine.execShlc imm t s
  | .fan3 a b c => Sys2Proof.Machine.execFan3 a b c s
  | .fan4 a b c d => Sys2Proof.Machine.execFan4 a b c d s
  | .rdcr p num t => Sys2Proof.Machine.execRdcr p num t s
  | .wrcr p num => Sys2Proof.Machine.execWrcr p num s
  | .ldB p lsid imm t => Sys2Proof.Machine.execLdB p lsid imm t s
  | .ldH p lsid imm t => Sys2Proof.Machine.execLdH p lsid imm t s
  | .ldW p lsid imm t => Sys2Proof.Machine.execLdW p lsid imm t s
  | .ldD p lsid imm t => Sys2Proof.Machine.execLdD p lsid imm t s
  | .ldQ p lsid imm t => Sys2Proof.Machine.execLdQ p lsid imm t s
  | .stB p lsid imm => Sys2Proof.Machine.execStB p lsid imm s
  | .stH p lsid imm => Sys2Proof.Machine.execStH p lsid imm s
  | .stW p lsid imm => Sys2Proof.Machine.execStW p lsid imm s
  | .stD p lsid imm => Sys2Proof.Machine.execStD p lsid imm s
  | .stQ lsid imm => Sys2Proof.Machine.execStQ lsid imm s
  | .ldpw p w size imm t => Sys2Proof.Machine.execLdpw p w size imm t s
  | .amoaddW p lsid t => Sys2Proof.Machine.execAmoaddW p lsid t s
  | .amoaddD p lsid t => Sys2Proof.Machine.execAmoaddD p lsid t s
  | .amominW p lsid t => Sys2Proof.Machine.execAmominW p lsid t s
  | .amominD p lsid t => Sys2Proof.Machine.execAmominD p lsid t s
  | .amomaxW p lsid t => Sys2Proof.Machine.execAmomaxW p lsid t s
  | .amomaxD p lsid t => Sys2Proof.Machine.execAmomaxD p lsid t s
  | .amoswapW p lsid t => Sys2Proof.Machine.execAmoswapW p lsid t s
  | .amoswapD p lsid t => Sys2Proof.Machine.execAmoswapD p lsid t s
  | .amocasW lsid t => Sys2Proof.Machine.execAmocasW lsid t s
  | .amocasD lsid t => Sys2Proof.Machine.execAmocasD lsid t s
  | .acq p lsid t => Sys2Proof.Machine.execAcq p lsid t s
  | .rel p lsid => Sys2Proof.Machine.execRel p lsid s
  | .waitw p lsid t => Sys2Proof.Machine.execWaitw p lsid t s
  | .arrive p unit => Sys2Proof.Machine.execArrive p unit s
  | .bwait p unit t => Sys2Proof.Machine.execBwait p unit t s
  | .bro p exit off => Sys2Proof.Machine.execBro p exit off s
  | .brx p exit off => Sys2Proof.Machine.execBrx p exit off s
  | .bend p exit => Sys2Proof.Machine.execBend p exit s
  | .trap p code => Sys2Proof.Machine.execTrap p code s
  | .brk p => Sys2Proof.Machine.execBrk p s
  | .fence p t => Sys2Proof.Machine.execFence p t s
  | .nop p => Sys2Proof.Machine.execNop p s
  | .rdtick p t => Sys2Proof.Machine.execRdtick p t s
  | .rdlt p t => Sys2Proof.Machine.execRdlt p t s
  | .rdwall p t => Sys2Proof.Machine.execRdwall p t s
  | .nullst p lsid => Sys2Proof.Machine.execNullst p lsid s
  | .nullw p w => Sys2Proof.Machine.execNullw p w s
  | .cp1 p ch desc => Sys2Proof.Machine.execCp1 p ch desc s
  | .cp2 p ch desc => Sys2Proof.Machine.execCp2 p ch desc s
  | .cp3 p ch desc => Sys2Proof.Machine.execCp3 p ch desc s
  | .cpmc p ch desc => Sys2Proof.Machine.execCpmc p ch desc s
  | .cpset p ch desc => Sys2Proof.Machine.execCpset p ch desc s
  | .cpcmp p ch desc => Sys2Proof.Machine.execCpcmp p ch desc s
  | .cphash p ch desc => Sys2Proof.Machine.execCphash p ch desc s
  | .cpspill p ch desc => Sys2Proof.Machine.execCpspill p ch desc s
  | .cpunspill p ch desc => Sys2Proof.Machine.execCpunspill p ch desc s
  | .cpbind p ch desc => Sys2Proof.Machine.execCpbind p ch desc s
  | .cpchk p resv t => Sys2Proof.Machine.execCpchk p resv t s
  | .trec p sub => Sys2Proof.Machine.execTrec p sub s
  | .tmark p code => Sys2Proof.Machine.execTmark p code s
  | .thash p => Sys2Proof.Machine.execThash p s
  | .tstopStop p => Sys2Proof.Machine.execTstopStop p s
  | .tstopStart p => Sys2Proof.Machine.execTstopStart p s
  | .jtab p => Sys2Proof.Machine.execJtab p s
  | .cfgld p n => Sys2Proof.Machine.execCfgld p n s
  | .cfgact p => Sys2Proof.Machine.execCfgact p s
  | .cfgdrop p => Sys2Proof.Machine.execCfgdrop p s
  | .run p => Sys2Proof.Machine.execRun p s
  | .loop p => Sys2Proof.Machine.execLoop p s
  | .tok p port => Sys2Proof.Machine.execTok p port s
  | .rdsink p n t => Sys2Proof.Machine.execRdsink p n t s
  | .lwait p land le t => Sys2Proof.Machine.execLwait p land le t s
  | .lrel p land => Sys2Proof.Machine.execLrel p land s
  | .mtld p n range => Sys2Proof.Machine.execMtld p n range s
  | .mtldw p n range => Sys2Proof.Machine.execMtldw p n range s
  | .mtst p n range => Sys2Proof.Machine.execMtst p n range s
  | .mspill p n range => Sys2Proof.Machine.execMspill p n range s
  | .mfill p n range => Sys2Proof.Machine.execMfill p n range s
  | .mma p fmt d a => Sys2Proof.Machine.execMma p fmt d a s
  | .mmaw p fmt d a range => Sys2Proof.Machine.execMmaw p fmt d a range s
  | .mchainB p n rnd clr => Sys2Proof.Machine.execMchainB p n rnd clr s
  | .mchainE p n => Sys2Proof.Machine.execMchainE p n s
  | .mzero p n => Sys2Proof.Machine.execMzero p n s
  | .mscacc p d q rnd int => Sys2Proof.Machine.execMscacc p d q rnd int s
  | .mrd p n region => Sys2Proof.Machine.execMrd p n region s
  | .mpin p n fmt => Sys2Proof.Machine.execMpin p n fmt s
  | .munpin p n => Sys2Proof.Machine.execMunpin p n s
  | .mgdlt p n quad => Sys2Proof.Machine.execMgdlt p n quad s
  | .mfwrd p n quad => Sys2Proof.Machine.execMfwrd p n quad s
  | .mfwchunk p n quad => Sys2Proof.Machine.execMfwchunk p n quad s
  | .sand p d => Sys2Proof.Machine.execSand p d s
  | .sor p d => Sys2Proof.Machine.execSor p d s
  | .sxor p d => Sys2Proof.Machine.execSxor p d s
  | .sxnor p d => Sys2Proof.Machine.execSxnor p d s
  | .smux p d => Sys2Proof.Machine.execSmux p d s
  | .snot p d => Sys2Proof.Machine.execSnot p d s
  | .smov p d => Sys2Proof.Machine.execSmov p d s
  | .srot p d => Sys2Proof.Machine.execSrot p d s
  | .sfill p len d => Sys2Proof.Machine.execSfill p len d s
  | .scnt p acc n => Sys2Proof.Machine.execScnt p acc n s
  | .sgen p gen fromCount len d => Sys2Proof.Machine.execSgen p gen fromCount len d s
  | .sregen p gen d => Sys2Proof.Machine.execSregen p gen d s
  | .b2s p gen bipolar len d => Sys2Proof.Machine.execB2s p gen bipolar len d s
  | .b2sv p gen bipolar len d => Sys2Proof.Machine.execB2sv p gen bipolar len d s
  | .s2b p bipolar a => Sys2Proof.Machine.execS2b p bipolar a s
  | .sld p len d => Sys2Proof.Machine.execSld p len d s
  | .sst p a => Sys2Proof.Machine.execSst p a s
  | .sgset p gen => Sys2Proof.Machine.execSgset p gen s
  | .pkNop tag size => Sys2Proof.Machine.execPkNop tag size s
  | .pkLaunch tag rcb tokens dep => Sys2Proof.Machine.execPkLaunch tag rcb tokens dep s
  | .pkIb tag addr len => Sys2Proof.Machine.execPkIb tag addr len s
  | .pkPred tag addr value cond count => Sys2Proof.Machine.execPkPred tag addr value cond count s
  | .pkLoop tag count body => Sys2Proof.Machine.execPkLoop tag count body s
  | .pkWait tag addr value cond timeout => Sys2Proof.Machine.execPkWait tag addr value cond timeout s
  | .pkSignal tag addr value op after irq vector errval => Sys2Proof.Machine.execPkSignal tag addr value op after irq vector errval s
  | .pkFfence tag => Sys2Proof.Machine.execPkFfence tag s
  | .pkMode tag launch mode urgent => Sys2Proof.Machine.execPkMode tag launch mode urgent s
  | .pkGraphRun tag g => Sys2Proof.Machine.execPkGraphRun tag g s
  | .pkGraphLoad tag g addr len => Sys2Proof.Machine.execPkGraphLoad tag g addr len s
  | .pkGraphUnload tag g => Sys2Proof.Machine.execPkGraphUnload tag g s
  | .pkBind tag g cls launch => Sys2Proof.Machine.execPkBind tag g cls launch s
  | .pkUnbind tag g cls launch => Sys2Proof.Machine.execPkUnbind tag g cls launch s
  | .pkIngress tag id src dst len => Sys2Proof.Machine.execPkIngress tag id src dst len s
  | .pkCopy tag src dst len => Sys2Proof.Machine.execPkCopy tag src dst len s
  | .pkEnd tag => Sys2Proof.Machine.execPkEnd tag s
  | .endCompletion q => Sys2Proof.Machine.execEndCompletion q s
  | .pkWaitTimeout src => Sys2Proof.Machine.execPkWaitTimeout src s
  | .signalWrite src => Sys2Proof.Machine.execSignalWrite src s
  | .launchRefused src packet => Sys2Proof.Machine.execLaunchRefused src packet s
  | .queueEnable q sizelog => Sys2Proof.Machine.execQueueEnable q sizelog s
  | .queueDiscard q => Sys2Proof.Machine.execQueueDiscard q s
  | .queueResume q => Sys2Proof.Machine.execQueueResume q s
  | .graphTrigger source g => Sys2Proof.Machine.execGraphTrigger source g s
  | .graphRunStart => Sys2Proof.Machine.execGraphRunStart s
  | .graphRunEnd g => Sys2Proof.Machine.execGraphRunEnd g s
  | .mailboxMessage src dst typ a b c => Sys2Proof.Machine.execMailboxMessage src dst typ a b c s
  | .launchPlacement => Sys2Proof.Machine.execLaunchPlacement s
  | .originTick l => Sys2Proof.Machine.execOriginTick l s
  | .entryDue c q => Sys2Proof.Machine.execEntryDue c q s
  | .instanceBoundary l => Sys2Proof.Machine.execInstanceBoundary l s
  | .boundaryFreezeEnd l => Sys2Proof.Machine.execBoundaryFreezeEnd l s
  | .switchPoint l => Sys2Proof.Machine.execSwitchPoint l s
  | .urgentSwitch l => Sys2Proof.Machine.execUrgentSwitch l s
  | .overrun c q => Sys2Proof.Machine.execOverrun c q s
  | .fallbackDeadline c q => Sys2Proof.Machine.execFallbackDeadline c q s
  | .ucieRetrainStep link ticks => Sys2Proof.Machine.execUcieRetrainStep link ticks s
  | .haltingFreeze l => Sys2Proof.Machine.execHaltingFreeze l s
  | .haltingFreezeEnd l => Sys2Proof.Machine.execHaltingFreezeEnd l s
  | .preemption l => Sys2Proof.Machine.execPreemption l s
  | .drainKill c q => Sys2Proof.Machine.execDrainKill c q s
  | .swapOut c => Sys2Proof.Machine.execSwapOut c s
  | .swapOutEnd c => Sys2Proof.Machine.execSwapOutEnd c s
  | .restore l => Sys2Proof.Machine.execRestore l s
  | .engineStepRestart c u => Sys2Proof.Machine.execEngineStepRestart c u s
  | .launchResume l => Sys2Proof.Machine.execLaunchResume l s
  | .blockCommit c q => Sys2Proof.Machine.execBlockCommit c q s
  | .noexit c q => Sys2Proof.Machine.execNoexit c q s
  | .incomplete c q => Sys2Proof.Machine.execIncomplete c q s
  | .waitwWake c q n => Sys2Proof.Machine.execWaitwWake c q n s
  | .bwaitWake c q n => Sys2Proof.Machine.execBwaitWake c q n s
  | .fenceDeliver c q n => Sys2Proof.Machine.execFenceDeliver c q n s
  | .lwaitWake c q n => Sys2Proof.Machine.execLwaitWake c q n s
  | .relKeyWrite c q => Sys2Proof.Machine.execRelKeyWrite c q s
  | .barrierArrival c unit => Sys2Proof.Machine.execBarrierArrival c unit s
  | .barrierConfig c q value => Sys2Proof.Machine.execBarrierConfig c q value s
  | .slotTransfer c ch => Sys2Proof.Machine.execSlotTransfer c ch s
  | .translationWalk c ch => Sys2Proof.Machine.execTranslationWalk c ch s
  | .rangeTableInstall c ch => Sys2Proof.Machine.execRangeTableInstall c ch s
  | .completionWordWrite c ch => Sys2Proof.Machine.execCompletionWordWrite c ch s
  | .cphost c ch => Sys2Proof.Machine.execCphost c ch s
  | .regionCommandStart c r => Sys2Proof.Machine.execRegionCommandStart c r s
  | .roundEnd c r => Sys2Proof.Machine.execRoundEnd c r s
  | .matrixCommandStart c => Sys2Proof.Machine.execMatrixCommandStart c s
  | .kStepEnd c => Sys2Proof.Machine.execKStepEnd c s
  | .matrixCommandComplete c u => Sys2Proof.Machine.execMatrixCommandComplete c u s
  | .stochasticCommandStart c => Sys2Proof.Machine.execStochasticCommandStart c s
  | .stochasticEffect c u => Sys2Proof.Machine.execStochasticEffect c u s
  | .cellarRecordPlace => Sys2Proof.Machine.execCellarRecordPlace s
  | .loss => Sys2Proof.Machine.execLoss s
  | .profSample => Sys2Proof.Machine.execProfSample s
  | .scan => Sys2Proof.Machine.execScan s
  | .exportBuild first last => Sys2Proof.Machine.execExportBuild first last s
  | .tstopEffect => Sys2Proof.Machine.execTstopEffect s
  | .clostRead part => Sys2Proof.Machine.execClostRead part s
  | .plostRead part => Sys2Proof.Machine.execPlostRead part s
  | .halt l => Sys2Proof.Machine.execHalt l s
  | .step l c u => Sys2Proof.Machine.execStep l c u s
  | .resume l => Sys2Proof.Machine.execResume l s
  | .debugStop l => Sys2Proof.Machine.execDebugStop l s
  | .drainTimeout l => Sys2Proof.Machine.execDrainTimeout l s
  | .stepDone l => Sys2Proof.Machine.execStepDone l s
  | .stepTimeout l => Sys2Proof.Machine.execStepTimeout l s
  | .replayTickPreset v => Sys2Proof.Machine.execReplayTickPreset v s
  | .registerWrite off size value => Sys2Proof.Machine.execRegisterWrite off size value s
  | .hostBar2Read addr len => Sys2Proof.Machine.execHostBar2Read addr len s
  | .hostBar2Write addr data => Sys2Proof.Machine.execHostBar2Write addr data s
  | .hostAtomicop addr op size operand compare => Sys2Proof.Machine.execHostAtomicop addr op size operand compare s
  | .ptmDialogue t1 t4 => Sys2Proof.Machine.execPtmDialogue t1 t4 s
  | .linkDown => Sys2Proof.Machine.execLinkDown s
  | .ptpSync offset => Sys2Proof.Machine.execPtpSync offset s
  | .ppsEdge => Sys2Proof.Machine.execPpsEdge s
  | .holdover => Sys2Proof.Machine.execHoldover s
  | .holdoverExpiry => Sys2Proof.Machine.execHoldoverExpiry s
  | .incWrite v => Sys2Proof.Machine.execIncWrite v s
  | .coreMarkedDefective c => Sys2Proof.Machine.execCoreMarkedDefective c s
  | .channelFenced ch => Sys2Proof.Machine.execChannelFenced ch s
  | .ucieLaneLost link => Sys2Proof.Machine.execUcieLaneLost link s
  | .ucieModuleLost link => Sys2Proof.Machine.execUcieModuleLost link s
  | .interDieLinkLost link => Sys2Proof.Machine.execInterDieLinkLost link s
  | .moduleReset cause bootOk => Sys2Proof.Machine.execModuleReset cause bootOk s
  | .supplyCollapse => Sys2Proof.Machine.execSupplyCollapse s
  | .lifecycleChange target authorised => Sys2Proof.Machine.execLifecycleChange target authorised s
  | .attestationRequest nonce => Sys2Proof.Machine.execAttestationRequest nonce s
  | .safetyModeRequest => Sys2Proof.Machine.execSafetyModeRequest s
  | .heartbeatToggle => Sys2Proof.Machine.execHeartbeatToggle s
  | .watchdogMiss core => Sys2Proof.Machine.execWatchdogMiss core s
  | .thermalEvent celsius => Sys2Proof.Machine.execThermalEvent celsius s
  | .throttleStepBack => Sys2Proof.Machine.execThrottleStepBack s
  | .thermalTrip => Sys2Proof.Machine.execThermalTrip s
  | .smonMreqLow => Sys2Proof.Machine.execSmonMreqLow s
  | .hostRequestCompletion c ch ok => Sys2Proof.Machine.execHostRequestCompletion c ch ok s
  | .pageMove old new size => Sys2Proof.Machine.execPageMove old new size s
  | .retentionStoreClear => Sys2Proof.Machine.execRetentionStoreClear s
  | .yaretteExportLoad records => Sys2Proof.Machine.execYaretteExportLoad records s
  | .configurationLoadComplete c r => Sys2Proof.Machine.execConfigurationLoadComplete c r s
  | .linkTraining width gts => Sys2Proof.Machine.execLinkTraining width gts s

end Sys2Proof.Machine
end

