-- ==== Sys2Proof/Machine/Schedule.lean ====
section
/-! DEFINITION. A tick in its phases (DESIGN CHOICE, log entry 4): what falls due in each phase, what the hardware does as a phase begins and as a tick ends (R41, R42, R89, R119, R124, R134, R136, R201, R208, R240, R446), and the fetching of words and packets (R199, R398). -/

namespace Sys2Proof.Machine

/-! ### Fetching (R185, R186, R199, R398, R400, R404, R416) -/

/-- The word of a body that is to fire; a word whose encoding is refused raises ILLEGAL (R186). -/
def State.fetchWord (s : State) (c : CoreIx) (q : SeqIx) (i : Fin 32) : State × Option Instr :=
  let s := { s with focus := ⟨c, q, i⟩ }
  match (s.seq c q).run with
  | none => (s, none)
  | some r =>
    match bodyInstr q (r.word i) with
    | some ins => (s, some ins)
    | none => ((s.updRun c q (·.raise (illegal 0 i 0))).settleTrap c q, none)

/-- The present packet of a source that is ready: read, and refused where it reaches past its buffer, cannot be read or is malformed (R416). A packet that a
`pk.pred` skips has only its header looked at (R404). A `pk.wait` under way executes on the words that it began with (R402). -/
def State.fetchPacket (s : State) (src : Source) : State × Option Instr :=
  if !s.srcReady src then (s, none) else
  let s := { s with source := src, packetAt := match s.exec? src with | some e => BitVec.ofNat 56 e.at' | none => 0 }
  match (s.exec? src).bind (·.waiting) with
  | some ws => (s, packetOf ws)
  | none =>
  let s := match src with | .queue q => s.fillWindow q | .graph _ => s
  let h := s.packetDw src 0
  let n := 8 + 8 * hdrSize h
  let tag : BitVec 32 := h.extractLsb' 32 32
  match s.packetUnreadable src with
  | (s, true) => (s.packetFails 7 tag, none)
  | (s, false) =>
    if s.levelDws src < n / 8 then (s.packetFails 1 tag, none) else
    match checkHeader h, s.level? with
    | .error _, _ => (s.packetFails 1 tag, none)
    | .ok _, some l =>
      if l.skip ≠ 0 then (s.packetDone n, none)
      else match packetOf (s.packetWords src) with
        | some i => (s, some i)
        | none => (s.packetFails 1 tag, none)
    | .ok _, none => (s, none)

/-- What a step has to do, made ready: the instruction to execute, or none where it comes to nothing. -/
def State.fetch (s : State) : Work → State × Option Instr
  | .fire c q i => s.fetchWord c q i
  | .packet src => s.fetchPacket src
  | .event i => (s, some i)

/-! ### The outside world -/

/-- The row of R39 that an event belongs to: degradation events that meet in one tick are applied in the order of its rows (R40). A lane lost from a module with
no spare is a module lost. -/
def State.rankOf (s : State) : Instr → Nat
  | .coreMarkedDefective .. => 1
  | .channelFenced .. => 2
  | .ucieLaneLost link => if s.spareLeft link then 3 else 4
  | .ucieModuleLost .. => 4
  | .interDieLinkLost .. => 5
  | _ => 0

def State.rank (s : State) : Outside → Nat
  | .event (.mailboxMessage src ..) => src.val
  | .event i => 8 * s.rankOf i
  | _ => 0

/-- What may be taken of the events that have arrived, in their order: BAR2 is served in the front-end slots of R119, in arrival order (R465), and a BAR0 access
waits for the BAR2 writes before it (R466). `behind`: one of those still waits. -/
def servable (slot : Bool) : Bool → List (Nat × Outside) → List (Nat × Outside)
  | _, [] => []
  | behind, e :: rest =>
    match e.2 with
    | .event (.hostBar2Read ..) | .event (.hostAtomicop ..) => if slot then e :: servable slot behind rest else servable slot behind rest
    | .event (.hostBar2Write ..) => if slot then e :: servable slot behind rest else servable slot true rest
    | .event (.registerWrite ..) | .event (.clostRead ..) | .event (.plostRead ..) | .barRead .. => if behind then servable slot behind rest else e :: servable slot behind rest
    | _ => e :: servable slot behind rest

/-- Whether an event belongs to the engines' part of a tick: data of a host request, which meets the holds of the slots of that tick (R134). -/
def Outside.late : Outside → Bool
  | .event (.hostRequestCompletion ..) => true
  | _ => false

/-- What happens outside in the present tick and phase, of the lowest rank, and what is left. -/
def State.nextInput (s : State) : Option (Outside × List (Nat × Outside)) :=
  if s.phase ≠ .inputs && s.phase ≠ .engineEnds then none else
  let due := sortBy Prod.fst (s.inputs.filter fun e => decide (e.1 ≤ s.tick))
  match sortBy (fun e => s.rank e.2) ((servable (isFrontSlot s.tick) false due).filter fun e => e.2.late == decide (s.phase = .engineEnds)) with
  | [] => none
  | e :: _ => some (e.2, s.inputs.erase e)

/-- The block store of a launch's core as it stands, from its first byte to the last that the image or a debug write has given. -/
def State.storeBytes (s : State) (l : Launch) (c : CoreIx) : List Byte :=
  let m := (s.core c).blockStore
  readBytes m 0 (m.foldl (fun n e => max n (e.1 + 1)) (l.img.blocks.getD (l.pos c) []).length)

/-- A bench debug write to the block store of a core that runs a launch (R168): admitted where the launch, with the stores of its cores as they stand and this write,
passes the Threshold check as a new load. -/
def State.debugStore (s : State) (c : CoreIx) (addr : Nat) (bytes : List Byte) : State :=
  match s.coreLaunch? c with
  | none => s
  | some l =>
    let blocks := l.cores.foldl (fun b d =>
      let old := s.storeBytes l d
      b.set (l.pos d) (if d = c then exactly addr old ++ bytes ++ old.drop (addr + bytes.length) else old)) l.img.blocks
    let img := { l.img with blocks, extent := l.img.extent ++ blocks.flatten }
    if s.bench && decide (addr + bytes.length ≤ 2 ^ 18) && s.admitted img l.ptroot
    then s.updCore c fun k => { k with blockStore := writeBytes k.blockStore addr bytes } else s

/-- Whether the module is up (R470, R474). -/
def State.alive (s : State) : Bool := s.host.powered && !s.host.bootFailed

/-- Whether something from outside has its effect: a reset and the supply always, what reaches the endpoint while the module has power, what the firmware cores do once
the boot has released them (R470), the rest while the module is up. -/
def State.admits (s : State) : Outside → Bool
  | .event (.moduleReset ..) | .event .supplyCollapse | .mreq .. | .error .. => true
  | .event (.registerWrite ..) | .event (.hostBar2Read ..) | .event (.hostBar2Write ..) | .event (.hostAtomicop ..) | .event (.clostRead ..) | .event (.plostRead ..)
  | .event .linkDown | .event (.linkTraining ..) | .barRead .. => s.host.powered
  | .event (.mailboxMessage ..) | .event (.exportBuild ..) | .event (.ptpSync ..) | .event (.incWrite ..) | .event (.lifecycleChange ..) | .event (.attestationRequest ..)
  | .event (.thermalEvent ..) | .event (.pageMove ..) | .event .retentionStoreClear | .event (.yaretteExportLoad ..) | .firmwareRead .. | .firmwareWrite ..
  | .ringRead .. => s.alive && decide (3 ≤ s.host.boot)
  | .firmwareImage .. | .rollback .. => s.host.powered
  | _ => s.alive

/-- Something happens outside: an event is a step of its own, a memory error appears, the SMON_MREQ pin changes; the sending die refuses a send outside its slot,
and the launch's fault domain is cancelled (R469). The anti-rollback counter never falls (R470). -/
def State.takeInput (s : State) (o : Outside) : State :=
  if !s.admits o then s else
  match o with
  | .event (.mailboxMessage src dst typ a b c) => { s.mailRetry src with todo := [.event (.mailboxMessage src dst typ a b c)] }
  | .event i => { s with todo := [.event i] }
  | .error m => { s with ecc := s.ecc ++ [m] }
  | .blockStore c addr bytes => s.debugStore c addr bytes
  | .raceReport on => if s.bench then { s with host := { s.host with reportRaces := on } } else s
  | .strayedSend n => s.healthCancel n
  | .mreq high => if high = s.host.mreqPin then s else { s with host := { s.host with mreqPin := high, mreqRun := 0 } }
  | .barRead off size => s.barRead off.toNat size.toNat
  | .firmwareRead off size => s.firmwareRead off.toNat size.toNat
  | .firmwareWrite off size value => s.firmwareWrite off.toNat size.toNat value
  | .ringRead firmware word => s.ringRead firmware word.toNat
  | .firmwareImage version => { s with host := { s.host with version } }
  | .rollback counter => { s with host := { s.host with rollback := max s.host.rollback counter } }

/-! ### Clock and front end -/

/-- Whether a record's time has come (R434); none is placed before the boot has brought its BOOT record, the first of its ring (R440, R470). -/
def State.recordDue (s : State) : Bool := decide (4 ≤ s.host.boot) && s.tr.buffer.any fun r => r.way.isNone && decide (r.tick + 256 ≤ s.tick)

/-- Events that are due when a test holds. -/
def dueIf (b : Bool) (i : Instr) : List Work := if b then [.event i] else []

/-- The time unit, firmware and trace engine. -/
def State.clockDues (s : State) : List Work :=
  dueIf (s.holdoverDue && !s.tr.rpActive) .holdover ++ dueIf (s.expiryDue && !s.tr.rpActive) .holdoverExpiry ++
  dueIf (s.tick % 2 ^ 20 == 0 && s.tick != 0) .heartbeatToggle ++ dueIf (!s.host.mreqPin && s.host.mreq) .smonMreqLow ++
  dueIf s.mreqDue .safetyModeRequest ++ dueIf (s.stepBackDue && !s.tr.rpActive) .throttleStepBack ++ dueIf s.profDue .profSample ++ dueIf s.scanDue .scan ++
  dueIf (s.tr.tstops.any fun e => e.1 == s.tick) .tstopEffect ++ dueIf s.tr.lossDue .loss ++ dueIf s.recordDue .cellarRecordPlace

/-- Bursts whose correctable error was met are written back in a front-end slot (R121). -/
def State.scrubDram (s : State) : State :=
  if isFrontSlot s.tick then { s with ecc := s.ecc.filter fun m => m.space != 0 || m.hard || !m.met } else s

/-- The front end: signals and ends, one packet in round robin (R398) once the boot is over (R470), graphs. -/
def State.frontDues (s : State) : State :=
  let k := if s.host.boot < 5 then none else s.nextSource
  let s := match k with | some n => { s with fe := { s.fe with last := n } } | none => s
  { s with todo := s.streamDues.map Work.event ++ (match k with | some n => [.packet (srcOf n)] | none => []) ++ s.graphDues.map Work.event }

/-- Whether the scheduling core tries a placement in this tick (R34). -/
def State.placeDue (s : State) : Bool := s.fe.waiting.any fun w => s.tryAgain || !w.tried

/-- Pending signals that may be written, those of launches that ended in this tick among them (R408, R429). -/
def State.signalDues (s : State) : List Instr := s.streamDues.filter fun i => match i with | .signalWrite _ => true | _ => false

/-! ### Launches -/

/-- What the hardware and the loader do before the freezes of a tick: a debug stop ends, causes and outstanding work are noted, a restore goes on. -/
def State.launchTick (s : State) (n : LaunchNo) : State :=
  let s := s.resumeDebug n
  let s := s.updLaunch n fun l => l.noteCauses s.tick
  let s := match s.launch? n with | some l => s.noteBusy l | none => s
  (s.restoreTick n).replayTick n

/-- Halting freezes, origin ticks, ends of boundary freezes, swaps, restarts and resumes. -/
def State.freezeDues (s : State) : List Instr :=
  (s.launches.flatMap fun l => (if l.causes.isEmpty then [] else [.haltingFreeze l.num]) ++ (if l.frozen then [.haltingFreezeEnd l.num] else [])) ++
  (s.launches.flatMap fun l => (if l.stage == .placed && l.origin == s.tick && l.cls.isNone then [.originTick l.num] else []) ++
    -- a launch with a cause is frozen from its origin tick on (R70)
    (if l.stage == .placed && l.origin == s.tick && !l.causes.isEmpty then [.haltingFreeze l.num] else []) ++
    (if l.boundary.isSome && (s.tick % 32768 == 0 || s.tr.rpActive) then [.boundaryFreezeEnd l.num] else [])) ++
  (allCores.filter fun c => (s.core c).swap == some (true, 0)).map Instr.swapOutEnd ++ s.restartDues ++
  s.launches.flatMap fun l => if l.susp.bind (·.resume) == some s.tick then [.launchResume l.num] else []

/-- Whether a generated launch's window is at its deadline tick, or the activation of its last entry has ended (R421). -/
def State.guestOver (s : State) (g : Launch) (atDeadline : Bool) : Bool :=
  match g.window with
  | none => false
  | some w =>
    match s.launch? w.host with
    | none => false
    | some h =>
      if atDeadline then !h.frozen && h.stage == .running && h.susp.isNone && !h.stopped s.tick && decide (w.deadline ≤ s.tick)
      else decide (g.guestTable.foldl (fun m e => max m e.start) 0 ≤ h.ltime.toNat - w.start) &&
        (match (s.seq w.core w.seq).act with | some a => a.launch != g.num | none => true)

/-- Generated launches that are over retire. -/
def State.retireGuests (s : State) (atDeadline : Bool) : State :=
  (s.launches.filter fun g => s.guestOver g atDeadline).foldl (fun s g => s.endLaunch g.num false) s

/-- Pre-emptions and urgent switches. -/
def State.preemptDues (s : State) : List Instr :=
  s.launches.flatMap fun l => (if s.preemptNow l then [.preemption l.num] else []) ++ (if s.urgentNow l then [.urgentSwitch l.num] else [])

/-- Switch points, then instance boundaries. -/
def State.boundaryDues (s : State) : List Instr :=
  (s.launches.filter s.atSwitchPoint).map (fun l => Instr.switchPoint l.num) ++ (s.launches.filter s.atBoundary).map fun l => Instr.instanceBoundary l.num

/-! ### Sequencers -/

/-- Cores that a launch holds. -/
def State.heldCores (s : State) : List CoreIx := allCores.filter fun c => (s.core c).launch != 0

/-- Their sequencers that run an activation and are not halted. -/
def State.liveSeqs (s : State) : List (CoreIx × SeqIx) :=
  s.heldCores.flatMap fun c => (allSeqs.filter fun q => s.seqRuns c q).map fun q => (c, q)

/-- Whether a loop frame's START is a block start (R168, R169, R315). -/
def State.blockStart (s : State) (c : CoreIx) (a : BitVec 24) : Bool :=
  let w (k : Nat) : Nat := (s.storeWord c (a.toNat + 4 * k)).toNat
  a.toNat % 32 == 0 && decide (a.toNat + 36 + 4 * bits (w 0) 14 5 ≤ 2 ^ 18) && headerOk w

/-- The successor block, or a fallback that was held, starts in the tick after the commit (R199, R206), unless a debug stop holds it (R453, R455). -/
def State.startSuccessor (s : State) (c : CoreIx) (q : SeqIx) : State :=
  let x := s.seq c q
  match x.run, s.coreLaunch? c with
  | none, some l =>
    if (x.succ.isNone && x.held.isNone) || (l.stopped s.tick && !s.stepFrees c (.seq q)) then s
    else
      let s := s.noteStep c (.seq q)
      match x.held, x.act, x.succ with
      | some fb, some a, _ => s.openFallback c q a fb (s.seq c q).g
      | _, _, some a => if x.succLoop && !s.blockStart c a then s.takeTrap c q (illegal 5 0x3E 0) else s.startBlock c q a
      | _, _, _ => s
  | _, _ => s

/-- Values whose time has come arrive (R201): a result in tick f + L, so that a second value raises ILLEGAL there (R203; DESIGN CHOICE, log entry 58). -/
def BlockRun.arrivals (r : BlockRun) : BlockRun :=
  (r.flights.filter fun f => f.left == 0).foldl (fun r f => r.arrive f.target f.value) { r with flights := r.flights.filter fun f => f.left != 0 }

/-- Where a sequencer's read looks: error space, place, physical offset. -/
def State.readPlace (s : State) (c : CoreIx) (pantry wbuf : Bool) (addr : Nat) : Fin 10 × Nat × Nat :=
  s.chipByte c (if wbuf then 1 else if pantry then 2 else 0) addr 0

/-- A read in the tick of its bank access (R121, R231, R234, R237): its value is on its way, of 16 bytes the upper half to the second target (R179). -/
def State.readNow (s : State) (c : CoreIx) (q : SeqIx) (n : LaunchNo) (l : Load) : State :=
  let deliver (v : Nat) (s : State) : State := s.updRun c q fun r =>
    let r := r.sendAll l.lat l.target (w64 (v % 2 ^ 64))
    if l.n = 16 then r.sendAll l.lat (nextTarget l.target) (w64 (v / 2 ^ 64)) else r
  match l.oob with
  | some w => deliver 0 (pwbHit w l.addr c q s)
  | none =>
  let p := s.readPlace c l.pantry l.wbuf l.addr
  let s := if l.pantry || l.wbuf then s else s.touch c p.2.2
  if s.hardError p.1 p.2.1 p.2.2 l.n then s.updRun c q (·.raise ⟨0x07, BitVec.ofNat 32 l.addr⟩) else
  let s := s.softRead (s.placeCore n c q) none p.1 p.2.1 p.2.2 l.n
  deliver (leNat ((List.range l.n).map fun i => s.chipRead (p.1, p.2.1, p.2.2 + i))) s

/-- A `waitw` in the first tick of its slot (R134, R239): the bank is held, the word compared, the monitor armed. -/
def State.compareNow (s : State) (c : CoreIx) (q : SeqIx) (n : LaunchNo) (w : Waiting) : State :=
  match w.kind with
  | .waitw pantry a expect rho false woken =>
    let p := s.readPlace c pantry false a
    let s := if pantry then
        let d : Fin 4 := ⟨p.2.1 % 4, Nat.mod_lt _ (by decide)⟩
        { s with dies := s.dies.set d { s.dies[d] with holds := s.dies[d].holds ++ [(partOf p.2.2, 3)] } }
      else (s.updCore c fun k => { k with bankHolds := k.bankHolds ++ [(bankOf p.2.2, 3)] }).touch c p.2.2
    if s.hardError p.1 p.2.1 p.2.2 8 then s.updRun c q (·.raise ⟨0x07, BitVec.ofNat 32 a⟩) else
    let s := s.softRead (s.placeCore n c q) none p.1 p.2.1 p.2.2 8
    let v := s.watched c pantry a
    if v ≠ expect then s.wake c q w (3 + rho) v
    else s.updRun c q fun r => { r with waits := r.waits.map fun x => if x = w then { x with kind := .waitw pantry a expect rho true woken } else x }
  | _ => s

/-- What a sequencer does as a tick begins: its next block starts, values arrive, reads are made, in the order in which they were fired (of two out-of-bound reads in one tick
the later one is the latest, R107; DESIGN CHOICE, log entry 56). -/
def State.valueTick (s : State) (c : CoreIx) (q : SeqIx) : State :=
  let s := s.startSuccessor c q
  match (s.seq c q).act, (s.seq c q).run with
  | some a, some r =>
    let s := s.updRun c q BlockRun.arrivals
    let s := (r.loads.filter fun l => l.wait == 0).foldl (fun s l => s.readNow c q a.launch l) s
    let s := s.updRun c q fun r => { r with loads := r.loads.filter fun l => l.wait != 0 }
    (r.waits.filter fun w => w.wait == 0).foldl (fun s w => s.compareNow c q a.launch w) s
  | _, _ => s

/-- The words that fire or are nullified in this tick, and the quiescence traps (R200, R202, R208). -/
def State.fireDues (s : State) (c : CoreIx) (q : SeqIx) : List Work :=
  match (s.seq c q).run with
  | none => []
  | some r =>
    ((List.finRange 32).filter fun i => r.due i (r.word i)).map (fun i => .fire c q i) ++
    dueIf (r.quiescent && r.exit.isNone) (.noexit c q) ++ dueIf (r.quiescent && r.exit.isSome && !r.ready) (.incomplete c q)

/-- Slots settle and pending traps are answered (R201, R211). -/
def State.settleRun' (s : State) (p : CoreIx × SeqIx) : State := (s.updRun p.1 p.2 BlockRun.settleSlots).settleTrap p.1 p.2

/-- The fault domain that a commit, taken alone, cancels: an error that cannot be corrected, an engine queue that overflows, a trap with no fallback. -/
def State.commitCancels (s : State) (p : CoreIx × SeqIx) : Option (BitVec 16) :=
  match (s.seq p.1 p.2).act, execBlockCommit p.1 p.2 s with
  | some a, .next t => if t.faults.length ≠ s.faults.length || (t.launch? a.launch).isNone then some (s.fdomOf a.launch) else none
  | _, _ => none

/-- Blocks that commit in this tick (R204); one whose conditions a wait of this tick may still break commits after the waits. Those that cancel their fault domain come first,
and no other of such a domain commits (R89). -/
def State.commitDues (s : State) : List Instr :=
  let ready := s.liveSeqs.filter fun p => match (s.seq p.1 p.2).run with | some r => r.ready && !r.mayClash | none => false
  let doomed := ready.filterMap s.commitCancels
  let (first, rest) := ready.partition fun p => (s.commitCancels p).isSome
  (first ++ rest.filter fun p => match (s.seq p.1 p.2).act with | some a => !doomed.contains (s.fdomOf a.launch) | none => true).map fun p => .blockCommit p.1 p.2

/-! ### Waits and barrier units (R239 to R243, R248, R313) -/

/-- Arrivals that barrier units and mailboxes take in this tick, by core and unit. -/
def State.dueUnits (s : State) : List (CoreIx × Fin 64) :=
  allCores.flatMap fun c => if (s.core c).arrivals.isEmpty then [] else
    (List.finRange 64).filterMap fun u => if (s.core c).arrivals.any fun a => a.unit == u && (s.arrivalLive c a || s.arrivalStored c a) then some (c, u) else none

/-- Whether a block that waits on a `bwait`, and so may still commit in this tick, configures a unit: its configuration comes before the unit's arrivals (R241). -/
def State.configWaits (s : State) (p : CoreIx × Fin 64) : Bool :=
  allSeqs.any fun q => s.seqRuns p.1 q && match (s.seq p.1 q).run with
    | some r => (r.waits.any fun w => match w.kind with | .bwait .. => true | _ => false) &&
        r.effects.any fun e => match e.2 with | .wrcr n v => n.toNat == 0x00A && (v.setWidth 6).toFin == p.2 && r.stands e | _ => false
    | none => false

/-- Waiting instructions of a sequencer that may wake in this tick, `open'` telling which units have taken their arrivals, and what follows once none of its `bwait`s is still
to be looked at. -/
def State.wakeDues (s : State) (open' : Fin 64 → Bool) (c : CoreIx) (q : SeqIx) : List Instr :=
  match (s.seq c q).run with
  | none => []
  | some r =>
    if r.waits.isEmpty then [] else
    r.waits.filterMap (fun w => match w.kind with
      | .waitw .. => some (.waitwWake c q w.idx)
      | .bwait u .. => if open' u then some (.bwaitWake c q w.idx) else none
      | .fence => some (.fenceDeliver c q w.idx)
      | .lwait .. => some (.lwaitWake c q w.idx)) ++
    (if r.waits.any fun w => match w.kind with | .bwait u .. => !open' u | _ => false then [] else [.blockCommit c q, .relKeyWrite c q])

/-- The wakes of all sequencers, but for the `bwait`s on units in `later`. -/
def State.wakesBut (s : State) (later : List (CoreIx × Fin 64)) : List Instr := s.liveSeqs.flatMap fun p => s.wakeDues (fun u => !later.contains (p.1, u)) p.1 p.2

/-- The next units to take their arrivals: those that no waiting block may still configure in this tick. Where such blocks wait for one another the arrivals come first
(DESIGN CHOICE, log entry 58). -/
def State.barrierRound (s : State) : List Instr :=
  let due := s.dueUnits
  let (later, now) := due.partition s.configWaits
  let (later, now) := if now.isEmpty then (now, later) else (later, now)
  (now.map fun p => .barrierArrival p.1 p.2) ++ s.wakesBut later ++ (if later.isEmpty then s.wakesBut [] else [])

/-- Waits on a word that a commit among the waits has written (R239). -/
def State.lateWakes (s : State) : List Instr :=
  s.liveSeqs.flatMap fun p => match (s.seq p.1 p.2).run with
    | none => []
    | some r => (r.waits.filter fun w => match w.kind with | .waitw _ _ _ _ _ woken => woken | _ => false).map fun w => Instr.waitwWake p.1 p.2 w.idx

/-- The switch points at the end of an urgent switch's drains, swap-outs and restores. -/
def State.swapDues (s : State) : List Instr :=
  (s.launches.filter fun l => l.urgentFrom.isSome).map (fun l => Instr.switchPoint l.num) ++
  (s.heldCores.filter fun c => match s.coreLaunch? c with | some l => l.susp.isSome && (s.core c).swap.isNone | none => false).map Instr.swapOut ++
  (s.launches.filter s.restoreDue).map fun l => Instr.restore l.num

/-! ### Engines and memory -/

/-- Whether a core's hardware advances in this tick. -/
def State.coreRuns (s : State) (c : CoreIx) : Bool :=
  (s.core c).swap.isNone && match s.coreLaunch? c with | some l => !l.frozen && l.stage == .running | none => true

/-- The copies at the heads of a core's channels start (R251). -/
def State.startCopies (s : State) (c : CoreIx) : State :=
  (List.finRange 4).foldl (fun s ch => if (s.ctx c).chans[ch].queue.isEmpty then s else s.startCopy c ch) s

/-- What the engines of a core start in this tick. -/
def State.engineDues (s : State) (c : CoreIx) : List Instr :=
  s.copyDues c ++ s.regionDues c ++ (if s.matrixReady c then [.matrixCommandStart c] else []) ++ (if s.stochReady c then [.stochasticCommandStart c] else [])

/-- The reads of the matrix engine, on what stood at the tick's start (R339, R341). -/
def State.engineReads (cores : List CoreIx) (s : State) : State :=
  cores.foldl (fun s c => if (s.core c).launch = 0 then s else (s.loadUnitTick c false).streamTick c) s

/-- A tick of the engines: reads before the fabric's writes, the read port on what the rounds have become (R334, R347). A core whose launch a read cancels fires its rows all
the same (R324). -/
def State.engineTicks (s : State) : State :=
  let cores := s.heldCores
  let t := s.engineReads cores
  let lost := cores.filter fun c => (t.core c).launch == 0
  let t := if lost.isEmpty then t else
    let f := lost.foldl State.fabricTick s
    let t := State.engineReads cores { f with ecc := s.ecc }
    { t with ecc := t.ecc.filter fun m => f.ecc.contains m || !s.ecc.contains m }
  let rest := cores.filter fun c => (t.core c).launch != 0
  let t := rest.foldl State.fabricTick t
  let t := rest.foldl (fun t c => if (t.core c).launch = 0 then t else (t.loadUnitTick c true).readPortTick c) t
  rest.foldl State.fabricUncorr t

/-- What ends in the engines of a core in this tick. -/
def State.engineEnds (s : State) (c : CoreIx) : List Instr :=
  (if s.mxCompletes c .read then [.matrixCommandComplete c .read] else []) ++ s.regionEnds c ++
  (s.matrixEnds c).filter (fun i => i != .matrixCommandComplete c .read) ++ s.stochEnds c

/-- Cores that hold a launch, or something of one that has left: slots, writes held back, arrivals, a swap, a context in the Attic. -/
def State.liveCores (s : State) : List CoreIx :=
  allCores.filter fun c =>
    let k := s.core c
    k.launch != 0 || !k.ctx.amos.isEmpty || !k.heldWrites.isEmpty || !k.arrivals.isEmpty || !k.bankHolds.isEmpty || k.swap.isSome || k.attic.isSome

/-- Atomics write their new values, and held writes go on where their bank has become free (R134, R236). -/
def State.bankTick (s : State) (c : CoreIx) : State :=
  let k := s.core c
  if k.ctx.amos.isEmpty && k.heldWrites.isEmpty then s else
  let s := if !s.coreRuns c then s else
    let now := k.ctx.amos.filter fun a => a.left == 0 && !a.done
    now.foldl (fun s a => ((s.updCore c fun k => { k with abuf := writeBytes k.abuf a.addr a.bytes }).clearErrors 1 c a.addr a.bytes.length).wakeCore c false 0 a.addr a.bytes.length)
      (s.updCtx c fun x => { x with amos := x.amos.map fun a => { a with done := a.left == 0 } })
  k.heldWrites.foldl (fun s h => s.writeA c h.addr h.bytes h.owner) (s.updCore c fun k => { k with heldWrites := [] })

/-- The same at the Pantry of a die. -/
def State.pantryTick (s : State) (d : Fin 4) : State :=
  s.dies[d].held.foldl (fun s h => s.writePantry d h.addr h.bytes h.owner) { s with dies := s.dies.set d { s.dies[d] with held := [] } }

/-- Key words and completion words of a core that are due. -/
def State.joinDues (s : State) (c : CoreIx) : List Instr :=
  (allSeqs.filter fun q => s.coreRuns c && (s.seq c q).rels.any fun r => r.left == 0).map (fun q => Instr.relKeyWrite c q) ++ s.wordDues c

/-! ### Issue-slot counters (R446) -/

/-- The class of a sequencer in this tick, by its order in R446 less one. -/
def State.slotClass (s : State) (c : CoreIx) (q : SeqIx) : Fin 7 :=
  let x := s.seq c q
  let held := match s.coreLaunch? c with | some l => l.frozen || l.boundary.isSome || l.susp.isSome || l.stopped s.tick | none => false
  let stopped := match s.coreLaunch? c with | some l => l.stopped s.tick | none => false
  if held && !(s.seqRuns c q && (x.run.isSome || !stopped)) then 0 else
  match x.act, x.run with
  | none, _ => 1
  | some a, r =>
    if a.isFallback then 2 else
    match r with
    | none => 6
    | some r => if r.busy then 3 else if r.exit.isSome then 4 else if !r.waits.isEmpty then 5 else 6

/-- Every sequencer of a core adds 1 to one counter. -/
def State.countSlots (s : State) (c : CoreIx) : Vector Word 7 :=
  allSeqs.foldl (fun (v : Vector Word 7) q => let k := s.slotClass c q; v.set k (v[k] + 1)) (s.core c).counters

/-! ### The phases -/

/-- What the hardware does as a phase begins. -/
def State.prepare (s : State) : Phase → State
  | .inputs => if s.tr.rpActive then s.mailTick else s.mailTick.incTick
  | .clock =>
    let s := ({ s with tr := s.tr.arrivals }).bootTick.mailRetry 8
    (if s.tr.rpActive then s.replayWall.injectReplay else s).profTick.scanTick.exportTick.scrubDram
  | .freezes => (s.launches.map (·.num)).foldl State.launchTick s
  | .deadlines => s.settleOrigins
  | .preempt => s.retireGuests true
  | .values => s.liveSeqs.foldl (fun s p => s.valueTick p.1 p.2) s
  | .engines =>
    let s := s.liveSeqs.foldl State.settleRun' s
    (s.heldCores.foldl State.startCopies s).serveWalks
  | .engineEnds => s.engineTicks
  | .commits =>
    let s := { s with cores := vecMap s.cores fun c k => if h : c < 64 then { k with counters := s.countSlots ⟨c, h⟩ } else k }
    (List.finRange 4).foldl State.pantryTick (s.liveCores.foldl State.bankTick s)
  -- the accesses of copies on chip come behind the scheduled ones of the tick (R274)
  | .joins => let s := s.heldCores.foldl State.startCopies s; s.heldCores.foldl State.payCore s
  | .waits => s.heldCores.foldl State.settlePushes s
  | .trace =>
    let s := s.liveSeqs.foldl (fun s p => s.settleTrap p.1 p.2) (s.retireGuests false)
    (s.heldCores.foldl State.startCopies s).injectCancels
  | _ => s

/-- What falls due in a phase, once the hardware has done its part. -/
def State.dues (s : State) : Phase → State
  | .inputs => s
  | .clock => { s with todo := s.clockDues }
  | .frontEnd => s.frontDues
  | .freezes => { s with todo := dueIf s.placeDue .launchPlacement ++ s.freezeDues.map .event }
  | .deadlines => { s with todo := (s.deadlineDues ++ s.drainDues).map .event }
  | .preempt => { s with todo := s.preemptDues.map .event }
  | .boundaries => { s with todo := s.boundaryDues.map .event }
  | .entries => { s with todo := s.entryDues.map .event }
  | .values => s
  | .fires => { s with todo := s.liveSeqs.flatMap (fun p => s.fireDues p.1 p.2) ++ (s.heldCores.flatMap s.installDues).map .event }
  | .engines => { s with todo := (s.heldCores.flatMap s.engineDues).map .event }
  | .engineEnds => { s with todo := (s.heldCores.flatMap s.engineEnds).map .event }
  | .commits => { s with todo := s.commitDues.map .event }
  | .joins => { s with todo := (s.heldCores.flatMap s.joinDues).map .event }
  | .waits => { s with todo := (s.wakesBut s.dueUnits).map .event }
  | .trace => { s with todo := (s.swapDues ++ s.lateWakes ++ s.signalDues ++ s.debugDues).map .event }

/-- The phase after another; none at the end of a tick. -/
def Phase.next : Phase → Option Phase
  | .inputs => some .clock
  | .clock => some .frontEnd
  | .frontEnd => some .freezes
  | .freezes => some .deadlines
  | .deadlines => some .preempt
  | .preempt => some .boundaries
  | .boundaries => some .entries
  | .entries => some .values
  | .values => some .fires
  | .fires => some .engines
  | .engines => some .engineEnds
  | .engineEnds => some .commits
  | .commits => some .joins
  | .joins => some .waits
  | .waits => some .trace
  | .trace => none

/-- A phase begins. What a launch did in the phases before one that cancels its fault domain stands (R89; DESIGN CHOICE, log entry 4). -/
def State.enter (s : State) (p : Phase) : State := ({ s.settleFaults with phase := p }.prepare p).dues p

/-! ### The end of a tick -/

/-- A running block as a tick passes. -/
def BlockRun.tickEnd (r : BlockRun) : BlockRun :=
  { r with age := r.age + 1, busy := false,
           flights := r.flights.map fun f => { f with left := f.left - 1 },
           loads := r.loads.map fun l => { l with wait := l.wait - 1 },
           waits := r.waits.map fun w =>
             { w with wait := w.wait - 1,
                      kind := match w.kind with | .bwait u p c k => .bwait u p (c || w.wait == 0) k | k => k } }

/-- A sequencer as a tick passes. -/
def SeqState.tickEnd (runs core : Bool) (x : SeqState) : SeqState :=
  let x := { x with answered := false, pwbNew := 0, pwbWas := x.pwb, rels := if core then x.rels.map fun r => { r with left := r.left - 1 } else x.rels }
  if !runs then x else
  { x with act := x.act.map fun a => { a with ran := a.ran + 1 }, run := x.run.map BlockRun.tickEnd }

/-- Bank holds as a tick passes. -/
def holdsEnd (l : List (Nat × Nat)) : List (Nat × Nat) := (l.map fun h => (h.1, h.2 - 1)).filter fun h => h.2 != 0

/-- A core as a tick passes. -/
def State.coreEnd (s : State) (c : CoreIx) : State :=
  let runs := s.coreRuns c
  let frozen := match s.coreLaunch? c with | some l => l.frozen | none => false
  let resv (ch : ChanIx) : Bool :=
    match (s.ctx c).chans[ch].queue.head?, (s.ctx c).chans[ch].run with
    | some k, some r => (s.copyResv c r.desc).isSome && (frozen || s.opRuns c k.owner)
    | _, _ => false
  let opRuns (ch : ChanIx) : Bool := match (s.ctx c).chans[ch].queue.head? with | some k => s.opRuns c k.owner | none => false
  let s' := s.updCore c fun k =>
    { k with bankHolds := if frozen then k.bankHolds else holdsEnd k.bankHolds, touched := [],
             attic := k.attic.map fun a => { a with ctx := { a.ctx with chans := a.ctx.chans.map CopyChan.older } },
             arrivals := (k.arrivals.filter fun a => !a.done).map fun a => { a with left := a.left - 1 },
             swap := k.swap.map fun w => (w.1, w.2 - 1),
             ctx := { k.ctx with
               seqs := Vector.ofFn fun q => (k.ctx.seqs[q]).tickEnd (s.seqRuns c q) runs
               amos := if runs then (k.ctx.amos.filter fun a => !a.done).map fun a => { a with left := a.left - 1 } else k.ctx.amos
               chans := Vector.ofFn fun ch => (k.ctx.chans[ch]).tickEnd (opRuns ch) s.tick (resv ch) s.tm
               regions := k.ctx.regions.map (RegionState.tickEnd (s.opRuns c)) } }
  (s'.matrixTickEnd c).stochTickEnd c

/-- A launch as a tick passes (R49): its launch time, the loader of a restore, SQ_MODE and DISPLACED as the next tick will read them (R226). -/
def State.launchEnd (s : State) (l : Launch) : Launch :=
  let held := match l.window with
    | some w => (match s.launch? w.host with | some h => h.timeHeld s.tick | none => true)
    | none => l.timeHeld s.tick
  { l with modeWas := w64 l.modeWord, displacedWas := l.displaced, ltime := if held then l.ltime else l.ltime + 1, susp := l.susp.map fun p => { p with loadLeft := p.loadLeft - 1 } }

/-- The end of a tick: everything that counts ticks has counted this one. -/
def State.endTick (s : State) : State :=
  let s := s.pinTick
  if !s.alive then { s with tick := s.tick + 1 } else
  let s := (s.heldCores.foldl State.dropCut s).dieTick
  let s' := s.liveCores.foldl State.coreEnd s
  let s' := (List.finRange 16).foldl State.refreshWindow s'
  { s' with
    tick := s.tick + 1
    launches := s'.launches.map s.launchEnd
    dies := s'.dies.map fun d => { d with holds := holdsEnd d.holds }
    tr := s'.tr.wayEnd
    health := { s'.health with dropNow := 0 }
    tm := if s.tr.rpActive then s'.tm else s'.tm.advance
    fe := { s'.fe with queues := s'.fe.queues.map fun q => { q with tailWas := none, tokWas := none } }
    host := { s'.host with herrNew := 0, smonNew := 0 } }

/-- Nothing is left to do in the present phase: the next thing that happens outside in this tick, else the next round of arrivals, else the next phase, else the next tick. A module that is not
up passes its ticks with nothing but the outside world. -/
def State.advance (s : State) : State :=
  match s.nextInput with
  | some (o, rest) => { s with inputs := rest }.takeInput o
  | none =>
    if s.alive && s.phase == .waits && !s.dueUnits.isEmpty then { s with todo := s.barrierRound.map .event } else
    match if s.alive then s.phase.next else none with
    | some p => s.enter p
    | none => s.settleFaults.endTick.enter .inputs

/-! ### An instruction placed where the next step finds it -/

/-- A sequencer that an instruction may run on (R182, R214). -/
def seqFor (w : BitVec 32) : SeqIx :=
  let m := w.toNat / 2 ^ 25
  let n := if m = 0x18 || m = 0x19 then bits w.toNat 9 14 / 2 ^ 8 else 0
  if (0x40 ≤ m && m ≤ 0x4B) || n = 4 then 6
  else if (0x60 ≤ m && m ≤ 0x6F) || n = 2 then 4
  else if (0x70 ≤ m && m ≤ 0x77) || n = 3 then 5
  else 0

/-- A word as the one body word of a block that runs on core 0, its operands at hand and 0, about to fire (DESIGN CHOICE, log entry 1). -/
def State.placeWord (s : State) (w : BitVec 32) : State :=
  let q := seqFor w
  let s := s.clearErrors 4 0 32 16
  let s := s.updCore 0 fun k => { k with blockStore := writeLE k.blockStore 32 4 w.toNat }
  let r := BlockRun.fresh 0 [w] 0 []
  let s := s.updSeq 0 q fun x => { x with run := some { r with age := 1, left := r.left.set 0 (some 0), right := r.right.set 0 (some 0), gate := r.gate.set 0 (some 0) } }
  { s with todo := .fire 0 q 0 :: s.todo }

/-- A packet as the next one of queue 0, whose ring of 4 KiB stands at the start of LPDDR 6, about to be executed (DESIGN CHOICE, log entry 1). -/
def State.placePacket' (s : State) (n w : Nat) : State :=
  let s := s.clearErrors 0 0 0 2080
  let l : Level := { base := 0, pos := 0, left := 0, loopStart := 0, loopLeft := 0, loopBody := 0, loopDone := 0, loopPasses := 0, skip := 0 }
  let s := { s with dram := writeLE (sparseClear s.dram 0 2080) 0 n w }
  let s := s.updQueue 0 fun x => { x with base := 0, enable := true, sizelog := 12, tail := 2048, tailWas := none, frozen := false, exec := { Stream'.init with levels := [l] } }
  { s with todo := .packet (.queue 0) :: s.todo }

end Sys2Proof.Machine
end

