-- ==== Sys2Proof/Machine/Step.lean ====
section
/-! DEFINITION. One step of the machine: the next thing that is due is executed, or, when nothing is, the phase or the tick moves on (DESIGN CHOICE, log entries 1 and 4). -/

namespace Sys2Proof.Machine

/-- One step. -/
def step (s : State) : Host.Outcome State Fault Refusal :=
  match s.todo with
  | [] => .next s.advance
  | w :: rest =>
    match ({ s with todo := rest }).fetch w with
    | (s', some i) => exec i s'
    | (s', none) => .next s'

/-- The state with one instruction placed where the next step fetches it (DESIGN CHOICE, log entry 1). -/
def State.withFetchWord (s : State) (nbits w : Nat) : State :=
  if nbits ≤ 32 then s.placeWord (BitVec.ofNat 32 (w % 2 ^ nbits)) else s.placePacket' (nbits / 8) (w % 2 ^ nbits)

end Sys2Proof.Machine
end

