-- ==== Sys2Proof/Safety.lean ====
section
/-! DEFINITION. What counts as a safe run, and the terms that statements about the machine use: a word that may fire, what firing leaves, the canonical form of every memory. -/

namespace Sys2Proof.Machine

/-- No number of steps from the state ends in a fault or a refusal. -/
def State.safe (s : State) : Prop := ∀ k, ∃ t, Host.Core.run Sys2Proof.core k s = .next t

/-! ### Words of a block -/

/-- The word in focus may fire (R175, R200): a block runs on its sequencer, the word has neither fired nor been nullified, no trap is pending, its
predicate matches, and each operand slot that its form has is filled. A slot that the form lacks counts as 0. -/
structure Fires (s : State) (b : BlockRun) (p : Pred) (l r t : Bool) (x y z : Word) : Prop where
  run : (s.seq s.focus.core s.focus.seq).run = some b
  unfired : b.fired.getLsbD s.focus.idx = false
  live : b.nulled.getLsbD s.focus.idx = false
  noTrap : b.trap = none
  pred : verdict p b.gate[s.focus.idx] = .matches'
  left : operand l b.left[s.focus.idx] = some x
  right : operand r b.right[s.focus.idx] = some y
  third : operand t b.gate[s.focus.idx] = some z

/-- The word in focus does not match its predicate (R175, R202). -/
structure Mismatched (s : State) (b : BlockRun) (p : Pred) : Prop where
  run : (s.seq s.focus.core s.focus.seq).run = some b
  unfired : b.fired.getLsbD s.focus.idx = false
  live : b.nulled.getLsbD s.focus.idx = false
  noTrap : b.trap = none
  pred : verdict p b.gate[s.focus.idx] = .differs

/-- The state in which the word in focus has fired, and its block has become what `f` makes of it. -/
def State.fired (s : State) (f : BlockRun → BlockRun) : State :=
  s.updRun s.focus.core s.focus.seq fun b => f (b.markFired s.focus.idx)

/-- A block with an effect more that waits for its commit (R205). -/
def BlockRun.effect (i : Fin 32) (e : Effect) (b : BlockRun) : BlockRun := { b with effects := b.effects ++ [(i.val, e)] }

/-- A block with an outstanding read more (R201). -/
def BlockRun.read (l : Load) (b : BlockRun) : BlockRun := { b with loads := b.loads ++ [l] }

/-- A block with a waiting instruction more (R239, R243, R248, R313). -/
def BlockRun.await (w : Waiting) (b : BlockRun) : BlockRun := { b with waits := b.waits ++ [w] }

/-- The word in focus fires, and a value is on its way to a target whose consumers fire `lat` ticks later (R201). -/
def Delivers (s : State) (i : Instr) (lat : Nat) (t : Target) (v : Word) : Prop := exec i s = .next (s.fired fun b => b.send lat t v)

/-- The same to the two targets of format G (R177). -/
def Delivers2 (s : State) (i : Instr) (lat : Nat) (t u : Target) (v : Word) : Prop :=
  exec i s = .next (s.fired fun b => (b.send lat t v).send lat u v)

/-- The word in focus fires, and its effect waits for the commit of its block (R205). -/
def Defers (s : State) (i : Instr) (e : Effect) : Prop := exec i s = .next (s.fired (·.effect s.focus.idx e))

/-- The word in focus fires, and will be issued to its engine with its operands at the commit of its block (R125, R205). -/
def Issues (s : State) (i : Instr) (x y : Word) : Prop := Defers s i (.issue i x y)

/-- The predicate of a body word; words without one always fire (R175). -/
def Instr.pred : Instr → Pred
  | .add p .. | .sub p .. | .mul p .. | .mulh p .. | .mulhu p .. | .div p .. | .divu p .. | .rem p .. | .remu p .. | .and p .. | .or p .. | .xor p ..
  | .shl p .. | .shr p .. | .sra p .. | .min p .. | .minu p .. | .max p .. | .maxu p .. | .clz p .. | .popcnt p .. | .sextB p .. | .sextH p ..
  | .sextW p .. | .zextB p .. | .zextH p .. | .zextW p .. | .mov p .. | .not p .. | .teq p .. | .tne p .. | .tlt p .. | .tltu p .. | .tle p .. | .tleu p ..
  | .tgt p .. | .tge p .. | .addi p .. | .muli p .. | .andi p .. | .ori p .. | .xori p .. | .shli p .. | .shri p .. | .srai p .. | .teqi p .. | .tnei p ..
  | .tlti p .. | .tltui p .. | .tlei p .. | .tleui p .. | .tgti p .. | .tgei p .. | .rdcr p .. | .wrcr p .. | .ldB p .. | .ldH p .. | .ldW p .. | .ldD p ..
  | .ldQ p .. | .stB p .. | .stH p .. | .stW p .. | .stD p .. | .ldpw p .. | .amoaddW p .. | .amoaddD p .. | .amominW p .. | .amominD p .. | .amomaxW p ..
  | .amomaxD p .. | .amoswapW p .. | .amoswapD p .. | .acq p .. | .rel p .. | .waitw p .. | .arrive p .. | .bwait p .. | .bro p .. | .brx p .. | .bend p ..
  | .trap p .. | .brk p | .fence p .. | .nop p | .rdtick p .. | .rdlt p .. | .rdwall p .. | .nullst p .. | .nullw p .. | .cp1 p .. | .cp2 p .. | .cp3 p ..
  | .cpmc p .. | .cpset p .. | .cpcmp p .. | .cphash p .. | .cpspill p .. | .cpunspill p .. | .cpbind p .. | .cpchk p .. | .trec p .. | .tmark p .. | .thash p
  | .tstopStop p | .tstopStart p | .jtab p | .cfgld p .. | .cfgact p | .cfgdrop p | .run p | .loop p | .tok p .. | .rdsink p .. | .lwait p .. | .lrel p ..
  | .mtld p .. | .mtldw p .. | .mtst p .. | .mspill p .. | .mfill p .. | .mma p .. | .mmaw p .. | .mchainB p .. | .mchainE p .. | .mzero p .. | .mscacc p ..
  | .mrd p .. | .mpin p .. | .munpin p .. | .mgdlt p .. | .mfwrd p .. | .mfwchunk p .. | .sand p .. | .sor p .. | .sxor p .. | .sxnor p .. | .smux p ..
  | .snot p .. | .smov p .. | .srot p .. | .sfill p .. | .scnt p .. | .sgen p .. | .sregen p .. | .b2s p .. | .b2sv p .. | .s2b p .. | .sld p .. | .sst p ..
  | .sgset p .. => p
  | _ => .always

/-! ### Memories -/

/-- Every memory that a core holds is in canonical form. -/
def CoreState.memWf (k : CoreState) : Bool :=
  Memory.wf k.abuf && Memory.wf k.wbuf && Memory.wf k.cbuf && Memory.wf k.blockStore && Memory.wf k.ctx.tiles &&
  (match k.attic with | some a => Memory.wf a.ctx.tiles | none => true)

/-- Every memory of the module and the host's is in canonical form. -/
def State.memWf (s : State) : Bool :=
  s.cores.toList.all CoreState.memWf && s.dies.toList.all (fun d => Memory.wf d.pantry && Memory.wf d.mail) && Memory.wf s.dram && Memory.wf s.hostMem

/-- The memories of one state are those of another, byte for byte. -/
def State.sameMemory (s t : State) : Prop :=
  (∀ c a, readByte (t.core c).abuf a = readByte (s.core c).abuf a) ∧ (∀ c a, readByte (t.core c).wbuf a = readByte (s.core c).wbuf a) ∧
  (∀ c a, readByte (t.core c).cbuf a = readByte (s.core c).cbuf a) ∧ (∀ c a, readByte (t.core c).blockStore a = readByte (s.core c).blockStore a) ∧
  (∀ c a, readByte (t.ctx c).tiles a = readByte (s.ctx c).tiles a) ∧ (∀ (d : Fin 4) a, readByte t.dies[d].pantry a = readByte s.dies[d].pantry a) ∧
  (∀ (d : Fin 4) a, readByte t.dies[d].mail a = readByte s.dies[d].mail a) ∧
  (∀ a, readByte t.dram a = readByte s.dram a) ∧ ∀ a, readByte t.hostMem a = readByte s.hostMem a

/-- A sequencer keeps its general registers and every register that R214 to R217 and the engine chapters give it. -/
def SeqState.sameRegisters (x y : SeqState) : Prop :=
  y.g = x.g ∧ y.status = x.status ∧ y.actEntry = x.actEntry ∧ y.actCur = x.actCur ∧ y.actFirst = x.actFirst ∧ y.trapDetail = x.trapDetail ∧
  y.trapCause = x.trapCause ∧ y.trapTick = x.trapTick ∧ y.trapBlock = x.trapBlock ∧ y.pwbHit = x.pwbHit ∧ y.pwbWin = x.pwbWin ∧ y.pwbOff = x.pwbOff ∧
  y.rkey = x.rkey ∧ y.rlayer = x.rlayer ∧ y.barTarget = x.barTarget ∧ y.barUnit = x.barUnit ∧ y.trHash = x.trHash ∧ y.fbIdx = x.fbIdx ∧
  y.act = x.act ∧ y.succ = x.succ ∧ y.loops = x.loops ∧ y.rels = x.rels

/-- Everything of a core but its sequencers' running blocks stands. -/
def CoreCtx.sameEngines (x y : CoreCtx) : Prop :=
  y.barriers = x.barriers ∧ y.amos = x.amos ∧ y.chans = x.chans ∧ y.ranges = x.ranges ∧ y.cpDesc = x.cpDesc ∧ y.cpChan = x.cpChan ∧ y.cpCode = x.cpCode ∧
  y.cpVa = x.cpVa ∧ y.regions = x.regions ∧ y.landings = x.landings ∧ y.elems = x.elems ∧ y.outs = x.outs ∧ y.rowBus = x.rowBus ∧ y.colBus = x.colBus ∧
  y.readLatch = x.readLatch ∧ y.matrix = x.matrix ∧ y.stoch = x.stoch ∧ y.tiles = x.tiles

/-- The step answers a next state, which has the property. -/
def Runs (s : State) (i : Instr) (P : State → Prop) : Prop := ∃ t, exec i s = .next t ∧ P t

/-- Everything outside the cores and the trace engine stands. -/
structure SameModule (s t : State) : Prop where
  tick : t.tick = s.tick
  dies : t.dies = s.dies
  dram : t.dram = s.dram
  hostMem : t.hostMem = s.hostMem
  launches : t.launches = s.launches
  fe : t.fe = s.fe
  tm : t.tm = s.tm
  host : t.host = s.host
  health : t.health = s.health
  ecc : t.ecc = s.ecc

/-- Everything that is not the running block of one sequencer stands. -/
structure OnlyBlock (c : CoreIx) (q : SeqIx) (s t : State) : Prop where
  module : SameModule s t
  trace : t.tr = s.tr
  memory : s.sameMemory t
  others : ∀ d r, (d, r) ≠ (c, q) → t.seq d r = s.seq d r
  registers : (s.seq c q).sameRegisters (t.seq c q)
  engines : ∀ d, (s.ctx d).sameEngines (t.ctx d)

/-- No launch of a fault domain is left, but one that only waits to be placed (R26). -/
def State.domainGone (s t : State) (d : BitVec 16) : Prop :=
  ∀ l ∈ s.launches, l.fdom = d → l.stage ≠ .placed → l.num ≠ 0 → ∀ k ∈ t.launches, k.num ≠ l.num

/-- A copy under way at the head of its channel, not cut in this tick, and the launch of its core (R251, R270). -/
structure Copying (s : State) (c : CoreIx) (ch : ChanIx) (k : EngineCmd) (r : CopyRun) (l : Launch) : Prop where
  head : (s.ctx c).chans[ch].queue.head? = some k
  run : (s.ctx c).chans[ch].run = some r
  launch : s.coreLaunch? c = some l
  alive : r.dying = false
  clean : s.ecc = []
  canonical : s.memWf = true

/-- Everything of a core but the state of its regions, its matrix engine and its stochastic engine stands, and everything outside the core but the trace. -/
structure OnlyEngines (c : CoreIx) (s t : State) : Prop where
  module : SameModule s t
  memory : s.sameMemory t
  seqs : ∀ d q, t.seq d q = s.seq d q
  others : ∀ d, d ≠ c → t.core d = s.core d
  copies : (t.ctx c).chans = (s.ctx c).chans
  ranges : (t.ctx c).ranges = (s.ctx c).ranges
  barriers : (t.ctx c).barriers = (s.ctx c).barriers

/-- The head command of a region's queue may start (R305); no debug stop holds its launch. -/
structure RegionStart (s : State) (c : CoreIx) (r : RegionIx) (k : EngineCmd) (rest : List EngineCmd) (l : Launch) : Prop where
  ready : s.regionReady c r = true
  queue : (s.ctx c).regions[r].queue = k :: rest
  launch : s.coreLaunch? c = some l
  running : l.dstop = none

/-! ### The front end -/

/-- A packet of a host queue is executed in the queue's ring, outside any loop (R398, R400, R406). -/
structure AtPacket (s : State) (q : QueueIx) (l : Level) : Prop where
  source : s.source = .queue q
  levels : s.fe.queues[q].exec.levels = [l]
  straight : l.loopPasses = 0
  clean : s.ecc = []

/-- The queue stands behind a packet of n bytes, and every other queue as it stood (R397, R400). -/
def State.passed (s t : State) (q : QueueIx) (l : Level) (n : Nat) : Prop :=
  t.fe.queues[q].exec.levels = [{ l with pos := (l.pos + n) % s.fe.queues[q].ring, left := l.left - n, skip := l.skip - 1 }] ∧
  t.fe.queues[q].frozen = s.fe.queues[q].frozen ∧ ∀ p, p ≠ q → t.fe.queues[p] = s.fe.queues[p]

/-- The queue is frozen for a reason, with the packet's address in FE_QFAULT and a FAULT record (R416). -/
def State.frozeQueue (s t : State) (q : QueueIx) (reason : BitVec 8) : Prop :=
  t.fe.queues[q].frozen = true ∧ t.fe.queues[q].reason = reason ∧ t.fe.queues[q].fault = s.packetAt ∧
  t.tr.buffer.map Rec.typ = s.tr.buffer.map Rec.typ ++ [0x08] ∧ ∀ p, p ≠ q → t.fe.queues[p] = s.fe.queues[p]

/-- No core, die or memory has changed, nor a launch. -/
structure SameMachine (s t : State) : Prop where
  cores : t.cores = s.cores
  dies : t.dies = s.dies
  dram : t.dram = s.dram
  hostMem : t.hostMem = s.hostMem
  launches : t.launches = s.launches
  tick : t.tick = s.tick
  tm : t.tm = s.tm
  health : t.health = s.health

/-! ### Launches, records, the host's side -/

/-- Records of these types, and no others, have been handed to the trace engine's writer (R432, R433). -/
def State.logs (s t : State) (types : List (BitVec 7)) : Prop := t.tr.buffer.map Rec.typ = s.tr.buffer.map Rec.typ ++ types

/-- Everything stands but one launch and the trace engine. -/
structure OnlyLaunch (n : LaunchNo) (s t : State) : Prop where
  cores : t.cores = s.cores
  dies : t.dies = s.dies
  dram : t.dram = s.dram
  hostMem : t.hostMem = s.hostMem
  tick : t.tick = s.tick
  fe : t.fe = s.fe
  tm : t.tm = s.tm
  host : t.host = s.host
  health : t.health = s.health
  others : ∀ m, m ≠ n → t.launch? m = s.launch? m

/-- Everything stands but the host link, the pins and the firmware's own state. -/
structure OnlyHost (s t : State) : Prop where
  cores : t.cores = s.cores
  dies : t.dies = s.dies
  dram : t.dram = s.dram
  hostMem : t.hostMem = s.hostMem
  launches : t.launches = s.launches
  tick : t.tick = s.tick
  fe : t.fe = s.fe
  tr : t.tr = s.tr
  tm : t.tm = s.tm
  health : t.health = s.health

/-- No memory of a core, but for its context's, has changed, and nothing outside the cores but the trace. -/
structure SameBuffers (s t : State) : Prop where
  module : SameModule s t
  abuf : ∀ c, (t.core c).abuf = (s.core c).abuf
  wbuf : ∀ c, (t.core c).wbuf = (s.core c).wbuf
  cbuf : ∀ c, (t.core c).cbuf = (s.core c).cbuf
  blockStore : ∀ c, (t.core c).blockStore = (s.core c).blockStore

end Sys2Proof.Machine
end

