-- ==== Sys2Proof/Certificates/Slice0/Obligations.lean ====
section
/-! DEFINITION. The statements about the machine, for the provers. Each docstring names the rules that the statement formalises. -/

open Sys2Proof Sys2Proof.Machine

/-! ### Words of a block: results -/

/-- R219 with R201: a binary integer word that may fire sends its result to both targets, consumers firing 1 tick later, 3 for a product.
R222: a test delivers 1 where its relation holds and 0 where it does not. -/
def Obligations.BinaryResults : Prop :=
  (∀ s b p t u x y, Fires s b p true true false x y 0 →
    Delivers2 s (.add p t u) 1 t u (x + y) ∧ Delivers2 s (.sub p t u) 1 t u (x - y) ∧
    Delivers2 s (.mul p t u) 3 t u (x * y) ∧
    Delivers2 s (.mulh p t u) 3 t u (BitVec.ofInt 64 (x.toInt * y.toInt / 2 ^ 64)) ∧
    Delivers2 s (.mulhu p t u) 3 t u (BitVec.ofNat 64 (x.toNat * y.toNat / 2 ^ 64)) ∧
    Delivers2 s (.and p t u) 1 t u (x &&& y) ∧ Delivers2 s (.or p t u) 1 t u (x ||| y) ∧ Delivers2 s (.xor p t u) 1 t u (x ^^^ y) ∧
    Delivers2 s (.shl p t u) 1 t u (x <<< (y.toNat % 64)) ∧ Delivers2 s (.shr p t u) 1 t u (x >>> (y.toNat % 64)) ∧
    Delivers2 s (.sra p t u) 1 t u (x.sshiftRight (y.toNat % 64)) ∧
    Delivers2 s (.min p t u) 1 t u (if x.toInt ≤ y.toInt then x else y) ∧ Delivers2 s (.max p t u) 1 t u (if x.toInt ≤ y.toInt then y else x) ∧
    Delivers2 s (.minu p t u) 1 t u (if x.toNat ≤ y.toNat then x else y) ∧ Delivers2 s (.maxu p t u) 1 t u (if x.toNat ≤ y.toNat then y else x)) ∧
  (∀ s b p t u x y, Fires s b p true true false x y 0 →
    Delivers2 s (.teq p t u) 1 t u (if x = y then 1 else 0) ∧ Delivers2 s (.tne p t u) 1 t u (if x = y then 0 else 1) ∧
    Delivers2 s (.tlt p t u) 1 t u (if x.toInt < y.toInt then 1 else 0) ∧ Delivers2 s (.tle p t u) 1 t u (if x.toInt ≤ y.toInt then 1 else 0) ∧
    Delivers2 s (.tgt p t u) 1 t u (if y.toInt < x.toInt then 1 else 0) ∧ Delivers2 s (.tge p t u) 1 t u (if y.toInt ≤ x.toInt then 1 else 0) ∧
    Delivers2 s (.tltu p t u) 1 t u (if x.toNat < y.toNat then 1 else 0) ∧ Delivers2 s (.tleu p t u) 1 t u (if x.toNat ≤ y.toNat then 1 else 0))

/-- R220: division rounds toward zero and never traps; its corners are a divisor of 0, and the least number divided by -1. -/
def Obligations.DivisionResults : Prop :=
  ∀ s b p t u x y, Fires s b p true true false x y 0 →
    (y = 0 → Delivers2 s (.div p t u) 20 t u (-1) ∧ Delivers2 s (.rem p t u) 20 t u x ∧
      Delivers2 s (.divu p t u) 20 t u (BitVec.ofNat 64 (2 ^ 64 - 1)) ∧ Delivers2 s (.remu p t u) 20 t u x) ∧
    (x = BitVec.intMin 64 ∧ y = -1 → Delivers2 s (.div p t u) 20 t u (BitVec.intMin 64) ∧ Delivers2 s (.rem p t u) 20 t u 0) ∧
    (y ≠ 0 → ¬ (x = BitVec.intMin 64 ∧ y = -1) →
      (∃ q, q.toInt = x.toInt.tdiv y.toInt ∧ Delivers2 s (.div p t u) 20 t u q) ∧
      ∃ r, r.toInt = x.toInt - y.toInt * x.toInt.tdiv y.toInt ∧ Delivers2 s (.rem p t u) 20 t u r) ∧
    (y ≠ 0 → (∃ q, q.toNat = x.toNat / y.toNat ∧ Delivers2 s (.divu p t u) 20 t u q) ∧
      ∃ r, r.toNat = x.toNat % y.toNat ∧ Delivers2 s (.remu p t u) 20 t u r)

/-- R221: counting, extending, moving and inverting. -/
def Obligations.UnaryResults : Prop :=
  ∀ s b p t u x, Fires s b p true false false x 0 0 →
    (x = 0 → Delivers2 s (.clz p t u) 1 t u 64) ∧
    (∀ k < 64, x.getLsbD k = true → (∀ j, k < j → x.getLsbD j = false) → Delivers2 s (.clz p t u) 1 t u (BitVec.ofNat 64 (63 - k))) ∧
    Delivers2 s (.popcnt p t u) 1 t u (BitVec.ofNat 64 ((List.range 64).countP x.getLsbD)) ∧
    Delivers2 s (.sextB p t u) 1 t u ((x.extractLsb' 0 8).signExtend 64) ∧ Delivers2 s (.sextH p t u) 1 t u ((x.extractLsb' 0 16).signExtend 64) ∧
    Delivers2 s (.sextW p t u) 1 t u ((x.extractLsb' 0 32).signExtend 64) ∧
    Delivers2 s (.zextB p t u) 1 t u (BitVec.ofNat 64 (x.toNat % 2 ^ 8)) ∧ Delivers2 s (.zextH p t u) 1 t u (BitVec.ofNat 64 (x.toNat % 2 ^ 16)) ∧
    Delivers2 s (.zextW p t u) 1 t u (BitVec.ofNat 64 (x.toNat % 2 ^ 32)) ∧
    Delivers2 s (.mov p t u) 1 t u x ∧ Delivers2 s (.not p t u) 1 t u (~~~x)

/-- R223: the immediate forms compute as the binary forms do, with sext(imm14, 14), or a shift amount of 6 bits, on the right.
R224, R225: constants, and the fan-outs that deliver their operand unchanged to each target. -/
def Obligations.ImmediateResults : Prop :=
  (∀ s b p t x (i : BitVec 14) (n : BitVec 6), Fires s b p true false false x 0 0 →
    let y : Word := BitVec.ofInt 64 i.toInt
    Delivers s (.addi p i t) 1 t (x + y) ∧ Delivers s (.muli p i t) 3 t (x * y) ∧ Delivers s (.andi p i t) 1 t (x &&& y) ∧
    Delivers s (.ori p i t) 1 t (x ||| y) ∧ Delivers s (.xori p i t) 1 t (x ^^^ y) ∧
    Delivers s (.shli p n t) 1 t (x <<< n.toNat) ∧ Delivers s (.shri p n t) 1 t (x >>> n.toNat) ∧ Delivers s (.srai p n t) 1 t (x.sshiftRight n.toNat) ∧
    Delivers s (.teqi p i t) 1 t (if x = y then 1 else 0) ∧ Delivers s (.tnei p i t) 1 t (if x = y then 0 else 1) ∧
    Delivers s (.tlti p i t) 1 t (if x.toInt < y.toInt then 1 else 0) ∧ Delivers s (.tlei p i t) 1 t (if x.toInt ≤ y.toInt then 1 else 0) ∧
    Delivers s (.tgti p i t) 1 t (if y.toInt < x.toInt then 1 else 0) ∧ Delivers s (.tgei p i t) 1 t (if y.toInt ≤ x.toInt then 1 else 0) ∧
    Delivers s (.tltui p i t) 1 t (if x.toNat < y.toNat then 1 else 0) ∧ Delivers s (.tleui p i t) 1 t (if x.toNat ≤ y.toNat then 1 else 0)) ∧
  ((∀ s b t (i : BitVec 16), Fires s b .always false false false 0 0 0 →
    Delivers s (.const i t) 1 t (BitVec.ofInt 64 i.toInt) ∧ Delivers s (.constu i t) 1 t (BitVec.ofNat 64 i.toNat)) ∧
  ∀ s b t (i : BitVec 16) u v w x, Fires s b .always true false false x 0 0 →
    Delivers s (.shlc i t) 1 t (BitVec.ofNat 64 (x.toNat * 2 ^ 16 + i.toNat)) ∧
    exec (.fan3 t u v) s = .next (s.fired fun b => ((b.send 1 t x).send 1 u x).send 1 v x) ∧
    exec (.fan4 t u v w) s = .next (s.fired fun b => (((b.send 1 t x).send 1 u x).send 1 v x).send 1 w x))

/-- R226, R244, R267, R312: words without operand slots that deliver a value as it stands: a control register, the tick, launch time, the wall time, the
state of a reservation, a sink of the issuing region. -/
def Obligations.ReadWords : Prop :=
  ∀ s b p t, Fires s b p false false false 0 0 0 →
    (∀ n, Delivers s (.rdcr p n t) 1 t (s.readCr s.focus.core s.focus.seq n.toNat)) ∧
    Delivers s (.rdtick p t) 1 t (BitVec.ofNat 64 s.tick) ∧
    (∀ a l, (s.seq s.focus.core s.focus.seq).act = some a → s.launch? a.launch = some l → Delivers s (.rdlt p t) 1 t l.ltime) ∧
    Delivers s (.rdwall p t) 1 t s.tm.ns ∧
    (∀ n, Delivers s (.cpchk p n t) 1 t (BitVec.ofNat 64 (s.checkResv s.focus.core n.toNat))) ∧
    ∀ (h : s.focus.seq.val < 4) n, Delivers s (.rdsink p n t) 1 t (((s.ctx s.focus.core).regions[s.focus.seq.val]).sinks[n].setWidth 64)

/-! ### Words of a block: memory -/

/-- R228, R230: the effective location of an access. Where the LSID names an A-buffer range of the block (SPACE 00) or a Pantry range, the address, aligned to
the access size, is unchanged if it lies in the range; and whatever it is, the location lies in the range.
R231, R237, R234: a load that may fire reads n bytes at the location of left + sext(imm9) x n in tick f + 2, its value arriving two ticks later; `acq` reads 8
bytes, a Pantry key with the latency of its route on top.
R104, R106, R234: a window read of n bytes at offset left + sext(imm9) x n, aligned down. Within the bound it reads BASE + offset of the window's space; past
the bound, or of a window that is not valid, it makes no access and delivers 0, with the latency of an in-bound read.
R201, R121: reads and values on their way come one tick nearer with each tick; a read whose tick has come makes its bank access and sends its value on its way: the n
bytes at its place in the A-buffer, the W-buffer or the Pantry, zero-extended, of 16 bytes the upper half to the second target; out of bound, 0 and no access. -/
def Obligations.Reads : Prop :=
  (∀ (r : LsidRec) (a : Word) (n : Nat), 0 < r.size →
    let off := (if r.space = 1 then a.toNat % 2 ^ 32 else a.toNat % 2 ^ 22) / n * n
    (effective (some r) a n).1 = (r.space == 1) ∧
    r.base ≤ (effective (some r) a n).2 ∧ (effective (some r) a n).2 < r.base + r.size ∧
    (r.base ≤ off → off < r.base + r.size → (effective (some r) a n).2 = off)) ∧
  (∀ s b p lsid (imm : BitVec 9) t x, Fires s b p true false false x 0 0 →
    let c := s.focus.core
    let q := s.focus.seq
    let reads (i : Instr) (n : Nat) : Prop :=
      exec i s = .next (s.fired (·.read { wait := 2, lat := 2, oob := none, pantry := false, wbuf := false, n := n, target := t,
                                                    addr := (s.locate c q lsid (x + BitVec.ofInt 64 (imm.toInt * n)) n).2 }))
    reads (.ldB p lsid imm t) 1 ∧ reads (.ldH p lsid imm t) 2 ∧ reads (.ldW p lsid imm t) 4 ∧ reads (.ldD p lsid imm t) 8 ∧ reads (.ldQ p lsid imm t) 16 ∧
    exec (.acq p lsid t) s = .next (s.fired (·.read
      { wait := 2 + s.rho c (s.locate c q lsid x 8).1 (s.locate c q lsid x 8).2, lat := 2 + s.rho c (s.locate c q lsid x 8).1 (s.locate c q lsid x 8).2,
        oob := none, pantry := (s.locate c q lsid x 8).1, wbuf := false, addr := (s.locate c q lsid x 8).2, n := 8, target := t }))) ∧
  (∀ s b p w size (imm : BitVec 9) t x, Fires s b p true false false x 0 0 → s.window? s.focus.core s.focus.seq w = none →
    ∃ k : Load, exec (.ldpw p w size imm t) s = .next (s.fired (·.read k)) ∧ k.oob = some w ∧ k.n = WinSize.bytes size ∧ k.target = t ∧ k.wait = 2 ∧ k.lat = 2) ∧
  (∀ s b p w size (imm : BitVec 9) t x d, Fires s b p true false false x 0 0 → s.window? s.focus.core s.focus.seq w = some d →
    let n := WinSize.bytes size
    let o := (x + BitVec.ofInt 64 (imm.toInt * n)).toNat / n * n
    ∃ k : Load, exec (.ldpw p w size imm t) s = .next (s.fired (·.read k)) ∧ k.n = n ∧ k.target = t ∧ k.wait = k.lat ∧ k.wbuf = !d.pantry ∧
      k.wait = 2 + (if d.pantry then s.rho s.focus.core true (d.pantryAddr o) else 0) ∧
      (d.bound < o + n → k.oob = some w) ∧
      (o + n ≤ d.bound → k.oob = none ∧ k.pantry = d.pantry ∧ k.addr = if d.pantry then d.pantryAddr o else d.base + o)) ∧
  (∀ b : BlockRun, b.tickEnd.loads = b.loads.map (fun k => { k with wait := k.wait - 1 }) ∧
    b.tickEnd.flights = b.flights.map fun k => { k with left := k.left - 1 }) ∧
  ∀ (s : State) c q n b (k : Load), (s.seq c q).run = some b →
    let t := s.readNow c q n k
    let sends (v : Nat) : Prop := (t.seq c q).run = some { b with flights := b.flights ++
      if k.n = 16 then [⟨k.lat, k.target, BitVec.ofNat 64 v⟩, ⟨k.lat, nextTarget k.target, BitVec.ofNat 64 (v / 2 ^ 64)⟩]
      else [⟨k.lat, k.target, BitVec.ofNat 64 v⟩] }
    (∀ w, k.oob = some w → sends 0 ∧ s.sameMemory t ∧ ((t.seq c q).pwbHit.getLsbD w) = true ∧ (t.seq c q).g = (s.seq c q).g) ∧
    (k.oob = none → s.ecc = [] → s.sameMemory t ∧ t.tr = s.tr ∧ (∀ d, d ≠ c → t.core d = s.core d) ∧
      (k.wbuf = true → sends (readLE (s.core c).wbuf (s.wPhys c k.addr) k.n)) ∧
      (k.wbuf = false → k.pantry = false → sends (readLE (s.core c).abuf (s.aPhys c k.addr) k.n)) ∧
      (k.wbuf = false → k.pantry = true → sends (readLE s.dies[(s.pantryPhys c k.addr).1].pantry (s.pantryPhys c k.addr).2 k.n)))

/-- R184, R205, R232, R233: a store that may fire resolves its LSID and will write the low n bytes of its data at its commit; `st.q` writes the right operand
below the predicate slot's value; `nullst` resolves without a store, `nullw` nullifies a write slot. A second resolution, or a second value, raises
ILLEGAL with the DETAIL of R479. -/
def Obligations.StoreWords : Prop :=
  (∀ s b p lsid (imm : BitVec 9) x y, Fires s b p true true false x y 0 →
    let c := s.focus.core
    let q := s.focus.seq
    let stores (i : Instr) (n : Nat) : Prop :=
      let e : Effect := .store (s.locate c q lsid (x + BitVec.ofInt 64 (imm.toInt * n)) n).2 (leBytes n y.toNat)
      (b.lsids.getLsbD lsid.toNat = false →
        exec i s = .next (s.fired fun b => BlockRun.effect s.focus.idx e { b with lsids := setBit b.lsids lsid.toNat })) ∧
      (b.lsids.getLsbD lsid.toNat = true →
        exec i s = .next ((s.fired fun b => BlockRun.effect s.focus.idx e (b.raise (illegal 3 lsid.toNat 0))).settleTrap c q))
    stores (.stB p lsid imm) 1 ∧ stores (.stH p lsid imm) 2 ∧ stores (.stW p lsid imm) 4 ∧ stores (.stD p lsid imm) 8) ∧
  (∀ s b lsid (imm : BitVec 9) x y z, Fires s b .always true true true x y z →
    let e : Effect := .store (s.locate s.focus.core s.focus.seq lsid (x + BitVec.ofInt 64 (imm.toInt * 16)) 16).2 (leBytes 8 y.toNat ++ leBytes 8 z.toNat)
    (b.lsids.getLsbD lsid.toNat = false →
      exec (.stQ lsid imm) s = .next (s.fired fun b => BlockRun.effect s.focus.idx e { b with lsids := setBit b.lsids lsid.toNat })) ∧
    (b.lsids.getLsbD lsid.toNat = true → exec (.stQ lsid imm) s =
      .next ((s.fired fun b => BlockRun.effect s.focus.idx e (b.raise (illegal 3 lsid.toNat 0))).settleTrap s.focus.core s.focus.seq))) ∧
  (∀ s b p lsid, Fires s b p false false false 0 0 0 →
    (b.lsids.getLsbD lsid.toNat = false → exec (.nullst p lsid) s = .next (s.fired fun b => { b with lsids := setBit b.lsids lsid.toNat })) ∧
    (b.lsids.getLsbD lsid.toNat = true →
      exec (.nullst p lsid) s = .next ((s.fired (·.raise (illegal 3 lsid.toNat 0))).settleTrap s.focus.core s.focus.seq))) ∧
  ∀ s b p w, Fires s b p false false false 0 0 0 →
    (b.slots[w] = none → exec (.nullw p w) s = .next (s.fired fun b => { b with slots := b.slots.set w (some none) })) ∧
    (b.slots[w].isSome = true →
      exec (.nullw p w) s = .next ((s.fired fun b => b.raise (illegal 2 w 0)).settleTrap s.focus.core s.focus.seq))

/-- R235: an atomic that may fire resolves its LSID; its write slot counts as written; its read-modify-write of n bytes waits for the commit. A second resolution, or a
slot that counts as written already, raises ILLEGAL (R184, R203). R236: the new value of n bytes from the old one: the sum modulo 2^(8n), the signed minimum and maximum, the
argument, or the new value where the old one is as expected. -/
def Obligations.Atomics : Prop :=
  (let after (lsid : BitVec 5) (t : Target) (b : BlockRun) : BlockRun :=
    let b := if b.lsids.getLsbD lsid.toNat then b.raise (illegal 3 lsid.toNat 0) else { b with lsids := setBit b.lsids lsid.toNat }
    match t with | .slot w => if b.slots[w].isSome then b.raise (illegal 2 w 0) else { b with slots := b.slots.set w (some none) } | _ => b
  let slotOf (t : Target) : Option (Fin 8) := match t with | .slot w => some w | _ => none
  let free (b : BlockRun) (lsid : BitVec 5) (t : Target) : Prop :=
    b.lsids.getLsbD lsid.toNat = false ∧ match t with | .slot w => b.slots[w] = none | _ => True
  (∀ s b p lsid t x y, Fires s b p true true false x y 0 →
    let does (i : Instr) (op : Fin 5) (n : Nat) : Prop :=
      let u := s.fired fun b => BlockRun.effect s.focus.idx (.amo op (s.locate s.focus.core s.focus.seq lsid x n).2 n y.toNat 0 (slotOf t)) (after lsid t b)
      (free b lsid t → exec i s = .next u) ∧ (¬ free b lsid t → exec i s = .next (u.settleTrap s.focus.core s.focus.seq))
    does (.amoaddW p lsid t) 0 4 ∧ does (.amoaddD p lsid t) 0 8 ∧ does (.amominW p lsid t) 1 4 ∧ does (.amominD p lsid t) 1 8 ∧
    does (.amomaxW p lsid t) 2 4 ∧ does (.amomaxD p lsid t) 2 8 ∧ does (.amoswapW p lsid t) 3 4 ∧ does (.amoswapD p lsid t) 3 8) ∧
  ∀ s b lsid t x y z, Fires s b .always true true true x y z →
    let does (i : Instr) (n : Nat) : Prop :=
      let u := s.fired fun b => BlockRun.effect s.focus.idx (.amo 4 (s.locate s.focus.core s.focus.seq lsid x n).2 n y.toNat z.toNat (slotOf t)) (after lsid t b)
      (free b lsid t → exec i s = .next u) ∧ (¬ free b lsid t → exec i s = .next (u.settleTrap s.focus.core s.focus.seq))
    does (.amocasW lsid t) 4 ∧ does (.amocasD lsid t) 8) ∧
  (∀ (n : Nat) (old a z : BitVec (8 * n)), 0 < n →
    amoResult 0 n old.toNat a.toNat 0 = (old.toNat + a.toNat) % 2 ^ (8 * n) ∧
    amoResult 1 n old.toNat a.toNat 0 = (if old.toInt ≤ a.toInt then old.toNat else a.toNat) ∧
    amoResult 2 n old.toNat a.toNat 0 = (if old.toInt ≤ a.toInt then a.toNat else old.toNat) ∧
    amoResult 3 n old.toNat a.toNat 0 = a.toNat ∧
    amoResult 4 n old.toNat a.toNat z.toNat = if old = a then z.toNat else old.toNat)

/-- R238, R239, R242, R243, R248, R313: `rel`, which resolves its LSID, and `arrive` act at commit; `waitw`, `bwait`, `fence` and `lwait` wait, the first until its word may be read, the
others for at least one tick. -/
def Obligations.SynchronisingWords : Prop :=
  (∀ s b p lsid x y, Fires s b p true true false x y 0 →
    let e : Effect := .rel (s.locate s.focus.core s.focus.seq lsid x 8).1 (s.locate s.focus.core s.focus.seq lsid x 8).2 y
    (b.lsids.getLsbD lsid.toNat = false →
      exec (.rel p lsid) s = .next (s.fired fun b => BlockRun.effect s.focus.idx e { b with lsids := setBit b.lsids lsid.toNat })) ∧
    (b.lsids.getLsbD lsid.toNat = true →
      exec (.rel p lsid) s = .next ((s.fired fun b => BlockRun.effect s.focus.idx e (b.raise (illegal 3 lsid.toNat 0))).settleTrap s.focus.core s.focus.seq))) ∧
  (∀ s b p lsid t x y, Fires s b p true true false x y 0 →
    let a := s.locate s.focus.core s.focus.seq lsid x 8
    exec (.waitw p lsid t) s = .next (s.fired (·.await
      { idx := s.focus.idx, wait := 2 + s.rho s.focus.core a.1 a.2, target := t, kind := .waitw a.1 a.2 y (s.rho s.focus.core a.1 a.2) false false }))) ∧
  (∀ s b p u t x, Fires s b p true false false x 0 0 →
    Defers s (.arrive p u) (.arrive u x) ∧
    exec (.bwait p u t) s = .next (s.fired (·.await { idx := s.focus.idx, wait := 1, target := t, kind := .bwait u (x.extractLsb' 0 8) false false }))) ∧
  (∀ s b p t, Fires s b p false false false 0 0 0 →
    exec (.fence p t) s = .next (s.fired (·.await { idx := s.focus.idx, wait := 1, target := t, kind := .fence }))) ∧
  ∀ s b p l le t x, Fires s b p true false false x 0 0 →
    exec (.lwait p l le t) s = .next (s.fired (·.await { idx := s.focus.idx, wait := 1, target := t, kind := .lwait l le (x.toNat % 2 ^ 5) }))

/-! ### Words of a block: exits, engines, traces -/

/-- R209, R245, R246: an exit takes its successor, for `bro` sext(offset, 20) x 32 bytes from its block, for `brx` the block that its jump table gives; a second
exit raises MULTIEXIT with both numbers, a bad jump its trap. -/
def Obligations.ExitWords : Prop :=
  (∀ s b p e (off : BitVec 20), Fires s b p false false false 0 0 0 → b.exit = none →
    exec (.bro p e off) s = .next (s.fired fun b => { b with exit := some ⟨e, some (b.addr + BitVec.ofInt 24 (32 * off.toInt))⟩ }) ∧
    exec (.bend p e) s = .next (s.fired fun b => { b with exit := some ⟨e, none⟩ })) ∧
  (∀ s b p e k (off : BitVec 20), Fires s b p false false false 0 0 0 → b.exit = some k →
    let twice : Trap := ⟨0x02, BitVec.ofNat 32 (k.num.toNat + e.toNat * 8)⟩
    exec (.bro p e off) s = .next ((s.fired (·.raise twice)).settleTrap s.focus.core s.focus.seq) ∧
    exec (.bend p e) s = .next ((s.fired (·.raise twice)).settleTrap s.focus.core s.focus.seq)) ∧
  ∀ s b p e (off : BitVec 20) x, Fires s b p true false false x 0 0 →
    (∀ a, s.jump s.focus.core (b.addr + BitVec.ofInt 24 (32 * off.toInt)) (x.toNat % 16) = .ok a →
      (b.exit = none → exec (.brx p e off) s = .next (s.fired fun b => { b with exit := some ⟨e, some a⟩ })) ∧
      ∀ k, b.exit = some k → exec (.brx p e off) s =
        .next ((s.fired (·.raise ⟨0x02, BitVec.ofNat 32 (k.num.toNat + e.toNat * 8)⟩)).settleTrap s.focus.core s.focus.seq)) ∧
    ∀ t, s.jump s.focus.core (b.addr + BitVec.ofInt 24 (32 * off.toInt)) (x.toNat % 16) = .error t →
      exec (.brx p e off) s = .next ((s.fired (·.raise t)).settleTrap s.focus.core s.focus.seq)

/-- R227, R247, R315, R449: words that wait for the commit of their block: `wrcr`, `brk`, `loop` (a COUNT of 0 is taken as 1) and the trace words; `nop` fires
and does nothing. -/
def Obligations.CommitWords : Prop :=
  (∀ s b p n x, Fires s b p true false false x 0 0 → Defers s (.wrcr p n) (.wrcr n x)) ∧
  (∀ s b p, Fires s b p false false false 0 0 0 →
    Defers s (.brk p) .brk ∧ Defers s (.tstopStop p) (.tstop false) ∧ Defers s (.tstopStart p) (.tstop true) ∧ exec (.nop p) s = .next (s.fired id)) ∧
  (∀ s b p x, Fires s b p true false false x 0 0 → (∀ code, Defers s (.tmark p code) (.tmark code x)) ∧ Defers s (.thash p) (.thash x)) ∧
  ∀ s b p x y, Fires s b p true true false x y 0 →
    (∀ n, Defers s (.trec p n) (.trec n x y)) ∧
    Defers s (.loop p) (.loop (if x.toNat % 2 ^ 32 = 0 then 1 else BitVec.ofNat 32 x.toNat) (BitVec.ofNat 24 y.toNat) (BitVec.ofNat 24 (y.toNat / 2 ^ 24)))

/-- R252, R259, R305, R306, R337, R379: the words of the copy engine, the regions, the matrix engine and the stochastic engine are issued to their engine, with
the operands of their form, at the commit of their block. -/
def Obligations.EngineWords : Prop :=
  ((∀ s b p ch d x y, Fires s b p true true false x y 0 →
    Issues s (.cp1 p ch d) x y ∧ Issues s (.cp2 p ch d) x y ∧ Issues s (.cp3 p ch d) x y ∧ Issues s (.cpmc p ch d) x y ∧ Issues s (.cpset p ch d) x y ∧
    Issues s (.cpcmp p ch d) x y ∧ Issues s (.cphash p ch d) x y ∧ Issues s (.cpspill p ch d) x y ∧ Issues s (.cpunspill p ch d) x y) ∧
  (∀ s b p ch d y, Fires s b p false true false 0 y 0 → Issues s (.cpbind p ch d) 0 y) ∧
  (∀ s b p x, Fires s b p true false false x 0 0 →
    Issues s (.jtab p) x 0 ∧ Issues s (.run p) x 0 ∧ ∀ port, Issues s (.tok p port) x 0) ∧
  ∀ s b p, Fires s b p false false false 0 0 0 →
    (∀ n, Issues s (.cfgld p n) 0 0) ∧ Issues s (.cfgact p) 0 0 ∧ Issues s (.cfgdrop p) 0 0 ∧ ∀ l, Issues s (.lrel p l) 0 0) ∧
  ((∀ s b p x y, Fires s b p true true false x y 0 →
    (∀ n r, Issues s (.mtld p n r) x y ∧ Issues s (.mtldw p n r) x y ∧ Issues s (.mtst p n r) x y) ∧
    (∀ f d a, Issues s (.mma p f d a) x y ∧ ∀ r, Issues s (.mmaw p f d a r) x y) ∧
    ∀ n q, Issues s (.mgdlt p n q) x y ∧ Issues s (.mfwchunk p n q) x y) ∧
  (∀ s b p x, Fires s b p true false false x 0 0 →
    (∀ n r, Issues s (.mspill p n r) x 0 ∧ Issues s (.mfill p n r) x 0) ∧ (∀ d q rnd int, Issues s (.mscacc p d q rnd int) x 0) ∧
    (∀ n g, Issues s (.mrd p n g) x 0) ∧ (∀ n f, Issues s (.mpin p n f) x 0) ∧ ∀ n q, Issues s (.mfwrd p n q) x 0) ∧
  ∀ s b p, Fires s b p false false false 0 0 0 →
    (∀ n rnd clr, Issues s (.mchainB p n rnd clr) 0 0) ∧ ∀ n, Issues s (.mchainE p n) 0 0 ∧ Issues s (.mzero p n) 0 0 ∧ Issues s (.munpin p n) 0 0) ∧
  ((∀ s b p x y, Fires s b p true true false x y 0 →
    (∀ d, Issues s (.sand p d) x y ∧ Issues s (.sor p d) x y ∧ Issues s (.sxor p d) x y ∧ Issues s (.sxnor p d) x y ∧ Issues s (.smux p d) x y ∧
      Issues s (.snot p d) x y ∧ Issues s (.smov p d) x y ∧ Issues s (.srot p d) x y) ∧
    (∀ len d, Issues s (.sfill p len d) x y ∧ Issues s (.sld p len d) x y) ∧ (∀ acc n, Issues s (.scnt p acc n) x y) ∧
    (∀ g c len d, Issues s (.sgen p g c len d) x y) ∧ (∀ g d, Issues s (.sregen p g d) x y) ∧ (∀ g bp len d, Issues s (.b2sv p g bp len d) x y) ∧
    (∀ bp a, Issues s (.s2b p bp a) x y) ∧ ∀ g, Issues s (.sgset p g) x y) ∧
  ∀ s b p x, Fires s b p true false false x 0 0 → (∀ g bp len d, Issues s (.b2s p g bp len d) x 0) ∧ ∀ a, Issues s (.sst p a) x 0)

/-! ### Words of a block: every one of them -/

/-- R175, R200, R202, R203: a word whose predicate does not match is nullified, and does nothing else; one that has fired or been nullified does nothing more.
The words are the only instructions that can stop, and they stop only where the scheduler never asks for them: a word of the running block that has neither fired nor been
nullified, and whose predicate slot, or an operand slot that its form has, is still empty. -/
def Obligations.EveryWord : Prop :=
  (∀ i s b, (encodeWord i).isSome = true → Mismatched s b (Instr.pred i) →
    exec i s = .next (s.updRun s.focus.core s.focus.seq (·.markNulled s.focus.idx))) ∧
  (∀ i s b, (encodeWord i).isSome = true → (s.seq s.focus.core s.focus.seq).run = some b →
    (b.fired.getLsbD s.focus.idx || b.nulled.getLsbD s.focus.idx) = true → exec i s = .next s) ∧
  (∀ i s, (∀ r, exec i s ≠ .refused r) ∧ (encodeWord i = none → ∃ t, exec i s = .next t)) ∧
  ∀ i w s e, encodeWord i = some w → exec i s = .fault e →
    let x := s.focus.idx
    ∃ b, (s.seq s.focus.core s.focus.seq).run = some b ∧ b.fired.getLsbD x = false ∧ b.nulled.getLsbD x = false ∧
      (verdict (Instr.pred i) b.gate[x] = .waits ∨ ((wordForm w).left = true ∧ b.left[x] = none) ∨ ((wordForm w).right = true ∧ b.right[x] = none) ∨
        ((wordForm w).third = true ∧ b.gate[x] = none))

/-- R205, R207: the frame of every word. Firing changes nothing but the running block of its sequencer: no register, no byte of any memory, no engine, no other
sequencer; the one thing that may follow is the response to a trap. -/
def Obligations.WordFrame : Prop :=
  ∀ i s t, (encodeWord i).isSome = true → exec i s = .next t →
    ∃ u, OnlyBlock s.focus.core s.focus.seq s u ∧ (t = u ∨ ∃ k, t = u.takeTrap s.focus.core s.focus.seq k)

/-- R203, R174, R202: a value that arrives at a slot fills it; at a filled one it raises ILLEGAL; a nullified instruction discards it. -/
def Obligations.ArrivalsFillSlots : Prop :=
  ∀ (b : BlockRun) (i : Fin 32) (w : Fin 8) v,
    (b.nulled.getLsbD i = true → b.arrive (.left i) v = b ∧ b.arrive (.right i) v = b ∧ b.arrive (.gate i) v = b) ∧
    (b.nulled.getLsbD i = false →
      (b.left[i] = none → b.arrive (.left i) v = { b with left := b.left.set i (some v) }) ∧
      (b.right[i] = none → b.arrive (.right i) v = { b with right := b.right.set i (some v) }) ∧
      (b.gate[i] = none → b.arrive (.gate i) v = { b with gate := b.gate.set i (some v) }) ∧
      (b.trap = none → b.left[i].isSome = true → (b.arrive (.left i) v).trap = some (illegal 1 i 0)) ∧
      (b.trap = none → b.right[i].isSome = true → (b.arrive (.right i) v).trap = some (illegal 1 i 1)) ∧
      (b.trap = none → b.gate[i].isSome = true → (b.arrive (.gate i) v).trap = some (illegal 1 i 2))) ∧
    (b.slots[w] = none → b.arrive (.slot w) v = { b with slots := b.slots.set w (some (some v)) }) ∧
    (b.trap = none → b.slots[w].isSome = true → (b.arrive (.slot w) v).trap = some (illegal 2 w 0)) ∧
    b.arrive .null v = b

/-! ### Traps -/

/-- R247, R211, R57, R212, R453: `trap`, the last word of its block to fire where no value of the tick raises a lower code, raises TRAP with its code; an activation with
a fallback starts it in the same tick, and while a debug stop holds its launch keeps it. The cause registers, TRAPPED, the records and the sequencer are as R211 and R217 say; memory,
launches and the other sequencers stand. -/
def Obligations.TrapStartsFallback : Prop :=
  ∀ s b p code a fb, Fires s b p false false false 0 0 0 → (s.seq s.focus.core s.focus.seq).act = some a →
    a.isFallback = false → a.fallback = some fb → a.drain = false → s.health.marked.getLsbD s.focus.core = false → s.ecc = [] →
    (s.seq s.focus.core s.focus.seq).answered = false → s.phase ≠ .values →
    (∀ w ∈ s.todo, ∀ i, w ≠ .fire s.focus.core s.focus.seq i) →
    let r := ((b.markFired s.focus.idx).raise ⟨0x05, code.setWidth 32⟩).settleSlots
    r.trap = some ⟨0x05, code.setWidth 32⟩ → r.mayClash = false ∨ s.phase = .trace →
    let x := s.seq s.focus.core s.focus.seq
    let traps (P : State → SeqState → Prop) : Prop := Runs s (.trap p code) fun t =>
      let y := t.seq s.focus.core s.focus.seq
      y.trapped = true ∧ y.trapCause = 0x05 ∧ y.trapDetail = code.setWidth 32 ∧ y.trapTick = BitVec.ofNat 40 s.tick ∧ y.trapBlock = b.addr ∧ y.loops = [] ∧
      y.overrun = x.overrun ∧ y.killed = x.killed ∧ y.rkey = x.rkey ∧ y.rlayer = x.rlayer ∧ y.trHash = x.trHash ∧ y.fbIdx = x.fbIdx ∧
      SameModule s t ∧ s.sameMemory t ∧ (∀ d, (s.ctx d).sameEngines (t.ctx d)) ∧
      (∀ d r, (d, r) ≠ (s.focus.core, s.focus.seq) → t.seq d r = s.seq d r) ∧ P t y
    let first := s.openBlock s.focus.core fb s.focus.seq (x.g.set 63 a.arg)
    ((∀ l, s.coreLaunch? s.focus.core = some l → l.stopped s.tick = false) → first.trap = none → traps fun t y =>
      y.act = some { a with isFallback := true, ran := 0, pwbSeen := 0 } ∧ y.g = x.g.set 63 a.arg ∧ y.commits = 0 ∧ y.actEntry = a.entry ∧
      y.actFirst = fb ∧ y.actCur = fb ∧ y.run = some first ∧ s.logs t [0x08, 0x05]) ∧
    ∀ l, s.coreLaunch? s.focus.core = some l → l.stopped s.tick = true → traps fun t y =>
      y.act = some a ∧ y.held = some fb ∧ y.run = none ∧ y.g = x.g ∧ y.commits = x.commits ∧ s.logs t [0x08]

/-- R211, R26, R39: without a fallback, in one, or on a core that is marked defective, `trap` cancels the launch's fault domain: none of its launches remains, but one
that is placed and has not started. R208, R210: a quiescent block in which no exit has fired raises NOEXIT; one whose exit has fired, and that may not commit, INCOMPLETE with the LSIDs that
are unresolved. -/
def Obligations.TrapsEndBlocks : Prop :=
  (∀ s b p code a, Fires s b p false false false 0 0 0 → (s.seq s.focus.core s.focus.seq).act = some a →
    (a.isFallback = true ∨ a.fallback = none ∨ s.health.marked.getLsbD s.focus.core = true) →
    (s.seq s.focus.core s.focus.seq).answered = false → s.phase ≠ .values → (∀ w ∈ s.todo, ∀ i, w ≠ .fire s.focus.core s.focus.seq i) →
    ((b.markFired s.focus.idx).raise ⟨0x05, code.setWidth 32⟩).settleSlots.mayClash = false ∨ s.phase = .trace →
    Runs s (.trap p code) fun t => s.domainGone t (s.fdomOf a.launch)) ∧
  (∀ s c q b, (s.seq c q).run = some b → 1 ≤ b.age → b.flights = [] → b.loads = [] → b.waits = [] → b.trap = none →
    (∀ i : Fin 32, b.due i (b.word i) false = false) →
    (b.exit = none → exec (.noexit c q) s = .next (s.takeTrap c q ⟨0x01, 0⟩)) ∧
    ∀ e, b.exit = some e → b.ready = false →
      ∃ d : Word32, exec (.incomplete c q) s = .next (s.takeTrap c q ⟨0x06, d⟩) ∧
        ∀ i < 32, d.getLsbD i = (decide (i < b.stores) && !b.lsids.getLsbD i))

/-! ### Commit -/

/-- R204, R205 step 1, R206, R171: a block that is ready, and has no effect but its write slots, commits: each slot's value goes to its register, the highest slot's where
several name it, COMMITS counts, and the successor is taken, or the activation ends. Nothing else changes: no other register of the sequencer, no other part of the machine. -/
def Obligations.CommitWritesRegisters : Prop :=
  ∀ s c q b a e, (s.seq c q).run = some b → (s.seq c q).act = some a → b.ready = true → b.effects = [] → b.exit = some e → (s.seq c q).loops = [] →
    a.mark = false → s.bench = false → (∀ h : q.val < 4, ((s.ctx c).regions[q.val]).queue.length ≤ 16) →
    Runs s (.blockCommit c q) fun t =>
      let x := s.seq c q
      let y := t.seq c q
      t = s.updSeq c q (fun _ => y) ∧
      y = { x with g := y.g, run := none, commits := y.commits, succ := e.next, act := if e.next = none then none else some a, succLoop := y.succLoop } ∧
      y.commits.toNat = min (x.commits.toNat + 1) 0xFFFF ∧ y.succLoop = (if e.next = none then x.succLoop else false) ∧
      (∀ n : Fin 64, (∀ w : Fin 8, b.wregs.getD w none = some (BitVec.ofFin n) → b.slots[w] = some none) → y.g[n] = x.g[n]) ∧
      ∀ (w : Fin 8) (n : Fin 64) v, b.wregs.getD w none = some (BitVec.ofFin n) → b.slots[w] = some (some v) →
        (∀ w' : Fin 8, w < w' → b.wregs.getD w' none = some (BitVec.ofFin n) → b.slots[w'] = some none) → y.g[n] = v

/-- R205 step 3, R232, R94: a block whose effects are stores writes, at its commit, exactly the bytes that they name, in the order of their instruction indices: a byte takes its
value from the store of the highest index that names it; every byte outside all of them, in every memory, reads as before. -/
def Obligations.CommitWritesStores : Prop :=
  ∀ s c q b a, (s.seq c q).run = some b → (s.seq c q).act = some a → b.ready = true → s.bench = false → a.mark = false →
    (∀ e ∈ b.effects, ∃ n bytes, e.2 = .store n bytes) → (b.effects.map Prod.fst).Nodup → s.ecc = [] → s.memWf = true → (s.core c).bankHolds = [] → (s.seq c q).loops.length ≤ 4 →
    (∀ h : q.val < 4, ((s.ctx c).regions[q.val]).queue.length ≤ 16) →
    Runs s (.blockCommit c q) fun t =>
      (∀ x, (∀ e ∈ b.effects, ∀ n bytes, e.2 = .store n bytes → x < s.aPhys c n ∨ s.aPhys c n + bytes.length ≤ x) →
        readByte (t.core c).abuf x = readByte (s.core c).abuf x) ∧
      (∀ i n bytes, (i, .store n bytes) ∈ b.effects → ∀ k (h : k < bytes.length),
        (∀ j m other, (j, .store m other) ∈ b.effects → i < j → s.aPhys c n + k < s.aPhys c m ∨ s.aPhys c m + other.length ≤ s.aPhys c n + k) →
        readByte (t.core c).abuf (s.aPhys c n + k) = bytes[k]) ∧
      (∀ d, d ≠ c → t.core d = s.core d) ∧ (t.core c).wbuf = (s.core c).wbuf ∧ (t.core c).cbuf = (s.core c).cbuf ∧
      (t.core c).blockStore = (s.core c).blockStore ∧ (t.ctx c).tiles = (s.ctx c).tiles ∧ t.dies = s.dies ∧ t.dram = s.dram ∧ t.hostMem = s.hostMem

/-- R205 step 6, R251, R252, R304, R332, R374: a copy, region, matrix or stochastic instruction reaches the queue of its engine at its block's commit, behind what waits there. -/
def Obligations.CommitIssues : Prop :=
  ∀ s c q b a i x y n, (s.seq c q).run = some b → (s.seq c q).act = some a → b.ready = true → b.effects = [(n, .issue i x y)] → s.bench = false → a.mark = false →
    (s.seq c q).loops.length ≤ 4 → (∀ h : q.val < 4, ((s.ctx c).regions[q.val]).queue.length < 16) →
    let cmd := s.command c q a b.addr i x y
    (∀ ch, copyChan? i = some ch → (s.ctx c).chans[ch].queue.length < 16 → (s.ctx c).chans[ch].run = none →
      Runs s (.blockCommit c q) fun t => (t.ctx c).chans[ch].queue = (s.ctx c).chans[ch].queue ++ [cmd]) ∧
    (copyChan? i = none → ∀ h : q.val < 4, ((s.ctx c).regions[q.val]).queue.length < 16 →
      Runs s (.blockCommit c q) fun t => ((t.ctx c).regions[q.val]).queue = ((s.ctx c).regions[q.val]).queue ++ [cmd]) ∧
    (copyChan? i = none → q = 4 → (s.ctx c).matrix.queue.length < 16 →
      Runs s (.blockCommit c q) fun t => (t.ctx c).matrix.queue = (s.ctx c).matrix.queue ++ [cmd]) ∧
    (copyChan? i = none → q = 5 → (s.ctx c).stoch.queue.length < 16 →
      Runs s (.blockCommit c q) fun t => (t.ctx c).stoch.queue = (s.ctx c).stoch.queue ++ [cmd])

/-- R214, R215, R227, R241: what a write to a control register leaves it reading: the fields that software may write, and no other. -/
def Obligations.ControlRegisterWrites : Prop :=
  ∀ (s : State) (c : CoreIx) (q : SeqIx) (v : Word),
    let reads (n : Nat) (w : Nat) : Prop := (s.writeCr c q n v).readCr c q n = BitVec.ofNat 64 w
    reads 0x008 v.toNat ∧ reads 0x500 v.toNat ∧ reads 0x009 (v.toNat % 2 ^ 16) ∧ reads 0x104 (if q.val < 4 then v.toNat % 2 ^ 48 else 0) ∧ reads 0x203 (v.toNat % 2 ^ 5) ∧
    reads 0x302 (v.toNat % 2 ^ 6) ∧ reads 0x304 (v.toNat % 2 ^ 4) ∧ reads 0x00A (v.toNat / 2 ^ 8 % 2 ^ 8 * 2 ^ 8 + v.toNat % 2 ^ 6) ∧
    (∀ k < 16, reads (0x210 + k) (v.toNat % 2 ^ 19)) ∧
    (∀ k < 16, (s.ctx c).stoch.cntNew.getLsbD k = false → reads (0x310 + k) (v.toNat % 2 ^ 32)) ∧
    (∀ n, n ∈ [0x001, 0x002, 0x003, 0x005, 0x006, 0x007, 0x00B, 0x100, 0x101, 0x102, 0x103, 0x105, 0x200, 0x201, 0x202, 0x204, 0x205, 0x300, 0x301, 0x303,
      0x305, 0x306, 0x400, 0x401, 0x402, 0x403, 0x501, 0x502, 0x503, 0x504, 0x505, 0x506, 0x507, 0x508] → s.writeCr c q n v = s) ∧
    ((s.writeCr c q 0 v).seq c q).trapped = ((s.seq c q).trapped && !v.getLsbD 3) ∧
    ((s.writeCr c q 0 v).seq c q).overrun = ((s.seq c q).overrun && !v.getLsbD 2) ∧
    ((s.writeCr c q 0 v).seq c q).killed = ((s.seq c q).killed && !v.getLsbD 1)

/-! ### Waits, keys and barriers -/

/-- R239, R243, R248, R313: what ends the wait of `waitw` (its word has been written), `bwait` (the generation has moved on), `fence` (every earlier operation
is complete), `lwait` (the occupancy is as asked), and what each delivers and when. -/
def Obligations.WaitsEnd : Prop :=
  ∀ s c q i b w, (s.seq c q).run = some b → s.waiting? c q i = some w → b.trap = none →
    let delivers (ins : Instr) (lat : Nat) (v : Word) : Prop := (b.deliver lat w.target v).trap = none →
      exec ins s = .next (s.updRun c q fun b => { b.deliver lat w.target v with waits := b.waits.filter (· != w) })
    (∀ p x e rho, w.kind = .waitw p x e rho true true → delivers (.waitwWake c q i) (3 + rho) (s.watched c p x)) ∧
    (∀ u ph cmp wk, w.kind = .bwait u ph cmp wk → w.wait = 0 → wk = true ∨ cmp = false ∧ (s.ctx c).barriers[u].gen ≠ ph →
      delivers (.bwaitWake c q i) 1 ((s.ctx c).barriers[u].gen.setWidth 64)) ∧
    (w.kind = .fence → w.wait = 0 → (s.ctx c).busyFor (fun o => o.seq == q) = false → (s.seq c q).rels = [] → s.keyHeld c q = false → delivers (.fenceDeliver c q i) 1 0) ∧
    ∀ l le n, w.kind = .lwait l le n → w.wait = 0 →
      (if le then (s.ctx c).landings[l].length ≤ n else n ≤ (s.ctx c).landings[l].length) →
      delivers (.lwaitWake c q i) 1 (BitVec.ofNat 64 (s.ctx c).landings[l].length)

/-- R238, R98: a key word whose tick has come is written: its eight bytes, in the A-buffer or in the Pantry, take the value, and no other byte of any memory changes. -/
def Obligations.KeyWrites : Prop :=
  (∀ s c q a v rest, (s.seq c q).rels = ⟨0, false, a, v⟩ :: rest → (∀ r ∈ rest, r.left ≠ 0) → s.ecc = [] → s.memWf = true → (s.core c).bankHolds = [] →
    Runs s (.relKeyWrite c q) fun t =>
      let p := s.aPhys c a
      (t.seq c q).rels = rest ∧ readLE (t.core c).abuf p 8 = v.toNat ∧
      (∀ x, x < p ∨ p + 8 ≤ x → readByte (t.core c).abuf x = readByte (s.core c).abuf x) ∧
      (∀ d, d ≠ c → t.core d = s.core d) ∧ (t.core c).wbuf = (s.core c).wbuf ∧ (t.core c).cbuf = (s.core c).cbuf ∧ (t.core c).blockStore = (s.core c).blockStore ∧
      (t.ctx c).tiles = (s.ctx c).tiles ∧ t.dies = s.dies ∧ t.dram = s.dram ∧ t.hostMem = s.hostMem) ∧
  ∀ s c q a v rest, (s.seq c q).rels = ⟨0, true, a, v⟩ :: rest → (∀ r ∈ rest, r.left ≠ 0) → s.ecc = [] → s.memWf = true →
    let p := s.pantryPhys c a
    s.dies[p.1].holds = [] → Runs s (.relKeyWrite c q) fun t =>
      (t.seq c q).rels = rest ∧ readLE t.dies[p.1].pantry p.2 8 = v.toNat ∧
      (∀ x, x < p.2 ∨ p.2 + 8 ≤ x → readByte t.dies[p.1].pantry x = readByte s.dies[p.1].pantry x) ∧
      (∀ d : Fin 4, d ≠ p.1 → t.dies[d] = s.dies[d]) ∧ t.dies[p.1].mail = s.dies[p.1].mail ∧
      (∀ d, (t.core d).abuf = (s.core d).abuf ∧ (t.core d).wbuf = (s.core d).wbuf ∧ (t.core d).cbuf = (s.core d).cbuf ∧
        (t.core d).blockStore = (s.core d).blockStore ∧ (t.ctx d).tiles = (s.ctx d).tiles) ∧ t.dram = s.dram ∧ t.hostMem = s.hostMem

/-- R240, R241: an arrival moves a unit's count on, or completes its phase; with TARGET 0 the count stays 0. A written configuration sets TARGET, clears COUNT and keeps GEN;
arrivals that have reached the unit in the same tick come after it: the unit counts them anew from the GEN that stood before them. -/
def Obligations.BarrierUnits : Prop :=
  (∀ s c u n l, (s.core c).arrivals = [⟨0, false, l.num, n, u, 1⟩] → s.coreLaunch? c = some l → l.num = (s.core c).launch → l.frozen = false →
    (s.core c).swap = none → (s.core c).mailLen = 0 → (s.core c).attic = none →
    Runs s (.barrierArrival c u) fun t =>
      let x := (s.ctx c).barriers[u]
      let y := (t.ctx c).barriers[u]
      (t.core c).arrivals = [⟨0, true, l.num, n, u, 1⟩] ∧ y.target = x.target ∧
      (x.target = 0 → y.count = 0 ∧ y.gen = x.gen) ∧
      (x.count.toNat + 1 = x.target.toNat → y.count = 0 ∧ y.gen = x.gen + 1) ∧
      (x.count.toNat + 1 < x.target.toNat → y.count = x.count + 1 ∧ y.gen = x.gen) ∧
      (∀ v, v ≠ u → (t.ctx c).barriers[v] = (s.ctx c).barriers[v]) ∧ SameModule s t ∧ t.tr = s.tr ∧ s.sameMemory t ∧
      ∀ d, d ≠ c → t.core d = s.core d) ∧
  ∀ s c q (v : Word), Runs s (.barrierConfig c q v) fun t =>
    let u : Fin 64 := (v.setWidth 6).toFin
    let taken := (s.core c).arrivals.filter fun a => a.done && a.unit == u
    let target := v.extractLsb' 8 8
    (t.ctx c).barriers[u].target = target ∧ (taken = [] → (t.ctx c).barriers[u].count = 0 ∧ (t.ctx c).barriers[u].gen = (s.ctx c).barriers[u].gen) ∧
    (target = 0 → (t.ctx c).barriers[u].count = 0) ∧
    (target ≠ 0 → (t.ctx c).barriers[u].count.toNat = (taken.map (·.count.toNat)).sum % target.toNat) ∧
    (taken ≠ [] → (t.ctx c).barriers[u].gen = ((s.ctx c).barriers[u].before (taken.map (·.count.toNat)).sum).gen +
      BitVec.ofNat 8 ((taken.map (·.count.toNat)).sum / target.toNat)) ∧
    (t.seq c q).barUnit = v.setWidth 6 ∧ (t.seq c q).barTarget = v.extractLsb' 8 8 ∧ (t.seq c q).g = (s.seq c q).g ∧
    (∀ n, n ≠ u → (t.ctx c).barriers[n] = (s.ctx c).barriers[n]) ∧ SameModule s t ∧ t.tr = s.tr ∧ s.sameMemory t ∧ ∀ d, d ≠ c → t.core d = s.core d

/-! ### The copy engine -/

/-- R120, R256, R271, R117: the next piece of a copy is moved at its slot, and its translation is to be counted: one from the A-buffer to LPDDR 6 is cut into the units that are to
be read and written, one from LPDDR 6 is read, its bytes on their way to the core. A miss starts a walk at the launch's page table; a fault cancels the fault domain as the phase ends.
R256, R274, R275: a unit whose banks are free moves: from the A-buffer its bytes reach their physical address in LPDDR 6; bytes that have come reach the A-buffer; every other byte of
every memory reads as before. -/
def Obligations.SlotTransfers : Prop :=
  (∀ s c ch k r l p, Copying s c ch k r l → s.pieceDue c ch = true → r.pieces[r.next]? = some p →
    let va := pieceVa r.desc k.left p
    let moves (phys : Nat) (side : BitVec 24) (v : Resv) (P : State → CopyRun → Prop) : Prop := Runs s (.slotTransfer c ch) fun t =>
      t.sides = s.sides ++ [⟨l.sidebase + 8 * side.toNat, dscD r.desc == 3, bit phys 55 || bits phys 35 2 ≠ (coreDie c).val⟩] ∧
      (∃ r', (t.ctx c).chans[ch].run = some r' ∧ r'.next = r.next + 1 ∧ r'.pieces = r.pieces ∧ r'.desc = r.desc ∧ P t r') ∧
      t.hostMem = s.hostMem ∧ t.dram = s.dram ∧ t.dies = s.dies ∧ t.launches = s.launches ∧ t.tr = s.tr ∧ (∀ d, (t.core d).abuf = (s.core d).abuf ∧ (t.core d).wbuf = (s.core d).wbuf ∧
          (t.core d).cbuf = (s.core d).cbuf ∧ (t.core d).blockStore = (s.core d).blockStore) ∧ ∀ d q, t.seq d q = s.seq d q
    (∀ v phys side, s.copyResv c r.desc = some v → s.translate c ch va (dscD r.desc == 3) = .ok phys side →
      bits phys 35 2 = v.die → bits phys 32 3 = v.chan → bit phys 55 = false → phys + p.2.2.2 ≤ 2 ^ 55 →
      (dscD r.desc = 3 → moves phys side v fun _ r' => r'.units = r.units ++ r.readUnits k.left phys r.next ∧ r'.moving = r.moving) ∧
      (dscS r.desc = 3 → dscD r.desc ≠ 3 → isCpset k.instr = false → moves phys side v fun _ r' => r'.units = r.units ∧
        ∃ n, r'.moving = r.moving ++ [(n, r.next, (List.range p.2.2.2).map fun i => (p.2.2.1 + i, readByte s.dram (phys + i)))])) ∧
    (s.translate c ch va (dscD r.desc == 3) = .miss →
      exec (.slotTransfer c ch) s = .next (s.updChan c ch fun x => { x with walk := some ⟨va, 1, l.ptroot, none⟩ })) ∧
    ∀ cond level, s.translate c ch va (dscD r.desc == 3) = .fault cond level →
      Runs s (.slotTransfer c ch) fun t => s.domainGone t.settleFaults k.fdom) ∧
  ∀ (s : State) c ch (k : EngineCmd) (r : CopyRun) (u : PayUnit) p, s.ecc = [] → s.memWf = true → r.pieces[u.piece]? = some p → s.unitFree c k r u = true →
    let d := r.desc
    let off := copyOff d k.left p.1 p.2.1
    (∀ a, a = u.phys + (u.x - p.2.2.1) → dscS d = 0 → dscD d = 3 → isCpset k.instr = false → u.bytes = none → bit u.phys 55 = false → a + u.n ≤ 2 ^ 55 →
      ∃ t, s.moveUnits c ch k r [u] = (t, [], true) ∧
        (∀ i < u.n, readByte t.dram (a + i) = readByte (s.core c).abuf (s.aPhys c ((d.getD 1 0).toNat + (off (u.x + i)).1))) ∧
        (∀ x, x < a ∨ a + u.n ≤ x → readByte t.dram x = readByte s.dram x) ∧ t.cores = s.cores ∧ t.dies = s.dies ∧ t.hostMem = s.hostMem ∧ t.fe = s.fe ∧ t.tr = s.tr) ∧
    ∀ bytes, u.bytes = some bytes → dscD d = 0 → isCpmc k.instr = false → (s.core c).bankHolds = [] →
      ∃ t, s.moveUnits c ch k r [u] = (t, [], true) ∧
        let a := s.aPhys c ((d.getD 2 0).toNat + (off u.x).2)
        (∀ i (h : i < bytes.length), readByte (t.core c).abuf (a + i) = bytes[i]) ∧
        (∀ x, x < a ∨ a + bytes.length ≤ x → readByte (t.core c).abuf x = readByte (s.core c).abuf x) ∧ (t.core c).wbuf = (s.core c).wbuf ∧
        (t.core c).cbuf = (s.core c).cbuf ∧ (t.core c).blockStore = (s.core c).blockStore ∧ t.dram = s.dram ∧ t.dies = s.dies ∧ t.hostMem = s.hostMem ∧
        t.fe = s.fe ∧ t.tr = s.tr ∧ ∀ e, e ≠ c → t.core e = s.core e

/-- R110 to R113, R115, R116, R120: a walk slot reads the entry of a waiting level, which completes 160 ticks later; a level of a walk that completes goes on at the
table that its entry names, or ends: its leaf becomes the most recent of the channel's cache of 32, and the copy waits for a recurrence of its slot 24 ticks or more
later; an entry at fault cancels the fault domain as the phase ends.
R266: in its install tick a `cpbind` whose 64 entries are good replaces the range table of every core of its launch, in the core or in the Attic, and empties their
translation caches. -/
def Obligations.WalksAndTables : Prop :=
  (∀ (s : State) c ch n w, s.ecc = [] →
    ((s.serveWalk c ch n w).ctx c).chans[ch].walk = some { w with served := some (s.tick + 160, s.walkLevel (s.fencedFor c) w.table w.level w.va) }) ∧
  (∀ s c ch k r l w tk step, Copying s c ch k r l → (s.ctx c).chans[ch].walk = some w → w.served = some (tk, step) → tk ≤ s.tick → s.opRuns c k.owner = true →
    s.tr.rpActive = false →
    (∀ a, step = .table a →
      exec (.translationWalk c ch) s = .next (s.updChan c ch fun x => { x with walk := some ⟨w.va, w.level + 1, a, none⟩ })) ∧
    (∀ cond, step = .fault cond → Runs s (.translationWalk c ch) fun t => s.domainGone t.settleFaults k.fdom) ∧
    ∀ x phys side, step = .leaf x →
      s.xlateCheck c (x.phys + (w.va - x.va)) x.rd x.wr (dscD r.desc == 3) x.side w.level = .ok phys side →
      Runs s (.translationWalk c ch) fun t =>
        (t.ctx c).chans[ch].walk = none ∧ (t.ctx c).chans[ch].cache = (x :: (s.ctx c).chans[ch].cache).take 32 ∧
        (∃ r', (t.ctx c).chans[ch].run = some r' ∧ s.tick + 24 ≤ r'.slot0 ∧ r'.next = r.next) ∧
        t.tr.buffer.map Rec.typ = s.tr.buffer.map Rec.typ ++ [0x08] ∧ SameModule s t ∧ s.sameMemory t ∧ ∀ d, d ≠ c → t.core d = s.core d) ∧
  (∀ s c ch k r l p, Copying s c ch k r l → isCpbind k.instr = true → r.wait = some 1 → s.opRuns c k.owner = true → r.pieces.head? = some p →
    let bytes := (s.pieceBytes c r.desc 0 false 0 p).map (·.2)
    let w (e i : Nat) : Nat := leNat ((bytes.drop (32 * e + 8 * i)).take 8)
    (∀ e < 64, rangeBad (w e) = false) →
    Runs s (.rangeTableInstall c ch) fun t =>
      let bound (x : CoreCtx) : Prop := x.ranges = (List.range 64).map (fun e => rangeOf (w e)) ∧ ∀ y : ChanIx, x.chans[y].cache = []
      (∀ o ∈ l.cores, if (s.core o).attic.map Attic.launch = some l.num then ∃ a, (t.core o).attic = some a ∧ bound a.ctx else bound (t.ctx o)) ∧
      (∀ o, o ∉ l.cores → t.core o = s.core o) ∧ s.sameMemory t ∧ SameModule s t ∧ t.tr = s.tr ∧ ∀ o q, t.seq o q = s.seq o q)

/-- R274, R275, R251: the completion word of a copy whose payload has been written is written when its tick has come and its bank is free: its eight bytes take the instruction's right operand, no other
byte of any memory changes, and the copy leaves its channel, whose count of completions grows. -/
def Obligations.CompletionWordWritten : Prop :=
  ∀ s c ch k r l, Copying s c ch k r l → r.wait = some 0 → s.opRuns c k.owner = true → r.allPaid k = true →
    isCphash k.instr = false → s.wordFree c r = true →
    s.aPhys c ((r.desc.headD 0).toNat / 2 ^ 32 % 2 ^ 22) % 16 ≤ 8 →
    Runs s (.completionWordWrite c ch) fun t =>
      let cw := s.aPhys c ((r.desc.headD 0).toNat / 2 ^ 32 % 2 ^ 22)
      (t.ctx c).chans[ch].queue = (s.ctx c).chans[ch].queue.tail ∧ (t.ctx c).chans[ch].run = none ∧
      (t.ctx c).chans[ch].done = (s.ctx c).chans[ch].done + 1 ∧
      readLE (t.core c).abuf cw 8 = k.right.toNat ∧ (∀ x, x < cw ∨ cw + 8 ≤ x → readByte (t.core c).abuf x = readByte (s.core c).abuf x) ∧
      (∀ d, d ≠ c → t.core d = s.core d) ∧ (t.core c).wbuf = (s.core c).wbuf ∧ (t.core c).cbuf = (s.core c).cbuf ∧
      (t.core c).blockStore = (s.core c).blockStore ∧ SameModule s t ∧ t.tr = s.tr

/-- R271, R273, R277: a host request that completes hands over the bytes that stand at the host address of its piece, as units for their destination, and the copy is one
request lighter; one that fails, or has been outstanding for 16,384 ticks, cancels the fault domain as the phase ends. -/
def Obligations.HostRequestsComplete : Prop :=
  ∀ s c ch k r l, Copying s c ch k r l → s.storedCopy c ch = none →
    (∀ n age rest p phys, r.host = (n, age, phys) :: rest → r.pieces[n]? = some p → dscS r.desc = 3 → isCpset k.instr = false →
      bit phys 55 = true → sharesUnit r.desc k.left r.pieces n = false → sharesUnit r.desc k.left r.pieces (n + 1) = false → phys % 2 ^ 55 + p.2.2.2 ≤ 2 ^ 55 →
      let bytes := (List.range p.2.2.2).map fun i => readByte s.hostMem ((phys + i) % 2 ^ 55)
      let off (x : Nat) : Nat := (copyOff r.desc k.left p.1 p.2.1 x).2
      Runs s (.hostRequestCompletion c ch true) fun t =>
        (∃ r', (t.ctx c).chans[ch].run = some r' ∧ r'.host = rest ∧ r'.next = r.next ∧ r'.desc = r.desc ∧
          (off p.2.2.1 % 16 + p.2.2.2 ≤ 16 → 0 < p.2.2.2 → (∀ i < p.2.2.2, off (p.2.2.1 + i) = off p.2.2.1 + i) →
            r'.units = r.units ++ [⟨n, p.2.2.1, p.2.2.2, 0, some bytes⟩])) ∧
        (t.ctx c).chans[ch].queue = (s.ctx c).chans[ch].queue ∧ s.sameMemory t ∧ SameModule s t ∧ t.tr = s.tr ∧ (∀ d q, t.seq d q = s.seq d q) ∧
        ∀ d, d ≠ c → t.core d = s.core d) ∧
    (r.host ≠ [] → Runs s (.hostRequestCompletion c ch false) fun t => s.domainGone t.settleFaults k.fdom) ∧
    ((∃ h ∈ r.host, 16384 ≤ h.2.1) → Runs s (.cphost c ch) fun t => s.domainGone t.settleFaults k.fdom)

/-! ### Fabric regions -/

/-- R302 to R311, R314: what each region command does as it starts: it leaves the queue; `run` begins a round whose sinks are cleared, `tok` writes the field that its
port names, `cfgact` makes the shadow plane active with its CFGV record, `cfgdrop` drops it, `jtab` and `cfgld` give the port its job, `cfgld` overwriting the shadow
plane, `lrel` empties its Landing. At version 0 a `run` leaves the registers and sinks as they are.
R304: a region command that the rule refuses raises ILLEGAL in the sequencer that issued it: a table that the image does not list, a stream with no table bound, one
that the table has not, or not for this region, a plane that breaks its own rules. -/
def Obligations.RegionCommands : Prop :=
  (∀ s c r k rest l, RegionStart s c r k rest l →
    let old := (s.ctx c).regions[r]
    let starts (P : State → RegionState → Prop) : Prop := Runs s (.regionCommandStart c r) fun t =>
      (t.ctx c).regions[r].queue = rest ∧ (t.ctx c).regions[r].started = true ∧ P t (t.ctx c).regions[r]
    (∀ p, k.instr = .run p → starts fun t g =>
      g.round = some ⟨k.left.setWidth 32, 0, k, false, s.tick, false⟩ ∧
      (old.active.version ≠ 0 → g.sinks = Vector.replicate 4 0 ∧ g.lastN = k.left.setWidth 32 ∧ g.lastRc = 0 ∧ g.held = 0) ∧
      (old.active.version = 0 → g.sinks = old.sinks ∧ g.lastN = old.lastN ∧ g.lastRc = old.lastRc ∧ g.held = old.held) ∧ g.active = old.active ∧ t.tr = s.tr ∧ OnlyEngines c s t) ∧
    (∀ p port, k.instr = .tok p port → starts fun t g =>
      (port.toNat < 0x40 → port.toNat % 4 = 0 → g.active = old.active.put 3 (port.toNat / 4) 0 (k.left.toNat % 2 ^ 22)) ∧
      (port.toNat < 0x40 → port.toNat % 4 ≠ 0 → g.active = old.active.put 3 (port.toNat / 4) (port.toNat % 4)
        (if k.left.toNat % 2 ^ 16 = 0 then 1 else k.left.toNat % 2 ^ 16)) ∧
      (0x40 ≤ port.toNat → port.toNat < 0x44 → g.active = old.active.put 3 20 (port.toNat - 0x3C) (k.left.toNat % 2 ^ 32)) ∧
      (0x44 ≤ port.toNat → g.active = old.active) ∧ g.round = old.round ∧ g.sinks = old.sinks ∧ t.tr = s.tr ∧ OnlyEngines c s t) ∧
    (∀ p q, k.instr = .cfgact p → old.shadow = some q → q.refused l.img (s.landFormats l c) r.val = false → s.bench = false →
      starts fun t g => g.active = q ∧ g.shadow = none ∧ t.tr.buffer.map Rec.typ = s.tr.buffer.map Rec.typ ++ [0x0D] ∧ OnlyEngines c s t) ∧
    (∀ p, k.instr = .cfgdrop p → starts fun t g => g.shadow = none ∧ g.active = old.active ∧ t.tr = s.tr ∧ OnlyEngines c s t) ∧
    (∀ p, k.instr = .jtab p → (l.img.cfgTabs.any fun x => x.addr.toNat == k.left.toNat % 2 ^ 24 && x.ix == l.ix c && x.iy == l.iy c) = true →
      starts fun t g => (∃ j, g.port = some j ∧ j.table = some (k.left.setWidth 24) ∧ j.left = j.total ∧ 0 < j.left) ∧ t.tr = s.tr ∧ OnlyEngines c s t) ∧
    (∀ p n (a : BitVec 24), k.instr = .cfgld p n → old.bound = some a →
      let dw (x : Nat) : Nat := readLE (s.core c).blockStore (x % 2 ^ 18) 8
      let e := dw (a.toNat + 8 + 8 * n.toNat)
      n.toNat < dw a.toNat % 2 ^ 5 → e / 2 ^ 40 % 4 = r.val → starts fun t g =>
        g.loading = some old.active ∧ g.active = old.active ∧ g.shadow = none ∧
        (∃ j, g.port = some j ∧ j.table = none ∧ j.stream = e % 2 ^ 24 ∧ j.words = e / 2 ^ 24 % 2 ^ 16 ∧ j.version.toNat = e / 2 ^ 48 % 2 ^ 16 ∧
          j.left = (j.words + 3) / 4) ∧ t.tr = s.tr ∧ OnlyEngines c s t) ∧
    (∀ p n, k.instr = .lrel p n → Runs s (.regionCommandStart c r) fun t =>
      (t.ctx c).landings[n] = [] ∧ (∀ m, m ≠ n → (t.ctx c).landings[m] = (s.ctx c).landings[m]) ∧ t.tr = s.tr ∧ OnlyEngines c s t)) ∧
  (∀ s c r k rest l, RegionStart s c r k rest l →
    let raises : Prop := exec (.regionCommandStart c r) s =
      .next ((s.updRegion c r fun g => { g with queue := rest, started := true }).takeTrap c k.owner.seq (illegal 6 0x3F 0))
    (∀ p, k.instr = .jtab p → (l.img.cfgTabs.any fun x => x.addr.toNat == k.left.toNat % 2 ^ 24 && x.ix == l.ix c && x.iy == l.iy c) = false → raises) ∧
    (∀ p n, k.instr = .cfgld p n → (s.ctx c).regions[r].bound = none → raises) ∧
    (∀ p n (a : BitVec 24), k.instr = .cfgld p n → (s.ctx c).regions[r].bound = some a →
      let dw (x : Nat) : Nat := readLE (s.core c).blockStore (x % 2 ^ 18) 8
      dw a.toNat % 2 ^ 5 ≤ n.toNat ∨ dw (a.toNat + 8 + 8 * n.toNat) / 2 ^ 40 % 4 ≠ r.val → raises) ∧
    ∀ p q, k.instr = .cfgact p → (s.ctx c).regions[r].shadow = some q → q.refused l.img (s.landFormats l c) r.val = true → raises)

/-- R286, R307, R308: a round ends with the tick of its last row counter, (N + K) P - 1; a table is bound, and a shadow plane stands with its version, at the end of
the last tick of the port. -/
def Obligations.RegionWorkEnds : Prop :=
  ∀ (s : State) (c : CoreIx) (r : RegionIx), let old := (s.ctx c).regions[r]
    (∀ k, old.round = some k → k.moved = true → old.active.version ≠ 0 → k.n ≠ 0 → k.rc + 1 = (k.n.toNat + old.active.depth) * old.active.period →
      Runs s (.roundEnd c r) fun t =>
        (t.ctx c).regions[r] = { old with round := none, lastRc := BitVec.ofNat 32 k.rc } ∧ t.tr = s.tr ∧ OnlyEngines c s t) ∧
    ∀ j, old.port = some j → j.left = 1 → s.opRuns c j.owner = true →
      (∀ a, j.table = some a → Runs s (.configurationLoadComplete c r) fun t =>
        (t.ctx c).regions[r] = { old with port := none, bound := some a } ∧ t.tr = s.tr ∧ OnlyEngines c s t) ∧
      (j.table = none → Runs s (.configurationLoadComplete c r) fun t =>
        (∃ p, (t.ctx c).regions[r] = { old with port := none, loading := none, shadow := some p } ∧ p.version = j.version) ∧ t.tr = s.tr ∧ OnlyEngines c s t)

/-! ### The matrix engine -/

/-- R333, R334, R341, R342, R358: the head command starts on its unit when its conflict set is clear, the first product into a chain giving it its format; one that breaks the rules of its start cancels the fault domain. -/
def Obligations.MatrixCommandsStart : Prop :=
  ∀ s c k rest, s.matrixReady c = true → (s.ctx c).matrix.queue = k :: rest →
    (s.matrixFault c k = none → Runs s (.matrixCommandStart c) fun t =>
      let m := (s.ctx c).matrix
      let n := (t.ctx c).matrix
      n.queue = rest ∧ n.started = true ∧
      (∃ r, n.unit (mxUnit k.instr) = some r ∧ r.cmd = k ∧ r.start = s.tick ∧ r.elapsed = 0 ∧ r.done = 0 ∧ r.total = k.steps) ∧
      (∀ u, u ≠ mxUnit k.instr → n.unit u = m.unit u) ∧
      n.chains = (match k.product with | some p => (m.formChain (s.tilePhys c p.d) p.fmt).chains | none => m.chains) ∧ n.owners = m.owners ∧ n.tcfg = m.tcfg ∧
      (mxUnit k.instr = .compute → n.progOpc = BitVec.ofNat 7 (engineDetail k.instr) ∧ n.progActive = true ∧ n.progCut = false) ∧
      (t.ctx c).regions = (s.ctx c).regions ∧ (t.ctx c).stoch = (s.ctx c).stoch ∧ t.tr = s.tr ∧ OnlyEngines c s t) ∧
    ∀ code, s.matrixFault c k = some code → Runs s (.matrixCommandStart c) fun t => s.domainGone t k.fdom

/-- R341, R163: the k-step of an INT8 product from two tiles adds to each element of its accumulator, modulo 2^32, the products of its 32 or fewer columns; the other
tiles, and every other memory, read as before. -/
def Obligations.IntegerKStep : Prop :=
  ∀ s c r pd d a p t0, s.memWf = true → s.ecc = [] → (s.ctx c).matrix.compute = some r → s.mxUnitRuns c .compute = true → r.stepEnd = some r.elapsed →
    r.cmd.instr = .mma pd .i8 d a → r.cmd.product = some p → p.tileB = some t0 →
    let sa := r.cmd.shape p.a
    let sb := r.cmd.shape t0
    let tile := s.tilePhys c p.d
    let st := p.ks0 + r.done
    sa.rows ≤ 64 → p.n ≤ 64 →
    Runs s (.kStepEnd c) fun t =>
      (∀ i < sa.rows, ∀ j < p.n, BitVec.ofNat 32 (accElem (t.core c).cbuf tile i j) = BitVec.ofNat 32 (accElem (s.core c).cbuf tile i j) +
        BitVec.ofInt 32 (((List.range 32).filter fun q => decide (32 * st + q < sa.cols)).map fun q =>
          signedOf 8 (tileElem (s.ctx c).tiles p.a sa i (32 * st + q)) * signedOf 8 (tileElem (s.ctx c).tiles t0 sb (32 * st + q) j)).sum) ∧
      (∀ x, x < tile.val * 16384 ∨ (tile.val + 1) * 16384 ≤ x → readByte (t.core c).cbuf x = readByte (s.core c).cbuf x) ∧
      (∃ r', (t.ctx c).matrix.compute = some r' ∧ r'.done = r.done + 1) ∧ (t.ctx c).matrix.progDone = BitVec.ofNat 8 (st + 1) ∧
      (t.ctx c).tiles = (s.ctx c).tiles ∧ (t.core c).abuf = (s.core c).abuf ∧ (t.core c).wbuf = (s.core c).wbuf ∧ (t.core c).blockStore = (s.core c).blockStore ∧
      SameModule s t ∧ t.tr = s.tr ∧ ∀ e, e ≠ c → t.core e = s.core e

/-- R334, R344, R349 to R351: a command completes with its last tick: `mzero` leaves its tile 0 and every other byte as it was; `mpin` makes its ownership entry, `munpin`
clears it, and no other entry changes, but for PROG, 0 where no command is in progress; a store or a read of the accumulator frees its unit and writes nothing more. -/
def Obligations.MatrixCommandsComplete : Prop :=
  ∀ s c r, s.memWf = true → s.ecc = [] →
    ((s.ctx c).matrix.compute = some r → s.mxCompletes c .compute = true →
      let m := (s.ctx c).matrix
      let done (P : State → Prop) : Prop := Runs s (.matrixCommandComplete c .compute) fun t =>
        (t.ctx c).matrix.compute = none ∧ (t.ctx c).matrix.progActive = false ∧ (t.ctx c).matrix.load = m.load ∧ (t.ctx c).matrix.read = m.read ∧
        (t.ctx c).matrix.tcfg = m.tcfg ∧ (t.ctx c).tiles = (s.ctx c).tiles ∧ SameModule s t ∧ t.tr = s.tr ∧ (∀ e, e ≠ c → t.core e = s.core e) ∧
        (t.core c).abuf = (s.core c).abuf ∧ (t.core c).wbuf = (s.core c).wbuf ∧ (t.core c).blockStore = (s.core c).blockStore ∧ P t
      (∀ p (n : Fin 32), r.cmd.instr = .mzero p n → done fun t =>
        let a := (s.tilePhys c n).val * 16384
        (∀ x, a ≤ x → x < a + 16384 → readByte (t.core c).cbuf x = 0) ∧
        (∀ x, x < a ∨ a + 16384 ≤ x → readByte (t.core c).cbuf x = readByte (s.core c).cbuf x) ∧
        ∀ o : Fin 32, (t.ctx c).matrix.owners[o] = { m.owners[o] with prog := 0 }) ∧
      (∀ p n f, r.cmd.instr = .mpin p n f → done fun t =>
        (t.core c).cbuf = (s.core c).cbuf ∧
        (∀ o, o ≠ s.tilePhys c n → (t.ctx c).matrix.owners[o] = { m.owners[o] with prog := 0 }) ∧
        let e := (t.ctx c).matrix.owners[s.tilePhys c n]
        e.pin = true ∧ e.fmt = f.code ∧ e.tokens = r.cmd.left ∧ e.prog = 0 ∧ e.vder = r.cmd.polV ∧ e.owner = r.cmd.rcb) ∧
      ∀ p n, r.cmd.instr = .munpin p n → done fun t =>
        (t.core c).cbuf = (s.core c).cbuf ∧ (t.ctx c).matrix.owners[s.tilePhys c n] = .clear ∧
        ∀ o, o ≠ s.tilePhys c n → (t.ctx c).matrix.owners[o] = { m.owners[o] with prog := 0 }) ∧
    (∀ p n q, (s.ctx c).matrix.load = some r → r.cmd.instr = .mtst p n q → r.failed = false → s.mxCompletes c .load = true →
      exec (.matrixCommandComplete c .load) s = .next (s.updMatrix c fun m => { m with load := none })) ∧
    ((s.ctx c).matrix.read = some r → s.mxCompletes c .read = true →
      exec (.matrixCommandComplete c .read) s = .next (s.updMatrix c fun m => { m with read := none }))

/-! ### The stochastic engine -/

/-- R375, R376, R373, R392: the head command starts on its unit with what it will write fixed; streams of two lengths, or with a source in common, cancel the fault domain. -/
def Obligations.StochasticCommandsStart : Prop :=
  ∀ s c k rest, s.stochReady c = true → (s.ctx c).stoch.queue = k :: rest → s.ecc = [] →
    (ssCheck (s.ctx c).stoch k = none → Runs s (.stochasticCommandStart c) fun t =>
      let x := (s.ctx c).stoch
      let y := (t.ctx c).stoch
      y.queue = rest ∧ y.started = true ∧ y.unit (ssUnit k.instr) = x.unit (ssUnit k.instr) ++ [s.ssRun c k] ∧
      (∀ u, u ≠ ssUnit k.instr → y.unit u = x.unit u) ∧ y.streams = x.streams ∧ y.counts = x.counts ∧ y.gens = x.gens ∧
      (t.ctx c).regions = (s.ctx c).regions ∧ (t.ctx c).matrix = (s.ctx c).matrix ∧ t.tr = s.tr ∧ OnlyEngines c s t) ∧
    (∀ p d, k.instr = .sand p d → k.streams = 1 →
      let a := (s.ctx c).stoch.streams[ssReg k.left 0 0]
      let b := (s.ctx c).stoch.streams[ssReg k.left 8 0]
      a.len ≠ b.len ∨ a.mask &&& b.mask ≠ 0 → Runs s (.stochasticCommandStart c) fun t => s.domainGone t k.fdom)

/-- R382, R383, R384, R385: the stream or count that a logic command on one stream writes, bit by bit: L bits, and 0 from L on. -/
def Obligations.StreamLogic : Prop :=
  ∀ (s : State) (c : CoreIx) (k : EngineCmd), k.streams = 1 →
    let a := (s.ctx c).stoch.streams[ssReg k.left 0 0]
    let b := (s.ctx c).stoch.streams[ssReg k.left 8 0]
    let x := (s.ctx c).stoch.streams[ssReg k.left 16 0]
    let L := 64 * 4 ^ a.len.toNat
    let writes (d : Fin 64) (mask : BitVec 16) (f : Nat → Bool) : Prop :=
      ∃ v : StreamReg, (s.ssRun c k).streams = [(d, v)] ∧ (s.ssRun c k).counts = [] ∧ (s.ssRun c k).bytes = [] ∧ v.len = a.len ∧ v.mask = mask ∧
        ∀ i < 4096, v.data.getLsbD i = (decide (i < L) && f i)
    (∀ p d, k.instr = .sand p d → writes d (a.mask ||| b.mask) fun i => a.data.getLsbD i && b.data.getLsbD i) ∧
    (∀ p d, k.instr = .sor p d → writes d (a.mask ||| b.mask) fun i => a.data.getLsbD i || b.data.getLsbD i) ∧
    (∀ p d, k.instr = .sxor p d → writes d (a.mask ||| b.mask) fun i => a.data.getLsbD i ^^ b.data.getLsbD i) ∧
    (∀ p d, k.instr = .sxnor p d → writes d (a.mask ||| b.mask) fun i => !(a.data.getLsbD i ^^ b.data.getLsbD i)) ∧
    (∀ p d, k.instr = .smux p d → writes d (a.mask ||| b.mask ||| x.mask) fun i => if x.data.getLsbD i then b.data.getLsbD i else a.data.getLsbD i) ∧
    (∀ p d, k.instr = .snot p d → writes d a.mask fun i => !a.data.getLsbD i) ∧
    (∀ p d, k.instr = .smov p d → writes d a.mask fun i => a.data.getLsbD i) ∧
    (∀ p d, k.instr = .srot p d → writes d a.mask fun i => a.data.getLsbD ((i + k.right.toNat / 2 ^ 16 % 2 ^ 12) % L)) ∧
    ∀ p n, k.instr = .scnt p false n → (s.ssRun c k).streams = [] ∧
      (s.ssRun c k).counts = [(Fin.ofNat 16 n, BitVec.ofNat 32 ((List.range L).countP a.data.getLsbD))]

/-- R376: in a command's effect tick its streams, counts and generator take their values and it leaves its unit; no other register of the engine changes. -/
def Obligations.StochasticEffects : Prop :=
  ∀ s c u r, s.ecc = [] → ((s.ctx c).stoch.unit u).filter (s.ssDue c) = [r] → r.bytes = [] →
    let x := (s.ctx c).stoch
    Runs s (.stochasticEffect c u) fun t =>
      let y := (t.ctx c).stoch
      y.unit u = (x.unit u).filter (fun k => k != r) ∧ (∀ v, v ≠ u → y.unit v = x.unit v) ∧
      (∀ d v, r.streams = [(d, v)] → y.streams[d] = v) ∧ (∀ d, (∀ e ∈ r.streams, e.1 ≠ d) → y.streams[d] = x.streams[d]) ∧
      (∀ n v, r.counts = [(n, v)] → y.counts[n] = v) ∧ (∀ n, (∀ e ∈ r.counts, e.1 ≠ n) → y.counts[n] = x.counts[n]) ∧
      (∀ g v, r.gen = some (g, v) → y.gens[g] = v) ∧ (∀ g, (∀ v, r.gen ≠ some (g, v)) → y.gens[g] = x.gens[g]) ∧
      (t.ctx c).regions = (s.ctx c).regions ∧ (t.ctx c).matrix = (s.ctx c).matrix ∧ t.tr = s.tr ∧ OnlyEngines c s t

/-! ### The front end -/

/-- R400, R403, R409, R411, R412: packets that complete in the tick they are executed: `pk.nop` does nothing, `pk.ffence` empties the fetch window, `pk.graph` run pushes a
trigger and unload removes a graph that is neither bound nor running, `pk.bind` binds and unbinds; the queue stands behind each. -/
def Obligations.PlainPackets : Prop :=
  ∀ s q l, AtPacket s q l →
    (∀ tag n, Runs s (.pkNop tag n) fun t => s.passed t q l (8 + 8 * n.toNat) ∧ SameMachine s t ∧ t.tr = s.tr) ∧
    (∀ tag, Runs s (.pkFfence tag) fun t => s.passed t q l 8 ∧ t.fe.queues[q].exec.window = [] ∧ SameMachine s t ∧ t.tr = s.tr) ∧
    (∀ tag g, (∀ p ∈ s.fe.pushes, p.1.val ≠ 1 + q.val) → Runs s (.pkGraphRun tag g) fun t =>
      s.passed t q l 32 ∧ (∃ n : Fin 18, n.val = 1 + q.val ∧ t.fe.pushes = s.fe.pushes ++ [(n, g)] ∧ .event (.graphTrigger n g) ∈ t.todo) ∧ SameMachine s t ∧ t.tr = s.tr) ∧
    (∀ tag g, s.graphBound g = false → s.graphBusy g = false → Runs s (.pkGraphUnload tag g) fun t =>
      s.passed t q l 32 ∧ t.fe.graphs[g] = none ∧ (∀ h, h ≠ g → t.fe.graphs[h] = s.fe.graphs[h]) ∧ SameMachine s t ∧ t.tr = s.tr) ∧
    (∀ tag g cls n x k, s.fe.graphs[g] = some x → s.launch? n = some k → x.binding = none → k.stage ≠ .placed → k.cls = none →
      (∀ y ∈ x.subtrees, ∀ z ∈ y.2, k.bindable cls z.2 = true) → Runs s (.pkBind tag g cls n) fun t =>
      s.passed t q l 16 ∧ t.fe.graphs[g] = some { x with binding := some (cls, n) } ∧ SameMachine s t ∧ t.tr = s.tr) ∧
    ∀ tag g cls n x k, s.fe.graphs[g] = some x → s.launch? n = some k → k.stage ≠ .placed → (∀ m ∈ s.launches, m.source ≠ .graph g) →
      Runs s (.pkUnbind tag g cls n) fun t => s.passed t q l 16 ∧ t.fe.graphs[g] = some { x with binding := none } ∧ SameMachine s t ∧ t.tr = s.tr

/-- R400, R404 to R407: `pk.ib` enters its buffer; `pk.pred` reads once and skips COUNT packets where its test fails; `pk.loop` starts its body; `pk.wait` passes when its
test holds, and otherwise waits, until the tick of its timeout freezes the queue with reason 6; `pk.end` waits for what the queue has issued. -/
def Obligations.ControlPackets : Prop :=
  ∀ s q l, AtPacket s q l →
    (∀ tag a n, Runs s (.pkIb tag a n) fun t => (∃ k, t.fe.queues[q].exec.levels = [k, l] ∧ k.base = a ∧ k.pos = 0 ∧ k.left = 8 * n.toNat ∧ k.loopPasses = 0 ∧ k.skip = 0) ∧
      t.fe.queues[q].exec.window = [] ∧ SameMachine s t ∧ t.tr = s.tr) ∧
    (∀ tag (a : BitVec 56) v c (n : BitVec 8), s.packetsFit (.queue q) n.toNat 4 (s.levelDws (.queue q)) = true → bit a.toNat 55 = false →
      Runs s (.pkPred tag a v c n) fun t =>
        (∃ k, t.fe.queues[q].exec.levels = [k] ∧ k.pos = (l.pos + 32) % s.fe.queues[q].ring ∧ k.left = l.left - 32 ∧
          k.skip = if condHolds c (BitVec.ofNat 64 (readLE s.dram a.toNat 8)) v then l.skip - 1 else n.toNat) ∧ SameMachine s t ∧ t.tr = s.tr) ∧
    (∀ tag (n : BitVec 16) (b : BitVec 8), s.packetsFit (.queue q) b.toNat 2 (s.levelDws (.queue q)) = true → Runs s (.pkLoop tag n b) fun t =>
      (∃ k, t.fe.queues[q].exec.levels = [k] ∧ k.pos = (l.pos + 16) % s.fe.queues[q].ring ∧ k.loopStart = k.pos ∧ k.loopBody = b.toNat ∧ k.loopPasses = n.toNat ∧
        k.loopDone = 0) ∧ t.fe.queues[q].exec.window = [] ∧ SameMachine s t ∧ t.tr = s.tr) ∧
    (∀ tag (a : BitVec 56) v c (lim : BitVec 32), bit a.toNat 55 = false →
      let holds := condHolds c (BitVec.ofNat 64 (readLE s.dram a.toNat 8)) v
      (holds = true → Runs s (.pkWait tag a v c lim) fun t => s.passed t q l 32 ∧ SameMachine s t ∧ t.tr = s.tr) ∧
      (holds = false → s.fe.queues[q].exec.waitFrom = none → Runs s (.pkWait tag a v c lim) fun t =>
        t.fe.queues[q].exec.levels = [l] ∧ t.fe.queues[q].exec.waitFrom = some s.tick ∧
        t.fe.queues[q].exec.waitEnd = (if lim = 0 then none else some (s.tick + 1024 * lim.toNat)) ∧ SameMachine s t ∧ t.tr = s.tr) ∧
      (holds = false → ∀ e, s.fe.queues[q].exec.waitEnd = some e → e ≤ s.tick →
        packetOf (s.fe.queues[q].exec.waiting.getD (s.packetWords (.queue q))) = some (.pkWait tag a v c lim) →
        s.packetAt = BitVec.ofNat 56 (l.base.toNat + l.pos) → Runs s (.pkWaitTimeout (.queue q)) fun t => s.frozeQueue t q 6 ∧ SameMachine s t)) ∧
    (∀ tag, (s.fe.queues[q].exec.pending = [] → s.fe.queues[q].exec.issued = [] → Runs s (.pkEnd tag) fun t => s.passed t q l 8 ∧ SameMachine s t ∧ t.tr = s.tr) ∧
      (s.fe.queues[q].exec.settled = false → Runs s (.pkEnd tag) fun t =>
        t.fe.queues[q].exec.ending = true ∧ t.fe.queues[q].exec.levels = [l] ∧ SameMachine s t ∧ t.tr = s.tr)) ∧
    (s.fe.queues[q].exec.ending = true → s.fe.queues[q].exec.pending = [] → s.fe.queues[q].exec.issued = [] → s.fe.queues[q].frozen = false →
      Runs s (.endCompletion q) fun t => s.passed t q l 8 ∧ t.fe.queues[q].exec.ending = false ∧ SameMachine s t ∧ t.tr = s.tr)

/-- R408: a signal behind no other writes its value, or the sum with what stands there, to its eight bytes, with its SIGNAL record; one that follows its launches joins the
queue's pending signals, and is written, with ERRVAL for VALUE where one of its launches was cancelled, once every earlier launch has ended. -/
def Obligations.Signals : Prop :=
  ∀ s q l, AtPacket s q l → s.memWf = true →
    let writes (i : Instr) (a : BitVec 56) (v : Word) (P : State → Prop) : Prop := Runs s i fun t =>
      readLE t.dram a.toNat 8 = v.toNat ∧ (∀ x, x < a.toNat ∨ a.toNat + 8 ≤ x → readByte t.dram x = readByte s.dram x) ∧
      t.hostMem = s.hostMem ∧ t.cores = s.cores ∧ t.dies = s.dies ∧ t.launches = s.launches ∧
      t.tr.buffer.map Rec.typ = s.tr.buffer.map Rec.typ ++ [0x10] ∧ P t
    (∀ tag (a : BitVec 56) v irq vec e, bit a.toNat 55 = false → s.fe.queues[q].exec.pending = [] →
      writes (.pkSignal tag a v .write false irq vec e) a v (fun t => s.passed t q l 40) ∧
      writes (.pkSignal tag a v .add false irq vec e) a (BitVec.ofNat 64 (readLE s.dram a.toNat 8) + v) (fun t => s.passed t q l 40)) ∧
    (∀ tag a v op irq vec e, s.fe.queues[q].exec.pending.length < 16 → Runs s (.pkSignal tag a v op true irq vec e) fun t =>
      (∃ p, t.fe.queues[q].exec.pending = s.fe.queues[q].exec.pending ++ [p] ∧ p.addr = a ∧ p.value = v ∧ p.op = op ∧ p.irq = irq ∧ p.vector = vec ∧ p.errval = e ∧
        p.afterSerial = s.fe.queues[q].exec.nextSerial) ∧ s.passed t q l 40 ∧ SameMachine s t ∧ t.tr = s.tr) ∧
    ∀ p rest, s.fe.queues[q].exec.pending = p :: rest → (∀ k ∈ s.fe.queues[q].exec.issued, p.afterSerial ≤ k.1) → bit p.addr.toNat 55 = false →
      writes (.signalWrite (.queue q)) p.addr
        (let v := if p.error then p.errval else p.value
         if p.op = .add then BitVec.ofNat 64 (readLE s.dram p.addr.toNat 8) + v else v)
        (fun t => t.fe.queues[q].exec.pending = rest ∧ t.fe.queues[q].exec.levels = [l])

/-- R413: `pk.copy` and `pk.ingress` move LEN bytes as they stood: the destination takes them, and nothing else changes; an ingress writes its record. A host read that fails
freezes the queue with reason 7. -/
def Obligations.MovePackets : Prop :=
  ∀ s q l, AtPacket s q l → s.memWf = true →
    (∀ tag (a b : BitVec 56) (n : BitVec 32), a.toNat < 2 ^ 55 → a.toNat + n.toNat ≤ 2 ^ 55 → b.toNat + n.toNat ≤ 2 ^ 55 → Runs s (.pkCopy tag a b n) fun t =>
      (∀ i < n.toNat, readByte t.dram (b.toNat + i) = readByte s.dram (a.toNat + i)) ∧
      (∀ x, x < b.toNat ∨ b.toNat + n.toNat ≤ x → readByte t.dram x = readByte s.dram x) ∧
      s.passed t q l 32 ∧ t.hostMem = s.hostMem ∧ t.cores = s.cores ∧ t.dies = s.dies ∧ t.launches = s.launches ∧ t.tr = s.tr) ∧
    ∀ tag id (a b : BitVec 56) (n : BitVec 32), 2 ^ 55 ≤ a.toNat → a.toNat + n.toNat ≤ 2 ^ 56 → b.toNat + n.toNat ≤ 2 ^ 55 → s.fe.hasherBusy[0] = none →
      (Config.hostReadFails s.fresh = false → Runs s (.pkIngress tag id a b n) fun t =>
        (∀ i < n.toNat, readByte t.dram (b.toNat + i) = readByte s.hostMem (a.toNat - 2 ^ 55 + i)) ∧
        (∀ x, x < b.toNat ∨ b.toNat + n.toNat ≤ x → readByte t.dram x = readByte s.dram x) ∧
        s.passed t q l 40 ∧ t.hostMem = s.hostMem ∧ t.cores = s.cores ∧ t.dies = s.dies ∧ t.launches = s.launches ∧
        t.tr.buffer.map Rec.typ = s.tr.buffer.map Rec.typ ++ [0x03]) ∧
      (Config.hostReadFails s.fresh = true → Runs s (.pkIngress tag id a b n) fun t => s.frozeQueue t q 7 ∧ SameMachine s t)

/-- R24, R27, R34, R62, R399, R414: `pk.launch` hands its packet to the scheduling core with the launches of its subtree, or the first RCB that offends, and the tokens it
carries, no more than the queue holds; `pk.mode` leaves its request pending with a running launch that has a set for it. A refusal freezes the queue with reason 4. A
placement attempt is made for a new packet, after a retirement and at multiples of 32,768: one refused is reported with the RCB that offends; a lone launch that is placed gets
an origin tick and cores that no other launch holds; with nothing to try nothing changes. -/
def Obligations.LaunchPackets : Prop :=
  ∀ s q l, AtPacket s q l →
    (∀ tag a n, s.fe.queues[q].tokWas = none → Runs s (.pkLaunch tag a n false) fun t =>
      let e := s.fe.queues[q].exec
      let c := min n.toNat s.fe.queues[q].tokens.toNat
      (∃ w, t.fe.waiting = s.fe.waiting ++ [w] ∧ w.source = .queue q ∧ w.serial = e.nextSerial ∧ w.packet = s.packetAt ∧ w.tag = tag ∧ w.tokens = c ∧ w.tried = false ∧
        (∀ p specs, subtree s.reader s.readable a.toNat = .ok (p, specs) → w.priority = p ∧ w.specs = some specs) ∧
        ∀ b, subtree s.reader s.readable a.toNat = .error b → w.specs = none ∧ w.offender = some b) ∧
      t.fe.queues[q].tokens.toNat = s.fe.queues[q].tokens.toNat - c ∧ t.fe.queues[q].exec.nextSerial = e.nextSerial + 1 ∧
      t.fe.queues[q].exec.issued = e.issued ++ [(e.nextSerial, 0)] ∧ s.passed t q l 24 ∧ SameMachine s t ∧ t.tr = s.tr) ∧
    (∀ tag n mode u k, s.launch? n = some k → k.stage ≠ .placed → k.cls = none → k.pendMode = none →
      (k.setFor mode (k.pendLevel.getD k.current.2) s.chmask).isSome = true → Runs s (.pkMode tag n mode u) fun t =>
      (∃ k', t.launch? n = some k' ∧ k'.pendMode = some ⟨mode, u, 1, s.tick⟩ ∧ k'.setIx = k.setIx) ∧ (∀ m, m ≠ n → t.launch? m = s.launch? m) ∧
      s.passed t q l 16 ∧ t.cores = s.cores ∧ t.dies = s.dies ∧ t.dram = s.dram ∧ t.hostMem = s.hostMem ∧ t.tr = s.tr) ∧
    (∀ a w, s.fe.waiting.find? (fun w => w.source == .queue q && w.packet == a) = some w → s.fe.queues[q].frozen = false → s.fe.queues[q].exec.issued.contains (w.serial, 0) = true →
      Runs s (.launchRefused (.queue q) a) fun t =>
        t.fe.queues[q].frozen = true ∧ t.fe.queues[q].reason = 4 ∧ t.fe.queues[q].fault = a ∧ w ∉ t.fe.waiting ∧ t.fe.tryPlace = s.fe.tryPlace ∧
        w.serial ∈ t.fe.queues[q].exec.cancelled ∧ t.tr.buffer.map Rec.typ = s.tr.buffer.map Rec.typ ++ [0x08] ∧ t.cores = s.cores ∧ t.dies = s.dies ∧ t.dram = s.dram ∧
        t.hostMem = s.hostMem) ∧
    (∀ w, s.fe.waiting = [w] → w.specs = none → w.tried = false ∨ s.fe.tryPlace = true ∨ s.tick % 32768 = 0 → Runs s .launchPlacement fun t =>
      t.todo = s.todo ++ [.event (.launchRefused w.source w.packet)] ∧ t.fe.tryPlace = false ∧ t.fe.waiting = [{ w with tried := true }] ∧
      t.fe.reports = s.fe.reports ++ (w.offender.map Report.rcb).toList ∧ SameMachine s t ∧ t.tr = s.tr) ∧
    ((∀ w ∈ s.fe.waiting, w.tried = true) → s.fe.tryPlace = false → s.tick % 32768 ≠ 0 → exec .launchPlacement s = .next s) ∧
    ∀ w sp s', s.fe.waiting = [w] → w.specs = some [sp] → w.tried = false ∨ s.fe.tryPlace = true ∨ s.tick % 32768 = 0 → s.host.tripped = false →
      s.tr.rpActive = false → ({ s with fe := { s.fe with tryPlace := false } } : State).placePacket w = .placed s' →
      (∀ k ∈ s'.launches, k.chosen = none) → (∀ k ∈ s.launches, k.num ≠ s.freeNumber 65536 s.fe.nextLaunch) → s.aheadOf w.source w.serial = [] →
      Runs s .launchPlacement fun t =>
        t.fe.waiting = [] ∧ t.tr.buffer.map Rec.typ = s.tr.buffer.map Rec.typ ++ [0x0C] ∧ t.cores = s.cores ∧ t.dies = s.dies ∧ t.dram = s.dram ∧
        t.hostMem = s.hostMem ∧
        ∃ k, t.launches.getLast? = some k ∧ t.launches.length = s.launches.length + 1 ∧ k.stage = .placed ∧ k.origin % 32768 = 0 ∧ s.tick < k.origin ∧
          ∀ m ∈ s.launches, ∀ c ∈ k.cores, m.cls = none → c ∉ m.cores

/-- R397, R416, R417: ENABLE written over 0 with a valid SIZELOG starts the queue at HEAD 0, not frozen; DISCARD takes a frozen one to TAIL, RESUME to the packet behind the one that
froze. -/
def Obligations.QueueRegisters : Prop :=
  ∀ (s : State) (q : QueueIx), let x := s.fe.queues[q]
    (∀ z : BitVec 5, x.enable = false → 12 ≤ z.toNat → z.toNat ≤ 24 → Runs s (.queueEnable q z) fun t =>
      let y := t.fe.queues[q]
      y.enable = true ∧ y.frozen = false ∧ y.sizelog = z ∧ y.head = 0 ∧ y.exec.levels.length = 1 ∧ y.tail = x.tail ∧ y.exec.window = [] ∧
      (∀ p, p ≠ q → t.fe.queues[p] = s.fe.queues[p]) ∧ SameMachine s t ∧ t.tr = s.tr) ∧
    (∀ z : BitVec 5, z.toNat < 12 ∨ 24 < z.toNat → x.sizelog.toNat < 12 ∨ 24 < x.sizelog.toNat → exec (.queueEnable q z) s = .next s) ∧
    (x.frozen = true → Runs s (.queueDiscard q) fun t =>
      let y := t.fe.queues[q]
      y.frozen = false ∧ y.head = x.tail.toNat / 8 * 8 % x.ring ∧ y.exec.levels.length = 1 ∧ y.exec.window = [] ∧
      (∀ p, p ≠ q → t.fe.queues[p] = s.fe.queues[p]) ∧ SameMachine s t ∧ t.tr = s.tr) ∧
    ∀ l, x.exec.levels = [l] → l.loopPasses = 0 → x.frozen = true → x.reason ≠ 5 →
      (x.skipOnResume = true → x.avail ≠ 0 → Runs s (.queueResume q) fun t =>
        let y := t.fe.queues[q]
        y.frozen = false ∧ y.head = (l.pos + 8 + 8 * hdrSize (s.queueDw q 0)) % x.ring ∧ y.exec.window = [] ∧
        (∀ p, p ≠ q → t.fe.queues[p] = s.fe.queues[p]) ∧ SameMachine s t ∧ t.tr = s.tr) ∧
      (x.skipOnResume = false → Runs s (.queueResume q) fun t =>
        let y := t.fe.queues[q]
        y.frozen = false ∧ y.head = l.pos ∧ y.exec.window = [] ∧ (∀ p, p ≠ q → t.fe.queues[p] = s.fe.queues[p]) ∧ SameMachine s t ∧ t.tr = s.tr)

/-- R411, R422, R424 to R427: a stream that passes the checks becomes a loaded graph, with its FE_GERR bit clear; a trigger of a loaded graph enters the trigger queue of 16, one of
any other sets its FE_GERR bit; the trigger at the head starts its graph's run at its first packet; a run that has ended normally is no more; a message enters its receiver's mailbox
with the next number of its pair of cores. -/
def Obligations.Graphs : Prop :=
  ∀ s : State,
    (∀ q l tag g (a : BitVec 56) (n : BitVec 12) x, AtPacket s q l → s.graphBound g = false → s.graphBusy g = false → bit a.toNat 55 = false →
      s.loadGraph ((List.range n.toNat).map fun k => BitVec.ofNat 64 (readLE s.dram (a.toNat + 8 * k) 8)) = some x → (∀ k < n.toNat, bit (a.toNat + 8 * k) 55 = false) →
      Runs s (.pkGraphLoad tag g a n) fun t =>
        t.fe.graphs[g] = some x ∧ t.fe.gerr.getLsbD g = false ∧ (∀ h, h ≠ g → t.fe.graphs[h] = s.fe.graphs[h]) ∧ s.passed t q l 32 ∧ SameMachine s t ∧ t.tr = s.tr) ∧
    (∀ src g x, s.fe.graphs[g] = some x → s.fe.triggers.length < 16 → Runs s (.graphTrigger src g) fun t =>
      t.fe.triggers = s.fe.triggers ++ [g] ∧ t.fe.pushes = s.fe.pushes.erase (src, g) ∧ t.fe.graphs = s.fe.graphs ∧ SameMachine s t ∧ t.tr = s.tr) ∧
    (∀ src g, s.fe.graphs[g] = none → Runs s (.graphTrigger src g) fun t =>
      t.fe.triggers = s.fe.triggers ∧ t.fe.gerr.getLsbD g = true ∧ SameMachine s t ∧ t.tr = s.tr) ∧
    (∀ g rest x, s.fe.triggers = g :: rest → s.fe.graphs[g] = some x → x.run = none → Runs s .graphRunStart fun t =>
      t.fe.triggers = rest ∧ (∃ e, t.fe.graphs[g] = some { x with run := some e } ∧ e.at' = 0 ∧ e.levels.length = 1 ∧ e.issued = [] ∧ e.pending = [] ∧ e.ending = false) ∧
      SameMachine s t ∧ t.tr = s.tr) ∧
    (∀ g x e, s.fe.graphs[g] = some x → x.run = some e → e.failed = false → e.cancelled = [] → e.ending = true → e.pending = [] → e.issued = [] →
      Runs s (.graphRunEnd g) fun t => t.fe.graphs[g] = some { x with run := none } ∧ SameMachine s t ∧ t.tr = s.tr) ∧
    ∀ (src dst : Fin 8) typ a b c, src ≠ dst → s.fe.mailboxes[dst].length < 16 → (∀ o ∈ s.fe.outbox, ¬(o.1 = dst ∧ o.2.src = src)) →
      Runs s (.mailboxMessage src dst typ a b c) fun t =>
        (∃ m, t.fe.mailboxes[dst] = s.fe.mailboxes[dst] ++ [m] ∧ m.src = src ∧ m.typ = typ ∧ m.a = a ∧ m.b = b ∧ m.c = c ∧
          m.seq = s.fe.mailSeq[8 * src.val + dst.val]) ∧
        t.fe.mailSeq[8 * src.val + dst.val] = s.fe.mailSeq[8 * src.val + dst.val] + 1 ∧ (∀ d, d ≠ dst → t.fe.mailboxes[d] = s.fe.mailboxes[d]) ∧
        SameMachine s t ∧ t.tr = s.tr

/-! ### Launches over time -/

/-- originTick (R29, R51, R53, R96, R115): in its origin tick a placed launch runs at launch time 0; each core of its rectangle is as after reset but for the range table
and the translation caches, which are the image's, its block store and LSID records are loaded, and its buffer slices and Pantry partitions read as zero; every other core,
and every byte outside the slices, stands; a standing safety request becomes pending; a launch with a preload address at fault ends. entryDue (R54, R57, R58, R60): an entry that comes due starts its activation, of the
launch or of the generated launch whose window is open; a sporadic entry gives its window to the launch that has been pending for 1,024 ticks; an end entry begins a boundary
freeze, or retires the launch. instanceBoundary (R51, R75): the next instance begins, or a boundary freeze does. boundaryFreezeEnd (R75): the FREEZE record, then the next
instance, the new set, nothing, or the retirement. switchPoint (R61, R63, R75, R86): with nothing asked, or the set that is current, only the boundary freeze; with another
set asked, the freeze and then that set, or the set at once; a request without a set is refused. -/
def Obligations.LaunchTime : Prop :=
  (∀ s n l, s.launch? n = some l → l.stage = .placed → l.origin = s.tick → s.preloadFaults l = true → Runs s (.originTick n) fun t =>
    t.launch? n = none ∧ t.fe.tryPlace = true) ∧
  (∀ s n l, s.launch? n = some l → l.stage = .placed → l.origin = s.tick → s.preloadFaults l = false → s.ecc = [] → Runs s (.originTick n) fun t =>
    (∃ k, t.launch? n = some k ∧ k.stage = .running ∧ k.ltime = 0 ∧ k.setStart = 0 ∧ k.inst = 0 ∧ k.instTick = s.tick ∧ k.setIx = l.setIx ∧
      (s.host.mreq = false → k = { l with stage := .running, ltime := 0, setStart := 0, inst := 0, instTick := s.tick } ∧ s.logs t [0x01]) ∧
      ∀ u, s.host.mreq = true → l.set? = some u → (l.setFor u.safemode (l.pendLevel.getD l.current.2) s.chmask).isSome = true →
        (∀ p, l.pendMode = some p → p.rank ≤ 2) → k.pendMode = some ⟨u.safemode, true, 2, s.tick⟩ ∧ s.logs t [0x01]) ∧
    (∀ m, m ≠ n → t.launch? m = s.launch? m) ∧ t.dram = s.dram ∧ t.hostMem = s.hostMem ∧ t.tm = s.tm ∧ t.host = s.host ∧ t.health = s.health ∧
    (∀ c, c ∉ l.cores → t.core c = s.core c) ∧
    (∀ d : Fin 4, (∀ b ∈ l.quadBase, b.1 = d.val → ∀ i < 2 ^ (20 + l.img.plog), readByte t.dies[d].pantry (b.2 * 2 ^ 20 + i) = 0) ∧
      ∀ b ∈ l.replBase, b.1 = d.val → ∀ i < 2 ^ (20 + l.img.rplog), readByte t.dies[d].pantry (b.2 * 2 ^ 20 + i) = 0) ∧
    ∀ c ∈ l.cores,
      let g := l.grant c
      let clears (lo n : Nat) (before after : Memory) : Prop := (∀ i < n, readByte after (lo + i) = 0) ∧
        (s.memWf = true → ∀ x, x < lo ∨ lo + n ≤ x → readByte after x = readByte before x)
      (t.core c).launch = n ∧ (∀ q, t.seq c q = .init) ∧ { t.ctx c with ranges := [], chans := CoreCtx.init.chans } = CoreCtx.init ∧ (t.ctx c).ranges = l.img.ranges ∧
      (∀ ch : ChanIx, (t.ctx c).chans[ch] = { CopyChan.init with cache := s.preloaded l c ch }) ∧ (t.core c).lsids = l.img.lsids ∧
      (t.core c).blockStore = memOf 0 (l.img.blocks.getD (l.pos c) []) ∧ clears g.aBase (2 ^ l.img.alog) (s.core c).abuf (t.core c).abuf ∧
      clears g.wBase (2 ^ l.img.wlog) (s.core c).wbuf (t.core c).wbuf ∧ clears (g.cBase * 16384) (16384 * 2 ^ l.img.clog) (s.core c).cbuf (t.core c).cbuf) ∧
  (∀ s c q, (s.seq c q).act = none →
    let starts (i : Instr) (l : Launch) (k : Nat) (e : TableEntry) (deadline fbDeadline : Nat) : Prop := Runs s i fun t =>
      let x := s.seq c q
      let y := t.seq c q
      (∃ a, y.act = some a ∧ a.launch = l.num ∧ a.entry = BitVec.ofNat 12 k ∧ a.deadline = deadline ∧ a.fbDeadline = fbDeadline ∧ a.fallback = e.fallback ∧
        a.arg = e.arg ∧ a.windows = s.bindWindows l e ∧ a.isFallback = false ∧ a.drain = false ∧ a.halted = false ∧ a.ran = 0) ∧
      (∃ b, y.run = some b ∧ b.addr = e.block ∧ b.age = 0) ∧ y.g = x.g.set 63 e.arg ∧ y.commits = 0 ∧ y.actFirst = e.block ∧ y.actCur = e.block ∧ y.loops = [] ∧
      y.rkey = x.rkey ∧ y.rlayer = x.rlayer ∧ y.trapCause = x.trapCause ∧ t.launches = s.launches ∧ (s.ecc = [] → t.tr = s.tr) ∧ s.sameMemory t ∧
      ∀ d r, (d, r) ≠ (c, q) → t.seq d r = s.seq d r
    (∀ l k e, s.hostEntry? c q = some (l, k, e) → e.isEnd = false → e.policyS = false →
      starts (.entryDue c q) l k e (l.instTick + e.deadline) (l.instTick + e.deadline + e.fbDeadline)) ∧
    (∀ g k e w, s.hostEntry? c q = none → s.guestEntry? c q = some (g, k, e) → g.window = some w →
      starts (.entryDue c q) g k e (min (g.instTick + e.deadline) w.deadline) (min (g.instTick + e.deadline + e.fbDeadline) w.deadline)) ∧
    ∀ l k e, s.hostEntry? c q = some (l, k, e) → e.isEnd = false → e.policyS = true → s.tr.rpActive = false →
      let pending (g : Launch) : Bool := g.cls == some (e.arg.setWidth 8) && g.window.isNone && decide (g.pendingFrom + 1024 ≤ s.tick) &&
        (match g.source with | .graph x => (match s.fe.graphs[x].bind (·.binding) with | some (_, m) => m == l.num | none => false) | .queue _ => false)
      (s.launches.find? pending = none → exec (.entryDue c q) s = .next s) ∧
      ∀ g i f, s.launches.find? pending = some g → s.launch? g.num = some g → budgetsHold (s.usesNow ++ [(g.path, g.img.uses)]) = true →
        entryAt g.guestTable 0 = some (i, f) → Runs s (.entryDue c q) fun t =>
          (∃ k', t.launch? g.num = some k' ∧ k'.window = some ⟨l.num, c, q, l.ltime.toNat, l.instTick + e.deadline⟩ ∧ k'.stage = .running ∧ k'.origin = s.tick ∧
            k'.ltime = 0) ∧
          (∃ a, (t.seq c q).act = some a ∧ a.launch = g.num ∧ a.entry = BitVec.ofNat 12 i ∧ a.deadline = min (s.tick + f.deadline) (l.instTick + e.deadline)) ∧
          (∃ b, (t.seq c q).run = some b ∧ b.addr = f.block) ∧ (s.ecc = [] → s.logs t [0x01]) ∧ (∀ m, m ≠ g.num → t.launch? m = s.launch? m) ∧
          ∀ d r, (d, r) ≠ (c, q) → t.seq d r = s.seq d r) ∧
  (∀ s c q l k e, s.hostEntry? c q = some (l, k, e) → e.isEnd = true →
    (s.needsFreeze l = true → Runs s (.entryDue c q) fun t =>
      (∃ b, t.launch? l.num = some { l with boundary := some b } ∧ b.first = s.tick ∧ b.after = .retire) ∧ OnlyLaunch l.num s t ∧ t.tr = s.tr) ∧
    (s.needsFreeze l = false → l.cls = none → Runs s (.entryDue c q) fun t =>
      t.launch? l.num = none ∧ (∀ g ∈ s.launches, g.window.map WindowBind.host = some l.num → t.launch? g.num = none) ∧
      (∀ d, (s.core d).launch = l.num → (t.core d).launch = 0) ∧ t.fe.tryPlace = true)) ∧
  (∀ s n l u, s.launch? n = some l → l.timeHeld s.tick = false → l.set? = some u → l.inPeriod = u.period →
    (s.needsFreeze l = false → Runs s (.instanceBoundary n) fun t =>
      t.launch? n = some { l with inst := l.inst + 1, instTick := s.tick } ∧ OnlyLaunch n s t ∧ t.tr = s.tr) ∧
    (s.needsFreeze l = true → Runs s (.instanceBoundary n) fun t =>
      (∃ b, t.launch? n = some { l with boundary := some b } ∧ b.first = s.tick ∧ b.after = .nextInst) ∧ OnlyLaunch n s t ∧ t.tr = s.tr)) ∧
  (∀ s n l b, s.launch? n = some l → l.boundary = some b → s.boundaryOver l = true →
    (b.after = .nextInst → Runs s (.boundaryFreezeEnd n) fun t =>
      t.launch? n = some { l with boundary := none, inst := l.inst + 1, instTick := s.tick } ∧ OnlyLaunch n s t ∧ s.logs t [0x06]) ∧
    (b.after = .resume → Runs s (.boundaryFreezeEnd n) fun t => t.launch? n = some { l with boundary := none } ∧ OnlyLaunch n s t ∧ s.logs t [0x06]) ∧
    (∀ k src u, b.after = .switch k src u → Runs s (.boundaryFreezeEnd n) fun t =>
      t.launch? n = some { l with boundary := none, setIx := k, setStart := l.ltime, inst := 0, instTick := s.tick, mcpAt := none } ∧
      OnlyLaunch n s t ∧ (s.logs t [0x06, 0x02] ∨ s.logs t [0x06, 0x02, 0x0B])) ∧
    (b.after = .retire → l.cls = none → Runs s (.boundaryFreezeEnd n) fun t =>
      t.launch? n = none ∧ (∀ d, (s.core d).launch = n → (t.core d).launch = 0) ∧ t.fe.tryPlace = true)) ∧
  ∀ s n l, s.launch? n = some l → s.atSwitchPoint l = true →
    let frozen (P : State → Launch → Prop) : Prop := s.needsFreeze l = true → Runs s (.switchPoint n) fun t =>
      ∃ k, t.launch? n = some k ∧ k.urgentFrom = none ∧ k.mcpAt = some l.position ∧ k.setIx = l.setIx ∧ OnlyLaunch n s t ∧ P t k
    let atOnce (P : State → Launch → Prop) : Prop := s.needsFreeze l = false → Runs s (.switchPoint n) fun t =>
      ∃ k, t.launch? n = some k ∧ k.urgentFrom = none ∧ OnlyLaunch n s t ∧ P t k
    let held : List (BitVec 7) := if l.urgentFrom.isSome then [0x06] else []
    let begins (k : Launch) (after : AfterBoundary) : Prop := ∃ b, k.boundary = some b ∧ b.first = l.urgentFrom.getD s.tick ∧ b.after = after
    let cleared (k : Launch) : Prop := k.pendMode = l.pendMode.filter (fun p => !l.taken s.tick p) ∧ k.pendLevel = none ∧ k.chmaskNew = false
    let reports : List (BitVec 7) := if l.pendMode.isSome || l.pendLevel.isSome then [0x02] else []
    (l.asked s.tick = none →
      frozen (fun t k => begins k .resume ∧ t.tr = s.tr) ∧ atOnce (fun t k => k = { l with urgentFrom := none, mcpAt := some l.position } ∧ s.logs t held)) ∧
    ∀ a, l.asked s.tick = some a →
      (∀ j, l.setFor a.1 a.2 s.chmask = some j → j ≠ l.setIx →
        frozen (fun t k => (∃ src u, begins k (.switch j src u)) ∧ cleared k ∧ t.tr = s.tr) ∧
        atOnce (fun t k => k.setIx = j ∧ k.setStart = l.ltime ∧ k.inst = 0 ∧ k.instTick = s.tick ∧ cleared k ∧ (s.logs t (held ++ [0x02]) ∨ s.logs t (held ++ [0x02, 0x0B])))) ∧
      (l.setFor a.1 a.2 s.chmask = some l.setIx ∨ (l.setFor a.1 a.2 s.chmask = none ∧ l.chmaskNew = false) →
        frozen (fun t k => begins k .resume ∧ cleared k ∧ s.logs t reports) ∧ atOnce (fun t k => k.setIx = l.setIx ∧ cleared k ∧ s.logs t (reports ++ held))) ∧
      (l.setFor a.1 a.2 s.chmask = none → l.chmaskNew = true → l.setFor l.current.1 l.current.2 s.chmask = none → Runs s (.switchPoint n) fun t => s.domainGone t l.fdom)

/-- overrun (R66, R67, R68, R69): an activation that reaches its deadline starts its fallback in the same tick, with its OVERRUN and FALLBACK records, and its engine
operations are cut: they leave their queues and ports, and those in progress are marked; without a fallback, or where the fallback's own deadline has come too, the fault domain is cancelled. fallbackDeadline (R68): a fallback whose
deadline comes cancels the fault domain. haltingFreeze (R70, R71): a running launch with an active cause is frozen from this tick, with the causes of the tick.
haltingFreezeEnd (R71, R73): with no active cause left the launch runs again, with its FREEZE record, launch time as it stood. ucieRetrainStep (R70, R468): the link's
count grows by one, saturating, and every launch with a route over the link, one at its origin tick too, has a cause of at most 4,096 ticks. -/
def Obligations.DeadlinesAndFreezes : Prop :=
  (∀ s c q a, (s.seq c q).act = some a → a.isFallback = false → a.drain = false → s.seqRuns c q = true → a.deadline ≤ s.tick →
    (∀ fb, a.fallback = some fb → s.tick < a.fbDeadline → s.ecc = [] → (∀ l, s.coreLaunch? c = some l → l.stopped s.tick = false) →
      let x := s.seq c q
      let first := s.openBlock c fb q (x.g.set 63 a.arg)
      first.trap = none → Runs s (.overrun c q) fun t =>
      let y := t.seq c q
      y.act = some { a with isFallback := true, ran := 0, pwbSeen := 0 } ∧ y.overrun = true ∧ y.trapCause = 0x08 ∧ y.trapDetail = 0 ∧
      y.trapTick = BitVec.ofNat 40 s.tick ∧ y.g = x.g.set 63 a.arg ∧ y.commits = 0 ∧ y.actFirst = fb ∧ y.actCur = fb ∧ y.loops = [] ∧
      y.run = some first ∧ y.trapped = x.trapped ∧ y.killed = x.killed ∧ y.rkey = x.rkey ∧ y.rlayer = x.rlayer ∧ s.logs t [0x04, 0x05] ∧
      (let own (k : EngineCmd) : Bool := k.owner.launch == a.launch && k.owner.act == a.id
       let after := t.ctx c
       (∀ ch : ChanIx, ∀ k ∈ after.chans[ch].live, own k = false) ∧
       (∀ g : RegionIx, (∀ k ∈ after.regions[g].queue, own k = false) ∧ (∀ k, after.regions[g].round = some k → own k.cmd = true → k.cut = true) ∧
         ∀ j, after.regions[g].port = some j → (j.owner.launch == a.launch && j.owner.act == a.id) = false) ∧
       (∀ k ∈ after.matrix.queue, own k = false) ∧ (∀ k, after.matrix.compute = some k → own k.cmd = true → k.failed = true) ∧
       (∀ k, after.matrix.load = some k → own k.cmd = true → k.failed = true) ∧ (∀ k, after.matrix.read = some k → own k.cmd = false) ∧
       (∀ k ∈ after.stoch.queue, own k = false) ∧ ∀ u, ∀ k ∈ after.stoch.unit u, own k.cmd = false) ∧
      ((s.ctx c).busyFor (fun o => o.launch == a.launch && o.act == a.id) = false → SameBuffers s t ∧ ∀ d r, (d, r) ≠ (c, q) → t.seq d r = s.seq d r)) ∧
    (a.fallback = none ∨ a.fbDeadline ≤ s.tick → s.ecc = [] → Runs s (.overrun c q) fun t => s.domainGone t (s.fdomOf a.launch))) ∧
  (∀ s c q a, (s.seq c q).act = some a → a.isFallback = true → a.drain = false → s.seqRuns c q = true → a.fbDeadline ≤ s.tick →
    Runs s (.fallbackDeadline c q) fun t => s.domainGone t (s.fdomOf a.launch)) ∧
  (∀ s n l, s.launch? n = some l → l.stage ≠ .placed → l.frozenFrom = none → l.active s.tick ≠ [] → Runs s (.haltingFreeze n) fun t =>
    t.launch? n = some { l with frozenFrom := some s.tick, seen := causeBits (l.active s.tick) } ∧ OnlyLaunch n s t ∧ t.tr = s.tr) ∧
  (∀ s n l first, s.launch? n = some l → l.frozenFrom = some first → l.active s.tick = [] → Runs s (.haltingFreezeEnd n) fun t =>
    (∃ k, t.launch? n = some k ∧ k.frozenFrom = none ∧ k.seen = 0 ∧ k.ltime = l.ltime ∧ k.inst = l.inst ∧ k.setIx = l.setIx) ∧
    OnlyLaunch n s t ∧ s.logs t [0x06]) ∧
  ∀ s (link : Fin 8) (ticks : BitVec 13), Runs s (.ucieRetrainStep link ticks) fun t =>
    t.host.retrain[link].toNat = min (s.host.retrain[link].toNat + 1) 0xFFFFFFFF ∧ (∀ k, k ≠ link → t.host.retrain[k] = s.host.retrain[k]) ∧
    (s.tr.rpActive = true → t.launches = s.launches) ∧
    (s.tr.rpActive = false → (s.launches.map Launch.num).Nodup → ∀ n l, s.launch? n = some l → t.launch? n = some (if l.usesLink link then
      { l with causes := l.causes ++ [⟨2, s.tick, some (s.tick + min ticks.toNat 4096)⟩] } else l)) ∧
    t.cores = s.cores ∧ t.dies = s.dies ∧ t.dram = s.dram ∧ t.hostMem = s.hostMem ∧ t.tick = s.tick ∧ t.fe = s.fe ∧ t.tr = s.tr ∧ t.health = s.health

/-! ### Pre-emption -/

/-- preemption (R79, R80): at the pre-emption tick each running activation of the victim is drained, halted where it stands or killed, as the first condition that holds
says, and the suspension begins with that tick. urgentSwitch (R86): each running activation is drained or killed and launch time holds from this tick; in a boundary freeze
this tick is the switch point. drainKill (R80): a drained activation that has not committed by its limit is killed, and no fallback starts. -/
def Obligations.Preemption : Prop :=
  let took (s t : State) (x : CoreIx × SeqIx × Activation × Response) : Prop :=
    let (c, q, a, r) := x
    match r with
    | .drain => (t.seq c q).act = some { a with drain := true, drainLimit := min (s.tick + 4096) (if a.isFallback then a.fbDeadline else a.deadline) }
    | .checkpoint => (t.seq c q).act = some { a with halted := true }
    | .kill => (t.seq c q).act = none ∧ (t.seq c q).run = none ∧ (t.seq c q).killed = true ∧ (t.seq c q).g = (s.seq c q).g
  (∀ a p tokens u, response a p tokens u = if a.isFallback = true then (if p ≤ 4096 then .drain else .kill) else if a.polD = true ∧ p ≤ 4096 then .drain
    else if u = false ∧ a.polC = true ∧ 1 ≤ tokens then .checkpoint else .kill) ∧
  (∀ s n l ch, s.launch? n = some l → l.stage = .running → l.frozenFrom = none → l.susp = none → l.stopped s.tick = false → l.chosen = some ch → ch.at' ≤ s.tick →
    s.tr.rpActive = false → Runs s (.preemption n) fun t =>
      (∃ k', t.launch? n = some k' ∧ k'.chosen = none ∧ k'.susp = some ⟨s.tick, ch.newcomer, false, 0, none, false⟩ ∧ k'.ltime = l.ltime) ∧
      ∀ x ∈ (respond s.tick false (s.activations l) ((s.launch? ch.newcomer).map Launch.tokens |>.getD 0)).1, took s t x) ∧
  (∀ s n l ch k c q a, s.launch? n = some l → l.chosen = some ch → s.preemptNow l = true → s.tr.rpActive = false → s.launch? ch.newcomer = some k →
    s.activations l = [(c, q, a)] → a.isFallback = false → a.polD = false → a.polC = true → 1 ≤ k.tokens →
    Runs s (.preemption n) fun t =>
      (t.seq c q).act = some { a with halted := true } ∧ (t.seq c q).run = (s.seq c q).run ∧ (t.seq c q).g = (s.seq c q).g ∧
      (∃ k', t.launch? n = some k' ∧ k'.chosen = none ∧ k'.susp = some ⟨s.tick, ch.newcomer, false, 0, none, false⟩ ∧ k'.ltime = l.ltime) ∧
      s.logs t [0x07] ∧ t.dram = s.dram ∧ t.hostMem = s.hostMem ∧ t.dies = s.dies ∧ ∀ d, d ∉ l.cores → d ≠ c → t.core d = s.core d) ∧
  (∀ s n l u, s.launch? n = some l → l.stage = .running → l.frozenFrom = none → l.susp = none → l.urgentFrom = none → l.stopped s.tick = false →
    l.urgentAt = some u → u ≤ s.tick →
    (l.boundary = none → Runs s (.urgentSwitch n) fun t =>
      (∃ k, t.launch? n = some k ∧ k.urgentAt = none ∧ k.urgentFrom = some s.tick ∧ k.ltime = l.ltime ∧ k.setIx = l.setIx) ∧
      ∀ x ∈ (respond s.tick true (s.activations l) 0).1, took s t x) ∧
    ∀ b, l.boundary = some b → b.after ≠ .retire → s.activations l = [] → ∀ a j, ({ l with urgentFrom := some s.tick } : Launch).asked s.tick = some a →
      l.setFor a.1 a.2 s.chmask = some j → j ≠ l.setIx → Runs s (.urgentSwitch n) fun t =>
        ∃ k src v, t.launch? n = some k ∧ k.urgentAt = none ∧ k.boundary = some { b with after := .switch j src v } ∧ OnlyLaunch n s t ∧ s.logs t [0x07]) ∧
  (∀ s n l c q a, s.launch? n = some l → s.urgentNow l = true → l.boundary = none → s.activations l = [(c, q, a)] → a.isFallback = false →
    (a.polD = true → a.remain - a.ran ≤ 4096 → Runs s (.urgentSwitch n) fun t =>
      (t.seq c q).act = some { a with drain := true, drainLimit := min (s.tick + 4096) a.deadline } ∧ (t.seq c q).run = (s.seq c q).run ∧
      t.launch? n = some { l with urgentAt := none, urgentFrom := some s.tick } ∧ s.logs t [0x07] ∧ SameBuffers { s with launches := t.launches } t ∧
      ∀ d r, (d, r) ≠ (c, q) → t.seq d r = s.seq d r) ∧
    (a.polD = false → (s.ctx c).busyFor (fun o => o.launch == a.launch && o.act == a.id) = false → Runs s (.urgentSwitch n) fun t =>
      (t.seq c q).act = none ∧ (t.seq c q).run = none ∧ (t.seq c q).killed = true ∧ (t.seq c q).g = (s.seq c q).g ∧
      t.launch? n = some { l with urgentAt := none, urgentFrom := some s.tick } ∧ s.logs t [0x07] ∧ SameBuffers { s with launches := t.launches } t ∧
      ∀ d r, (d, r) ≠ (c, q) → t.seq d r = s.seq d r)) ∧
  ∀ s c q a, (s.seq c q).act = some a → a.drain = true → s.seqRuns c q = true → a.drainLimit ≤ s.tick → Runs s (.drainKill c q) fun t =>
    (t.seq c q).act = none ∧ (t.seq c q).run = none ∧ (t.seq c q).killed = true ∧ (t.seq c q).g = (s.seq c q).g ∧
    ((s.ctx c).busyFor (fun o => o.launch == a.launch && o.act == a.id) = false → t.tr = s.tr ∧ SameBuffers s t ∧ ∀ d r, (d, r) ≠ (c, q) → t.seq d r = s.seq d r)

/-- swapOut (R81, R87): a core of a suspended launch on which no drained activation is left begins its swap-out of 3,800 ticks, its mailbox empty. swapOutEnd (R81, R82): the
context stands in the Attic with the pinned tiles that are saved, and the core is free; with the last core the launch is suspended. restore (R83): with every core of the
victim in its Attic and free, the loader starts; where it has nothing to load the swap-in begins at once. engineStepRestart (R478): the step of each kind of unit that a
suspension abandoned restarts as many ticks before the resume tick as had passed of it. launchResume (R52, R83, R85, R87): at the resume tick launch time runs again, with its
FREEZE record, and the deadlines have moved by the ticks that passed; a full mailbox or an image with another digest cancels the fault domain. -/
def Obligations.Suspension : Prop :=
  (∀ s c l p, s.coreLaunch? c = some l → l.susp = some p → p.at' ≤ s.tick → p.restoring = false → l.stage = .running → (s.core c).swap = none →
    (∀ q a, (s.seq c q).act = some a → a.drain = false) → Runs s (.swapOut c) fun t =>
    (t.core c).swap = some (true, 3800) ∧ (t.core c).mailLen = 0 ∧ (t.core c).mailboxFull = false ∧
    ((∀ (ch : ChanIx) r, (s.ctx c).chans[ch].run = some r → r.moving = [] ∧ r.units = [] ∧ r.dying = false) → (∀ k, (s.ctx c).matrix.load = some k → k.undo = []) →
      t.tr = s.tr ∧ OnlyEngines c s t)) ∧
  (∀ s c, (s.core c).swap = some (true, 0) → Runs s (.swapOutEnd c) fun t =>
    (t.core c).swap = none ∧ (t.core c).launch = 0 ∧
    (∃ a, (t.core c).attic = some a ∧ a.launch = (s.core c).launch ∧ a.ctx = s.ctx c ∧
      ∀ k bytes, (k, bytes) ∈ a.tilesSaved ↔ ∃ o : Fin 32, k = o.val ∧ (s.ctx c).matrix.owners[o].pin = true ∧ (s.ctx c).matrix.owners[o].vder = false ∧
        bytes = readBytes (s.core c).cbuf (o.val * 16384) 16384) ∧
    (∀ q, t.seq c q = .init) ∧ (t.core c).abuf = (s.core c).abuf ∧ (t.core c).wbuf = (s.core c).wbuf ∧ (t.core c).cbuf = (s.core c).cbuf ∧
    (t.core c).blockStore = (s.core c).blockStore ∧ t.dram = s.dram ∧ t.hostMem = s.hostMem ∧ t.dies = s.dies ∧ t.tr = s.tr ∧ (∀ d, d ≠ c → t.core d = s.core d) ∧
    ∀ l, s.coreLaunch? c = some l → t.launch? l.num = some (if ∀ d ∈ l.cores, d ≠ c → (s.core d).launch ≠ l.num then { l with stage := .suspended } else l)) ∧
  (∀ s n l p, s.launch? n = some l → l.susp = some p → l.stage = .suspended → p.restoring = false →
    (∀ c ∈ l.cores, (s.core c).launch = 0 ∧ (s.core c).attic.map Attic.launch = some n) →
    (∀ k ∈ s.launches, k.num ≠ n → k.cls = none → k.stage ≠ .suspended → ∀ c ∈ k.cores, c ∉ l.cores) →
    (Runs s (.restore n) fun t =>
      (∃ p', t.launch? n = some { l with susp := some p' } ∧ p'.restoring = true ∧ p'.at' = p.at' ∧ p'.resume = p.resume) ∧
      (∀ m, m ≠ n → t.launch? m = s.launch? m) ∧ (∀ c, c ∉ l.cores → t.core c = s.core c) ∧ t.tr = s.tr) ∧
    ((∀ c ∈ l.cores, (s.core c).storeOwner = n) → Runs s (.restore n) fun t =>
      t.launch? n = some { l with susp := some { p with restoring := true, loadLeft := 0, badImage := false } } ∧
      (∀ m, m ≠ n → t.launch? m = s.launch? m) ∧ (∀ c ∈ l.cores, (t.core c).swap = some (false, 3800)) ∧ (∀ c, c ∉ l.cores → t.core c = s.core c) ∧
      t.tr = s.tr ∧ s.sameMemory t)) ∧
  (∀ s c l r, s.coreLaunch? c = some l → l.susp.bind Suspension.resume = some r →
    let restarts (u : StepUnit) (P : State → Prop) : Prop := Runs s (.engineStepRestart c u) fun t => P t ∧ t.tr = s.tr ∧ OnlyEngines c s t
    let m := (s.ctx c).matrix
    (∀ k, m.compute = some k → k.redo = some (r - s.tick) → restarts .matrixCompute fun t =>
      (t.ctx c).matrix = { m with compute := some { k with rerun := true } } ∧ (t.ctx c).stoch = (s.ctx c).stoch ∧ (t.ctx c).regions = (s.ctx c).regions) ∧
    (∀ k, m.load = some k → k.redo = some (r - s.tick) → restarts .matrixLoad fun t =>
      (t.ctx c).matrix = { m with load := some { k with rerun := true } } ∧ (t.ctx c).stoch = (s.ctx c).stoch ∧ (t.ctx c).regions = (s.ctx c).regions) ∧
    (∀ u k, (s.ctx c).stoch.unit u = [k] → k.redo = some (r - s.tick) → k.rerun = false → s.ecc = [] → restarts (.stoch u) fun t =>
      (t.ctx c).stoch.unit u = [{ s.ssRun c k.cmd with redo := k.redo, rerun := true }] ∧ (∀ v, v ≠ u → (t.ctx c).stoch.unit v = (s.ctx c).stoch.unit v) ∧
      (t.ctx c).matrix = m ∧ (t.ctx c).regions = (s.ctx c).regions) ∧
    ∀ (g : RegionIx) j, (s.ctx c).regions[g].port = some j → j.redo = some (r - s.tick) → restarts (.port g) fun t =>
      (t.ctx c).regions[g] = { (s.ctx c).regions[g] with port := some { j with rerun := true }, loading := if j.table = none then some (s.ctx c).regions[g].active else (s.ctx c).regions[g].loading } ∧
      (∀ h : RegionIx, h ≠ g → (t.ctx c).regions[h] = (s.ctx c).regions[h]) ∧ (t.ctx c).matrix = m ∧ (t.ctx c).stoch = (s.ctx c).stoch) ∧
  ∀ s n l p, s.launch? n = some l → l.susp = some p → p.resume = some s.tick →
    (p.badImage = false → (∀ c ∈ l.cores, (s.core c).mailboxFull = false) → s.ecc = [] → Runs s (.launchResume n) fun t =>
      (∃ k, t.launch? n = some k ∧ k.susp = none ∧ k.stage = .running ∧ k.instTick = l.instTick + (s.tick - p.at') ∧ k.ltime = l.ltime ∧ k.inst = l.inst) ∧
      (l.cores.Nodup → ∀ c ∈ l.cores, ∀ q a, (s.seq c q).act = some a → (t.seq c q).act = some
        { a with halted := false, deadline := a.deadline + (s.tick - p.at'), fbDeadline := a.fbDeadline + (s.tick - p.at') }) ∧
      (∀ c, c ∉ l.cores → t.core c = s.core c) ∧ s.logs t [0x06] ∧ t.dram = s.dram ∧ t.hostMem = s.hostMem ∧ t.dies = s.dies) ∧
    (p.badImage = true ∨ (∃ c ∈ l.cores, (s.core c).mailboxFull = true) → Runs s (.launchResume n) fun t => s.domainGone t l.fdom)

/-! ### Trace, profiling, exports, replay -/

/-- R433, R434, R437, R447, R448, R450: a record alone in the writer's buffer whose 256 ticks are over is placed at the write position, with the next sequence
number, and one whose ticks are not over stays; drops are reported by one LOSS record; `tstop` stops and starts the trace; a profile sample takes a record of every core, and what is left of the one before counts as
lost; a scan is to read every side-table entry that is not 0, in the translation slots, and an entry that it reads it clears, with no other byte. -/
def Obligations.TraceEngine : Prop :=
  (∀ s r, s.tr.buffer = [r] → s.tr.rpActive = false →
    (s.tick < r.tick + 256 → exec .cellarRecordPlace s = .next s) ∧
    (r.tick + 256 ≤ s.tick → r.words ≤ 32 → s.tr.wptr.toNat + r.words ≤ cellarWords → sparseWf 0 0 s.tr.ring = true → Runs s .cellarRecordPlace fun t =>
      t.tr.buffer = [] ∧ t.tr.cseq = s.tr.cseq + 1 ∧ t.tr.wptr = s.tr.wptr + BitVec.ofNat 22 r.words ∧ SameModule s t ∧ t.cores = s.cores ∧
      (∀ i < r.words, sparseGet 0 t.tr.ring (s.tr.wptr.toNat + i) = (r.image s.tr.cseq.toNat).getD i 0) ∧
      ∀ x, x < s.tr.wptr.toNat ∨ s.tr.wptr.toNat + r.words ≤ x → sparseGet 0 t.tr.ring x = sparseGet 0 s.tr.ring x)) ∧
  (∀ s, s.tr.lossDue = true → Runs s .loss fun t => t.tr.lossCount = 0 ∧ s.logs t [0x14] ∧ SameModule s t ∧ t.cores = s.cores) ∧
  (∀ s b, s.tr.tstops = [(s.tick, b)] → Runs s .tstopEffect fun t =>
    t.tr.tstops = [] ∧ (b = true → t.tr.tron = true ∧ t.tr.stopAfter = none) ∧ (b = false → s.tr.post = 0 → t.tr.tron = false ∧ t.tr.stopAfter = none) ∧
    (b = false → s.tr.post ≠ 0 → t.tr.tron = s.tr.tron ∧ t.tr.stopAfter = some s.tr.post.toNat) ∧ s.logs t [] ∧ SameModule s t ∧ t.cores = s.cores) ∧
  (∀ s, s.profDue = true → Runs s .profSample fun t =>
    t.tr.prof = allCores.map s.profOf ∧ t.tr.prof.length = 64 ∧ t.tr.plost.toNat = min 0xFFFFFFFF (s.tr.plost.toNat + s.tr.prof.length) ∧ s.logs t [] ∧
    SameModule s t ∧ t.cores = s.cores) ∧
  (∀ s, s.scanDue = true → Runs s .scan fun t =>
    (∀ l ∈ s.launches, l.stage ≠ .placed → l.cls = none → ∀ k < 2 ^ 24, (∃ i < 8, readByte s.dram (l.sidebase + 8 * k + i) ≠ 0) →
      (l.num, k, l.sidebase + 8 * k) ∈ t.tr.scanLeft) ∧
    t.tr = { s.tr with scanLeft := t.tr.scanLeft } ∧ SameModule s t ∧ t.cores = s.cores) ∧
  ∀ s : State, (isWalkSlot s.tick = false → s.scanTick = s) ∧ ∀ n k a, s.tr.scanLeft = [(n, k, a)] → isWalkSlot s.tick = true → s.ecc = [] → s.memWf = true →
    s.tr.pen = false → a + 8 ≤ 2 ^ 55 →
    let t := s.scanTick
    readLE t.dram a 8 = 0 ∧ (∀ x, x < a ∨ a + 8 ≤ x → readByte t.dram x = readByte s.dram x) ∧ t.tr = { s.tr with scanLeft := [] } ∧
    t.cores = s.cores ∧ t.dies = s.dies ∧ t.hostMem = s.hostMem ∧ t.launches = s.launches

/-- R437, R440, R441, R443, R447, R460: a read of the loss counts returns and clears them; the retention store is emptied; an export begins with its magic
number, version and tick range; one whose segments have all been read is delivered; on a bench unit the records of an export are loaded for replay, and the tick counter is preset before any launch. -/
def Obligations.ExportsAndReplay : Prop :=
  (∀ s p, Runs s (.clostRead p) fun t =>
    t.host.replies = s.host.replies ++ [.data (partBytes p (if s.bench then s.tr.clost.toNat else 0))] ∧
    t.tr = (if s.bench = true ∧ p ≠ .high then { s.tr with clost := 0 } else s.tr) ∧ SameMachine s t ∧ t.fe = s.fe) ∧
  (∀ s p, Runs s (.plostRead p) fun t =>
    t.host.replies = s.host.replies ++ [.data (partBytes p (if s.bench then s.tr.plost.toNat else 0))] ∧
    t.tr = (if s.bench = true ∧ p ≠ .high then { s.tr with plost := 0 } else s.tr) ∧ SameMachine s t ∧ t.fe = s.fe) ∧
  (∀ s, Runs s .retentionStoreClear fun t =>
    t.tr.retention = [] ∧ t.tr.retentionHeld = false ∧ t.tr.ring = s.tr.ring ∧ t.tr.wptr = s.tr.wptr ∧ s.logs t [] ∧ SameMachine s t ∧ t.fe = s.fe ∧ t.host = s.host) ∧
  (∀ s (first last : Word), Runs s (.exportBuild first last) fun t =>
    (∃ b, t.tr.building = s.tr.building ++ [b] ∧ b.segs = s.tr.plan first.toNat last.toNat ∧ b.bytes.take 4 = leBytes 4 0x58525459 ∧
      (b.bytes.drop 4).take 2 = leBytes 2 1 ∧ (b.bytes.drop 32).take 8 = leBytes 8 first.toNat ∧ (b.bytes.drop 40).take 8 = leBytes 8 last.toNat) ∧
    t.tr.exports = s.tr.exports ∧ t.tr.ring = s.tr.ring ∧ s.logs t [] ∧ SameMachine s t ∧ t.fe = s.fe ∧ t.host = s.host) ∧
  (∀ (s : State) b rest, s.tr.building = b :: rest → b.segs = [] →
    s.exportTick = { s with tr := { s.tr with building := rest, exports := s.tr.exports ++ [b.bytes] } }) ∧
  (∀ s records, (s.bench = true → Runs s (.yaretteExportLoad records) fun t =>
      t.tr.rpRecords = records ∧ t.tr.rpPos = 0 ∧ t.tr.rpActive = (s.tr.rpOn && !s.tr.rpMismatch) ∧ s.logs t [] ∧ SameMachine s t ∧ t.fe = s.fe ∧ t.host = s.host) ∧
    (s.bench = false → exec (.yaretteExportLoad records) s = .next s)) ∧
  ∀ s (v : Word), (s.bench = true → s.tr.rpOn = true → s.fe.actSerial = 1 → (∀ q : QueueIx, s.fe.queues[q].lnCount = 0) → Runs s (.replayTickPreset v) fun t =>
      t.tick = v.toNat ∧ (∀ c, t.core c = { s.core c with counters := Vector.replicate 7 0 }) ∧ t.dies = s.dies ∧ t.dram = s.dram ∧ t.hostMem = s.hostMem ∧
      t.launches = s.launches ∧ t.tr = s.tr ∧ t.fe = s.fe ∧ t.host = s.host) ∧
    (s.bench = false → exec (.replayTickPreset v) s = .next s)

/-! ### Debug -/

/-- halt (R453): in the bench state a launch that has started is asked to stop from the next tick, a suspended one from its resume tick; a stop under way stands, and outside the bench state nothing happens.
debugStop (R453, R457): at the tick in which nothing of the launch runs the STOP record is written, the stop is in TR_DBGSTAT, and the bench interrupt is raised.
drainTimeout (R454): a drain that has lasted 2^20 ticks holds the blocks that still run. step (R455): one unit of a stopped launch is released: the successor block of a
sequencer or its fallback held, the entry that stands at the launch's position, the head command of a region; with nothing to run the step ends at once with its STOP record. stepDone (R455): the
step ends with a STOP record. stepTimeout (R455): after 2^20 ticks it ends with its block held. resume (R456): the stop will end at the first multiple of 32,768 ticks after
its first tick that is 24 ticks or more away, and before the next. -/
def Obligations.DebugStops : Prop :=
  ∀ s n l, s.launch? n = some l →
    (s.bench = true → l.stage ≠ .placed → l.dstop = none → Runs s (.halt n) fun t =>
      (∃ d, t.launch? n = some { l with dstop := some d, displaced := true } ∧
        d.from' = (if l.susp.isSome then DebugStop.atResume else s.tick + 1) ∧ d.reason = 3 ∧ d.stopped = none ∧ d.step = none ∧ d.resume = none) ∧
      OnlyLaunch n s t ∧ s.logs t []) ∧
    (s.bench = true → l.stage ≠ .placed → l.dstop.isSome = true → Runs s (.halt n) fun t => t.launch? n = some l ∧ OnlyLaunch n s t ∧ s.logs t []) ∧
    (s.bench = false → exec (.halt n) s = .next s ∧ (∀ c u, exec (.step n c u) s = .next s) ∧ exec (.resume n) s = .next s) ∧
    ∀ d, l.dstop = some d →
      (d.from' ≤ s.tick → d.stopped = none → l.susp = none → s.quiet l = true → Runs s (.debugStop n) fun t =>
        t.launch? n = some { l with dstop := some { d with stopped := some s.tick } } ∧ (∀ m, m ≠ n → t.launch? m = s.launch? m) ∧ s.logs t [0x13] ∧
        t.tr.dbgLaunch = n ∧ t.tr.dbgReason = d.reason ∧ t.tr.dbgStopped = true ∧ t.tr.dbgStepping = false ∧
        (if s.host.msix[16].ctrl.getLsbD 0 then t.host.pba.getLsbD 16 = true else t.host.irqs = s.host.irqs ++ [16]) ∧
        t.cores = s.cores ∧ t.dies = s.dies ∧ t.dram = s.dram ∧ t.hostMem = s.hostMem ∧ t.fe = s.fe) ∧
      (d.stopped = none → d.reason ≠ 7 → d.from' + 2 ^ 20 ≤ s.tick → l.susp = none → Runs s (.drainTimeout n) fun t =>
        t.launch? n = some { l with dstop := some { d with reason := 7 } } ∧
        (∀ c ∈ l.cores, ∀ q r, (s.seq c q).run = some r → (t.seq c q).run = none ∧ (t.seq c q).succ = some r.addr ∧ (t.seq c q).act = (s.seq c q).act) ∧
        (∀ c, c ∉ l.cores → t.core c = s.core c) ∧ t.tr = s.tr ∧ s.sameMemory t) ∧
      (∀ c u k, d.step = some (c, u, k) → d.started = true → s.quiet l = true → Runs s (.stepDone n) fun t =>
        t.launch? n = some { l with dstop := some { d with step := none, started := false } } ∧ s.logs t [0x13] ∧ t.tr.dbgReason = 4 ∧ t.tr.dbgStopped = true ∧
        t.tr.dbgStepping = false ∧ (∀ q, (t.seq c q).stepping = false ∧ (t.seq c q).run = (s.seq c q).run) ∧ s.sameMemory t) ∧
      (∀ c u k, d.step = some (c, u, k) → k + 2 ^ 20 ≤ s.tick → Runs s (.stepTimeout n) fun t =>
        t.launch? n = some { l with dstop := some { d with step := none, started := false } } ∧ s.logs t [0x13] ∧ t.tr.dbgReason = 5 ∧ t.tr.dbgStopped = true ∧
        t.tr.dbgStepping = false ∧ (∀ q, (t.seq c q).stepping = false) ∧ s.sameMemory t ∧
        ∀ q r, u = .seq q → (s.seq c q).run = some r → (t.seq c q).run = none ∧ (t.seq c q).succ = some r.addr) ∧
      ∀ z, s.bench = true → d.stopped = some z → d.step = none → d.resume = none →
        (∀ c, l.susp = none → c ∈ l.cores →
          let releases (u : DebugUnit) (started : Bool) (P : State → Launch → Prop) : Prop := Runs s (.step n c u) fun t =>
            ∃ k, t.launch? n = some k ∧ k.dstop = some { d with step := some (c, u, s.tick), started := started } ∧ t.tr.dbgStepping = true ∧ P t k
          let nothing (u : DebugUnit) : Prop := Runs s (.step n c u) fun t =>
            t.tr.dbgReason = 4 ∧ t.tr.dbgStopped = true ∧ t.tr.dbgStepping = false ∧ s.logs t [0x13] ∧ t.launches = s.launches ∧ OnlyLaunch n s t
          (∀ q, (s.seq c q).succ.isSome = true ∨ (s.seq c q).held.isSome = true → releases (.seq q) false fun t k =>
            k = { l with dstop := k.dstop } ∧ t.seq c q = { s.seq c q with stepping := true } ∧ s.logs t [] ∧ s.sameMemory t ∧
            ∀ e r, (e, r) ≠ (c, q) → t.seq e r = s.seq e r) ∧
          (∀ q i e, (s.seq c q).succ = none → (s.seq c q).held = none → (s.seq c q).act = none → l.stepEntry c q = some (i, e) → releases (.seq q) true fun t k =>
            k.stepped = (c, q, l.ltime) :: l.stepped ∧ (∃ a, (t.seq c q).act = some a ∧ a.launch = n ∧ a.entry = BitVec.ofNat 12 i) ∧
            (∃ b, (t.seq c q).run = some b ∧ b.addr = e.block) ∧ (t.seq c q).stepping = true ∧ s.sameMemory t) ∧
          (∀ q, (s.seq c q).succ = none → (s.seq c q).held = none → l.stepEntry c q = none ∨ (s.seq c q).act.isSome = true → nothing (.seq q)) ∧
          (∀ g : RegionIx, (s.ctx c).regions[g].queue ≠ [] → releases (.region g) false fun t k => k = { l with dstop := k.dstop } ∧ s.logs t [] ∧ OnlyLaunch n s t) ∧
          ∀ g : RegionIx, (s.ctx c).regions[g].queue = [] → nothing (.region g)) ∧
        Runs s (.resume n) fun t =>
          (∃ r, t.launch? n = some { l with dstop := some { d with resume := some r } } ∧ s.tick + 24 ≤ r ∧ r < s.tick + 24 + 32768 ∧ (r - d.from') % 32768 = 0) ∧
          OnlyLaunch n s t ∧ t.tr = s.tr

/-! ### The host -/

/-- R6, R397, R424, R464, R465, R468, R480: a write of 1 clears a bit of FE_HERR unless the hardware sets it in the same tick; register writes of 4 or 8 bytes, naturally aligned, reach the register that they name (BASE only while ENABLE is 0), and any
other is dropped with its FE_HERR bit; reads of 4 or 8 bytes, naturally aligned, return those bytes of the register, and any other gets an Unsupported Request with that bit. R133, R465: BAR2 reads and writes LPDDR 6, AtomicOps only a page whose SYSATOM is 1; a fenced channel answers
Unsupported Request. R463, R467, R468: the PTM registers take the dialogue's ticks; the link goes down, with its FE_HERR bit, and
comes up at a width of 4, 8 or 16 lanes and a rate of 32, 64 or 128 GT/s. -/
def Obligations.HostAccesses : Prop :=
  ∀ s, s.host.bootFailed = false → s.host.powered = true →
    (∀ off size v, ¬ ((size = (4 : BitVec 8) ∨ size = 8) ∧ off.toNat % size.toNat = 0) → Runs s (.registerWrite off size v) fun t =>
      t.host = { s.host with herr := s.host.herr ||| 2, herrNew := s.host.herrNew ||| 2 } ∧ OnlyHost s t) ∧
    (∀ (q : QueueIx) (v : Word), Runs s (.registerWrite (BitVec.ofNat 16 (64 * q.val + 0x18)) 8 v) fun t =>
      (∃ w, t.fe.queues[q] = { s.fe.queues[q] with tail := v.setWidth 24, tailWas := w }) ∧ (∀ p, p ≠ q → t.fe.queues[p] = s.fe.queues[p]) ∧
      SameMachine s t ∧ t.tr = s.tr ∧ t.host = s.host) ∧
    (∀ (q : QueueIx) (v : Word), Runs s (.registerWrite (BitVec.ofNat 16 (64 * q.val)) 8 v) fun t =>
      t.fe.queues[q] = { s.fe.queues[q] with base := if s.fe.queues[q].enable then s.fe.queues[q].base else v.setWidth 56 } ∧
      (∀ p, p ≠ q → t.fe.queues[p] = s.fe.queues[p]) ∧ SameMachine s t ∧ t.tr = s.tr ∧ t.host = s.host) ∧
    (∀ (v : Word), Runs s (.registerWrite 0x400 8 v) fun t =>
      t.fe = { s.fe with pushes := s.fe.pushes ++ [(0, (v.setWidth 6).toFin)] } ∧ SameMachine s t ∧ t.tr = s.tr ∧ t.host = s.host) ∧
    (∀ (v : Word), Runs s (.registerWrite 0x3000 8 v) fun t => t.host = { s.host with herr := (s.host.herr &&& ~~~(v.setWidth 4)) ||| s.host.herrNew } ∧ OnlyHost s t) ∧
    (∀ (v : Word), s.bench = true → Runs s (.registerWrite 0x1018 8 v) fun t =>
      t.tr = { s.tr with post := v.extractLsb' 16 16, tron := v.getLsbD 0 } ∧ SameMachine s t ∧ t.fe = s.fe ∧ t.host = s.host) ∧
    (∀ (v : Word), s.bench = false → exec (.registerWrite 0x1018 8 v) s = .next s) ∧
    (∀ (a : BitVec 37) (n : BitVec 10),
      (s.fencedSpan a.toNat n.toNat = false → s.offSpan a.toNat n.toNat = false → s.ecc = [] → Runs s (.hostBar2Read a n) fun t =>
        t.host = { s.host with replies := s.host.replies ++ [.data (readBytes s.dram a.toNat n.toNat)] } ∧ OnlyHost s t) ∧
      (s.fencedSpan a.toNat n.toNat = true → Runs s (.hostBar2Read a n) fun t =>
        t.host = { s.host with herr := s.host.herr ||| 4, herrNew := s.host.herrNew ||| 4, replies := s.host.replies ++ [.unsupported] } ∧ OnlyHost s t)) ∧
    (∀ (a : BitVec 37) data, s.fencedSpan a.toNat data.length = false → s.offSpan a.toNat data.length = false → s.ecc = [] → s.memWf = true → Runs s (.hostBar2Write a data) fun t =>
      (∀ i (h : i < data.length), readByte t.dram (a.toNat + i) = data[i]) ∧
      (∀ x, x < a.toNat ∨ a.toNat + data.length ≤ x → readByte t.dram x = readByte s.dram x) ∧
      t.cores = s.cores ∧ t.dies = s.dies ∧ t.hostMem = s.hostMem ∧ t.launches = s.launches ∧ t.fe = s.fe ∧ t.tr = s.tr ∧ t.host = s.host) ∧
    (∀ (a : BitVec 37) op (size : BitVec 5) (x y : BitVec 128), s.fencedSpan a.toNat size.toNat = false → s.offSpan a.toNat size.toNat = false → s.ecc = [] → s.memWf = true →
      (s.sysatom a.toNat = false → Runs s (.hostAtomicop a op size x y) fun t =>
        t.host = { s.host with replies := s.host.replies ++ [.unsupported] } ∧ OnlyHost s t) ∧
      (s.sysatom a.toNat = true → Runs s (.hostAtomicop a op size x y) fun t =>
        let old := readLE s.dram a.toNat size.toNat
        let m := 2 ^ (8 * size.toNat)
        readLE t.dram a.toNat size.toNat = (match op with
          | .fetchAdd => (old + x.toNat) % m | .swap => x.toNat % m | .cas => if old = y.toNat % m then x.toNat % m else old) ∧
        (∀ b, b < a.toNat ∨ a.toNat + size.toNat ≤ b → readByte t.dram b = readByte s.dram b) ∧
        t.host = { s.host with replies := s.host.replies ++ [.data (leBytes size.toNat old)] } ∧
        t.cores = s.cores ∧ t.dies = s.dies ∧ t.hostMem = s.hostMem ∧ t.launches = s.launches ∧ t.fe = s.fe ∧ t.tr = s.tr)) ∧
    (∀ t1 t4, Runs s (.ptmDialogue t1 t4) fun t =>
      t.host.ptmT1 = t1 ∧ t.host.ptmT4 = t4 ∧ t.host.herr = s.host.herr ∧ t.host.linkUp = s.host.linkUp ∧ t.host.irqs = s.host.irqs ∧ OnlyHost s t) ∧
    (Runs s .linkDown fun t => t.host = { s.host with linkUp := false, width := 0, rate := 0, herr := s.host.herr ||| 1, herrNew := s.host.herrNew ||| 1 } ∧ OnlyHost s t) ∧
    (∀ w g, (w = 4 ∨ w = 8 ∨ w = 16) → (g = 32 ∨ g = 64 ∨ g = 128) →
      Runs s (.linkTraining w g) fun t => t.host = { s.host with linkUp := true, width := w, rate := g } ∧ OnlyHost s t) ∧
    (∀ w g, ¬ ((w = 4 ∨ w = 8 ∨ w = 16) ∧ (g = 32 ∨ g = 64 ∨ g = 128)) → exec (.linkTraining w g) s = .next s) ∧
    ∀ off n, let t := s.barRead off n
      ((n = 4 ∨ n = 8) ∧ off % n = 0 → t.host = { s.host with replies := s.host.replies ++ [.data (leBytes n (s.bar0 (off / 8 * 8) / 2 ^ (8 * (off % 8))))] } ∧
        SameMachine s t ∧ (s.bench = false ∨ (off ≠ 0x1010 ∧ off ≠ 0x1030) → OnlyHost s t)) ∧
      (¬ ((n = 4 ∨ n = 8) ∧ off % n = 0) →
        t.host = { s.host with herr := s.host.herr ||| 2, herrNew := s.host.herrNew ||| 2, replies := s.host.replies ++ [.unsupported] } ∧ OnlyHost s t)

/-- R43 to R46: a Sync more than 1 ms off steps the wall time in FREE, with its PTPADJ record; the eighth good one in a row locks; eight bad ones leave LOCKED. Four
seconds of edges lead to PPS; where they fail, or Syncs do, HOLDOVER keeps INC, for 60 s. A written INC keeps within its limits and takes effect in the next tick. -/
def Obligations.WallTime : Prop :=
  ∀ s, s.tr.rpActive = false →
    let rest (t : State) : Prop := t.cores = s.cores ∧ t.dies = s.dies ∧ t.dram = s.dram ∧ t.hostMem = s.hostMem ∧ t.launches = s.launches ∧ t.fe = s.fe ∧
      t.host = s.host ∧ t.health = s.health ∧ t.tick = s.tick
    (∀ offset : Int, s.tm.servo = .free → 1000000 < offset.natAbs → Runs s (.ptpSync offset) fun t =>
      t.tm.ns = s.tm.ns + BitVec.ofInt 64 offset ∧ t.tm.inc = s.tm.inc ∧ t.tm.servo = .free ∧ s.logs t [0x0A] ∧ rest t) ∧
    (∀ offset : Int, s.tm.servo = .free ∨ s.tm.servo = .pps → offset.natAbs < 1000 → s.tm.goodSyncs = 7 → Runs s (.ptpSync offset) fun t =>
      t.tm.servo = .locked ∧ t.tm.ns = s.tm.ns ∧ t.tm.incNew.isSome = true ∧ t.tr = s.tr ∧ rest t) ∧
    (∀ offset : Int, s.tm.servo = .locked → 1000000 < offset.natAbs → s.tm.badSyncs = 7 → Runs s (.ptpSync offset) fun t =>
      t.tm.servo = (if s.edgesArrive then .pps else .free) ∧ t.tm.ns = s.tm.ns ∧ (s.edgesArrive = false → t.tm.incNew = some incNominal) ∧ t.tr = s.tr ∧ rest t) ∧
    (s.tm.servo = .free → Runs s .ppsEdge fun t =>
      t.tm.servo = (if s.edgesArrive = true ∧ 3 ≤ s.tm.edges then .pps else .free) ∧ t.tm.lastEdge = some s.tick ∧ t.tm.ns = s.tm.ns ∧ t.tr = s.tr ∧ rest t) ∧
    (s.holdoverDue = true → Runs s .holdover fun t =>
      t.tm.servo = .holdover ∧ t.tm.holdFrom = s.tick ∧ t.tm.inc = s.tm.inc ∧ t.tm.incNew = s.tm.incNew ∧ t.tm.ns = s.tm.ns ∧ t.tr = s.tr ∧ rest t) ∧
    (s.expiryDue = true → Runs s .holdoverExpiry fun t => t.tm.servo = .free ∧ t.tm.incNew = some incNominal ∧ t.tm.ns = s.tm.ns ∧ t.tr = s.tr ∧ rest t) ∧
    ∀ v : BitVec 40, Runs s (.incWrite v) fun t =>
      (∃ w, t.tm = { s.tm with incNew := some w } ∧ incNominal.toNat - 1130255 ≤ w.toNat ∧ w.toNat ≤ incNominal.toNat + 1130255 ∧
        (incNominal.toNat - 1130255 ≤ v.toNat → v.toNat ≤ incNominal.toNat + 1130255 → w = v)) ∧ t.tr = s.tr ∧ rest t

/-! ### Health, monitor, boot -/

/-- R38 to R40, R62, R473, R475: a defective core, a fenced channel, a lost module and a lost link enter the degradation state with their HEALTH record, a core that a launch
holds as marked; a lost link cancels every launch that spans it; a lane takes a spare of its module, with a repair step, and without one the module is lost, while after a loss of a module in the same tick it changes nothing; heat asks for its throttle level, which steps back when it has been cool, and
at 115 degrees trips, the work dies going off; the safety monitor's request asks every running launch for its safe mode; the heartbeat toggles. -/
def Obligations.Degradation : Prop :=
  ∀ s : State,
    (∀ c, Runs s (.coreMarkedDefective c) fun t =>
      t.health = (if s.coreHeld c then { s.health with marked := s.health.marked ||| BitVec.ofNat 64 (2 ^ c.val) }
        else { s.health with defective := s.health.defective ||| BitVec.ofNat 64 (2 ^ c.val) }) ∧ s.logs t [0x11] ∧ t.cores = s.cores ∧ t.launches = s.launches ∧
      t.dram = s.dram ∧ t.hostMem = s.hostMem) ∧
    (∀ ch, Runs s (.channelFenced ch) fun t =>
      t.health = { s.health with fenced := s.health.fenced ||| BitVec.ofNat 32 (2 ^ ch.val) } ∧ s.logs t [0x11] ∧ t.fe = s.fe ∧
      t.launches = s.launches.map (fun l => { l with chmaskNew := true }) ∧ t.cores = s.cores ∧ t.dram = s.dram ∧ t.hostMem = s.hostMem) ∧
    (∀ link, s.health.modules[link] ≠ 0 → (∀ l ∈ s.launches, l.spans link = false) →
      (Runs s (.ucieModuleLost link) fun t =>
        t.health = { s.health with modules := s.health.modules.set link (s.health.modules[link] - 1), dropNow := s.health.dropNow ||| BitVec.ofNat 8 (2 ^ link.val),
                                   spares := s.health.spares.set link (dropModule s.health.spares[link] (s.struck link)) } ∧
        s.logs t [0x11] ∧ t.cores = s.cores ∧ t.launches = s.launches ∧ t.dram = s.dram ∧ t.hostMem = s.hostMem) ∧
      (s.health.dropNow.getLsbD link = true → exec (.ucieLaneLost link) s = .next s) ∧
      (s.health.dropNow.getLsbD link = false → ¬ s.health.spares[link][s.struck link].toNat < 4 → exec (.ucieLaneLost link) s = exec (.ucieModuleLost link) s) ∧
      (s.health.dropNow.getLsbD link = false → s.health.spares[link][s.struck link].toNat < 4 → Runs s (.ucieLaneLost link) fun t =>
        t.health = { s.health with spares := s.health.spares.set link (s.health.spares[link].set (s.struck link) (s.health.spares[link][s.struck link] + 1)) } ∧ s.logs t [0x11] ∧ t.cores = s.cores ∧
        t.host.retrain[link].toNat = min (s.host.retrain[link].toNat + 1) 0xFFFFFFFF)) ∧
    (∀ link n l, s.launch? n = some l → l.cls = none → l.spans link = true → Runs s (.interDieLinkLost link) fun t =>
      t.launch? n = none ∧ t.health.linkLost = s.health.linkLost ||| BitVec.ofNat 8 (2 ^ link.val)) ∧
    (∀ c, s.tr.rpActive = false → c < 115 → levelFor c ≤ s.host.level.toNat → Runs s (.thermalEvent c) fun t =>
      t.host.celsius = c ∧ t.host.level = s.host.level ∧ t.cores = s.cores ∧ t.launches = s.launches ∧ t.todo = s.todo ∧ t.tr = s.tr) ∧
    (s.launches = [] → s.stepBackDue = true → Runs s .throttleStepBack fun t =>
      t.host.level = s.host.level - 1 ∧ t.fe = s.fe ∧ t.cores = s.cores ∧ t.tr = s.tr) ∧
    (115 ≤ s.host.celsius → s.host.tripped = false → s.launches = [] → Runs s .thermalTrip fun t =>
      t.host.therm = true ∧ t.host.tripped = true ∧ (∀ d : Fin 4, t.host.dieOff.getLsbD d = true) ∧ (∀ c, t.core c = .init) ∧ (∀ d : Fin 4, t.dies[d].pantry = [] ∧ t.dies[d].mail = []) ∧
      (∀ x < 2 ^ 37, readByte t.dram x = 0) ∧ t.hostMem = s.hostMem ∧ t.health = s.health ∧ t.tr = s.tr ∧
      (if s.host.msix[17].ctrl.getLsbD 0 then t.host.pba.getLsbD 17 = true else t.host.irqs = s.host.irqs ++ [17])) ∧
    (∀ n l u k, s.mreqDue = true → s.tr.rpActive = false → s.launches = [l] → s.launch? n = some l → l.stage ≠ .placed → l.cls = none → l.set? = some u →
      l.setFor u.safemode (l.pendLevel.getD l.current.2) s.chmask = some k → l.pendMode = none → l.urgentFrom = none → l.urgentAt = none →
      Runs s .safetyModeRequest fun t =>
        t.host = { s.host with mreq := true } ∧
        t.launch? n = some { l with pendMode := some ⟨u.safemode, true, 2, s.tick⟩, urgentAt := some (s.tick + 24) } ∧ t.cores = s.cores ∧ t.tr = s.tr) ∧
    (s.host.mreqPin = false → s.host.mreq = true → Runs s .smonMreqLow fun t => t.host = { s.host with mreq := false, mreqZero := 0 } ∧ OnlyHost s t) ∧
    (s.tick % 2 ^ 20 = 0 → s.tick ≠ 0 → Runs s .heartbeatToggle fun t =>
      t.host.hb = (if s.host.watchdog[7] then !s.host.hb else s.host.hb) ∧ (∀ k : Fin 8, t.host.watchdog[k] = true) ∧ OnlyHost s t) ∧
    ∀ k : Fin 8, Runs s (.watchdogMiss k) fun t => t.host = { s.host with wdog := true, smonNew := s.host.smonNew ||| 4, watchdog := s.host.watchdog.set k false } ∧ OnlyHost s t

/-- R41, R440, R470 to R472, R474: a module reset brings the tick to 0 and every core to its state after reset, keeps the degradation state and the retained
records, and gives a lifecycle change its effect; the boot then goes through its steps, writing its BOOT record in the fourth, and fails where the firmware image does not verify or is
older than the anti-rollback counter allows, leaving no record. A collapse of the supply loses LPDDR 6. A lifecycle change is written where it
is authorised, from bench to vehicle always. An attestation request is answered; a page that no launch maps is moved. -/
def Obligations.Boot : Prop :=
  ∀ s : State,
    (∀ cause ok, Runs s (.moduleReset cause ok) fun t =>
      t.tick = 0 ∧ t.launches = [] ∧ (∀ c, t.ctx c = .init ∧ (t.core c).launch = 0) ∧ t.fe = .init ∧
      t.health = { s.health with defective := s.health.defective ||| s.health.marked, marked := 0 } ∧ t.tr.retention = s.tr.retention ∧
      t.tr.ring = [] ∧ t.tr.cseq = 0 ∧ t.tr.buffer = [] ∧ t.host.boot = 0 ∧ t.host.bootFailed = false ∧ t.host.bootCause = cause ∧ t.host.signed = ok ∧
      t.host.rollback = s.host.rollback ∧ t.host.version = s.host.version ∧
      t.host.lifecycle = s.host.lifecycleNext.getD s.host.lifecycle ∧ t.host.lifecycleNext = none ∧ t.hostMem = s.hostMem) ∧
    (s.host.boot < 5 → s.host.bootFailed = false → s.host.bootLeft = 0 →
      let t := s.bootTick
      (s.host.boot = 1 → s.host.signed = false ∨ s.host.version < s.host.rollback → t = { s with host := { s.host with bootFailed := true } }) ∧
      (s.host.boot ≠ 1 ∨ (s.host.signed = true ∧ s.host.rollback ≤ s.host.version) →
        t.host.boot = s.host.boot + 1 ∧ t.host.bootFailed = false ∧ s.logs t (if s.host.boot = 3 then [0x15] else []) ∧ SameMachine s t ∧ t.fe = s.fe)) ∧
    (Runs s .supplyCollapse fun t =>
      t.dram = [] ∧ (∀ c, t.core c = .init) ∧ t.launches = [] ∧ t.fe = .init ∧ t.tr.retention = s.tr.retention ∧ t.tr.ring = [] ∧
      t.health = { s.health with defective := s.health.defective ||| s.health.marked, marked := 0 } ∧ t.host.powered = false ∧ t.host.lifecycle = s.host.lifecycle ∧ t.hostMem = s.hostMem) ∧
    (∀ target ok, Runs s (.lifecycleChange target ok) fun t =>
      t.host = (if (s.host.lifecycle = .manufacture ∧ target = .vehicle ∧ ok = true) ∨ (s.host.lifecycle = .vehicle ∧ target = .bench ∧ ok = true) ∨
          (s.host.lifecycle = .bench ∧ target = .vehicle) then { s.host with lifecycleNext := some target } else s.host) ∧ OnlyHost s t) ∧
    (∀ nonce : BitVec 256, Runs s (.attestationRequest nonce) fun t =>
      (∃ q, t.host = { s.host with quotes := s.host.quotes ++ [q] } ∧ q.take 32 = leBytes 32 nonce.toNat ∧ q.length = 249) ∧ OnlyHost s t) ∧
    ∀ (old new : BitVec 56) (size : BitVec 2), s.launches = [] → s.memWf = true → Runs s (.pageMove old new size) fun t =>
      let n := if size = 0 then 2 ^ 19 else if size = 1 then 2 ^ 25 else 2 ^ 30
      (old.toNat + n ≤ new.toNat ∨ new.toNat + n ≤ old.toNat →
        (∀ i < n, readByte t.dram (new.toNat + i) = readByte s.dram (old.toNat + i)) ∧
        ∀ x, x < new.toNat ∨ new.toNat + n ≤ x → readByte t.dram x = readByte s.dram x) ∧
      s.logs t [0x12] ∧ t.cores = s.cores ∧ t.dies = s.dies ∧ t.hostMem = s.hostMem ∧ t.fe = s.fe ∧ t.host = s.host

/-! ### Reset, steps, encodings, invariants -/

/-- R41 to R44, R215, R280, R302, R357, R365 to R367, R397, R460: what module reset leaves, where the manual says it. That barrier units are 0, range tables
and queues empty, and every memory in canonical form, is the model's choice (DESIGN CHOICE, log entries 2 and 3). -/
def Obligations.ResetState : Prop :=
  let s := State.reset
  s.tick = 0 ∧ s.launches = [] ∧
  (∀ c, (s.core c).launch = 0 ∧ (s.ctx c).ranges = [] ∧ (s.ctx c).stoch.streams = Vector.replicate 64 ⟨0, 0, 0⟩ ∧ (s.ctx c).stoch.counts = Vector.replicate 16 0 ∧
    (∀ u : Fin 64, (s.ctx c).barriers[u] = ⟨0, 0, 0⟩) ∧ (∀ k : ChanIx, (s.ctx c).chans[k].done = 0 ∧ (s.ctx c).chans[k].queue = []) ∧
    (∀ r : RegionIx, (s.ctx c).regions[r].active = .zero ∧ (s.ctx c).regions[r].bound = none ∧ (s.ctx c).regions[r].round = none) ∧
    (∀ t : Fin 32, (s.ctx c).matrix.owners[t] = .clear) ∧
    ∀ q, (s.seq c q).run = none ∧ (s.seq c q).act = none ∧ (s.seq c q).trapped = false ∧ (s.seq c q).overrun = false ∧ (s.seq c q).killed = false) ∧
  s.tm.ns = 0 ∧ s.tm.inc = incNominal ∧ s.tm.servo = .free ∧
  (∀ q : QueueIx, s.fe.queues[q].enable = false ∧ s.fe.queues[q].frozen = false ∧ s.fe.queues[q].tail = 0 ∧ s.fe.queues[q].tokens = 0) ∧
  (∀ g : GraphIx, s.fe.graphs[g] = none) ∧ s.tr.wptr = 0 ∧ s.tr.cseq = 0 ∧ s.tr.tron = true ∧ s.tr.pen = false ∧
  s.memWf = true ∧ sparseWf 0 0 s.tr.ring = true

/-- R185, R186, R199, R398: a step executes what is due: the word that stands at its index in the body of the block, where it decodes to a well-formed instruction that
its sequencer may run, and otherwise the response to ILLEGAL; a body is what stood in the block store as its block started; the packet that stands next in its source; an event of the tick; and, with nothing due, the machine goes on. -/
def Obligations.StepRunsDecoded : Prop :=
  (∀ s c q i rest b, s.todo = .fire c q i :: rest → (s.seq c q).run = some b →
    let w := b.word i
    let u : State := { s with todo := rest, focus := ⟨c, q, i⟩ }
    (∀ ins, decodeWord w = .ok ins → ins.wf = true → Instr.allowed q (w.toNat / 2 ^ 25) ins = true → step s = exec ins u) ∧
    (∀ e, decodeWord w = .error e → step s = .next ((u.updRun c q (·.raise (illegal 0 i.val 0))).settleTrap c q))) ∧
  (∀ (s : State) c q (a : BitVec 24) g i, i ≤ (s.openBlock c a q g).len →
    (s.openBlock c a q g).word i = BitVec.ofNat 32 (readLE (s.core c).blockStore ((a.toNat + 32 + 4 * i) % 2 ^ 18) 4)) ∧
  (∀ s src rest i u, s.todo = .packet src :: rest → ({ s with todo := rest } : State).fetch (.packet src) = (u, some i) →
    step s = exec i u ∧ u.source = src ∧ packetOf (u.packetWords src) = some i ∧ i.wf = true) ∧
  (∀ s i rest, s.todo = .event i :: rest → step s = exec i { s with todo := rest }) ∧
  ∀ s, s.todo = [] → step s = .next s.advance

/-- R172, R177, R178, R191, R219, R231, R251, R305, R337, R379, R403: words and packets written out from their encodings decode to the instructions they stand for. -/
def Obligations.WordEncodings : Prop :=
  decodeTableWord 32 0x010271F0 = some (.add .onTrue (.gate 19) (.left 31)) ∧
  decodeTableWord 32 0x011A71F0 = some (.divu .onTrue (.gate 19) (.left 31)) ∧
  decodeTableWord 32 0x0204D850 = some (.popcnt .always (.slot 6) (.left 5)) ∧
  decodeTableWord 32 0x040CD850 = some (.tltu .always (.slot 6) (.left 5)) ∧
  decodeTableWord 32 0x07C007E4 = some (.addi .onFalse 8195 (.right 30)) ∧
  decodeTableWord 32 0x1400466C = some (.srai .always 35 (.slot 6)) ∧
  decodeTableWord 32 0x27000250 = some (.const 32769 (.left 5)) ∧
  decodeTableWord 32 0x2C1E879C = some (.fan3 (.left 7) (.slot 3) (.gate 30)) ∧
  decodeTableWord 32 0x2EFBFF4E = some (.fan4 (.left 7) (.right 30) .null (.left 31)) ∧
  decodeTableWord 32 0x324007FF = some (.wrcr .always 8195) ∧
  decodeTableWord 32 0x69CE0B38 = some (.ldQ .onFalse 19 261 (.gate 19)) ∧
  decodeTableWord 32 0x6FCE0BFF = some (.stW .onFalse 19 261) ∧
  decodeTableWord 32 0x75D8D907 = some (.ldpw .onFalse 5 .b8 263 (.slot 6)) ∧
  decodeTableWord 32 0x7707FE13 = some (.amoaddD .onTrue 19 .null) ∧
  decodeTableWord 32 0x76203811 = some (.amocasW 17 (.slot 1)) ∧
  decodeTableWord 32 0x7808A013 = some (.waitw .always 19 (.left 5)) ∧
  decodeTableWord 32 0x7A580005 = some (.bro .always 5 524293) ∧
  decodeTableWord 32 0x7FA7FE05 = some (.nullw .onFalse 5) ∧
  decodeTableWord 32 0x830FFF05 = some (.cp2 .onTrue 3 261) ∧
  decodeTableWord 32 0x93027083 = some (.cpchk .onTrue 131 (.gate 19)) ∧
  decodeTableWord 32 0x99CFFE00 = some (.trec .onFalse 19) ∧
  decodeTableWord 32 0xA383FE0B = some (.cfgld .onFalse 11) ∧
  decodeTableWord 32 0xB000D807 = some (.lwait .always 3 true (.slot 6)) ∧
  decodeTableWord 32 0xC7CFFFF5 = some (.mmaw .onFalse .e5m2 21 15 3) ∧
  decodeTableWord 32 0xC803FE53 = some (.mchainB .always 19 .rup false) ∧
  decodeTableWord 32 0xE3AFFEE9 = some (.sgen .onFalse 11 false 3 41) ∧
  decodeTableWord 32 0xE5EFFFE9 = some (.b2sv .onFalse 11 true 3 41) ∧
  -- the packets at 0x20, 0x58 and 0x70 of the worked example of the front end (R398 to R408), written header first
  decodePacket 0x0000000000000406 [0x0000000003000000, 0x0000000000010000, 1, 0] = .ok (.pkSignal 0 0x3000000 0x10000 .add false false 0 0) ∧
  decodePacket 0x0000000000000202 [0x0000000002001000, 8] = .ok (.pkIb 0 0x2001000 8) ∧
  decodePacket 0x0000000000000406 [0x00000000020000B0, 2, 0, 0] = .ok (.pkSignal 0 0x20000B0 2 .write false false 0 0)

/-- R177 to R179: every well-formed instruction that has a word is what its word decodes to, and a word that decodes is the word of the instruction it decodes to. -/
def Obligations.WordsRoundTrip : Prop :=
  (∀ i w, i.wf = true → encodeWord i = some w → decodeWord w = .ok i) ∧ ∀ w i, decodeWord w = .ok i → encodeWord i = some w

/-- R191 to R193, R403: every well-formed instruction that has a packet is what its packet decodes to, header and payload. -/
def Obligations.PacketsRoundTrip : Prop :=
  ∀ i h pl, i.wf = true → encodePacket i = some (h :: pl) → decodePacket h pl = .ok i ∧ (h.extractLsb' 8 8).toNat = pl.length

/-- Every step keeps every memory in canonical form, so that equal memories are equal data, and the trace ring likewise. The form is the model's own (DESIGN CHOICE, log entry 2). -/
def Obligations.MemoryInvariant : Prop :=
  ∀ s t, step s = .next t → (s.memWf = true → t.memWf = true) ∧ (sparseWf 0 0 s.tr.ring = true → sparseWf 0 0 t.tr.ring = true)
end

