-- ==== Sys2Proof/Laws/Encoding.lean ====
section
/-! SUPPORT. Reading back what the encoder writes, field by field: predicates, targets, codes and the cut of a word. -/

namespace Sys2Proof

/-- A word cut into its fields and put together again is the same word. -/
@[simp] theorem Raw.toWord_ofWord (w : BitVec 32) : (Raw.ofWord w).toWord = w := by
  apply BitVec.eq_of_getLsbD_eq
  intro i hi
  simp only [Raw.ofWord, Raw.toWord, BitVec.getLsbD_append, BitVec.getLsbD_extractLsb']
  (repeat' split) <;> first | (simp only [*, decide_true, Bool.true_and, Nat.zero_add]; done) | (rw [decide_eq_true (by omega), Bool.true_and]; congr 1; omega)

/-- The fields of a word put together from fields. -/
@[simp] theorem Raw.ofWord_toWord (r : Raw) : Raw.ofWord r.toWord = r := by
  obtain ⟨m, p, x, h, l⟩ := r
  simp only [Raw.ofWord, Raw.toWord, Raw.mk.injEq]
  refine ⟨?_, ?_, ?_, ?_, ?_⟩ <;>
  · apply BitVec.eq_of_getLsbD_eq
    intro i hi
    simp only [BitVec.getLsbD_append, BitVec.getLsbD_extractLsb']
    (repeat' split) <;> first | (exfalso; omega) | (simp only [hi, decide_true, Bool.true_and]; congr 1; omega)

@[simp] theorem decodePred_encodePred (p : Pred) : decodePred (encodePred p) = .ok p := by cases p <;> rfl

@[simp] theorem decodeTarget_encodeTarget (t : Target) : decodeTarget (encodeTarget t) = .ok t := by
  cases t with
  | null => rfl
  | left i => revert i; decide
  | right i => revert i; decide
  | gate i => revert i; decide
  | slot w => revert w; decide

@[simp] theorem decodeTarget7_encodeTarget7 (t : Target) : decodeTarget7 (encodeTarget7 t) = .ok t := by
  cases t with
  | null => rfl
  | left i => revert i; decide
  | right i => revert i; decide
  | gate i => revert i; decide
  | slot w => revert w; decide

theorem decodeTarget6_encodeTarget6 (t : Target) (h : t.compact = true) : decodeTarget6 (encodeTarget6 t) = t := by
  cases t with
  | null => rfl
  | left i => revert i; decide
  | right i => revert i; decide
  | gate i => cases h
  | slot w => cases h

@[simp] theorem MmaFmt.ofCode_code (f : MmaFmt) : MmaFmt.ofCode f.code = some f := by cases f <;> rfl
@[simp] theorem Fmt.ofCode_code (f : Fmt) : Fmt.ofCode f.code = some f := by cases f <;> rfl
@[simp] theorem Round.ofCode_code (f : Round) : Round.ofCode f.code = some f := by cases f <;> rfl
@[simp] theorem WinSize.ofCode_code (f : WinSize) : WinSize.ofCode f.code = f := by cases f <;> rfl
@[simp] theorem Cond.ofCode_code (f : Cond) : Cond.ofCode f.code = some f := by cases f <;> rfl

end Sys2Proof
end

