-- ==== Sys2Proof/Laws/State.lean ====
section
/-! SUPPORT. What each update of the state leaves alone: one lemma per field and update; then what it reads back as. -/

namespace Sys2Proof.Machine

/-- A record changes nothing but the trace engine. -/
theorem State.record_only (s : State) (r : Rec) : s.record r = { s with tr := (s.record r).tr } := rfl

@[simp] theorem State.setCore_tick (s : State) (c : CoreIx) (x : CoreState) : (s.setCore c x).tick = s.tick := rfl
@[simp] theorem State.setCore_dies (s : State) (c : CoreIx) (x : CoreState) : (s.setCore c x).dies = s.dies := rfl
@[simp] theorem State.setCore_dram (s : State) (c : CoreIx) (x : CoreState) : (s.setCore c x).dram = s.dram := rfl
@[simp] theorem State.setCore_hostMem (s : State) (c : CoreIx) (x : CoreState) : (s.setCore c x).hostMem = s.hostMem := rfl
@[simp] theorem State.setCore_launches (s : State) (c : CoreIx) (x : CoreState) : (s.setCore c x).launches = s.launches := rfl
@[simp] theorem State.setCore_fe (s : State) (c : CoreIx) (x : CoreState) : (s.setCore c x).fe = s.fe := rfl
@[simp] theorem State.setCore_tr (s : State) (c : CoreIx) (x : CoreState) : (s.setCore c x).tr = s.tr := rfl
@[simp] theorem State.setCore_tm (s : State) (c : CoreIx) (x : CoreState) : (s.setCore c x).tm = s.tm := rfl
@[simp] theorem State.setCore_host (s : State) (c : CoreIx) (x : CoreState) : (s.setCore c x).host = s.host := rfl
@[simp] theorem State.setCore_health (s : State) (c : CoreIx) (x : CoreState) : (s.setCore c x).health = s.health := rfl
@[simp] theorem State.setCore_ecc (s : State) (c : CoreIx) (x : CoreState) : (s.setCore c x).ecc = s.ecc := rfl
@[simp] theorem State.setCore_phase (s : State) (c : CoreIx) (x : CoreState) : (s.setCore c x).phase = s.phase := rfl
@[simp] theorem State.setCore_todo (s : State) (c : CoreIx) (x : CoreState) : (s.setCore c x).todo = s.todo := rfl
@[simp] theorem State.setCore_focus (s : State) (c : CoreIx) (x : CoreState) : (s.setCore c x).focus = s.focus := rfl
@[simp] theorem State.setCore_source (s : State) (c : CoreIx) (x : CoreState) : (s.setCore c x).source = s.source := rfl
@[simp] theorem State.setCore_packetAt (s : State) (c : CoreIx) (x : CoreState) : (s.setCore c x).packetAt = s.packetAt := rfl
@[simp] theorem State.setCore_inputs (s : State) (c : CoreIx) (x : CoreState) : (s.setCore c x).inputs = s.inputs := rfl
@[simp] theorem State.setCore_faults (s : State) (c : CoreIx) (x : CoreState) : (s.setCore c x).faults = s.faults := rfl
@[simp] theorem State.setCore_sides (s : State) (c : CoreIx) (x : CoreState) : (s.setCore c x).sides = s.sides := rfl
@[simp] theorem State.setCore_fresh (s : State) (c : CoreIx) (x : CoreState) : (s.setCore c x).fresh = s.fresh := rfl

@[simp] theorem State.updCore_tick (s : State) (c : CoreIx) (f : CoreState → CoreState) : (s.updCore c f).tick = s.tick := rfl
@[simp] theorem State.updCore_dies (s : State) (c : CoreIx) (f : CoreState → CoreState) : (s.updCore c f).dies = s.dies := rfl
@[simp] theorem State.updCore_dram (s : State) (c : CoreIx) (f : CoreState → CoreState) : (s.updCore c f).dram = s.dram := rfl
@[simp] theorem State.updCore_hostMem (s : State) (c : CoreIx) (f : CoreState → CoreState) : (s.updCore c f).hostMem = s.hostMem := rfl
@[simp] theorem State.updCore_launches (s : State) (c : CoreIx) (f : CoreState → CoreState) : (s.updCore c f).launches = s.launches := rfl
@[simp] theorem State.updCore_fe (s : State) (c : CoreIx) (f : CoreState → CoreState) : (s.updCore c f).fe = s.fe := rfl
@[simp] theorem State.updCore_tr (s : State) (c : CoreIx) (f : CoreState → CoreState) : (s.updCore c f).tr = s.tr := rfl
@[simp] theorem State.updCore_tm (s : State) (c : CoreIx) (f : CoreState → CoreState) : (s.updCore c f).tm = s.tm := rfl
@[simp] theorem State.updCore_host (s : State) (c : CoreIx) (f : CoreState → CoreState) : (s.updCore c f).host = s.host := rfl
@[simp] theorem State.updCore_health (s : State) (c : CoreIx) (f : CoreState → CoreState) : (s.updCore c f).health = s.health := rfl
@[simp] theorem State.updCore_ecc (s : State) (c : CoreIx) (f : CoreState → CoreState) : (s.updCore c f).ecc = s.ecc := rfl
@[simp] theorem State.updCore_phase (s : State) (c : CoreIx) (f : CoreState → CoreState) : (s.updCore c f).phase = s.phase := rfl
@[simp] theorem State.updCore_todo (s : State) (c : CoreIx) (f : CoreState → CoreState) : (s.updCore c f).todo = s.todo := rfl
@[simp] theorem State.updCore_focus (s : State) (c : CoreIx) (f : CoreState → CoreState) : (s.updCore c f).focus = s.focus := rfl
@[simp] theorem State.updCore_source (s : State) (c : CoreIx) (f : CoreState → CoreState) : (s.updCore c f).source = s.source := rfl
@[simp] theorem State.updCore_packetAt (s : State) (c : CoreIx) (f : CoreState → CoreState) : (s.updCore c f).packetAt = s.packetAt := rfl
@[simp] theorem State.updCore_inputs (s : State) (c : CoreIx) (f : CoreState → CoreState) : (s.updCore c f).inputs = s.inputs := rfl
@[simp] theorem State.updCore_faults (s : State) (c : CoreIx) (f : CoreState → CoreState) : (s.updCore c f).faults = s.faults := rfl
@[simp] theorem State.updCore_sides (s : State) (c : CoreIx) (f : CoreState → CoreState) : (s.updCore c f).sides = s.sides := rfl
@[simp] theorem State.updCore_fresh (s : State) (c : CoreIx) (f : CoreState → CoreState) : (s.updCore c f).fresh = s.fresh := rfl

@[simp] theorem State.updCtx_tick (s : State) (c : CoreIx) (f : CoreCtx → CoreCtx) : (s.updCtx c f).tick = s.tick := rfl
@[simp] theorem State.updCtx_dies (s : State) (c : CoreIx) (f : CoreCtx → CoreCtx) : (s.updCtx c f).dies = s.dies := rfl
@[simp] theorem State.updCtx_dram (s : State) (c : CoreIx) (f : CoreCtx → CoreCtx) : (s.updCtx c f).dram = s.dram := rfl
@[simp] theorem State.updCtx_hostMem (s : State) (c : CoreIx) (f : CoreCtx → CoreCtx) : (s.updCtx c f).hostMem = s.hostMem := rfl
@[simp] theorem State.updCtx_launches (s : State) (c : CoreIx) (f : CoreCtx → CoreCtx) : (s.updCtx c f).launches = s.launches := rfl
@[simp] theorem State.updCtx_fe (s : State) (c : CoreIx) (f : CoreCtx → CoreCtx) : (s.updCtx c f).fe = s.fe := rfl
@[simp] theorem State.updCtx_tr (s : State) (c : CoreIx) (f : CoreCtx → CoreCtx) : (s.updCtx c f).tr = s.tr := rfl
@[simp] theorem State.updCtx_tm (s : State) (c : CoreIx) (f : CoreCtx → CoreCtx) : (s.updCtx c f).tm = s.tm := rfl
@[simp] theorem State.updCtx_host (s : State) (c : CoreIx) (f : CoreCtx → CoreCtx) : (s.updCtx c f).host = s.host := rfl
@[simp] theorem State.updCtx_health (s : State) (c : CoreIx) (f : CoreCtx → CoreCtx) : (s.updCtx c f).health = s.health := rfl
@[simp] theorem State.updCtx_ecc (s : State) (c : CoreIx) (f : CoreCtx → CoreCtx) : (s.updCtx c f).ecc = s.ecc := rfl
@[simp] theorem State.updCtx_phase (s : State) (c : CoreIx) (f : CoreCtx → CoreCtx) : (s.updCtx c f).phase = s.phase := rfl
@[simp] theorem State.updCtx_todo (s : State) (c : CoreIx) (f : CoreCtx → CoreCtx) : (s.updCtx c f).todo = s.todo := rfl
@[simp] theorem State.updCtx_focus (s : State) (c : CoreIx) (f : CoreCtx → CoreCtx) : (s.updCtx c f).focus = s.focus := rfl
@[simp] theorem State.updCtx_source (s : State) (c : CoreIx) (f : CoreCtx → CoreCtx) : (s.updCtx c f).source = s.source := rfl
@[simp] theorem State.updCtx_packetAt (s : State) (c : CoreIx) (f : CoreCtx → CoreCtx) : (s.updCtx c f).packetAt = s.packetAt := rfl
@[simp] theorem State.updCtx_inputs (s : State) (c : CoreIx) (f : CoreCtx → CoreCtx) : (s.updCtx c f).inputs = s.inputs := rfl
@[simp] theorem State.updCtx_faults (s : State) (c : CoreIx) (f : CoreCtx → CoreCtx) : (s.updCtx c f).faults = s.faults := rfl
@[simp] theorem State.updCtx_sides (s : State) (c : CoreIx) (f : CoreCtx → CoreCtx) : (s.updCtx c f).sides = s.sides := rfl
@[simp] theorem State.updCtx_fresh (s : State) (c : CoreIx) (f : CoreCtx → CoreCtx) : (s.updCtx c f).fresh = s.fresh := rfl

@[simp] theorem State.updSeq_tick (s : State) (c : CoreIx) (q : SeqIx) (f : SeqState → SeqState) : (s.updSeq c q f).tick = s.tick := rfl
@[simp] theorem State.updSeq_dies (s : State) (c : CoreIx) (q : SeqIx) (f : SeqState → SeqState) : (s.updSeq c q f).dies = s.dies := rfl
@[simp] theorem State.updSeq_dram (s : State) (c : CoreIx) (q : SeqIx) (f : SeqState → SeqState) : (s.updSeq c q f).dram = s.dram := rfl
@[simp] theorem State.updSeq_hostMem (s : State) (c : CoreIx) (q : SeqIx) (f : SeqState → SeqState) : (s.updSeq c q f).hostMem = s.hostMem := rfl
@[simp] theorem State.updSeq_launches (s : State) (c : CoreIx) (q : SeqIx) (f : SeqState → SeqState) : (s.updSeq c q f).launches = s.launches := rfl
@[simp] theorem State.updSeq_fe (s : State) (c : CoreIx) (q : SeqIx) (f : SeqState → SeqState) : (s.updSeq c q f).fe = s.fe := rfl
@[simp] theorem State.updSeq_tr (s : State) (c : CoreIx) (q : SeqIx) (f : SeqState → SeqState) : (s.updSeq c q f).tr = s.tr := rfl
@[simp] theorem State.updSeq_tm (s : State) (c : CoreIx) (q : SeqIx) (f : SeqState → SeqState) : (s.updSeq c q f).tm = s.tm := rfl
@[simp] theorem State.updSeq_host (s : State) (c : CoreIx) (q : SeqIx) (f : SeqState → SeqState) : (s.updSeq c q f).host = s.host := rfl
@[simp] theorem State.updSeq_health (s : State) (c : CoreIx) (q : SeqIx) (f : SeqState → SeqState) : (s.updSeq c q f).health = s.health := rfl
@[simp] theorem State.updSeq_ecc (s : State) (c : CoreIx) (q : SeqIx) (f : SeqState → SeqState) : (s.updSeq c q f).ecc = s.ecc := rfl
@[simp] theorem State.updSeq_phase (s : State) (c : CoreIx) (q : SeqIx) (f : SeqState → SeqState) : (s.updSeq c q f).phase = s.phase := rfl
@[simp] theorem State.updSeq_todo (s : State) (c : CoreIx) (q : SeqIx) (f : SeqState → SeqState) : (s.updSeq c q f).todo = s.todo := rfl
@[simp] theorem State.updSeq_focus (s : State) (c : CoreIx) (q : SeqIx) (f : SeqState → SeqState) : (s.updSeq c q f).focus = s.focus := rfl
@[simp] theorem State.updSeq_source (s : State) (c : CoreIx) (q : SeqIx) (f : SeqState → SeqState) : (s.updSeq c q f).source = s.source := rfl
@[simp] theorem State.updSeq_packetAt (s : State) (c : CoreIx) (q : SeqIx) (f : SeqState → SeqState) : (s.updSeq c q f).packetAt = s.packetAt := rfl
@[simp] theorem State.updSeq_inputs (s : State) (c : CoreIx) (q : SeqIx) (f : SeqState → SeqState) : (s.updSeq c q f).inputs = s.inputs := rfl
@[simp] theorem State.updSeq_faults (s : State) (c : CoreIx) (q : SeqIx) (f : SeqState → SeqState) : (s.updSeq c q f).faults = s.faults := rfl
@[simp] theorem State.updSeq_sides (s : State) (c : CoreIx) (q : SeqIx) (f : SeqState → SeqState) : (s.updSeq c q f).sides = s.sides := rfl
@[simp] theorem State.updSeq_fresh (s : State) (c : CoreIx) (q : SeqIx) (f : SeqState → SeqState) : (s.updSeq c q f).fresh = s.fresh := rfl

@[simp] theorem State.updRun_tick (s : State) (c : CoreIx) (q : SeqIx) (f : BlockRun → BlockRun) : (s.updRun c q f).tick = s.tick := rfl
@[simp] theorem State.updRun_dies (s : State) (c : CoreIx) (q : SeqIx) (f : BlockRun → BlockRun) : (s.updRun c q f).dies = s.dies := rfl
@[simp] theorem State.updRun_dram (s : State) (c : CoreIx) (q : SeqIx) (f : BlockRun → BlockRun) : (s.updRun c q f).dram = s.dram := rfl
@[simp] theorem State.updRun_hostMem (s : State) (c : CoreIx) (q : SeqIx) (f : BlockRun → BlockRun) : (s.updRun c q f).hostMem = s.hostMem := rfl
@[simp] theorem State.updRun_launches (s : State) (c : CoreIx) (q : SeqIx) (f : BlockRun → BlockRun) : (s.updRun c q f).launches = s.launches := rfl
@[simp] theorem State.updRun_fe (s : State) (c : CoreIx) (q : SeqIx) (f : BlockRun → BlockRun) : (s.updRun c q f).fe = s.fe := rfl
@[simp] theorem State.updRun_tr (s : State) (c : CoreIx) (q : SeqIx) (f : BlockRun → BlockRun) : (s.updRun c q f).tr = s.tr := rfl
@[simp] theorem State.updRun_tm (s : State) (c : CoreIx) (q : SeqIx) (f : BlockRun → BlockRun) : (s.updRun c q f).tm = s.tm := rfl
@[simp] theorem State.updRun_host (s : State) (c : CoreIx) (q : SeqIx) (f : BlockRun → BlockRun) : (s.updRun c q f).host = s.host := rfl
@[simp] theorem State.updRun_health (s : State) (c : CoreIx) (q : SeqIx) (f : BlockRun → BlockRun) : (s.updRun c q f).health = s.health := rfl
@[simp] theorem State.updRun_ecc (s : State) (c : CoreIx) (q : SeqIx) (f : BlockRun → BlockRun) : (s.updRun c q f).ecc = s.ecc := rfl
@[simp] theorem State.updRun_phase (s : State) (c : CoreIx) (q : SeqIx) (f : BlockRun → BlockRun) : (s.updRun c q f).phase = s.phase := rfl
@[simp] theorem State.updRun_todo (s : State) (c : CoreIx) (q : SeqIx) (f : BlockRun → BlockRun) : (s.updRun c q f).todo = s.todo := rfl
@[simp] theorem State.updRun_focus (s : State) (c : CoreIx) (q : SeqIx) (f : BlockRun → BlockRun) : (s.updRun c q f).focus = s.focus := rfl
@[simp] theorem State.updRun_source (s : State) (c : CoreIx) (q : SeqIx) (f : BlockRun → BlockRun) : (s.updRun c q f).source = s.source := rfl
@[simp] theorem State.updRun_packetAt (s : State) (c : CoreIx) (q : SeqIx) (f : BlockRun → BlockRun) : (s.updRun c q f).packetAt = s.packetAt := rfl
@[simp] theorem State.updRun_inputs (s : State) (c : CoreIx) (q : SeqIx) (f : BlockRun → BlockRun) : (s.updRun c q f).inputs = s.inputs := rfl
@[simp] theorem State.updRun_faults (s : State) (c : CoreIx) (q : SeqIx) (f : BlockRun → BlockRun) : (s.updRun c q f).faults = s.faults := rfl
@[simp] theorem State.updRun_sides (s : State) (c : CoreIx) (q : SeqIx) (f : BlockRun → BlockRun) : (s.updRun c q f).sides = s.sides := rfl
@[simp] theorem State.updRun_fresh (s : State) (c : CoreIx) (q : SeqIx) (f : BlockRun → BlockRun) : (s.updRun c q f).fresh = s.fresh := rfl

@[simp] theorem State.updChan_tick (s : State) (c : CoreIx) (ch : ChanIx) (f : CopyChan → CopyChan) : (s.updChan c ch f).tick = s.tick := rfl
@[simp] theorem State.updChan_dies (s : State) (c : CoreIx) (ch : ChanIx) (f : CopyChan → CopyChan) : (s.updChan c ch f).dies = s.dies := rfl
@[simp] theorem State.updChan_dram (s : State) (c : CoreIx) (ch : ChanIx) (f : CopyChan → CopyChan) : (s.updChan c ch f).dram = s.dram := rfl
@[simp] theorem State.updChan_hostMem (s : State) (c : CoreIx) (ch : ChanIx) (f : CopyChan → CopyChan) : (s.updChan c ch f).hostMem = s.hostMem := rfl
@[simp] theorem State.updChan_launches (s : State) (c : CoreIx) (ch : ChanIx) (f : CopyChan → CopyChan) : (s.updChan c ch f).launches = s.launches := rfl
@[simp] theorem State.updChan_fe (s : State) (c : CoreIx) (ch : ChanIx) (f : CopyChan → CopyChan) : (s.updChan c ch f).fe = s.fe := rfl
@[simp] theorem State.updChan_tr (s : State) (c : CoreIx) (ch : ChanIx) (f : CopyChan → CopyChan) : (s.updChan c ch f).tr = s.tr := rfl
@[simp] theorem State.updChan_tm (s : State) (c : CoreIx) (ch : ChanIx) (f : CopyChan → CopyChan) : (s.updChan c ch f).tm = s.tm := rfl
@[simp] theorem State.updChan_host (s : State) (c : CoreIx) (ch : ChanIx) (f : CopyChan → CopyChan) : (s.updChan c ch f).host = s.host := rfl
@[simp] theorem State.updChan_health (s : State) (c : CoreIx) (ch : ChanIx) (f : CopyChan → CopyChan) : (s.updChan c ch f).health = s.health := rfl
@[simp] theorem State.updChan_ecc (s : State) (c : CoreIx) (ch : ChanIx) (f : CopyChan → CopyChan) : (s.updChan c ch f).ecc = s.ecc := rfl
@[simp] theorem State.updChan_phase (s : State) (c : CoreIx) (ch : ChanIx) (f : CopyChan → CopyChan) : (s.updChan c ch f).phase = s.phase := rfl
@[simp] theorem State.updChan_todo (s : State) (c : CoreIx) (ch : ChanIx) (f : CopyChan → CopyChan) : (s.updChan c ch f).todo = s.todo := rfl
@[simp] theorem State.updChan_focus (s : State) (c : CoreIx) (ch : ChanIx) (f : CopyChan → CopyChan) : (s.updChan c ch f).focus = s.focus := rfl
@[simp] theorem State.updChan_source (s : State) (c : CoreIx) (ch : ChanIx) (f : CopyChan → CopyChan) : (s.updChan c ch f).source = s.source := rfl
@[simp] theorem State.updChan_packetAt (s : State) (c : CoreIx) (ch : ChanIx) (f : CopyChan → CopyChan) : (s.updChan c ch f).packetAt = s.packetAt := rfl
@[simp] theorem State.updChan_inputs (s : State) (c : CoreIx) (ch : ChanIx) (f : CopyChan → CopyChan) : (s.updChan c ch f).inputs = s.inputs := rfl
@[simp] theorem State.updChan_faults (s : State) (c : CoreIx) (ch : ChanIx) (f : CopyChan → CopyChan) : (s.updChan c ch f).faults = s.faults := rfl
@[simp] theorem State.updChan_sides (s : State) (c : CoreIx) (ch : ChanIx) (f : CopyChan → CopyChan) : (s.updChan c ch f).sides = s.sides := rfl
@[simp] theorem State.updChan_fresh (s : State) (c : CoreIx) (ch : ChanIx) (f : CopyChan → CopyChan) : (s.updChan c ch f).fresh = s.fresh := rfl

@[simp] theorem State.updRegion_tick (s : State) (c : CoreIx) (r : RegionIx) (f : RegionState → RegionState) : (s.updRegion c r f).tick = s.tick := rfl
@[simp] theorem State.updRegion_dies (s : State) (c : CoreIx) (r : RegionIx) (f : RegionState → RegionState) : (s.updRegion c r f).dies = s.dies := rfl
@[simp] theorem State.updRegion_dram (s : State) (c : CoreIx) (r : RegionIx) (f : RegionState → RegionState) : (s.updRegion c r f).dram = s.dram := rfl
@[simp] theorem State.updRegion_hostMem (s : State) (c : CoreIx) (r : RegionIx) (f : RegionState → RegionState) : (s.updRegion c r f).hostMem = s.hostMem := rfl
@[simp] theorem State.updRegion_launches (s : State) (c : CoreIx) (r : RegionIx) (f : RegionState → RegionState) : (s.updRegion c r f).launches = s.launches := rfl
@[simp] theorem State.updRegion_fe (s : State) (c : CoreIx) (r : RegionIx) (f : RegionState → RegionState) : (s.updRegion c r f).fe = s.fe := rfl
@[simp] theorem State.updRegion_tr (s : State) (c : CoreIx) (r : RegionIx) (f : RegionState → RegionState) : (s.updRegion c r f).tr = s.tr := rfl
@[simp] theorem State.updRegion_tm (s : State) (c : CoreIx) (r : RegionIx) (f : RegionState → RegionState) : (s.updRegion c r f).tm = s.tm := rfl
@[simp] theorem State.updRegion_host (s : State) (c : CoreIx) (r : RegionIx) (f : RegionState → RegionState) : (s.updRegion c r f).host = s.host := rfl
@[simp] theorem State.updRegion_health (s : State) (c : CoreIx) (r : RegionIx) (f : RegionState → RegionState) : (s.updRegion c r f).health = s.health := rfl
@[simp] theorem State.updRegion_ecc (s : State) (c : CoreIx) (r : RegionIx) (f : RegionState → RegionState) : (s.updRegion c r f).ecc = s.ecc := rfl
@[simp] theorem State.updRegion_phase (s : State) (c : CoreIx) (r : RegionIx) (f : RegionState → RegionState) : (s.updRegion c r f).phase = s.phase := rfl
@[simp] theorem State.updRegion_todo (s : State) (c : CoreIx) (r : RegionIx) (f : RegionState → RegionState) : (s.updRegion c r f).todo = s.todo := rfl
@[simp] theorem State.updRegion_focus (s : State) (c : CoreIx) (r : RegionIx) (f : RegionState → RegionState) : (s.updRegion c r f).focus = s.focus := rfl
@[simp] theorem State.updRegion_source (s : State) (c : CoreIx) (r : RegionIx) (f : RegionState → RegionState) : (s.updRegion c r f).source = s.source := rfl
@[simp] theorem State.updRegion_packetAt (s : State) (c : CoreIx) (r : RegionIx) (f : RegionState → RegionState) : (s.updRegion c r f).packetAt = s.packetAt := rfl
@[simp] theorem State.updRegion_inputs (s : State) (c : CoreIx) (r : RegionIx) (f : RegionState → RegionState) : (s.updRegion c r f).inputs = s.inputs := rfl
@[simp] theorem State.updRegion_faults (s : State) (c : CoreIx) (r : RegionIx) (f : RegionState → RegionState) : (s.updRegion c r f).faults = s.faults := rfl
@[simp] theorem State.updRegion_sides (s : State) (c : CoreIx) (r : RegionIx) (f : RegionState → RegionState) : (s.updRegion c r f).sides = s.sides := rfl
@[simp] theorem State.updRegion_fresh (s : State) (c : CoreIx) (r : RegionIx) (f : RegionState → RegionState) : (s.updRegion c r f).fresh = s.fresh := rfl

@[simp] theorem State.updMatrix_tick (s : State) (c : CoreIx) (f : MatrixState → MatrixState) : (s.updMatrix c f).tick = s.tick := rfl
@[simp] theorem State.updMatrix_dies (s : State) (c : CoreIx) (f : MatrixState → MatrixState) : (s.updMatrix c f).dies = s.dies := rfl
@[simp] theorem State.updMatrix_dram (s : State) (c : CoreIx) (f : MatrixState → MatrixState) : (s.updMatrix c f).dram = s.dram := rfl
@[simp] theorem State.updMatrix_hostMem (s : State) (c : CoreIx) (f : MatrixState → MatrixState) : (s.updMatrix c f).hostMem = s.hostMem := rfl
@[simp] theorem State.updMatrix_launches (s : State) (c : CoreIx) (f : MatrixState → MatrixState) : (s.updMatrix c f).launches = s.launches := rfl
@[simp] theorem State.updMatrix_fe (s : State) (c : CoreIx) (f : MatrixState → MatrixState) : (s.updMatrix c f).fe = s.fe := rfl
@[simp] theorem State.updMatrix_tr (s : State) (c : CoreIx) (f : MatrixState → MatrixState) : (s.updMatrix c f).tr = s.tr := rfl
@[simp] theorem State.updMatrix_tm (s : State) (c : CoreIx) (f : MatrixState → MatrixState) : (s.updMatrix c f).tm = s.tm := rfl
@[simp] theorem State.updMatrix_host (s : State) (c : CoreIx) (f : MatrixState → MatrixState) : (s.updMatrix c f).host = s.host := rfl
@[simp] theorem State.updMatrix_health (s : State) (c : CoreIx) (f : MatrixState → MatrixState) : (s.updMatrix c f).health = s.health := rfl
@[simp] theorem State.updMatrix_ecc (s : State) (c : CoreIx) (f : MatrixState → MatrixState) : (s.updMatrix c f).ecc = s.ecc := rfl
@[simp] theorem State.updMatrix_phase (s : State) (c : CoreIx) (f : MatrixState → MatrixState) : (s.updMatrix c f).phase = s.phase := rfl
@[simp] theorem State.updMatrix_todo (s : State) (c : CoreIx) (f : MatrixState → MatrixState) : (s.updMatrix c f).todo = s.todo := rfl
@[simp] theorem State.updMatrix_focus (s : State) (c : CoreIx) (f : MatrixState → MatrixState) : (s.updMatrix c f).focus = s.focus := rfl
@[simp] theorem State.updMatrix_source (s : State) (c : CoreIx) (f : MatrixState → MatrixState) : (s.updMatrix c f).source = s.source := rfl
@[simp] theorem State.updMatrix_packetAt (s : State) (c : CoreIx) (f : MatrixState → MatrixState) : (s.updMatrix c f).packetAt = s.packetAt := rfl
@[simp] theorem State.updMatrix_inputs (s : State) (c : CoreIx) (f : MatrixState → MatrixState) : (s.updMatrix c f).inputs = s.inputs := rfl
@[simp] theorem State.updMatrix_faults (s : State) (c : CoreIx) (f : MatrixState → MatrixState) : (s.updMatrix c f).faults = s.faults := rfl
@[simp] theorem State.updMatrix_sides (s : State) (c : CoreIx) (f : MatrixState → MatrixState) : (s.updMatrix c f).sides = s.sides := rfl
@[simp] theorem State.updMatrix_fresh (s : State) (c : CoreIx) (f : MatrixState → MatrixState) : (s.updMatrix c f).fresh = s.fresh := rfl

@[simp] theorem State.updStoch_tick (s : State) (c : CoreIx) (f : StochState → StochState) : (s.updStoch c f).tick = s.tick := rfl
@[simp] theorem State.updStoch_dies (s : State) (c : CoreIx) (f : StochState → StochState) : (s.updStoch c f).dies = s.dies := rfl
@[simp] theorem State.updStoch_dram (s : State) (c : CoreIx) (f : StochState → StochState) : (s.updStoch c f).dram = s.dram := rfl
@[simp] theorem State.updStoch_hostMem (s : State) (c : CoreIx) (f : StochState → StochState) : (s.updStoch c f).hostMem = s.hostMem := rfl
@[simp] theorem State.updStoch_launches (s : State) (c : CoreIx) (f : StochState → StochState) : (s.updStoch c f).launches = s.launches := rfl
@[simp] theorem State.updStoch_fe (s : State) (c : CoreIx) (f : StochState → StochState) : (s.updStoch c f).fe = s.fe := rfl
@[simp] theorem State.updStoch_tr (s : State) (c : CoreIx) (f : StochState → StochState) : (s.updStoch c f).tr = s.tr := rfl
@[simp] theorem State.updStoch_tm (s : State) (c : CoreIx) (f : StochState → StochState) : (s.updStoch c f).tm = s.tm := rfl
@[simp] theorem State.updStoch_host (s : State) (c : CoreIx) (f : StochState → StochState) : (s.updStoch c f).host = s.host := rfl
@[simp] theorem State.updStoch_health (s : State) (c : CoreIx) (f : StochState → StochState) : (s.updStoch c f).health = s.health := rfl
@[simp] theorem State.updStoch_ecc (s : State) (c : CoreIx) (f : StochState → StochState) : (s.updStoch c f).ecc = s.ecc := rfl
@[simp] theorem State.updStoch_phase (s : State) (c : CoreIx) (f : StochState → StochState) : (s.updStoch c f).phase = s.phase := rfl
@[simp] theorem State.updStoch_todo (s : State) (c : CoreIx) (f : StochState → StochState) : (s.updStoch c f).todo = s.todo := rfl
@[simp] theorem State.updStoch_focus (s : State) (c : CoreIx) (f : StochState → StochState) : (s.updStoch c f).focus = s.focus := rfl
@[simp] theorem State.updStoch_source (s : State) (c : CoreIx) (f : StochState → StochState) : (s.updStoch c f).source = s.source := rfl
@[simp] theorem State.updStoch_packetAt (s : State) (c : CoreIx) (f : StochState → StochState) : (s.updStoch c f).packetAt = s.packetAt := rfl
@[simp] theorem State.updStoch_inputs (s : State) (c : CoreIx) (f : StochState → StochState) : (s.updStoch c f).inputs = s.inputs := rfl
@[simp] theorem State.updStoch_faults (s : State) (c : CoreIx) (f : StochState → StochState) : (s.updStoch c f).faults = s.faults := rfl
@[simp] theorem State.updStoch_sides (s : State) (c : CoreIx) (f : StochState → StochState) : (s.updStoch c f).sides = s.sides := rfl
@[simp] theorem State.updStoch_fresh (s : State) (c : CoreIx) (f : StochState → StochState) : (s.updStoch c f).fresh = s.fresh := rfl

@[simp] theorem State.updLaunch_tick (s : State) (n : LaunchNo) (f : Launch → Launch) : (s.updLaunch n f).tick = s.tick := rfl
@[simp] theorem State.updLaunch_cores (s : State) (n : LaunchNo) (f : Launch → Launch) : (s.updLaunch n f).cores = s.cores := rfl
@[simp] theorem State.updLaunch_dies (s : State) (n : LaunchNo) (f : Launch → Launch) : (s.updLaunch n f).dies = s.dies := rfl
@[simp] theorem State.updLaunch_dram (s : State) (n : LaunchNo) (f : Launch → Launch) : (s.updLaunch n f).dram = s.dram := rfl
@[simp] theorem State.updLaunch_hostMem (s : State) (n : LaunchNo) (f : Launch → Launch) : (s.updLaunch n f).hostMem = s.hostMem := rfl
@[simp] theorem State.updLaunch_fe (s : State) (n : LaunchNo) (f : Launch → Launch) : (s.updLaunch n f).fe = s.fe := rfl
@[simp] theorem State.updLaunch_tr (s : State) (n : LaunchNo) (f : Launch → Launch) : (s.updLaunch n f).tr = s.tr := rfl
@[simp] theorem State.updLaunch_tm (s : State) (n : LaunchNo) (f : Launch → Launch) : (s.updLaunch n f).tm = s.tm := rfl
@[simp] theorem State.updLaunch_host (s : State) (n : LaunchNo) (f : Launch → Launch) : (s.updLaunch n f).host = s.host := rfl
@[simp] theorem State.updLaunch_health (s : State) (n : LaunchNo) (f : Launch → Launch) : (s.updLaunch n f).health = s.health := rfl
@[simp] theorem State.updLaunch_ecc (s : State) (n : LaunchNo) (f : Launch → Launch) : (s.updLaunch n f).ecc = s.ecc := rfl
@[simp] theorem State.updLaunch_phase (s : State) (n : LaunchNo) (f : Launch → Launch) : (s.updLaunch n f).phase = s.phase := rfl
@[simp] theorem State.updLaunch_todo (s : State) (n : LaunchNo) (f : Launch → Launch) : (s.updLaunch n f).todo = s.todo := rfl
@[simp] theorem State.updLaunch_focus (s : State) (n : LaunchNo) (f : Launch → Launch) : (s.updLaunch n f).focus = s.focus := rfl
@[simp] theorem State.updLaunch_source (s : State) (n : LaunchNo) (f : Launch → Launch) : (s.updLaunch n f).source = s.source := rfl
@[simp] theorem State.updLaunch_packetAt (s : State) (n : LaunchNo) (f : Launch → Launch) : (s.updLaunch n f).packetAt = s.packetAt := rfl
@[simp] theorem State.updLaunch_inputs (s : State) (n : LaunchNo) (f : Launch → Launch) : (s.updLaunch n f).inputs = s.inputs := rfl
@[simp] theorem State.updLaunch_faults (s : State) (n : LaunchNo) (f : Launch → Launch) : (s.updLaunch n f).faults = s.faults := rfl
@[simp] theorem State.updLaunch_sides (s : State) (n : LaunchNo) (f : Launch → Launch) : (s.updLaunch n f).sides = s.sides := rfl
@[simp] theorem State.updLaunch_fresh (s : State) (n : LaunchNo) (f : Launch → Launch) : (s.updLaunch n f).fresh = s.fresh := rfl

@[simp] theorem State.updQueue_tick (s : State) (q : QueueIx) (f : QueueState → QueueState) : (s.updQueue q f).tick = s.tick := rfl
@[simp] theorem State.updQueue_cores (s : State) (q : QueueIx) (f : QueueState → QueueState) : (s.updQueue q f).cores = s.cores := rfl
@[simp] theorem State.updQueue_dies (s : State) (q : QueueIx) (f : QueueState → QueueState) : (s.updQueue q f).dies = s.dies := rfl
@[simp] theorem State.updQueue_dram (s : State) (q : QueueIx) (f : QueueState → QueueState) : (s.updQueue q f).dram = s.dram := rfl
@[simp] theorem State.updQueue_hostMem (s : State) (q : QueueIx) (f : QueueState → QueueState) : (s.updQueue q f).hostMem = s.hostMem := rfl
@[simp] theorem State.updQueue_launches (s : State) (q : QueueIx) (f : QueueState → QueueState) : (s.updQueue q f).launches = s.launches := rfl
@[simp] theorem State.updQueue_tr (s : State) (q : QueueIx) (f : QueueState → QueueState) : (s.updQueue q f).tr = s.tr := rfl
@[simp] theorem State.updQueue_tm (s : State) (q : QueueIx) (f : QueueState → QueueState) : (s.updQueue q f).tm = s.tm := rfl
@[simp] theorem State.updQueue_host (s : State) (q : QueueIx) (f : QueueState → QueueState) : (s.updQueue q f).host = s.host := rfl
@[simp] theorem State.updQueue_health (s : State) (q : QueueIx) (f : QueueState → QueueState) : (s.updQueue q f).health = s.health := rfl
@[simp] theorem State.updQueue_ecc (s : State) (q : QueueIx) (f : QueueState → QueueState) : (s.updQueue q f).ecc = s.ecc := rfl
@[simp] theorem State.updQueue_phase (s : State) (q : QueueIx) (f : QueueState → QueueState) : (s.updQueue q f).phase = s.phase := rfl
@[simp] theorem State.updQueue_todo (s : State) (q : QueueIx) (f : QueueState → QueueState) : (s.updQueue q f).todo = s.todo := rfl
@[simp] theorem State.updQueue_focus (s : State) (q : QueueIx) (f : QueueState → QueueState) : (s.updQueue q f).focus = s.focus := rfl
@[simp] theorem State.updQueue_source (s : State) (q : QueueIx) (f : QueueState → QueueState) : (s.updQueue q f).source = s.source := rfl
@[simp] theorem State.updQueue_packetAt (s : State) (q : QueueIx) (f : QueueState → QueueState) : (s.updQueue q f).packetAt = s.packetAt := rfl
@[simp] theorem State.updQueue_inputs (s : State) (q : QueueIx) (f : QueueState → QueueState) : (s.updQueue q f).inputs = s.inputs := rfl
@[simp] theorem State.updQueue_faults (s : State) (q : QueueIx) (f : QueueState → QueueState) : (s.updQueue q f).faults = s.faults := rfl
@[simp] theorem State.updQueue_sides (s : State) (q : QueueIx) (f : QueueState → QueueState) : (s.updQueue q f).sides = s.sides := rfl
@[simp] theorem State.updQueue_fresh (s : State) (q : QueueIx) (f : QueueState → QueueState) : (s.updQueue q f).fresh = s.fresh := rfl

@[simp] theorem State.updGraph_tick (s : State) (g : GraphIx) (f : GraphState → GraphState) : (s.updGraph g f).tick = s.tick := rfl
@[simp] theorem State.updGraph_cores (s : State) (g : GraphIx) (f : GraphState → GraphState) : (s.updGraph g f).cores = s.cores := rfl
@[simp] theorem State.updGraph_dies (s : State) (g : GraphIx) (f : GraphState → GraphState) : (s.updGraph g f).dies = s.dies := rfl
@[simp] theorem State.updGraph_dram (s : State) (g : GraphIx) (f : GraphState → GraphState) : (s.updGraph g f).dram = s.dram := rfl
@[simp] theorem State.updGraph_hostMem (s : State) (g : GraphIx) (f : GraphState → GraphState) : (s.updGraph g f).hostMem = s.hostMem := rfl
@[simp] theorem State.updGraph_launches (s : State) (g : GraphIx) (f : GraphState → GraphState) : (s.updGraph g f).launches = s.launches := rfl
@[simp] theorem State.updGraph_tr (s : State) (g : GraphIx) (f : GraphState → GraphState) : (s.updGraph g f).tr = s.tr := rfl
@[simp] theorem State.updGraph_tm (s : State) (g : GraphIx) (f : GraphState → GraphState) : (s.updGraph g f).tm = s.tm := rfl
@[simp] theorem State.updGraph_host (s : State) (g : GraphIx) (f : GraphState → GraphState) : (s.updGraph g f).host = s.host := rfl
@[simp] theorem State.updGraph_health (s : State) (g : GraphIx) (f : GraphState → GraphState) : (s.updGraph g f).health = s.health := rfl
@[simp] theorem State.updGraph_ecc (s : State) (g : GraphIx) (f : GraphState → GraphState) : (s.updGraph g f).ecc = s.ecc := rfl
@[simp] theorem State.updGraph_phase (s : State) (g : GraphIx) (f : GraphState → GraphState) : (s.updGraph g f).phase = s.phase := rfl
@[simp] theorem State.updGraph_todo (s : State) (g : GraphIx) (f : GraphState → GraphState) : (s.updGraph g f).todo = s.todo := rfl
@[simp] theorem State.updGraph_focus (s : State) (g : GraphIx) (f : GraphState → GraphState) : (s.updGraph g f).focus = s.focus := rfl
@[simp] theorem State.updGraph_source (s : State) (g : GraphIx) (f : GraphState → GraphState) : (s.updGraph g f).source = s.source := rfl
@[simp] theorem State.updGraph_packetAt (s : State) (g : GraphIx) (f : GraphState → GraphState) : (s.updGraph g f).packetAt = s.packetAt := rfl
@[simp] theorem State.updGraph_inputs (s : State) (g : GraphIx) (f : GraphState → GraphState) : (s.updGraph g f).inputs = s.inputs := rfl
@[simp] theorem State.updGraph_faults (s : State) (g : GraphIx) (f : GraphState → GraphState) : (s.updGraph g f).faults = s.faults := rfl
@[simp] theorem State.updGraph_sides (s : State) (g : GraphIx) (f : GraphState → GraphState) : (s.updGraph g f).sides = s.sides := rfl
@[simp] theorem State.updGraph_fresh (s : State) (g : GraphIx) (f : GraphState → GraphState) : (s.updGraph g f).fresh = s.fresh := rfl

@[simp] theorem State.updHealth_tick (s : State) (f : Health → Health) : (s.updHealth f).tick = s.tick := rfl
@[simp] theorem State.updHealth_cores (s : State) (f : Health → Health) : (s.updHealth f).cores = s.cores := rfl
@[simp] theorem State.updHealth_dies (s : State) (f : Health → Health) : (s.updHealth f).dies = s.dies := rfl
@[simp] theorem State.updHealth_dram (s : State) (f : Health → Health) : (s.updHealth f).dram = s.dram := rfl
@[simp] theorem State.updHealth_hostMem (s : State) (f : Health → Health) : (s.updHealth f).hostMem = s.hostMem := rfl
@[simp] theorem State.updHealth_launches (s : State) (f : Health → Health) : (s.updHealth f).launches = s.launches := rfl
@[simp] theorem State.updHealth_fe (s : State) (f : Health → Health) : (s.updHealth f).fe = s.fe := rfl
@[simp] theorem State.updHealth_tr (s : State) (f : Health → Health) : (s.updHealth f).tr = s.tr := rfl
@[simp] theorem State.updHealth_tm (s : State) (f : Health → Health) : (s.updHealth f).tm = s.tm := rfl
@[simp] theorem State.updHealth_host (s : State) (f : Health → Health) : (s.updHealth f).host = s.host := rfl
@[simp] theorem State.updHealth_ecc (s : State) (f : Health → Health) : (s.updHealth f).ecc = s.ecc := rfl
@[simp] theorem State.updHealth_phase (s : State) (f : Health → Health) : (s.updHealth f).phase = s.phase := rfl
@[simp] theorem State.updHealth_todo (s : State) (f : Health → Health) : (s.updHealth f).todo = s.todo := rfl
@[simp] theorem State.updHealth_focus (s : State) (f : Health → Health) : (s.updHealth f).focus = s.focus := rfl
@[simp] theorem State.updHealth_source (s : State) (f : Health → Health) : (s.updHealth f).source = s.source := rfl
@[simp] theorem State.updHealth_packetAt (s : State) (f : Health → Health) : (s.updHealth f).packetAt = s.packetAt := rfl
@[simp] theorem State.updHealth_inputs (s : State) (f : Health → Health) : (s.updHealth f).inputs = s.inputs := rfl
@[simp] theorem State.updHealth_faults (s : State) (f : Health → Health) : (s.updHealth f).faults = s.faults := rfl
@[simp] theorem State.updHealth_sides (s : State) (f : Health → Health) : (s.updHealth f).sides = s.sides := rfl
@[simp] theorem State.updHealth_fresh (s : State) (f : Health → Health) : (s.updHealth f).fresh = s.fresh := rfl

@[simp] theorem State.updTime_tick (s : State) (f : TimeState → TimeState) : (s.updTime f).tick = s.tick := rfl
@[simp] theorem State.updTime_cores (s : State) (f : TimeState → TimeState) : (s.updTime f).cores = s.cores := rfl
@[simp] theorem State.updTime_dies (s : State) (f : TimeState → TimeState) : (s.updTime f).dies = s.dies := rfl
@[simp] theorem State.updTime_dram (s : State) (f : TimeState → TimeState) : (s.updTime f).dram = s.dram := rfl
@[simp] theorem State.updTime_hostMem (s : State) (f : TimeState → TimeState) : (s.updTime f).hostMem = s.hostMem := rfl
@[simp] theorem State.updTime_launches (s : State) (f : TimeState → TimeState) : (s.updTime f).launches = s.launches := rfl
@[simp] theorem State.updTime_fe (s : State) (f : TimeState → TimeState) : (s.updTime f).fe = s.fe := rfl
@[simp] theorem State.updTime_tr (s : State) (f : TimeState → TimeState) : (s.updTime f).tr = s.tr := rfl
@[simp] theorem State.updTime_host (s : State) (f : TimeState → TimeState) : (s.updTime f).host = s.host := rfl
@[simp] theorem State.updTime_health (s : State) (f : TimeState → TimeState) : (s.updTime f).health = s.health := rfl
@[simp] theorem State.updTime_ecc (s : State) (f : TimeState → TimeState) : (s.updTime f).ecc = s.ecc := rfl
@[simp] theorem State.updTime_phase (s : State) (f : TimeState → TimeState) : (s.updTime f).phase = s.phase := rfl
@[simp] theorem State.updTime_todo (s : State) (f : TimeState → TimeState) : (s.updTime f).todo = s.todo := rfl
@[simp] theorem State.updTime_focus (s : State) (f : TimeState → TimeState) : (s.updTime f).focus = s.focus := rfl
@[simp] theorem State.updTime_source (s : State) (f : TimeState → TimeState) : (s.updTime f).source = s.source := rfl
@[simp] theorem State.updTime_packetAt (s : State) (f : TimeState → TimeState) : (s.updTime f).packetAt = s.packetAt := rfl
@[simp] theorem State.updTime_inputs (s : State) (f : TimeState → TimeState) : (s.updTime f).inputs = s.inputs := rfl
@[simp] theorem State.updTime_faults (s : State) (f : TimeState → TimeState) : (s.updTime f).faults = s.faults := rfl
@[simp] theorem State.updTime_sides (s : State) (f : TimeState → TimeState) : (s.updTime f).sides = s.sides := rfl
@[simp] theorem State.updTime_fresh (s : State) (f : TimeState → TimeState) : (s.updTime f).fresh = s.fresh := rfl

@[simp] theorem State.record_tick (s : State) (r : Rec) : (s.record r).tick = s.tick := by rw [State.record_only]
@[simp] theorem State.record_cores (s : State) (r : Rec) : (s.record r).cores = s.cores := by rw [State.record_only]
@[simp] theorem State.record_dies (s : State) (r : Rec) : (s.record r).dies = s.dies := by rw [State.record_only]
@[simp] theorem State.record_dram (s : State) (r : Rec) : (s.record r).dram = s.dram := by rw [State.record_only]
@[simp] theorem State.record_hostMem (s : State) (r : Rec) : (s.record r).hostMem = s.hostMem := by rw [State.record_only]
@[simp] theorem State.record_launches (s : State) (r : Rec) : (s.record r).launches = s.launches := by rw [State.record_only]
@[simp] theorem State.record_fe (s : State) (r : Rec) : (s.record r).fe = s.fe := by rw [State.record_only]
@[simp] theorem State.record_tm (s : State) (r : Rec) : (s.record r).tm = s.tm := by rw [State.record_only]
@[simp] theorem State.record_host (s : State) (r : Rec) : (s.record r).host = s.host := by rw [State.record_only]
@[simp] theorem State.record_health (s : State) (r : Rec) : (s.record r).health = s.health := by rw [State.record_only]
@[simp] theorem State.record_ecc (s : State) (r : Rec) : (s.record r).ecc = s.ecc := by rw [State.record_only]
@[simp] theorem State.record_phase (s : State) (r : Rec) : (s.record r).phase = s.phase := by rw [State.record_only]
@[simp] theorem State.record_todo (s : State) (r : Rec) : (s.record r).todo = s.todo := by rw [State.record_only]
@[simp] theorem State.record_focus (s : State) (r : Rec) : (s.record r).focus = s.focus := by rw [State.record_only]
@[simp] theorem State.record_source (s : State) (r : Rec) : (s.record r).source = s.source := by rw [State.record_only]
@[simp] theorem State.record_packetAt (s : State) (r : Rec) : (s.record r).packetAt = s.packetAt := by rw [State.record_only]
@[simp] theorem State.record_inputs (s : State) (r : Rec) : (s.record r).inputs = s.inputs := by rw [State.record_only]
@[simp] theorem State.record_faults (s : State) (r : Rec) : (s.record r).faults = s.faults := by rw [State.record_only]
@[simp] theorem State.record_sides (s : State) (r : Rec) : (s.record r).sides = s.sides := by rw [State.record_only]
@[simp] theorem State.record_fresh (s : State) (r : Rec) : (s.record r).fresh = s.fresh := by rw [State.record_only]

@[simp] theorem State.updExec_tick (s : State) (src : Source) (f : Stream' → Stream') : (s.updExec src f).tick = s.tick := by cases src <;> rfl
@[simp] theorem State.updExec_cores (s : State) (src : Source) (f : Stream' → Stream') : (s.updExec src f).cores = s.cores := by cases src <;> rfl
@[simp] theorem State.updExec_dies (s : State) (src : Source) (f : Stream' → Stream') : (s.updExec src f).dies = s.dies := by cases src <;> rfl
@[simp] theorem State.updExec_dram (s : State) (src : Source) (f : Stream' → Stream') : (s.updExec src f).dram = s.dram := by cases src <;> rfl
@[simp] theorem State.updExec_hostMem (s : State) (src : Source) (f : Stream' → Stream') : (s.updExec src f).hostMem = s.hostMem := by cases src <;> rfl
@[simp] theorem State.updExec_launches (s : State) (src : Source) (f : Stream' → Stream') : (s.updExec src f).launches = s.launches := by cases src <;> rfl
@[simp] theorem State.updExec_tr (s : State) (src : Source) (f : Stream' → Stream') : (s.updExec src f).tr = s.tr := by cases src <;> rfl
@[simp] theorem State.updExec_tm (s : State) (src : Source) (f : Stream' → Stream') : (s.updExec src f).tm = s.tm := by cases src <;> rfl
@[simp] theorem State.updExec_host (s : State) (src : Source) (f : Stream' → Stream') : (s.updExec src f).host = s.host := by cases src <;> rfl
@[simp] theorem State.updExec_health (s : State) (src : Source) (f : Stream' → Stream') : (s.updExec src f).health = s.health := by cases src <;> rfl
@[simp] theorem State.updExec_ecc (s : State) (src : Source) (f : Stream' → Stream') : (s.updExec src f).ecc = s.ecc := by cases src <;> rfl
@[simp] theorem State.updExec_phase (s : State) (src : Source) (f : Stream' → Stream') : (s.updExec src f).phase = s.phase := by cases src <;> rfl
@[simp] theorem State.updExec_todo (s : State) (src : Source) (f : Stream' → Stream') : (s.updExec src f).todo = s.todo := by cases src <;> rfl
@[simp] theorem State.updExec_focus (s : State) (src : Source) (f : Stream' → Stream') : (s.updExec src f).focus = s.focus := by cases src <;> rfl
@[simp] theorem State.updExec_source (s : State) (src : Source) (f : Stream' → Stream') : (s.updExec src f).source = s.source := by cases src <;> rfl
@[simp] theorem State.updExec_packetAt (s : State) (src : Source) (f : Stream' → Stream') : (s.updExec src f).packetAt = s.packetAt := by cases src <;> rfl
@[simp] theorem State.updExec_inputs (s : State) (src : Source) (f : Stream' → Stream') : (s.updExec src f).inputs = s.inputs := by cases src <;> rfl
@[simp] theorem State.updExec_faults (s : State) (src : Source) (f : Stream' → Stream') : (s.updExec src f).faults = s.faults := by cases src <;> rfl
@[simp] theorem State.updExec_sides (s : State) (src : Source) (f : Stream' → Stream') : (s.updExec src f).sides = s.sides := by cases src <;> rfl
@[simp] theorem State.updExec_fresh (s : State) (src : Source) (f : Stream' → Stream') : (s.updExec src f).fresh = s.fresh := by cases src <;> rfl

@[simp] theorem State.reply_tick (s : State) (r : Reply) : (s.reply r).tick = s.tick := rfl
@[simp] theorem State.reply_cores (s : State) (r : Reply) : (s.reply r).cores = s.cores := rfl
@[simp] theorem State.reply_dies (s : State) (r : Reply) : (s.reply r).dies = s.dies := rfl
@[simp] theorem State.reply_dram (s : State) (r : Reply) : (s.reply r).dram = s.dram := rfl
@[simp] theorem State.reply_hostMem (s : State) (r : Reply) : (s.reply r).hostMem = s.hostMem := rfl
@[simp] theorem State.reply_launches (s : State) (r : Reply) : (s.reply r).launches = s.launches := rfl
@[simp] theorem State.reply_fe (s : State) (r : Reply) : (s.reply r).fe = s.fe := rfl
@[simp] theorem State.reply_tr (s : State) (r : Reply) : (s.reply r).tr = s.tr := rfl
@[simp] theorem State.reply_tm (s : State) (r : Reply) : (s.reply r).tm = s.tm := rfl
@[simp] theorem State.reply_health (s : State) (r : Reply) : (s.reply r).health = s.health := rfl
@[simp] theorem State.reply_ecc (s : State) (r : Reply) : (s.reply r).ecc = s.ecc := rfl
@[simp] theorem State.reply_phase (s : State) (r : Reply) : (s.reply r).phase = s.phase := rfl
@[simp] theorem State.reply_todo (s : State) (r : Reply) : (s.reply r).todo = s.todo := rfl
@[simp] theorem State.reply_focus (s : State) (r : Reply) : (s.reply r).focus = s.focus := rfl
@[simp] theorem State.reply_source (s : State) (r : Reply) : (s.reply r).source = s.source := rfl
@[simp] theorem State.reply_packetAt (s : State) (r : Reply) : (s.reply r).packetAt = s.packetAt := rfl
@[simp] theorem State.reply_inputs (s : State) (r : Reply) : (s.reply r).inputs = s.inputs := rfl
@[simp] theorem State.reply_faults (s : State) (r : Reply) : (s.reply r).faults = s.faults := rfl
@[simp] theorem State.reply_sides (s : State) (r : Reply) : (s.reply r).sides = s.sides := rfl
@[simp] theorem State.reply_fresh (s : State) (r : Reply) : (s.reply r).fresh = s.fresh := rfl

@[simp] theorem State.hostErr_tick (s : State) (k : Nat) : (s.hostErr k).tick = s.tick := rfl
@[simp] theorem State.hostErr_cores (s : State) (k : Nat) : (s.hostErr k).cores = s.cores := rfl
@[simp] theorem State.hostErr_dies (s : State) (k : Nat) : (s.hostErr k).dies = s.dies := rfl
@[simp] theorem State.hostErr_dram (s : State) (k : Nat) : (s.hostErr k).dram = s.dram := rfl
@[simp] theorem State.hostErr_hostMem (s : State) (k : Nat) : (s.hostErr k).hostMem = s.hostMem := rfl
@[simp] theorem State.hostErr_launches (s : State) (k : Nat) : (s.hostErr k).launches = s.launches := rfl
@[simp] theorem State.hostErr_fe (s : State) (k : Nat) : (s.hostErr k).fe = s.fe := rfl
@[simp] theorem State.hostErr_tr (s : State) (k : Nat) : (s.hostErr k).tr = s.tr := rfl
@[simp] theorem State.hostErr_tm (s : State) (k : Nat) : (s.hostErr k).tm = s.tm := rfl
@[simp] theorem State.hostErr_health (s : State) (k : Nat) : (s.hostErr k).health = s.health := rfl
@[simp] theorem State.hostErr_ecc (s : State) (k : Nat) : (s.hostErr k).ecc = s.ecc := rfl
@[simp] theorem State.hostErr_phase (s : State) (k : Nat) : (s.hostErr k).phase = s.phase := rfl
@[simp] theorem State.hostErr_todo (s : State) (k : Nat) : (s.hostErr k).todo = s.todo := rfl
@[simp] theorem State.hostErr_focus (s : State) (k : Nat) : (s.hostErr k).focus = s.focus := rfl
@[simp] theorem State.hostErr_source (s : State) (k : Nat) : (s.hostErr k).source = s.source := rfl
@[simp] theorem State.hostErr_packetAt (s : State) (k : Nat) : (s.hostErr k).packetAt = s.packetAt := rfl
@[simp] theorem State.hostErr_inputs (s : State) (k : Nat) : (s.hostErr k).inputs = s.inputs := rfl
@[simp] theorem State.hostErr_faults (s : State) (k : Nat) : (s.hostErr k).faults = s.faults := rfl
@[simp] theorem State.hostErr_sides (s : State) (k : Nat) : (s.hostErr k).sides = s.sides := rfl
@[simp] theorem State.hostErr_fresh (s : State) (k : Nat) : (s.hostErr k).fresh = s.fresh := rfl

/-! ### What an update reads back as -/

variable (s : State) (c d : CoreIx) (q p : SeqIx)

@[simp] theorem State.core_updCore (f : CoreState → CoreState) : (s.updCore c f).core c = f (s.core c) := by
  simp [State.updCore, State.setCore, State.core]

theorem State.core_updCore_ne (f : CoreState → CoreState) (h : d ≠ c) : (s.updCore c f).core d = s.core d := by
  have : c.val ≠ d.val := fun e => h (Fin.ext e.symm)
  simp [State.updCore, State.setCore, State.core, Vector.getElem_set_ne, this]

@[simp] theorem State.ctx_updCtx (f : CoreCtx → CoreCtx) : (s.updCtx c f).ctx c = f (s.ctx c) := by
  simp [State.updCtx, State.ctx]

theorem State.core_updCtx_ne (f : CoreCtx → CoreCtx) (h : d ≠ c) : (s.updCtx c f).core d = s.core d := State.core_updCore_ne s c d _ h

/-- A change of one core's context leaves every core's memories alone. -/
theorem State.core_updCtx (f : CoreCtx → CoreCtx) :
    (s.updCtx c f).core d = { s.core d with ctx := if d = c then f (s.ctx d) else s.ctx d } := by
  by_cases h : d = c
  · subst h; simp [State.updCtx, State.ctx]
  · rw [State.core_updCtx_ne s c d f h, if_neg h]; rfl

@[simp] theorem State.seq_updSeq (f : SeqState → SeqState) : (s.updSeq c q f).seq c q = f (s.seq c q) := by
  simp [State.updSeq, State.seq]

theorem State.seq_updSeq_ne (f : SeqState → SeqState) (h : d ≠ c ∨ p ≠ q) : (s.updSeq c q f).seq d p = s.seq d p := by
  simp only [State.updSeq, State.seq, State.ctx, State.core_updCtx]
  by_cases hd : d = c
  · subst hd
    have : q.val ≠ p.val := fun e => (h.resolve_left (fun e => e rfl)) (Fin.ext e.symm)
    simp [Vector.getElem_set_ne, this]
  · simp [hd]

@[simp] theorem State.seq_updRun_run (f : BlockRun → BlockRun) : ((s.updRun c q f).seq c q).run = (s.seq c q).run.map f := by
  simp [State.updRun]

/-- A change of the running block changes nothing else of any sequencer. -/
theorem State.seq_updRun (f : BlockRun → BlockRun) :
    (s.updRun c q f).seq d p = { s.seq d p with run := if d = c ∧ p = q then (s.seq d p).run.map f else (s.seq d p).run } := by
  by_cases h : d = c ∧ p = q
  · obtain ⟨rfl, rfl⟩ := h; simp [State.updRun]
  · rw [State.updRun, State.seq_updSeq_ne, if_neg h]
    by_cases hd : d = c
    · exact .inr fun e => h ⟨hd, e⟩
    · exact .inl hd

/-- Nor anything else of its core. -/
theorem State.core_updRun (f : BlockRun → BlockRun) :
    (s.updRun c q f).core d = { s.core d with ctx := { s.ctx d with seqs := ((s.updRun c q f).ctx d).seqs } } := by
  simp only [State.updRun, State.updSeq, State.ctx, State.core_updCtx]
  by_cases hd : d = c
  · subst hd; simp
  · simp [hd]

theorem State.core_ctx : (s.core c).ctx = s.ctx c := rfl

/-- Two changes of one running block are one. -/
theorem State.updRun_updRun (f g : BlockRun → BlockRun) : (s.updRun c q f).updRun c q g = s.updRun c q (g ∘ f) := by
  simp [State.updRun, State.updSeq, State.updCtx, State.updCore, State.setCore, State.core, Vector.set_set]

@[simp] theorem State.chan_updChan (ch : ChanIx) (f : CopyChan → CopyChan) : ((s.updChan c ch f).ctx c).chans[ch.val] = f (s.ctx c).chans[ch.val] := by
  simp [State.updChan]

@[simp] theorem State.region_updRegion (r : RegionIx) (f : RegionState → RegionState) : ((s.updRegion c r f).ctx c).regions[r.val] = f (s.ctx c).regions[r.val] := by
  simp [State.updRegion]

@[simp] theorem State.matrix_updMatrix (f : MatrixState → MatrixState) : ((s.updMatrix c f).ctx c).matrix = f (s.ctx c).matrix := by
  simp [State.updMatrix]

@[simp] theorem State.stoch_updStoch (f : StochState → StochState) : ((s.updStoch c f).ctx c).stoch = f (s.ctx c).stoch := by
  simp [State.updStoch]

@[simp] theorem State.queue_updQueue (k : QueueIx) (f : QueueState → QueueState) : (s.updQueue k f).fe.queues[k.val] = f s.fe.queues[k.val] := by
  simp [State.updQueue]

theorem State.queue_updQueue_ne (k j : QueueIx) (f : QueueState → QueueState) (h : j ≠ k) : (s.updQueue k f).fe.queues[j.val] = s.fe.queues[j.val] := by
  have : k.val ≠ j.val := fun e => h (Fin.ext e.symm)
  simp [State.updQueue, Vector.getElem_set_ne, this]

@[simp] theorem State.graph_updGraph (g : GraphIx) (f : GraphState → GraphState) : (s.updGraph g f).fe.graphs[g.val] = s.fe.graphs[g.val].map f := by
  simp [State.updGraph]

@[simp] theorem State.exec_updExec (src : Source) (f : Stream' → Stream') : (s.updExec src f).exec? src = (s.exec? src).map f := by
  cases src with
  | queue k => simp [State.updExec, State.exec?]
  | graph g => simp [State.updExec, State.exec?]; cases s.fe.graphs[g.val] <;> rfl

end Sys2Proof.Machine
end

