-- ==== Sys2Proof/Laws/Fire.lean ====
section
/-! SUPPORT. What the firing of a word can do: one lemma for the shared operations of Machine/Operands.lean, which the statements about words cite. -/

namespace Sys2Proof.Machine

variable {s t : State} {b : BlockRun} {p : Pred} {l r th : Bool} {x y z : Word} {c : CoreIx} {q : SeqIx}

/-- Without a pending trap nothing is answered. -/
theorem settleTrap_of_noTrap (h : ∀ k, (s.seq c q).run = some k → k.trap = none) : s.settleTrap c q = s := by
  unfold State.settleTrap
  cases hr : (s.seq c q).run with
  | none => rfl
  | some k => simp [h k hr]

/-- While other words of the block are still to fire in the tick, a trap waits (R212). -/
theorem settleTrap_of_more (h : s.todo.any (fun w => match w with | .fire c' q' _ => c' == c && q' == q | _ => false) = true) : s.settleTrap c q = s := by
  unfold State.settleTrap
  split
  · rfl
  · split
    · rfl
    · exact if_pos (Bool.or_eq_true_iff.2 (Or.inr h))

/-- A word that may fire: its effect takes place on the block marked as fired; a trap that it raises is answered. -/
theorem fireWord_fires {body : CoreIx → SeqIx → Fin 32 → Word → Word → Word → State → State} (h : Fires s b p l r th x y z) :
    fireWord p l r th s body = .next ((body s.focus.core s.focus.seq s.focus.idx x y z
      (s.updRun s.focus.core s.focus.seq (·.markFired s.focus.idx))).settleTrap s.focus.core s.focus.seq) := by
  unfold fireWord
  rw [h.run]
  simp only [h.unfired, h.live, h.pred, h.left, h.right, h.third, Bool.or_self, Bool.false_eq_true, if_false]

/-- The same where the effect is a change of the running block that raises no trap. -/
theorem fireWord_run {body : CoreIx → SeqIx → Fin 32 → Word → Word → Word → State → State} {f : BlockRun → BlockRun}
    (h : Fires s b p l r th x y z) (hb : ∀ k, body s.focus.core s.focus.seq s.focus.idx x y z k = k.updRun s.focus.core s.focus.seq f)
    (ht : (f (b.markFired s.focus.idx)).trap = none) : fireWord p l r th s body = .next (s.fired f) := by
  rw [fireWord_fires h, hb, State.updRun_updRun]
  congr 1
  refine settleTrap_of_noTrap fun k hk => ?_
  rw [State.seq_updRun_run, h.run] at hk
  cases hk
  exact ht

/-- A word whose predicate does not match is nullified. -/
theorem fireWord_mismatched {body : CoreIx → SeqIx → Fin 32 → Word → Word → Word → State → State} (h : Mismatched s b p) :
    fireWord p l r th s body = .next (s.updRun s.focus.core s.focus.seq (·.markNulled s.focus.idx)) := by
  unfold fireWord
  rw [h.run]
  simp only [h.unfired, h.live, h.pred, Bool.or_self, Bool.false_eq_true, if_false]
  congr 1
  refine settleTrap_of_noTrap fun k hk => ?_
  rw [State.seq_updRun_run, h.run] at hk
  cases hk
  exact h.noTrap

/-- EVERYTHING THE FIRING OF A WORD CAN DO: a change of its own running block, and the response to a trap. -/
theorem fireWord_next {body : CoreIx → SeqIx → Fin 32 → Word → Word → Word → State → State}
    (hb : ∀ c q i x y z k, ∃ f, body c q i x y z k = k.updRun c q f) (h : fireWord p l r th s body = .next t) :
    ∃ f, t = (s.updRun s.focus.core s.focus.seq f).settleTrap s.focus.core s.focus.seq ∨ (t = s ∧ f = id) := by
  unfold fireWord at h
  split at h
  · cases h; exact ⟨id, .inr ⟨rfl, rfl⟩⟩
  · split at h
    · cases h; exact ⟨id, .inr ⟨rfl, rfl⟩⟩
    · split at h
      · cases h
      · cases h; exact ⟨_, .inl rfl⟩
      · split at h
        · rename_i x' y' z' _ _ _
          obtain ⟨f, hf⟩ := hb s.focus.core s.focus.seq s.focus.idx x' y' z' (s.updRun s.focus.core s.focus.seq (·.markFired s.focus.idx))
          rw [hf, State.updRun_updRun] at h
          cases h; exact ⟨_, .inl rfl⟩
        · cases h

/-- A word never ends in a refusal. -/
theorem fireWord_not_refused {body : CoreIx → SeqIx → Fin 32 → Word → Word → Word → State → State} {e : Refusal} :
    fireWord p l r th s body ≠ .refused e := by
  unfold fireWord
  (repeat' split) <;> exact fun h => by cases h

/-! ### The changes that words make, each a change of the running block -/

theorem sendTo_run (lat : Nat) (u : Target) (v : Word) : sendTo lat u v c q s = s.updRun c q (·.send lat u v) := rfl

theorem sendTo_sendTo (lat : Nat) (u w : Target) (v v' : Word) :
    sendTo lat w v' c q (sendTo lat u v c q s) = s.updRun c q fun b => (b.send lat u v).send lat w v' := by
  simp only [sendTo_run, State.updRun_updRun]; rfl

theorem later_run (i : Fin 32) (e : Effect) : later c q i e s = s.updRun c q (·.effect i e) := rfl

theorem addLoad_run (k : Load) : addLoad k c q s = s.updRun c q (·.read k) := rfl

theorem addWait_run (w : Waiting) : addWait w c q s = s.updRun c q (·.await w) := rfl

@[simp] theorem BlockRun.send_trap (b : BlockRun) (lat : Nat) (u : Target) (v : Word) : (b.send lat u v).trap = b.trap := by cases u <;> rfl
@[simp] theorem BlockRun.markFired_trap (b : BlockRun) (i : Fin 32) : (b.markFired i).trap = b.trap := rfl
@[simp] theorem BlockRun.effect_trap (b : BlockRun) (i : Fin 32) (e : Effect) : (b.effect i e).trap = b.trap := rfl
@[simp] theorem BlockRun.read_trap (b : BlockRun) (k : Load) : (b.read k).trap = b.trap := rfl
@[simp] theorem BlockRun.await_trap (b : BlockRun) (w : Waiting) : (b.await w).trap = b.trap := rfl

theorem resolveLsid_trap {n : BitVec 5} (h : b.lsids.getLsbD n.toNat = false) : (resolveLsid n b).trap = b.trap := by
  simp [resolveLsid, h]

/-! ### The shared forms -/

theorem fireBin_fires {lat : Nat} {u w : Target} {f : Word → Word → Word} (h : Fires s b p true true false x y z) :
    fireBin p lat u w f s = .next (s.fired fun b => (b.send lat u (f x y)).send lat w (f x y)) :=
  fireWord_run h (fun _ => sendTo_sendTo ..) (by simp [h.noTrap])

theorem fireUn_fires {u w : Target} {f : Word → Word} (h : Fires s b p true false false x y z) :
    fireUn p u w f s = .next (s.fired fun b => (b.send 1 u (f x)).send 1 w (f x)) :=
  fireWord_run h (fun _ => sendTo_sendTo ..) (by simp [h.noTrap])

theorem fireImm_fires {lat : Nat} {u : Target} {f : Word → Word} (h : Fires s b p true false false x y z) :
    fireImm p lat u f s = .next (s.fired fun b => b.send lat u (f x)) :=
  fireWord_run h (fun _ => rfl) (by simp [h.noTrap])

theorem fireIssue_fires {i : Instr} (h : Fires s b p l r false x y z) :
    fireIssue p l r i s = .next (s.fired fun b => b.effect s.focus.idx (.issue i x y)) :=
  fireWord_run h (fun _ => rfl) (by simp [h.noTrap])

/-- A value form reads the state in which its word is marked as fired. -/
theorem fireValue_fires {lat : Nat} {u : Target} {f : CoreIx → SeqIx → State → Word} (h : Fires s b p false false false x y z) :
    fireValue p lat u f s = .next (s.fired fun b => b.send lat u
      (f s.focus.core s.focus.seq (s.updRun s.focus.core s.focus.seq (·.markFired s.focus.idx)))) := by
  unfold fireValue
  rw [fireWord_fires h, sendTo_run, State.updRun_updRun]
  congr 1
  refine settleTrap_of_noTrap fun k hk => ?_
  rw [State.seq_updRun_run, h.run] at hk
  cases hk
  simp [h.noTrap]

end Sys2Proof.Machine
end

