-- ==== Sys2Proof/Laws/PerInstr.lean ====
section
/-! SUPPORT. One lemma per constructor of `Instr`: what its encodings are. -/

/-- An instruction has a body word, or a packet, or no encoding, never two; and the bytes by which a packet's source advances are those of its encoding. -/
def Sys2Proof.Laws.Encoding.Statement (i : Sys2Proof.Instr) : Prop :=
  (Sys2Proof.encodeWord i = none ∨ Sys2Proof.encodePacket i = none) ∧
  ∀ ws, Sys2Proof.encodePacket i = some ws → Sys2Proof.Machine.packetBytes i = 8 * ws.length

namespace Sys2Proof.Laws.Encoding

theorem add p t u : Statement (.add p t u) := ⟨.inr rfl, fun _ h => nomatch h⟩
theorem sub p t u : Statement (.sub p t u) := ⟨.inr rfl, fun _ h => nomatch h⟩
theorem mul p t u : Statement (.mul p t u) := ⟨.inr rfl, fun _ h => nomatch h⟩
theorem mulh p t u : Statement (.mulh p t u) := ⟨.inr rfl, fun _ h => nomatch h⟩
theorem mulhu p t u : Statement (.mulhu p t u) := ⟨.inr rfl, fun _ h => nomatch h⟩
theorem div p t u : Statement (.div p t u) := ⟨.inr rfl, fun _ h => nomatch h⟩
theorem divu p t u : Statement (.divu p t u) := ⟨.inr rfl, fun _ h => nomatch h⟩
theorem rem p t u : Statement (.rem p t u) := ⟨.inr rfl, fun _ h => nomatch h⟩
theorem remu p t u : Statement (.remu p t u) := ⟨.inr rfl, fun _ h => nomatch h⟩
theorem and p t u : Statement (.and p t u) := ⟨.inr rfl, fun _ h => nomatch h⟩
theorem or p t u : Statement (.or p t u) := ⟨.inr rfl, fun _ h => nomatch h⟩
theorem xor p t u : Statement (.xor p t u) := ⟨.inr rfl, fun _ h => nomatch h⟩
theorem shl p t u : Statement (.shl p t u) := ⟨.inr rfl, fun _ h => nomatch h⟩
theorem shr p t u : Statement (.shr p t u) := ⟨.inr rfl, fun _ h => nomatch h⟩
theorem sra p t u : Statement (.sra p t u) := ⟨.inr rfl, fun _ h => nomatch h⟩
theorem min p t u : Statement (.min p t u) := ⟨.inr rfl, fun _ h => nomatch h⟩
theorem minu p t u : Statement (.minu p t u) := ⟨.inr rfl, fun _ h => nomatch h⟩
theorem max p t u : Statement (.max p t u) := ⟨.inr rfl, fun _ h => nomatch h⟩
theorem maxu p t u : Statement (.maxu p t u) := ⟨.inr rfl, fun _ h => nomatch h⟩
theorem clz p t u : Statement (.clz p t u) := ⟨.inr rfl, fun _ h => nomatch h⟩
theorem popcnt p t u : Statement (.popcnt p t u) := ⟨.inr rfl, fun _ h => nomatch h⟩
theorem sextB p t u : Statement (.sextB p t u) := ⟨.inr rfl, fun _ h => nomatch h⟩
theorem sextH p t u : Statement (.sextH p t u) := ⟨.inr rfl, fun _ h => nomatch h⟩
theorem sextW p t u : Statement (.sextW p t u) := ⟨.inr rfl, fun _ h => nomatch h⟩
theorem zextB p t u : Statement (.zextB p t u) := ⟨.inr rfl, fun _ h => nomatch h⟩
theorem zextH p t u : Statement (.zextH p t u) := ⟨.inr rfl, fun _ h => nomatch h⟩
theorem zextW p t u : Statement (.zextW p t u) := ⟨.inr rfl, fun _ h => nomatch h⟩
theorem mov p t u : Statement (.mov p t u) := ⟨.inr rfl, fun _ h => nomatch h⟩
theorem not p t u : Statement (.not p t u) := ⟨.inr rfl, fun _ h => nomatch h⟩
theorem teq p t u : Statement (.teq p t u) := ⟨.inr rfl, fun _ h => nomatch h⟩
theorem tne p t u : Statement (.tne p t u) := ⟨.inr rfl, fun _ h => nomatch h⟩
theorem tlt p t u : Statement (.tlt p t u) := ⟨.inr rfl, fun _ h => nomatch h⟩
theorem tltu p t u : Statement (.tltu p t u) := ⟨.inr rfl, fun _ h => nomatch h⟩
theorem tle p t u : Statement (.tle p t u) := ⟨.inr rfl, fun _ h => nomatch h⟩
theorem tleu p t u : Statement (.tleu p t u) := ⟨.inr rfl, fun _ h => nomatch h⟩
theorem tgt p t u : Statement (.tgt p t u) := ⟨.inr rfl, fun _ h => nomatch h⟩
theorem tge p t u : Statement (.tge p t u) := ⟨.inr rfl, fun _ h => nomatch h⟩
theorem addi p imm t : Statement (.addi p imm t) := ⟨.inr rfl, fun _ h => nomatch h⟩
theorem muli p imm t : Statement (.muli p imm t) := ⟨.inr rfl, fun _ h => nomatch h⟩
theorem andi p imm t : Statement (.andi p imm t) := ⟨.inr rfl, fun _ h => nomatch h⟩
theorem ori p imm t : Statement (.ori p imm t) := ⟨.inr rfl, fun _ h => nomatch h⟩
theorem xori p imm t : Statement (.xori p imm t) := ⟨.inr rfl, fun _ h => nomatch h⟩
theorem shli p imm t : Statement (.shli p imm t) := ⟨.inr rfl, fun _ h => nomatch h⟩
theorem shri p imm t : Statement (.shri p imm t) := ⟨.inr rfl, fun _ h => nomatch h⟩
theorem srai p imm t : Statement (.srai p imm t) := ⟨.inr rfl, fun _ h => nomatch h⟩
theorem teqi p imm t : Statement (.teqi p imm t) := ⟨.inr rfl, fun _ h => nomatch h⟩
theorem tnei p imm t : Statement (.tnei p imm t) := ⟨.inr rfl, fun _ h => nomatch h⟩
theorem tlti p imm t : Statement (.tlti p imm t) := ⟨.inr rfl, fun _ h => nomatch h⟩
theorem tltui p imm t : Statement (.tltui p imm t) := ⟨.inr rfl, fun _ h => nomatch h⟩
theorem tlei p imm t : Statement (.tlei p imm t) := ⟨.inr rfl, fun _ h => nomatch h⟩
theorem tleui p imm t : Statement (.tleui p imm t) := ⟨.inr rfl, fun _ h => nomatch h⟩
theorem tgti p imm t : Statement (.tgti p imm t) := ⟨.inr rfl, fun _ h => nomatch h⟩
theorem tgei p imm t : Statement (.tgei p imm t) := ⟨.inr rfl, fun _ h => nomatch h⟩
theorem const imm t : Statement (.const imm t) := ⟨.inr rfl, fun _ h => nomatch h⟩
theorem constu imm t : Statement (.constu imm t) := ⟨.inr rfl, fun _ h => nomatch h⟩
theorem shlc imm t : Statement (.shlc imm t) := ⟨.inr rfl, fun _ h => nomatch h⟩
theorem fan3 a b c : Statement (.fan3 a b c) := ⟨.inr rfl, fun _ h => nomatch h⟩
theorem fan4 a b c d : Statement (.fan4 a b c d) := ⟨.inr rfl, fun _ h => nomatch h⟩
theorem rdcr p num t : Statement (.rdcr p num t) := ⟨.inr rfl, fun _ h => nomatch h⟩
theorem wrcr p num : Statement (.wrcr p num) := ⟨.inr rfl, fun _ h => nomatch h⟩
theorem ldB p lsid imm t : Statement (.ldB p lsid imm t) := ⟨.inr rfl, fun _ h => nomatch h⟩
theorem ldH p lsid imm t : Statement (.ldH p lsid imm t) := ⟨.inr rfl, fun _ h => nomatch h⟩
theorem ldW p lsid imm t : Statement (.ldW p lsid imm t) := ⟨.inr rfl, fun _ h => nomatch h⟩
theorem ldD p lsid imm t : Statement (.ldD p lsid imm t) := ⟨.inr rfl, fun _ h => nomatch h⟩
theorem ldQ p lsid imm t : Statement (.ldQ p lsid imm t) := ⟨.inr rfl, fun _ h => nomatch h⟩
theorem stB p lsid imm : Statement (.stB p lsid imm) := ⟨.inr rfl, fun _ h => nomatch h⟩
theorem stH p lsid imm : Statement (.stH p lsid imm) := ⟨.inr rfl, fun _ h => nomatch h⟩
theorem stW p lsid imm : Statement (.stW p lsid imm) := ⟨.inr rfl, fun _ h => nomatch h⟩
theorem stD p lsid imm : Statement (.stD p lsid imm) := ⟨.inr rfl, fun _ h => nomatch h⟩
theorem stQ lsid imm : Statement (.stQ lsid imm) := ⟨.inr rfl, fun _ h => nomatch h⟩
theorem ldpw p w size imm t : Statement (.ldpw p w size imm t) := ⟨.inr rfl, fun _ h => nomatch h⟩
theorem amoaddW p lsid t : Statement (.amoaddW p lsid t) := ⟨.inr rfl, fun _ h => nomatch h⟩
theorem amoaddD p lsid t : Statement (.amoaddD p lsid t) := ⟨.inr rfl, fun _ h => nomatch h⟩
theorem amominW p lsid t : Statement (.amominW p lsid t) := ⟨.inr rfl, fun _ h => nomatch h⟩
theorem amominD p lsid t : Statement (.amominD p lsid t) := ⟨.inr rfl, fun _ h => nomatch h⟩
theorem amomaxW p lsid t : Statement (.amomaxW p lsid t) := ⟨.inr rfl, fun _ h => nomatch h⟩
theorem amomaxD p lsid t : Statement (.amomaxD p lsid t) := ⟨.inr rfl, fun _ h => nomatch h⟩
theorem amoswapW p lsid t : Statement (.amoswapW p lsid t) := ⟨.inr rfl, fun _ h => nomatch h⟩
theorem amoswapD p lsid t : Statement (.amoswapD p lsid t) := ⟨.inr rfl, fun _ h => nomatch h⟩
theorem amocasW lsid t : Statement (.amocasW lsid t) := ⟨.inr rfl, fun _ h => nomatch h⟩
theorem amocasD lsid t : Statement (.amocasD lsid t) := ⟨.inr rfl, fun _ h => nomatch h⟩
theorem acq p lsid t : Statement (.acq p lsid t) := ⟨.inr rfl, fun _ h => nomatch h⟩
theorem rel p lsid : Statement (.rel p lsid) := ⟨.inr rfl, fun _ h => nomatch h⟩
theorem waitw p lsid t : Statement (.waitw p lsid t) := ⟨.inr rfl, fun _ h => nomatch h⟩
theorem arrive p unit : Statement (.arrive p unit) := ⟨.inr rfl, fun _ h => nomatch h⟩
theorem bwait p unit t : Statement (.bwait p unit t) := ⟨.inr rfl, fun _ h => nomatch h⟩
theorem bro p exit off : Statement (.bro p exit off) := ⟨.inr rfl, fun _ h => nomatch h⟩
theorem brx p exit off : Statement (.brx p exit off) := ⟨.inr rfl, fun _ h => nomatch h⟩
theorem bend p exit : Statement (.bend p exit) := ⟨.inr rfl, fun _ h => nomatch h⟩
theorem trap p code : Statement (.trap p code) := ⟨.inr rfl, fun _ h => nomatch h⟩
theorem brk p : Statement (.brk p) := ⟨.inr rfl, fun _ h => nomatch h⟩
theorem fence p t : Statement (.fence p t) := ⟨.inr rfl, fun _ h => nomatch h⟩
theorem nop p : Statement (.nop p) := ⟨.inr rfl, fun _ h => nomatch h⟩
theorem rdtick p t : Statement (.rdtick p t) := ⟨.inr rfl, fun _ h => nomatch h⟩
theorem rdlt p t : Statement (.rdlt p t) := ⟨.inr rfl, fun _ h => nomatch h⟩
theorem rdwall p t : Statement (.rdwall p t) := ⟨.inr rfl, fun _ h => nomatch h⟩
theorem nullst p lsid : Statement (.nullst p lsid) := ⟨.inr rfl, fun _ h => nomatch h⟩
theorem nullw p w : Statement (.nullw p w) := ⟨.inr rfl, fun _ h => nomatch h⟩
theorem cp1 p ch desc : Statement (.cp1 p ch desc) := ⟨.inr rfl, fun _ h => nomatch h⟩
theorem cp2 p ch desc : Statement (.cp2 p ch desc) := ⟨.inr rfl, fun _ h => nomatch h⟩
theorem cp3 p ch desc : Statement (.cp3 p ch desc) := ⟨.inr rfl, fun _ h => nomatch h⟩
theorem cpmc p ch desc : Statement (.cpmc p ch desc) := ⟨.inr rfl, fun _ h => nomatch h⟩
theorem cpset p ch desc : Statement (.cpset p ch desc) := ⟨.inr rfl, fun _ h => nomatch h⟩
theorem cpcmp p ch desc : Statement (.cpcmp p ch desc) := ⟨.inr rfl, fun _ h => nomatch h⟩
theorem cphash p ch desc : Statement (.cphash p ch desc) := ⟨.inr rfl, fun _ h => nomatch h⟩
theorem cpspill p ch desc : Statement (.cpspill p ch desc) := ⟨.inr rfl, fun _ h => nomatch h⟩
theorem cpunspill p ch desc : Statement (.cpunspill p ch desc) := ⟨.inr rfl, fun _ h => nomatch h⟩
theorem cpbind p ch desc : Statement (.cpbind p ch desc) := ⟨.inr rfl, fun _ h => nomatch h⟩
theorem cpchk p resv t : Statement (.cpchk p resv t) := ⟨.inr rfl, fun _ h => nomatch h⟩
theorem trec p sub : Statement (.trec p sub) := ⟨.inr rfl, fun _ h => nomatch h⟩
theorem tmark p code : Statement (.tmark p code) := ⟨.inr rfl, fun _ h => nomatch h⟩
theorem thash p : Statement (.thash p) := ⟨.inr rfl, fun _ h => nomatch h⟩
theorem tstopStop p : Statement (.tstopStop p) := ⟨.inr rfl, fun _ h => nomatch h⟩
theorem tstopStart p : Statement (.tstopStart p) := ⟨.inr rfl, fun _ h => nomatch h⟩
theorem jtab p : Statement (.jtab p) := ⟨.inr rfl, fun _ h => nomatch h⟩
theorem cfgld p n : Statement (.cfgld p n) := ⟨.inr rfl, fun _ h => nomatch h⟩
theorem cfgact p : Statement (.cfgact p) := ⟨.inr rfl, fun _ h => nomatch h⟩
theorem cfgdrop p : Statement (.cfgdrop p) := ⟨.inr rfl, fun _ h => nomatch h⟩
theorem run p : Statement (.run p) := ⟨.inr rfl, fun _ h => nomatch h⟩
theorem loop p : Statement (.loop p) := ⟨.inr rfl, fun _ h => nomatch h⟩
theorem tok p port : Statement (.tok p port) := ⟨.inr rfl, fun _ h => nomatch h⟩
theorem rdsink p n t : Statement (.rdsink p n t) := ⟨.inr rfl, fun _ h => nomatch h⟩
theorem lwait p land le t : Statement (.lwait p land le t) := ⟨.inr rfl, fun _ h => nomatch h⟩
theorem lrel p land : Statement (.lrel p land) := ⟨.inr rfl, fun _ h => nomatch h⟩
theorem mtld p n range : Statement (.mtld p n range) := ⟨.inr rfl, fun _ h => nomatch h⟩
theorem mtldw p n range : Statement (.mtldw p n range) := ⟨.inr rfl, fun _ h => nomatch h⟩
theorem mtst p n range : Statement (.mtst p n range) := ⟨.inr rfl, fun _ h => nomatch h⟩
theorem mspill p n range : Statement (.mspill p n range) := ⟨.inr rfl, fun _ h => nomatch h⟩
theorem mfill p n range : Statement (.mfill p n range) := ⟨.inr rfl, fun _ h => nomatch h⟩
theorem mma p fmt d a : Statement (.mma p fmt d a) := ⟨.inr rfl, fun _ h => nomatch h⟩
theorem mmaw p fmt d a range : Statement (.mmaw p fmt d a range) := ⟨.inr rfl, fun _ h => nomatch h⟩
theorem mchainB p n rnd clr : Statement (.mchainB p n rnd clr) := ⟨.inr rfl, fun _ h => nomatch h⟩
theorem mchainE p n : Statement (.mchainE p n) := ⟨.inr rfl, fun _ h => nomatch h⟩
theorem mzero p n : Statement (.mzero p n) := ⟨.inr rfl, fun _ h => nomatch h⟩
theorem mscacc p d q rnd int : Statement (.mscacc p d q rnd int) := ⟨.inr rfl, fun _ h => nomatch h⟩
theorem mrd p n region : Statement (.mrd p n region) := ⟨.inr rfl, fun _ h => nomatch h⟩
theorem mpin p n fmt : Statement (.mpin p n fmt) := ⟨.inr rfl, fun _ h => nomatch h⟩
theorem munpin p n : Statement (.munpin p n) := ⟨.inr rfl, fun _ h => nomatch h⟩
theorem mgdlt p n quad : Statement (.mgdlt p n quad) := ⟨.inr rfl, fun _ h => nomatch h⟩
theorem mfwrd p n quad : Statement (.mfwrd p n quad) := ⟨.inr rfl, fun _ h => nomatch h⟩
theorem mfwchunk p n quad : Statement (.mfwchunk p n quad) := ⟨.inr rfl, fun _ h => nomatch h⟩
theorem sand p d : Statement (.sand p d) := ⟨.inr rfl, fun _ h => nomatch h⟩
theorem sor p d : Statement (.sor p d) := ⟨.inr rfl, fun _ h => nomatch h⟩
theorem sxor p d : Statement (.sxor p d) := ⟨.inr rfl, fun _ h => nomatch h⟩
theorem sxnor p d : Statement (.sxnor p d) := ⟨.inr rfl, fun _ h => nomatch h⟩
theorem smux p d : Statement (.smux p d) := ⟨.inr rfl, fun _ h => nomatch h⟩
theorem snot p d : Statement (.snot p d) := ⟨.inr rfl, fun _ h => nomatch h⟩
theorem smov p d : Statement (.smov p d) := ⟨.inr rfl, fun _ h => nomatch h⟩
theorem srot p d : Statement (.srot p d) := ⟨.inr rfl, fun _ h => nomatch h⟩
theorem sfill p len d : Statement (.sfill p len d) := ⟨.inr rfl, fun _ h => nomatch h⟩
theorem scnt p acc n : Statement (.scnt p acc n) := ⟨.inr rfl, fun _ h => nomatch h⟩
theorem sgen p gen fromCount len d : Statement (.sgen p gen fromCount len d) := ⟨.inr rfl, fun _ h => nomatch h⟩
theorem sregen p gen d : Statement (.sregen p gen d) := ⟨.inr rfl, fun _ h => nomatch h⟩
theorem b2s p gen bipolar len d : Statement (.b2s p gen bipolar len d) := ⟨.inr rfl, fun _ h => nomatch h⟩
theorem b2sv p gen bipolar len d : Statement (.b2sv p gen bipolar len d) := ⟨.inr rfl, fun _ h => nomatch h⟩
theorem s2b p bipolar a : Statement (.s2b p bipolar a) := ⟨.inr rfl, fun _ h => nomatch h⟩
theorem sld p len d : Statement (.sld p len d) := ⟨.inr rfl, fun _ h => nomatch h⟩
theorem sst p a : Statement (.sst p a) := ⟨.inr rfl, fun _ h => nomatch h⟩
theorem sgset p gen : Statement (.sgset p gen) := ⟨.inr rfl, fun _ h => nomatch h⟩
theorem pkNop tag size : Statement (.pkNop tag size) := ⟨.inl rfl, fun ws h => by cases h; simp [Machine.packetBytes]; omega⟩
theorem pkLaunch tag rcb tokens dep : Statement (.pkLaunch tag rcb tokens dep) := ⟨.inl rfl, fun ws h => by cases h; rfl⟩
theorem pkIb tag addr len : Statement (.pkIb tag addr len) := ⟨.inl rfl, fun ws h => by cases h; rfl⟩
theorem pkPred tag addr value cond count : Statement (.pkPred tag addr value cond count) := ⟨.inl rfl, fun ws h => by cases h; rfl⟩
theorem pkLoop tag count body : Statement (.pkLoop tag count body) := ⟨.inl rfl, fun ws h => by cases h; rfl⟩
theorem pkWait tag addr value cond timeout : Statement (.pkWait tag addr value cond timeout) := ⟨.inl rfl, fun ws h => by cases h; rfl⟩
theorem pkSignal tag addr value op after irq vector errval : Statement (.pkSignal tag addr value op after irq vector errval) := ⟨.inl rfl, fun ws h => by cases h; rfl⟩
theorem pkFfence tag : Statement (.pkFfence tag) := ⟨.inl rfl, fun ws h => by cases h; rfl⟩
theorem pkMode tag launch mode urgent : Statement (.pkMode tag launch mode urgent) := ⟨.inl rfl, fun ws h => by cases h; rfl⟩
theorem pkGraphRun tag g : Statement (.pkGraphRun tag g) := ⟨.inl rfl, fun ws h => by cases h; rfl⟩
theorem pkGraphLoad tag g addr len : Statement (.pkGraphLoad tag g addr len) := ⟨.inl rfl, fun ws h => by cases h; rfl⟩
theorem pkGraphUnload tag g : Statement (.pkGraphUnload tag g) := ⟨.inl rfl, fun ws h => by cases h; rfl⟩
theorem pkBind tag g cls launch : Statement (.pkBind tag g cls launch) := ⟨.inl rfl, fun ws h => by cases h; rfl⟩
theorem pkUnbind tag g cls launch : Statement (.pkUnbind tag g cls launch) := ⟨.inl rfl, fun ws h => by cases h; rfl⟩
theorem pkIngress tag id src dst len : Statement (.pkIngress tag id src dst len) := ⟨.inl rfl, fun ws h => by cases h; rfl⟩
theorem pkCopy tag src dst len : Statement (.pkCopy tag src dst len) := ⟨.inl rfl, fun ws h => by cases h; rfl⟩
theorem pkEnd tag : Statement (.pkEnd tag) := ⟨.inl rfl, fun ws h => by cases h; rfl⟩
theorem endCompletion q : Statement (.endCompletion q) := ⟨.inr rfl, fun _ h => nomatch h⟩
theorem pkWaitTimeout src : Statement (.pkWaitTimeout src) := ⟨.inr rfl, fun _ h => nomatch h⟩
theorem signalWrite src : Statement (.signalWrite src) := ⟨.inr rfl, fun _ h => nomatch h⟩
theorem launchRefused src packet : Statement (.launchRefused src packet) := ⟨.inr rfl, fun _ h => nomatch h⟩
theorem queueEnable q sizelog : Statement (.queueEnable q sizelog) := ⟨.inr rfl, fun _ h => nomatch h⟩
theorem queueDiscard q : Statement (.queueDiscard q) := ⟨.inr rfl, fun _ h => nomatch h⟩
theorem queueResume q : Statement (.queueResume q) := ⟨.inr rfl, fun _ h => nomatch h⟩
theorem graphTrigger source g : Statement (.graphTrigger source g) := ⟨.inr rfl, fun _ h => nomatch h⟩
theorem graphRunStart : Statement (.graphRunStart) := ⟨.inr rfl, fun _ h => nomatch h⟩
theorem graphRunEnd g : Statement (.graphRunEnd g) := ⟨.inr rfl, fun _ h => nomatch h⟩
theorem mailboxMessage src dst typ a b c : Statement (.mailboxMessage src dst typ a b c) := ⟨.inr rfl, fun _ h => nomatch h⟩
theorem launchPlacement : Statement (.launchPlacement) := ⟨.inr rfl, fun _ h => nomatch h⟩
theorem originTick l : Statement (.originTick l) := ⟨.inr rfl, fun _ h => nomatch h⟩
theorem entryDue c q : Statement (.entryDue c q) := ⟨.inr rfl, fun _ h => nomatch h⟩
theorem instanceBoundary l : Statement (.instanceBoundary l) := ⟨.inr rfl, fun _ h => nomatch h⟩
theorem boundaryFreezeEnd l : Statement (.boundaryFreezeEnd l) := ⟨.inr rfl, fun _ h => nomatch h⟩
theorem switchPoint l : Statement (.switchPoint l) := ⟨.inr rfl, fun _ h => nomatch h⟩
theorem urgentSwitch l : Statement (.urgentSwitch l) := ⟨.inr rfl, fun _ h => nomatch h⟩
theorem overrun c q : Statement (.overrun c q) := ⟨.inr rfl, fun _ h => nomatch h⟩
theorem fallbackDeadline c q : Statement (.fallbackDeadline c q) := ⟨.inr rfl, fun _ h => nomatch h⟩
theorem ucieRetrainStep link ticks : Statement (.ucieRetrainStep link ticks) := ⟨.inr rfl, fun _ h => nomatch h⟩
theorem haltingFreeze l : Statement (.haltingFreeze l) := ⟨.inr rfl, fun _ h => nomatch h⟩
theorem haltingFreezeEnd l : Statement (.haltingFreezeEnd l) := ⟨.inr rfl, fun _ h => nomatch h⟩
theorem preemption l : Statement (.preemption l) := ⟨.inr rfl, fun _ h => nomatch h⟩
theorem drainKill c q : Statement (.drainKill c q) := ⟨.inr rfl, fun _ h => nomatch h⟩
theorem swapOut c : Statement (.swapOut c) := ⟨.inr rfl, fun _ h => nomatch h⟩
theorem swapOutEnd c : Statement (.swapOutEnd c) := ⟨.inr rfl, fun _ h => nomatch h⟩
theorem restore l : Statement (.restore l) := ⟨.inr rfl, fun _ h => nomatch h⟩
theorem engineStepRestart c u : Statement (.engineStepRestart c u) := ⟨.inr rfl, fun _ h => nomatch h⟩
theorem launchResume l : Statement (.launchResume l) := ⟨.inr rfl, fun _ h => nomatch h⟩
theorem blockCommit c q : Statement (.blockCommit c q) := ⟨.inr rfl, fun _ h => nomatch h⟩
theorem noexit c q : Statement (.noexit c q) := ⟨.inr rfl, fun _ h => nomatch h⟩
theorem incomplete c q : Statement (.incomplete c q) := ⟨.inr rfl, fun _ h => nomatch h⟩
theorem waitwWake c q i : Statement (.waitwWake c q i) := ⟨.inr rfl, fun _ h => nomatch h⟩
theorem bwaitWake c q i : Statement (.bwaitWake c q i) := ⟨.inr rfl, fun _ h => nomatch h⟩
theorem fenceDeliver c q i : Statement (.fenceDeliver c q i) := ⟨.inr rfl, fun _ h => nomatch h⟩
theorem lwaitWake c q i : Statement (.lwaitWake c q i) := ⟨.inr rfl, fun _ h => nomatch h⟩
theorem relKeyWrite c q : Statement (.relKeyWrite c q) := ⟨.inr rfl, fun _ h => nomatch h⟩
theorem barrierArrival c unit : Statement (.barrierArrival c unit) := ⟨.inr rfl, fun _ h => nomatch h⟩
theorem barrierConfig c q value : Statement (.barrierConfig c q value) := ⟨.inr rfl, fun _ h => nomatch h⟩
theorem slotTransfer c ch : Statement (.slotTransfer c ch) := ⟨.inr rfl, fun _ h => nomatch h⟩
theorem translationWalk c ch : Statement (.translationWalk c ch) := ⟨.inr rfl, fun _ h => nomatch h⟩
theorem rangeTableInstall c ch : Statement (.rangeTableInstall c ch) := ⟨.inr rfl, fun _ h => nomatch h⟩
theorem completionWordWrite c ch : Statement (.completionWordWrite c ch) := ⟨.inr rfl, fun _ h => nomatch h⟩
theorem cphost c ch : Statement (.cphost c ch) := ⟨.inr rfl, fun _ h => nomatch h⟩
theorem regionCommandStart c r : Statement (.regionCommandStart c r) := ⟨.inr rfl, fun _ h => nomatch h⟩
theorem roundEnd c r : Statement (.roundEnd c r) := ⟨.inr rfl, fun _ h => nomatch h⟩
theorem matrixCommandStart c : Statement (.matrixCommandStart c) := ⟨.inr rfl, fun _ h => nomatch h⟩
theorem kStepEnd c : Statement (.kStepEnd c) := ⟨.inr rfl, fun _ h => nomatch h⟩
theorem matrixCommandComplete c u : Statement (.matrixCommandComplete c u) := ⟨.inr rfl, fun _ h => nomatch h⟩
theorem stochasticCommandStart c : Statement (.stochasticCommandStart c) := ⟨.inr rfl, fun _ h => nomatch h⟩
theorem stochasticEffect c u : Statement (.stochasticEffect c u) := ⟨.inr rfl, fun _ h => nomatch h⟩
theorem cellarRecordPlace : Statement (.cellarRecordPlace) := ⟨.inr rfl, fun _ h => nomatch h⟩
theorem loss : Statement (.loss) := ⟨.inr rfl, fun _ h => nomatch h⟩
theorem profSample : Statement (.profSample) := ⟨.inr rfl, fun _ h => nomatch h⟩
theorem scan : Statement (.scan) := ⟨.inr rfl, fun _ h => nomatch h⟩
theorem exportBuild first last : Statement (.exportBuild first last) := ⟨.inr rfl, fun _ h => nomatch h⟩
theorem tstopEffect : Statement (.tstopEffect) := ⟨.inr rfl, fun _ h => nomatch h⟩
theorem clostRead part : Statement (.clostRead part) := ⟨.inr rfl, fun _ h => nomatch h⟩
theorem plostRead part : Statement (.plostRead part) := ⟨.inr rfl, fun _ h => nomatch h⟩
theorem halt l : Statement (.halt l) := ⟨.inr rfl, fun _ h => nomatch h⟩
theorem step l c u : Statement (.step l c u) := ⟨.inr rfl, fun _ h => nomatch h⟩
theorem resume l : Statement (.resume l) := ⟨.inr rfl, fun _ h => nomatch h⟩
theorem debugStop l : Statement (.debugStop l) := ⟨.inr rfl, fun _ h => nomatch h⟩
theorem drainTimeout l : Statement (.drainTimeout l) := ⟨.inr rfl, fun _ h => nomatch h⟩
theorem stepDone l : Statement (.stepDone l) := ⟨.inr rfl, fun _ h => nomatch h⟩
theorem stepTimeout l : Statement (.stepTimeout l) := ⟨.inr rfl, fun _ h => nomatch h⟩
theorem replayTickPreset v : Statement (.replayTickPreset v) := ⟨.inr rfl, fun _ h => nomatch h⟩
theorem registerWrite off size value : Statement (.registerWrite off size value) := ⟨.inr rfl, fun _ h => nomatch h⟩
theorem hostBar2Read addr len : Statement (.hostBar2Read addr len) := ⟨.inr rfl, fun _ h => nomatch h⟩
theorem hostBar2Write addr data : Statement (.hostBar2Write addr data) := ⟨.inr rfl, fun _ h => nomatch h⟩
theorem hostAtomicop addr op size operand compare : Statement (.hostAtomicop addr op size operand compare) := ⟨.inr rfl, fun _ h => nomatch h⟩
theorem ptmDialogue t1 t4 : Statement (.ptmDialogue t1 t4) := ⟨.inr rfl, fun _ h => nomatch h⟩
theorem linkDown : Statement (.linkDown) := ⟨.inr rfl, fun _ h => nomatch h⟩
theorem ptpSync offset : Statement (.ptpSync offset) := ⟨.inr rfl, fun _ h => nomatch h⟩
theorem ppsEdge : Statement (.ppsEdge) := ⟨.inr rfl, fun _ h => nomatch h⟩
theorem holdover : Statement (.holdover) := ⟨.inr rfl, fun _ h => nomatch h⟩
theorem holdoverExpiry : Statement (.holdoverExpiry) := ⟨.inr rfl, fun _ h => nomatch h⟩
theorem incWrite v : Statement (.incWrite v) := ⟨.inr rfl, fun _ h => nomatch h⟩
theorem coreMarkedDefective c : Statement (.coreMarkedDefective c) := ⟨.inr rfl, fun _ h => nomatch h⟩
theorem channelFenced ch : Statement (.channelFenced ch) := ⟨.inr rfl, fun _ h => nomatch h⟩
theorem ucieLaneLost link : Statement (.ucieLaneLost link) := ⟨.inr rfl, fun _ h => nomatch h⟩
theorem ucieModuleLost link : Statement (.ucieModuleLost link) := ⟨.inr rfl, fun _ h => nomatch h⟩
theorem interDieLinkLost link : Statement (.interDieLinkLost link) := ⟨.inr rfl, fun _ h => nomatch h⟩
theorem moduleReset cause bootOk : Statement (.moduleReset cause bootOk) := ⟨.inr rfl, fun _ h => nomatch h⟩
theorem supplyCollapse : Statement (.supplyCollapse) := ⟨.inr rfl, fun _ h => nomatch h⟩
theorem lifecycleChange target authorised : Statement (.lifecycleChange target authorised) := ⟨.inr rfl, fun _ h => nomatch h⟩
theorem attestationRequest nonce : Statement (.attestationRequest nonce) := ⟨.inr rfl, fun _ h => nomatch h⟩
theorem safetyModeRequest : Statement (.safetyModeRequest) := ⟨.inr rfl, fun _ h => nomatch h⟩
theorem heartbeatToggle : Statement (.heartbeatToggle) := ⟨.inr rfl, fun _ h => nomatch h⟩
theorem watchdogMiss core : Statement (.watchdogMiss core) := ⟨.inr rfl, fun _ h => nomatch h⟩
theorem thermalEvent celsius : Statement (.thermalEvent celsius) := ⟨.inr rfl, fun _ h => nomatch h⟩
theorem throttleStepBack : Statement (.throttleStepBack) := ⟨.inr rfl, fun _ h => nomatch h⟩
theorem thermalTrip : Statement (.thermalTrip) := ⟨.inr rfl, fun _ h => nomatch h⟩
theorem smonMreqLow : Statement (.smonMreqLow) := ⟨.inr rfl, fun _ h => nomatch h⟩
theorem hostRequestCompletion c ch ok : Statement (.hostRequestCompletion c ch ok) := ⟨.inr rfl, fun _ h => nomatch h⟩
theorem pageMove old new size : Statement (.pageMove old new size) := ⟨.inr rfl, fun _ h => nomatch h⟩
theorem retentionStoreClear : Statement (.retentionStoreClear) := ⟨.inr rfl, fun _ h => nomatch h⟩
theorem yaretteExportLoad records : Statement (.yaretteExportLoad records) := ⟨.inr rfl, fun _ h => nomatch h⟩
theorem configurationLoadComplete c r : Statement (.configurationLoadComplete c r) := ⟨.inr rfl, fun _ h => nomatch h⟩
theorem linkTraining width gts : Statement (.linkTraining width gts) := ⟨.inr rfl, fun _ h => nomatch h⟩

end Sys2Proof.Laws.Encoding
end

