-- ==== Sys2Proof/Laws/Readers.lean ====
section
/-! SUPPORT. What the readers of the state show to a word does not change when the word's block is marked as fired. -/

namespace Sys2Proof.Machine
variable {s : State} {c d : CoreIx} {q : SeqIx} {f : BlockRun → BlockRun}

/-! ### What the state shows is the same to a word that is being marked as fired -/

@[simp] theorem core_launch_updRun : ((s.updRun c q f).core d).launch = (s.core d).launch := by rw [State.core_updRun]

@[simp] theorem coreLaunch_updRun : (s.updRun c q f).coreLaunch? d = s.coreLaunch? d := by
  unfold State.coreLaunch? State.launch?; rw [core_launch_updRun]; rfl

theorem pantryPhys_updRun (a : Nat) : (s.updRun c q f).pantryPhys d a = s.pantryPhys d a := by
  unfold State.pantryPhys; rw [coreLaunch_updRun]

theorem rho_updRun (b : Bool) (a : Nat) : (s.updRun c q f).rho d b a = s.rho d b a := by
  unfold State.rho; rw [pantryPhys_updRun]

theorem lsidRec_updRun (a : BitVec 24) (n : BitVec 5) : (s.updRun c q f).lsidRec? d a n = s.lsidRec? d a n := by
  unfold State.lsidRec?; rw [State.core_updRun]

theorem locate_updRun (hf : ∀ b, (f b).addr = b.addr) (n : BitVec 5) (a : Word) (k : Nat) :
    (s.updRun c q f).locate c q n a k = s.locate c q n a k := by
  unfold State.locate
  rw [State.seq_updRun_run]
  cases (s.seq c q).run with
  | none => rfl
  | some b => simp only [Option.map_some, lsidRec_updRun, hf]

theorem act_updRun : ((s.updRun c q f).seq c q).act = (s.seq c q).act := by rw [State.seq_updRun]

theorem window_updRun (w : Fin 8) : (s.updRun c q f).window? c q w = s.window? c q w := by
  unfold State.window?; rw [act_updRun]

theorem launchTime_updRun : (s.updRun c q f).launchTime c q = s.launchTime c q := by
  unfold State.launchTime; rw [act_updRun]; rfl

theorem storeWord_updRun (a : Nat) : (s.updRun c q f).storeWord d a = s.storeWord d a := by
  unfold State.storeWord; rw [State.core_updRun]

theorem jump_updRun (t : BitVec 24) (n : Nat) : (s.updRun c q f).jump d t n = s.jump d t n := by
  unfold State.jump; simp only [storeWord_updRun, State.core_updRun]; rfl

theorem descDw_updRun (n k : Nat) : (s.updRun c q f).descDw d n k = s.descDw d n k := by
  unfold State.descDw; rw [State.core_updRun]

theorem ctx_updRun : (s.updRun c q f).ctx d = { s.ctx d with seqs := ((s.updRun c q f).ctx d).seqs } := by
  rw [← State.core_ctx, State.core_updRun]

theorem checkResv_updRun (n : Nat) : (s.updRun c q f).checkResv d n = s.checkResv d n := by
  unfold State.checkResv State.resv?
  rw [coreLaunch_updRun]
  split
  · simp only [descDw_updRun]; rw [ctx_updRun (d := coreAt _ _)]; rfl
  · rfl

theorem readFb_updRun (n : Nat) : (s.updRun c q f).readFb c q n = s.readFb c q n := by
  unfold State.readFb State.regionDecl?
  rw [coreLaunch_updRun]
  split
  · rw [ctx_updRun (d := c), State.seq_updRun]
  · rfl

theorem tilePhys_updRun (t : Nat) : (s.updRun c q f).tilePhys d t = s.tilePhys d t := by
  unfold State.tilePhys State.slices; rw [coreLaunch_updRun]

theorem matrix_updRun : ((s.updRun c q f).ctx d).matrix = (s.ctx d).matrix := by rw [ctx_updRun]

theorem readMx_updRun (n : Nat) : (s.updRun c q f).readMx d n = s.readMx d n := by
  unfold State.readMx; simp only [tilePhys_updRun, matrix_updRun]

theorem readSs_updRun (n : Nat) : (s.updRun c q f).readSs d n = s.readSs d n := by
  have h : ((s.updRun c q f).ctx d).stoch = (s.ctx d).stoch := by rw [ctx_updRun]
  unfold State.readSs; simp only [h]

theorem readCp_updRun (n : Nat) : (s.updRun c q f).readCp d n = s.readCp d n := by
  unfold State.readCp
  have : CopyChan.status (s.updRun c q f) = CopyChan.status s := by funext k; unfold CopyChan.status; rfl
  rw [ctx_updRun, this]

theorem readTr_updRun (n : Nat) : (s.updRun c q f).readTr c q n = s.readTr c q n := by
  unfold State.readTr
  rw [coreLaunch_updRun, State.core_updRun, State.seq_updRun]

theorem barStat_updRun : (s.updRun c q f).barStat c q = s.barStat c q := by
  have h : ((s.updRun c q f).ctx c).barriers = (s.ctx c).barriers := by rw [ctx_updRun]
  have g : ((s.updRun c q f).seq c q).barUnit = (s.seq c q).barUnit := by rw [State.seq_updRun]
  unfold State.barStat; simp only [h, g]

/-- A control register reads the same (R226). -/
theorem readCr_updRun (n : Nat) : (s.updRun c q f).readCr c q n = s.readCr c q n := by
  unfold State.readCr State.sqPlace State.sqMode State.sqSlice State.drainsNow
  simp only [barStat_updRun, readFb_updRun, readMx_updRun, readSs_updRun, readCp_updRun, readTr_updRun, coreLaunch_updRun, State.seq_updRun]
  rfl

end Sys2Proof.Machine
end

