-- ==== Sys2Proof/Laws/Sparse.lean ====
section
/-! SUPPORT. The canonical form of sparse data: every operation keeps it, and what is read after a write. -/

namespace Sys2Proof.Machine

variable {α : Type} [DecidableEq α] {d : α} {m : Sparse α} {lo hi a b n : Nat} {x : α}

theorem sparseWf_mono (h : sparseWf d hi m = true) (hl : lo ≤ hi) : sparseWf d lo m = true := by
  cases m with
  | nil => rfl
  | cons e t =>
    simp only [sparseWf, Bool.and_eq_true, decide_eq_true_eq] at h ⊢
    exact ⟨⟨by omega, h.1.2⟩, h.2⟩

theorem sparsePut_wf (h : sparseWf d lo m = true) (ha : lo ≤ a) : sparseWf d lo (sparsePut d m a x) = true := by
  induction m generalizing lo with
  | nil => simp only [sparsePut]; split <;> simp_all [sparseWf]
  | cons e t ih =>
    obtain ⟨k, v⟩ := e
    simp only [sparseWf, Bool.and_eq_true, decide_eq_true_eq] at h
    simp only [sparsePut]
    split
    · split
      · simp_all [sparseWf]
      · simp only [sparseWf, Bool.and_eq_true, decide_eq_true_eq]
        exact ⟨⟨ha, by assumption⟩, ⟨by omega, h.1.2⟩, h.2⟩
    · split
      · split
        · exact sparseWf_mono h.2 (by omega)
        · simp only [sparseWf, Bool.and_eq_true, decide_eq_true_eq]
          exact ⟨⟨ha, by assumption⟩, by subst_vars; exact h.2⟩
      · simp only [sparseWf, Bool.and_eq_true, decide_eq_true_eq]
        exact ⟨h.1, ih h.2 (by omega)⟩

/-- Below every listed key a canonical map reads as the default. -/
theorem sparseGet_below (h : sparseWf d lo m = true) (ha : a < lo) : sparseGet d m a = d := by
  cases m with
  | nil => rfl
  | cons e t =>
    simp only [sparseWf, Bool.and_eq_true, decide_eq_true_eq] at h
    simp only [sparseGet]
    rw [if_neg (by omega), if_pos (by omega)]

theorem sparseGet_put (h : sparseWf d lo m = true) : sparseGet d (sparsePut d m a x) b = if b = a then x else sparseGet d m b := by
  induction m generalizing lo with
  | nil =>
    simp only [sparsePut]
    split <;> rename_i hx
    · simp [sparseGet, hx]
    · simp only [sparseGet]; split <;> split <;> first | rfl | omega | (split <;> first | rfl | omega)
  | cons e t ih =>
    obtain ⟨k, v⟩ := e
    have h' := h
    simp only [sparseWf, Bool.and_eq_true, decide_eq_true_eq] at h
    have hb := fun c (hc : c < k + 1) => sparseGet_below (a := c) h.2 hc
    simp only [sparsePut]
    split
    · split
      · by_cases hba : b = a
        · subst hba
          simp only [sparseGet, if_true]
          rw [if_neg (by omega), if_pos (by omega)]; exact Eq.symm (by assumption)
        · rw [if_neg hba]
      · by_cases hba : b = a
        · subst hba; simp [sparseGet]
        · rw [if_neg hba]
          simp only [sparseGet]
          rw [if_neg (by omega)]
          by_cases hlt : b < a
          · rw [if_pos hlt, if_neg (by omega), if_pos (by omega)]
          · rw [if_neg hlt]
    · split
      · subst_vars
        split
        · by_cases hba : b = k
          · subst hba; rw [if_pos rfl, hb b (by omega)]; exact Eq.symm (by assumption)
          · rw [if_neg hba]
            simp only [sparseGet]
            rw [if_neg (fun h => hba h.symm)]
            by_cases hlt : b < k
            · rw [if_pos hlt, hb b (by omega)]
            · rw [if_neg hlt]
        · by_cases hba : b = k
          · subst hba; simp [sparseGet]
          · simp only [sparseGet, if_neg hba, if_neg (fun h => hba (Eq.symm h))]
      · simp only [sparseGet]
        by_cases hkb : k = b
        · subst hkb; simp only [if_true]; rw [if_neg (by omega)]
        · rw [if_neg hkb, if_neg hkb]
          by_cases hlt : b < k
          · simp only [if_pos hlt]; rw [if_neg (by omega)]
          · simp only [if_neg hlt]; exact ih h.2

/-- Canonical maps that read alike are equal. -/
theorem sparse_ext {m' : Sparse α} (h : sparseWf d lo m = true) (h' : sparseWf d lo m' = true)
    (heq : ∀ a, sparseGet d m a = sparseGet d m' a) : m = m' := by
  induction m generalizing m' lo with
  | nil =>
    cases m' with
    | nil => rfl
    | cons e t =>
      have := heq e.1
      simp only [sparseWf, Bool.and_eq_true, decide_eq_true_eq] at h'
      simp [sparseGet] at this
      exact absurd this.symm h'.1.2
  | cons e t ih =>
    obtain ⟨k, v⟩ := e
    have h0 := h
    simp only [sparseWf, Bool.and_eq_true, decide_eq_true_eq] at h
    cases m' with
    | nil =>
      have := heq k
      simp [sparseGet] at this
      exact absurd this h.1.2
    | cons e' t' =>
      obtain ⟨k', v'⟩ := e'
      simp only [sparseWf, Bool.and_eq_true, decide_eq_true_eq] at h'
      have hk : k = k' := by
        rcases Nat.lt_trichotomy k k' with hlt | he | hgt
        · have := heq k
          simp only [sparseGet, if_true] at this
          rw [if_neg (by omega), if_pos hlt] at this
          exact absurd this h.1.2
        · exact he
        · have := heq k'
          simp only [sparseGet, if_true] at this
          rw [if_neg (by omega), if_pos hgt] at this
          exact absurd this.symm h'.1.2
      subst hk
      have hv : v = v' := by simpa [sparseGet] using heq k
      subst hv
      congr 1
      refine ih h.2 h'.2 fun a => ?_
      by_cases ha : a < k + 1
      · rw [sparseGet_below h.2 ha, sparseGet_below h'.2 ha]
      · have := heq a
        simp only [sparseGet] at this
        rwa [if_neg (by omega), if_neg (by omega), if_neg (by omega), if_neg (by omega)] at this

theorem sparseWf_filter (p : Nat × α → Bool) (h : sparseWf d lo m = true) : sparseWf d lo (m.filter p) = true := by
  induction m generalizing lo with
  | nil => rfl
  | cons e t ih =>
    simp only [sparseWf, Bool.and_eq_true, decide_eq_true_eq] at h
    simp only [List.filter]
    split
    · simp only [sparseWf, Bool.and_eq_true, decide_eq_true_eq]; exact ⟨h.1, ih h.2⟩
    · exact sparseWf_mono (ih h.2) (by omega)

theorem sparseClear_wf (h : sparseWf d lo m = true) : sparseWf d lo (sparseClear m a n) = true := sparseWf_filter _ h

theorem sparseGet_clear (h : sparseWf d lo m = true) :
    sparseGet d (sparseClear m a n) b = if a ≤ b ∧ b < a + n then d else sparseGet d m b := by
  induction m generalizing lo with
  | nil => simp [sparseClear, sparseGet]
  | cons e t ih =>
    obtain ⟨k, v⟩ := e
    simp only [sparseWf, Bool.and_eq_true, decide_eq_true_eq] at h
    have ih := ih h.2
    have hw := sparseClear_wf (a := a) (n := n) h.2
    simp only [sparseClear] at ih hw ⊢
    by_cases hin : a ≤ k ∧ k < a + n
    · rw [List.filter_cons_of_neg (by simp [hin.1, hin.2]), ih]
      split
      · rfl
      · rename_i hb
        simp only [sparseGet]
        rw [if_neg (by omega)]
        split
        · rw [sparseGet_below h.2 (by omega)]
        · rfl
    · rw [List.filter_cons_of_pos (by simp; omega)]
      simp only [sparseGet]
      by_cases hkb : k = b
      · subst hkb; rw [if_pos rfl, if_pos rfl, if_neg hin]
      · rw [if_neg hkb, if_neg hkb]
        by_cases hlt : b < k
        · rw [if_pos hlt, if_pos hlt]; split <;> rfl
        · rw [if_neg hlt, if_neg hlt, ih]

/-! ### Memories -/

variable {mem : Memory} {v : Nat} {bs : List Byte}

@[simp] theorem Memory.wf_nil : Memory.wf [] = true := rfl

theorem writeByte_wf {y : Byte} (h : Memory.wf mem = true) : Memory.wf (writeByte mem a y) = true := sparsePut_wf h (Nat.zero_le _)

theorem writeBytes_wf (h : Memory.wf mem = true) : Memory.wf (writeBytes mem a bs) = true := by
  induction bs generalizing mem a with
  | nil => exact h
  | cons y t ih => exact ih (writeByte_wf h)

theorem writeLE_wf (h : Memory.wf mem = true) : Memory.wf (writeLE mem a n v) = true := writeBytes_wf h

theorem memory_clear_wf (h : Memory.wf mem = true) : Memory.wf (sparseClear mem a n) = true := sparseClear_wf h

theorem moveSpan_wf (h : Memory.wf mem = true) : Memory.wf (moveSpan mem a b n) = true := by
  unfold moveSpan
  generalize (mem.filter _) = l
  have : Memory.wf (sparseClear mem b n) = true := sparseClear_wf h
  revert this
  generalize sparseClear mem b n = k
  induction l generalizing k with
  | nil => exact id
  | cons e t ih => exact fun hk => ih _ (writeByte_wf hk)

theorem memOf_wf : ∀ (l : List Byte) (base : Nat), sparseWf (0 : Byte) base (memOf base l) = true
  | [], _ => rfl
  | b :: t, base => by
    simp only [memOf]
    split
    · exact sparseWf_mono (memOf_wf t (base + 1)) (by omega)
    · simp only [sparseWf, Bool.and_eq_true, decide_eq_true_eq]
      exact ⟨⟨Nat.le_refl _, by assumption⟩, memOf_wf t (base + 1)⟩

theorem readByte_writeByte {y : Byte} (h : Memory.wf mem = true) : readByte (writeByte mem a y) b = if b = a then y else readByte mem b :=
  sparseGet_put h

/-- A write leaves every other byte alone. -/
theorem readByte_writeBytes_outside (h : Memory.wf mem = true) (hb : b < a ∨ a + bs.length ≤ b) :
    readByte (writeBytes mem a bs) b = readByte mem b := by
  induction bs generalizing mem a with
  | nil => rfl
  | cons y t ih =>
    simp only [List.length_cons] at hb
    rw [writeBytes, ih (writeByte_wf h) (by omega), readByte_writeByte h, if_neg (by omega)]

/-- A read after a write to the same place gives the value written. -/
theorem readByte_writeBytes_inside (h : Memory.wf mem = true) (i : Nat) (hi : i < bs.length) :
    readByte (writeBytes mem a bs) (a + i) = bs[i] := by
  induction bs generalizing mem a i with
  | nil => exact absurd hi (Nat.not_lt_zero _)
  | cons y t ih =>
    cases i with
    | zero =>
      rw [writeBytes, readByte_writeBytes_outside (writeByte_wf h) (by omega), readByte_writeByte h]; simp
    | succ j =>
      have := ih (mem := writeByte mem a y) (a := a + 1) (writeByte_wf h) j (by simpa using hi)
      rw [writeBytes, show a + (j + 1) = a + 1 + j by omega]; simpa using this

end Sys2Proof.Machine
end

