-- ==== Sys2Proof/Tests/Slice0.lean ====
section
/-! SUPPORT. Tests: ill-formed instructions, words and packets written out from their encodings, worked values of the manual, single steps, and for every statement with hypotheses a state and operands that meet them. -/

namespace Sys2Proof
open Machine
section
set_option Elab.async false

/-! ### Ill-formed instructions are refused -/

/-- R178: a `fan4` cannot name a predicate slot, a write slot, or the right operand of instruction 31. -/
theorem test_wf_refuses_fan4 :
    (Instr.fan4 (.gate 3) .null .null .null).wf = false ∧ (Instr.fan4 .null (.slot 0) .null .null).wf = false ∧
    (Instr.fan4 .null .null (.right 31) .null).wf = false ∧ (Instr.fan4 (.left 31) (.right 30) .null .null).wf = true := by and_intros <;> rfl

/-- R179: the pair of a 16-byte target must exist. -/
theorem test_wf_refuses_pairs :
    (Instr.ldQ .always 0 0 (.left 31)).wf = false ∧ (Instr.ldQ .always 0 0 (.slot 7)).wf = false ∧ (Instr.ldQ .always 0 0 (.slot 6)).wf = true ∧
    (Instr.ldpw .always 0 .b16 0 (.right 31)).wf = false ∧ (Instr.ldpw .always 0 .b8 0 (.right 31)).wf = true := by and_intros <;> rfl

/-- R235: the target of an atomic is a write slot or null. -/
theorem test_wf_refuses_atomics :
    (Instr.amoaddW .always 0 (.left 1)).wf = false ∧ (Instr.amoaddD .always 0 (.right 1)).wf = false ∧ (Instr.amominW .always 0 (.gate 1)).wf = false ∧
    (Instr.amominD .always 0 (.left 1)).wf = false ∧ (Instr.amomaxW .always 0 (.left 1)).wf = false ∧ (Instr.amomaxD .always 0 (.left 1)).wf = false ∧
    (Instr.amoswapW .always 0 (.left 1)).wf = false ∧ (Instr.amoswapD .always 0 (.left 1)).wf = false ∧ (Instr.amocasW 0 (.left 1)).wf = false ∧
    (Instr.amocasD 0 (.gate 1)).wf = false ∧ (Instr.amocasD 0 (.slot 1)).wf = true := by and_intros <;> rfl

/-- R338, R342, R345, R348: roundings, tiles and formats that the matrix engine refuses. -/
theorem test_wf_refuses_matrix :
    (Instr.mchainB .always 1 .rsr false).wf = false ∧ (Instr.mscacc .always 1 2 .rsr false).wf = false ∧ (Instr.mscacc .always 1 1 .rne false).wf = false ∧
    (Instr.mscacc .always 1 2 .rne false).wf = true ∧ (Instr.mpin .always 1 .bf16).wf = false ∧ (Instr.mpin .always 1 .fp32).wf = true := by and_intros <;> rfl

/-- R403, R406: alignment, counts and lengths of packets. -/
theorem test_wf_refuses_packets :
    (Instr.pkLaunch 0 32 0 false).wf = false ∧ (Instr.pkIb 0 4 1).wf = false ∧ (Instr.pkIb 0 8 0).wf = false ∧ (Instr.pkPred 0 4 0 .eq 1).wf = false ∧
    (Instr.pkPred 0 8 0 .eq 0).wf = false ∧ (Instr.pkLoop 0 0 1).wf = false ∧ (Instr.pkLoop 0 1 0).wf = false ∧ (Instr.pkWait 0 4 0 .eq 0).wf = false ∧
    (Instr.pkSignal 0 4 0 .write false false 0 0).wf = false ∧ (Instr.pkGraphLoad 0 0 4 1).wf = false ∧ (Instr.pkIngress 0 0 8 8 1).wf = false ∧
    (Instr.pkIngress 0 0 (2 ^ 55) (2 ^ 55) 1).wf = false ∧ (Instr.pkIngress 0 0 (2 ^ 55) 8 0).wf = false ∧ (Instr.pkCopy 0 0 8 0).wf = false ∧
    (Instr.pkCopy 0 0 8 1).wf = true := by and_intros <;> rfl

/-- R463, R465, R468, R470: what the outside world cannot ask. -/
theorem test_wf_refuses_events :
    (Instr.hostBar2Read 0 513).wf = false ∧ (Instr.hostBar2Write 0 (List.replicate 513 0)).wf = false ∧ (Instr.hostAtomicop 0 .cas 4 0 0).wf = false ∧
    (Instr.hostAtomicop 0 .fetchAdd 16 0 0).wf = false ∧ (Instr.hostAtomicop 0 .swap 2 0 0).wf = false ∧ (Instr.ucieRetrainStep 0 4097).wf = false ∧
    (Instr.pageMove 0 0 3).wf = false ∧ (Instr.pageMove 0 0 2).wf = true := by decide +kernel

/-! ### Words, written out from their encodings (R171 to R182) -/

theorem test_words_of_binary :
    decodeTableWord 32 0x010271F0 = some (.add .onTrue (.gate 19) (.left 31)) ∧
    decodeTableWord 32 0x0187C9FF = some (.sub .onFalse (.right 30) .null) ∧
    decodeTableWord 32 0x0008D850 = some (.mul .always (.slot 6) (.left 5)) ∧
    decodeTableWord 32 0x010FE138 = some (.mulh .onTrue (.left 31) (.gate 19)) ∧
    decodeTableWord 32 0x0193FFE4 = some (.mulhu .onFalse .null (.right 30)) ∧
    decodeTableWord 32 0x0014A06C = some (.div .always (.left 5) (.slot 6)) ∧
    decodeTableWord 32 0x011A71F0 = some (.divu .onTrue (.gate 19) (.left 31)) ∧
    decodeTableWord 32 0x019FC9FF = some (.rem .onFalse (.right 30) .null) ∧
    decodeTableWord 32 0x0020D850 = some (.remu .always (.slot 6) (.left 5)) ∧
    decodeTableWord 32 0x0127E138 = some (.and .onTrue (.left 31) (.gate 19)) ∧
    decodeTableWord 32 0x01ABFFE4 = some (.or .onFalse .null (.right 30)) ∧
    decodeTableWord 32 0x002CA06C = some (.xor .always (.left 5) (.slot 6)) ∧
    decodeTableWord 32 0x013271F0 = some (.shl .onTrue (.gate 19) (.left 31)) ∧
    decodeTableWord 32 0x01B7C9FF = some (.shr .onFalse (.right 30) .null) ∧
    decodeTableWord 32 0x0038D850 = some (.sra .always (.slot 6) (.left 5)) ∧
    decodeTableWord 32 0x013FE138 = some (.min .onTrue (.left 31) (.gate 19)) ∧
    decodeTableWord 32 0x01C3FFE4 = some (.minu .onFalse .null (.right 30)) ∧
    decodeTableWord 32 0x0044A06C = some (.max .always (.left 5) (.slot 6)) ∧
    decodeTableWord 32 0x014A71F0 = some (.maxu .onTrue (.gate 19) (.left 31)) := by
  and_intros <;> rfl

theorem test_words_of_unary :
    decodeTableWord 32 0x0383C9FF = some (.clz .onFalse (.right 30) .null) ∧
    decodeTableWord 32 0x0204D850 = some (.popcnt .always (.slot 6) (.left 5)) ∧
    decodeTableWord 32 0x030BE138 = some (.sextB .onTrue (.left 31) (.gate 19)) ∧
    decodeTableWord 32 0x038FFFE4 = some (.sextH .onFalse .null (.right 30)) ∧
    decodeTableWord 32 0x0210A06C = some (.sextW .always (.left 5) (.slot 6)) ∧
    decodeTableWord 32 0x031671F0 = some (.zextB .onTrue (.gate 19) (.left 31)) ∧
    decodeTableWord 32 0x039BC9FF = some (.zextH .onFalse (.right 30) .null) ∧
    decodeTableWord 32 0x021CD850 = some (.zextW .always (.slot 6) (.left 5)) ∧
    decodeTableWord 32 0x0323E138 = some (.mov .onTrue (.left 31) (.gate 19)) ∧
    decodeTableWord 32 0x03A7FFE4 = some (.not .onFalse .null (.right 30)) := by
  and_intros <;> rfl

theorem test_words_of_tests :
    decodeTableWord 32 0x0400A06C = some (.teq .always (.left 5) (.slot 6)) ∧
    decodeTableWord 32 0x050671F0 = some (.tne .onTrue (.gate 19) (.left 31)) ∧
    decodeTableWord 32 0x058BC9FF = some (.tlt .onFalse (.right 30) .null) ∧
    decodeTableWord 32 0x040CD850 = some (.tltu .always (.slot 6) (.left 5)) ∧
    decodeTableWord 32 0x0513E138 = some (.tle .onTrue (.left 31) (.gate 19)) ∧
    decodeTableWord 32 0x0597FFE4 = some (.tleu .onFalse .null (.right 30)) ∧
    decodeTableWord 32 0x0418A06C = some (.tgt .always (.left 5) (.slot 6)) ∧
    decodeTableWord 32 0x051E71F0 = some (.tge .onTrue (.gate 19) (.left 31)) := by
  and_intros <;> rfl

theorem test_words_of_immediates :
    decodeTableWord 32 0x07C007E4 = some (.addi .onFalse 8195 (.right 30)) ∧
    decodeTableWord 32 0x0840066C = some (.muli .always 8195 (.slot 6)) ∧
    decodeTableWord 32 0x0B4007F0 = some (.andi .onTrue 8195 (.left 31)) ∧
    decodeTableWord 32 0x0DC007FF = some (.ori .onFalse 8195 .null) ∧
    decodeTableWord 32 0x0E400650 = some (.xori .always 8195 (.left 5)) ∧
    decodeTableWord 32 0x11004738 = some (.shli .onTrue 35 (.gate 19)) ∧
    decodeTableWord 32 0x138047E4 = some (.shri .onFalse 35 (.right 30)) ∧
    decodeTableWord 32 0x1400466C = some (.srai .always 35 (.slot 6)) ∧
    decodeTableWord 32 0x174007F0 = some (.teqi .onTrue 8195 (.left 31)) ∧
    decodeTableWord 32 0x19C007FF = some (.tnei .onFalse 8195 .null) ∧
    decodeTableWord 32 0x1A400650 = some (.tlti .always 8195 (.left 5)) ∧
    decodeTableWord 32 0x1D400738 = some (.tltui .onTrue 8195 (.gate 19)) ∧
    decodeTableWord 32 0x1FC007E4 = some (.tlei .onFalse 8195 (.right 30)) ∧
    decodeTableWord 32 0x2040066C = some (.tleui .always 8195 (.slot 6)) ∧
    decodeTableWord 32 0x234007F0 = some (.tgti .onTrue 8195 (.left 31)) ∧
    decodeTableWord 32 0x25C007FF = some (.tgei .onFalse 8195 .null) := by
  and_intros <;> rfl

theorem test_words_of_constants :
    decodeTableWord 32 0x27000250 = some (.const 32769 (.left 5)) ∧
    decodeTableWord 32 0x29000338 = some (.constu 32769 (.gate 19)) ∧
    decodeTableWord 32 0x2B0003E4 = some (.shlc 32769 (.right 30)) ∧
    decodeTableWord 32 0x2C1E879C = some (.fan3 (.left 7) (.slot 3) (.gate 30)) ∧
    decodeTableWord 32 0x2EFBFF4E = some (.fan4 (.left 7) (.right 30) .null (.left 31)) := by
  and_intros <;> rfl

theorem test_words_of_controlRegisters :
    decodeTableWord 32 0x31C007FF = some (.rdcr .onFalse 8195 .null) ∧
    decodeTableWord 32 0x324007FF = some (.wrcr .always 8195) := by
  and_intros <;> rfl

theorem test_words_of_memory :
    decodeTableWord 32 0x614E0B38 = some (.ldB .onTrue 19 261 (.gate 19)) ∧
    decodeTableWord 32 0x63CE0BE4 = some (.ldH .onFalse 19 261 (.right 30)) ∧
    decodeTableWord 32 0x644E0A6C = some (.ldW .always 19 261 (.slot 6)) ∧
    decodeTableWord 32 0x674E0BF0 = some (.ldD .onTrue 19 261 (.left 31)) ∧
    decodeTableWord 32 0x69CE0B38 = some (.ldQ .onFalse 19 261 (.gate 19)) ∧
    decodeTableWord 32 0x6A4E0BFF = some (.stB .always 19 261) ∧
    decodeTableWord 32 0x6D4E0BFF = some (.stH .onTrue 19 261) ∧
    decodeTableWord 32 0x6FCE0BFF = some (.stW .onFalse 19 261) ∧
    decodeTableWord 32 0x704E0BFF = some (.stD .always 19 261) ∧
    decodeTableWord 32 0x724607FF = some (.stQ 17 259) ∧
    decodeTableWord 32 0x75D8D907 = some (.ldpw .onFalse 5 .b8 263 (.slot 6)) := by
  and_intros <;> rfl

theorem test_words_of_synchronisation :
    decodeTableWord 32 0x7600D813 = some (.amoaddW .always 19 (.slot 6)) ∧
    decodeTableWord 32 0x7707FE13 = some (.amoaddD .onTrue 19 .null) ∧
    decodeTableWord 32 0x77883813 = some (.amominW .onFalse 19 (.slot 1)) ∧
    decodeTableWord 32 0x760CD813 = some (.amominD .always 19 (.slot 6)) ∧
    decodeTableWord 32 0x7713FE13 = some (.amomaxW .onTrue 19 .null) ∧
    decodeTableWord 32 0x77943813 = some (.amomaxD .onFalse 19 (.slot 1)) ∧
    decodeTableWord 32 0x7618D813 = some (.amoswapW .always 19 (.slot 6)) ∧
    decodeTableWord 32 0x771FFE13 = some (.amoswapD .onTrue 19 .null) ∧
    decodeTableWord 32 0x76203811 = some (.amocasW 17 (.slot 1)) ∧
    decodeTableWord 32 0x7624D811 = some (.amocasD 17 (.slot 6)) ∧
    decodeTableWord 32 0x7903E013 = some (.acq .onTrue 19 (.left 31)) ∧
    decodeTableWord 32 0x7987FE13 = some (.rel .onFalse 19) ∧
    decodeTableWord 32 0x7808A013 = some (.waitw .always 19 (.left 5)) ∧
    decodeTableWord 32 0x790FFE23 = some (.arrive .onTrue 35) ∧
    decodeTableWord 32 0x7993C823 = some (.bwait .onFalse 35 (.right 30)) := by
  and_intros <;> rfl

theorem test_words_of_exits :
    decodeTableWord 32 0x7A580005 = some (.bro .always 5 524293) ∧
    decodeTableWord 32 0x7D580005 = some (.brx .onTrue 5 524293) ∧
    decodeTableWord 32 0x7F83FE05 = some (.bend .onFalse 5) ∧
    decodeTableWord 32 0x7E07FE83 = some (.trap .always 131) ∧
    decodeTableWord 32 0x7F0BFE00 = some (.brk .onTrue) ∧
    decodeTableWord 32 0x7F8FC800 = some (.fence .onFalse (.right 30)) ∧
    decodeTableWord 32 0x7E13FE00 = some (.nop .always) ∧
    decodeTableWord 32 0x7F17E000 = some (.rdtick .onTrue (.left 31)) ∧
    decodeTableWord 32 0x7F9BFE00 = some (.rdlt .onFalse .null) ∧
    decodeTableWord 32 0x7E1CA000 = some (.rdwall .always (.left 5)) ∧
    decodeTableWord 32 0x7F23FE13 = some (.nullst .onTrue 19) ∧
    decodeTableWord 32 0x7FA7FE05 = some (.nullw .onFalse 5) := by
  and_intros <;> rfl

theorem test_words_of_copies :
    decodeTableWord 32 0x800FFF05 = some (.cp1 .always 3 261) ∧
    decodeTableWord 32 0x830FFF05 = some (.cp2 .onTrue 3 261) ∧
    decodeTableWord 32 0x858FFF05 = some (.cp3 .onFalse 3 261) ∧
    decodeTableWord 32 0x860FFF05 = some (.cpmc .always 3 261) ∧
    decodeTableWord 32 0x890FFF05 = some (.cpset .onTrue 3 261) ∧
    decodeTableWord 32 0x8B8FFF05 = some (.cpcmp .onFalse 3 261) ∧
    decodeTableWord 32 0x8C0FFF05 = some (.cphash .always 3 261) ∧
    decodeTableWord 32 0x8F0FFF05 = some (.cpspill .onTrue 3 261) ∧
    decodeTableWord 32 0x8F9FFF05 = some (.cpunspill .onFalse 3 261) ∧
    decodeTableWord 32 0x900FFF05 = some (.cpbind .always 3 261) ∧
    decodeTableWord 32 0x93027083 = some (.cpchk .onTrue 131 (.gate 19)) := by
  and_intros <;> rfl

theorem test_words_of_trace :
    decodeTableWord 32 0x99CFFE00 = some (.trec .onFalse 19) ∧
    decodeTableWord 32 0x9A03FE83 = some (.tmark .always 131) ∧
    decodeTableWord 32 0x9D03FE00 = some (.thash .onTrue) ∧
    decodeTableWord 32 0x9F83FE00 = some (.tstopStop .onFalse) ∧
    decodeTableWord 32 0x9E03FE01 = some (.tstopStart .always) := by
  and_intros <;> rfl

theorem test_words_of_regions :
    decodeTableWord 32 0xA103FE00 = some (.jtab .onTrue) ∧
    decodeTableWord 32 0xA383FE0B = some (.cfgld .onFalse 11) ∧
    decodeTableWord 32 0xA403FE00 = some (.cfgact .always) ∧
    decodeTableWord 32 0xA703FE00 = some (.cfgdrop .onTrue) ∧
    decodeTableWord 32 0xA983FE00 = some (.run .onFalse) ∧
    decodeTableWord 32 0xAA03FE00 = some (.loop .always) ∧
    decodeTableWord 32 0xAD03FE43 = some (.tok .onTrue 67) ∧
    decodeTableWord 32 0xAF83C803 = some (.rdsink .onFalse 3 (.right 30)) ∧
    decodeTableWord 32 0xB000D807 = some (.lwait .always 3 true (.slot 6)) ∧
    decodeTableWord 32 0xB303FE03 = some (.lrel .onTrue 3) := by
  and_intros <;> rfl

theorem test_words_of_matrix :
    decodeTableWord 32 0xC183FF5B = some (.mtld .onFalse 11 21) ∧
    decodeTableWord 32 0xC007FF5B = some (.mtldw .always 11 21) ∧
    decodeTableWord 32 0xC10BFF5B = some (.mtst .onTrue 11 21) ∧
    decodeTableWord 32 0xC3D7FE13 = some (.mspill .onFalse 19 21) ∧
    decodeTableWord 32 0xC257FE33 = some (.mfill .always 19 21) ∧
    decodeTableWord 32 0xC523FFF5 = some (.mma .onTrue .bf16 21 15) ∧
    decodeTableWord 32 0xC7CFFFF5 = some (.mmaw .onFalse .e5m2 21 15 3) ∧
    decodeTableWord 32 0xC803FE53 = some (.mchainB .always 19 .rup false) ∧
    decodeTableWord 32 0xC907FE13 = some (.mchainE .onTrue 19) ∧
    decodeTableWord 32 0xC98BFE13 = some (.mzero .onFalse 19) ∧
    decodeTableWord 32 0xCA57FF53 = some (.mscacc .always 19 21 .rup true) ∧
    decodeTableWord 32 0xCD03FE73 = some (.mrd .onTrue 19 3) ∧
    decodeTableWord 32 0xCF83FE93 = some (.mpin .onFalse 19 .fp32) ∧
    decodeTableWord 32 0xCE07FE13 = some (.munpin .always 19) ∧
    decodeTableWord 32 0xD163FE13 = some (.mgdlt .onTrue 19 3) ∧
    decodeTableWord 32 0xD3E3FE13 = some (.mfwrd .onFalse 19 3) ∧
    decodeTableWord 32 0xD463FE13 = some (.mfwchunk .always 19 3) := by
  and_intros <;> rfl

theorem test_words_of_stochastic :
    decodeTableWord 32 0xE103FE23 = some (.sand .onTrue 35) ∧
    decodeTableWord 32 0xE187FE23 = some (.sor .onFalse 35) ∧
    decodeTableWord 32 0xE00BFE23 = some (.sxor .always 35) ∧
    decodeTableWord 32 0xE10FFE23 = some (.sxnor .onTrue 35) ∧
    decodeTableWord 32 0xE193FE23 = some (.smux .onFalse 35) ∧
    decodeTableWord 32 0xE017FE23 = some (.snot .always 35) ∧
    decodeTableWord 32 0xE11BFE23 = some (.smov .onTrue 35) ∧
    decodeTableWord 32 0xE19FFE23 = some (.srot .onFalse 35) ∧
    decodeTableWord 32 0xE023FEE5 = some (.sfill .always 3 37) ∧
    decodeTableWord 32 0xE127FE4D = some (.scnt .onTrue true 13) ∧
    decodeTableWord 32 0xE3AFFEE9 = some (.sgen .onFalse 11 false 3 41) ∧
    decodeTableWord 32 0xE26FFE25 = some (.sregen .always 11 37) ∧
    decodeTableWord 32 0xE52FFEE9 = some (.b2s .onTrue 11 false 3 41) ∧
    decodeTableWord 32 0xE5EFFFE9 = some (.b2sv .onFalse 11 true 3 41) ∧
    decodeTableWord 32 0xE603FE25 = some (.s2b .always false 37) ∧
    decodeTableWord 32 0xE707FEE5 = some (.sld .onTrue 3 37) ∧
    decodeTableWord 32 0xE78BFE23 = some (.sst .onFalse 35) ∧
    decodeTableWord 32 0xE803FE0B = some (.sgset .always 11) := by
  and_intros <;> rfl


/-- R449: the worked words of `trec` and `tmark`. -/
theorem test_words_of_records :
    decodeTableWord 32 0x980FFE00 = some (.trec .always 3) ∧ decodeTableWord 32 0x9A03FE05 = some (.tmark .always 5) := by and_intros <;> rfl

/-- R178, R179: words that the decoder refuses: an unassigned major opcode, the reserved predicate code 01, a reserved bit. -/
theorem test_words_refused :
    decodeTableWord 32 0xFE000000 = none ∧ decodeTableWord 32 0x008271F0 = none ∧ decodeTableWord 32 0x1400C66C = none := by and_intros <;> rfl

/-! ### Packets, written out from their layouts (R191, R403) -/

/-- The packets of the front end's worked example. -/
theorem test_packets_of_the_example :
    decodePacket 0x303 [0x3000008, 0, 0x101] = .ok (.pkPred 0 0x3000008 0 .ne 1) ∧
    decodePacket 0x406 [0x3000000, 0x10000, 1, 0] = .ok (.pkSignal 0 0x3000000 0x10000 .add false false 0 0) ∧
    decodePacket 0x104 [0x10004] = .ok (.pkLoop 0 4 1) ∧ decodePacket 0x202 [0x2001000, 8] = .ok (.pkIb 0 0x2001000 8) ∧
    decodePacket 0x406 [0x20000B0, 2, 0, 0] = .ok (.pkSignal 0 0x20000B0 2 .write false false 0 0) ∧
    decodePacket 0 [] = .ok (.pkNop 0 0) ∧ decodePacket 0xD [] = .ok (.pkEnd 0) ∧ decodePacket 7 [] = .ok (.pkFfence 0) := by and_intros <;> rfl

/-- The other packets, each field at a value that no other has: the tag is 5. -/
theorem test_packets :
    decodePacket 0x500000201 [0x1240, 0x103] = .ok (.pkLaunch 5 0x1240 3 true) ∧
    decodePacket 0x500000305 [0x1238, 9, 0x700000004] = .ok (.pkWait 5 0x1238 9 .all 7) ∧
    decodePacket 0x500000406 [0x1238, 9, 0x110D, 6] = .ok (.pkSignal 5 0x1238 9 .add true true 17 6) ∧
    decodePacket 0x500000108 [0x1B0007] = .ok (.pkMode 5 7 11 true) ∧ decodePacket 0x500000309 [0x2A, 0, 0] = .ok (.pkGraphRun 5 42) ∧
    decodePacket 0x500000309 [0x12A, 0x1238, 0x21] = .ok (.pkGraphLoad 5 42 0x1238 33) ∧ decodePacket 0x500000309 [0x22A, 0, 0] = .ok (.pkGraphUnload 5 42) ∧
    decodePacket 0x50000010A [0x0007032A] = .ok (.pkBind 5 42 3 7) ∧ decodePacket 0x50000010A [0x10007032A] = .ok (.pkUnbind 5 42 3 7) ∧
    decodePacket 0x50000040B [0xA, 0x80000000000100, 0x200, 0x30] = .ok (.pkIngress 5 10 0x80000000000100 0x200 48) ∧
    decodePacket 0x50000030C [0x100, 0x200, 0x30] = .ok (.pkCopy 5 0x100 0x200 48) := by and_intros <;> rfl

/-- R193, R403: a SIZE other than the opcode requires, a reserved opcode, and reserved bits are refused. -/
theorem test_packets_refused :
    (decodePacket 0x107 [0]).toOption = none ∧ (decodePacket 0xE []).toOption = none ∧ (decodePacket 0x1000D []).toOption = none ∧
    (decodePacket 0x303 [0x3000008, 0, 0x106]).toOption = none ∧ (decodePacket 0x202 [0x2001000, 0x100008]).toOption = none := by and_intros <;> rfl


/-! ### States that meet the hypotheses of the statements -/

theorem fires_iff {s : State} {b p l r t x y z} : Fires s b p l r t x y z ↔
    (s.seq s.focus.core s.focus.seq).run = some b ∧ b.fired.getLsbD s.focus.idx = false ∧ b.nulled.getLsbD s.focus.idx = false ∧ b.trap = none ∧
    verdict p b.gate[s.focus.idx] = .matches' ∧ operand l b.left[s.focus.idx] = some x ∧ operand r b.right[s.focus.idx] = some y ∧
    operand t b.gate[s.focus.idx] = some z :=
  ⟨fun h => ⟨h.1, h.2, h.3, h.4, h.5, h.6, h.7, h.8⟩, fun ⟨h1, h2, h3, h4, h5, h6, h7, h8⟩ => ⟨h1, h2, h3, h4, h5, h6, h7, h8⟩⟩

theorem mismatched_iff {s : State} {b p} : Mismatched s b p ↔
    (s.seq s.focus.core s.focus.seq).run = some b ∧ b.fired.getLsbD s.focus.idx = false ∧ b.nulled.getLsbD s.focus.idx = false ∧ b.trap = none ∧
    verdict p b.gate[s.focus.idx] = .differs :=
  ⟨fun h => ⟨h.1, h.2, h.3, h.4, h.5⟩, fun ⟨h1, h2, h3, h4, h5⟩ => ⟨h1, h2, h3, h4, h5⟩⟩

theorem copying_iff {s : State} {c ch k r l} : Copying s c ch k r l ↔
    (s.ctx c).chans[ch].queue.head? = some k ∧ (s.ctx c).chans[ch].run = some r ∧ s.coreLaunch? c = some l ∧ r.dying = false ∧ s.ecc = [] ∧ s.memWf = true :=
  ⟨fun h => ⟨h.1, h.2, h.3, h.4, h.5, h.6⟩, fun ⟨h1, h2, h3, h4, h5, h6⟩ => ⟨h1, h2, h3, h4, h5, h6⟩⟩

theorem regionStart_iff {s : State} {c r k rest l} : RegionStart s c r k rest l ↔
    s.regionReady c r = true ∧ (s.ctx c).regions[r].queue = k :: rest ∧ s.coreLaunch? c = some l ∧ l.dstop = none :=
  ⟨fun h => ⟨h.1, h.2, h.3, h.4⟩, fun ⟨h1, h2, h3, h4⟩ => ⟨h1, h2, h3, h4⟩⟩

theorem atPacket_iff {s : State} {q l} : AtPacket s q l ↔
    s.source = .queue q ∧ s.fe.queues[q].exec.levels = [l] ∧ l.loopPasses = 0 ∧ s.ecc = [] :=
  ⟨fun h => ⟨h.1, h.2, h.3, h.4⟩, fun ⟨h1, h2, h3, h4⟩ => ⟨h1, h2, h3, h4⟩⟩

/-- The step answered a next state. -/
def answersNext (o : Host.Outcome State Fault Refusal) : Bool := match o with | .next _ => true | _ => false

/-- A block whose word 0 has its operand slots filled. -/
def tBlock (x y z : Word) : BlockRun :=
  let b := BlockRun.fresh 64 [0, 0] 1 [some 5]
  { b with age := 1, left := b.left.set 0 (some x), right := b.right.set 0 (some y), gate := b.gate.set 0 (some z) }

/-- An entry that comes due at launch time 0. -/
def tEntry : TableEntry :=
  { start := 0, deadline := 900, block := 64, fallback := some 128, fbDeadline := 500, remain := 10, win := some 0, policyC := true, policyD := false, policyV := false,
    policyS := false, isEnd := false, mark := false, arg := 9 }

/-- A binding of 64 bytes of the A-buffer from 4,096 on. -/
def tWindow : Window := { valid := true, pantry := false, quad := 0, repl := false, bound := 64, base := 4096 }

/-- Two table sets: mode 0, and mode 3, the safe mode, of the same image. -/
def tSet (mode : BitVec 4) (e : TableEntry) : TableSet :=
  { mode := mode, level := 0, period := 1000, instances := 4, chmask := 0xFFFFFFFF, mcps := [500], tables := [[e], [], [], [], [], [], []], resv := [⟨0, 1, 0, 0, 0, 0, 0⟩],
    wins := [[tWindow]], safemode := 3 }

def tImage (e : TableEntry) : Image :=
  { Image.empty with sets := [tSet 0 e, tSet 3 e], alog := 22, wlog := 24, clog := 5, blocks := [[1, 2, 3]], regions := [some ⟨0, 0, 2, 2⟩, none, none, none], cfgTabs := [⟨96, 0, 0⟩] }

/-- A launch on core 0. -/
def tLaunch (e : TableEntry) : Launch :=
  { num := 1, rcbId := 2, rcbAddr := 0, path := [], fdom := 3, priority := 10, source := .queue 15, tag := 0, graphGen := false, packet := 0, serial := 1, img := tImage e,
    imgAddr := 0, digest := [], stage := .running, ox := 0, oy := 0, grants := [⟨0, 0, 0⟩], quadBase := [], replBase := [], ptroot := 2 ^ 20, sidebase := 0,
    lanes := [], origin := 0, ltime := 0, setIx := 0, setStart := 0, inst := 0, instTick := 0, pendMode := none, pendLevel := none, causes := [], frozenFrom := none,
    seen := 0, boundary := none, urgentAt := none, urgentFrom := none, chosen := none, susp := none, dstop := none, displaced := false, window := none, cls := none,
    pendingFrom := 0, chmaskNew := false, mcpAt := none, group := 1, tokens := 0, stepped := [], modeWas := 0, displacedWas := false }

def tActivation : Activation :=
  { id := 1, launch := 1, entry := 0, inst := 0, isFallback := false, fallback := some 128, deadline := 900, fbDeadline := 1400, arg := 9, windows := [tWindow], remain := 10,
    ran := 0, polC := true, polD := false, polV := false, mark := false, drain := false, drainLimit := 0, halted := false, pwbSeen := 0 }

def tOwner : Owner := { launch := 1, act := 1, seq := 0, block := 64 }

/-- Core 0 runs the launch. -/
def tBase (l : Launch) : State := { State.reset with launches := [l] }.updCore 0 fun k => { k with launch := 1, storeOwner := 1 }

/-- Sequencer 0 of core 0 runs a block of the activation. -/
def tRun (a : Activation) (b : BlockRun) : State := (tBase (tLaunch tEntry)).updSeq 0 0 fun x => { x with act := some a, run := some b }

/-- The same with the word in focus on another sequencer. -/
def tRunAt (q : SeqIx) (b : BlockRun) : State :=
  { (tBase (tLaunch tEntry)).updSeq 0 q fun x => { x with act := some tActivation, run := some b } with focus := ⟨0, q, 0⟩ }

/-! The operand shapes that the statements about words ask for: two, one, none, three, and the right one alone; with and without a predicate. -/

theorem witness_words_two_operands :
    Fires (tRun tActivation (tBlock 7 63 1)) (tBlock 7 63 1) .onTrue true true false 7 63 0 ∧
    Fires (tRun tActivation (tBlock (BitVec.intMin 64) (-1) 0)) (tBlock (BitVec.intMin 64) (-1) 0) .onFalse true true false (BitVec.intMin 64) (-1) 0 ∧
    Fires (tRun tActivation (tBlock 7 0 0)) (tBlock 7 0 0) .always true true false 7 0 0 := by simp only [fires_iff]; decide +kernel

theorem witness_words_one_operand :
    Fires (tRun tActivation (tBlock 0 1 1)) (tBlock 0 1 1) .onTrue true false false 0 0 0 ∧
    Fires (tRun tActivation (tBlock (2 ^ 63) 1 0)) (tBlock (2 ^ 63) 1 0) .onFalse true false false (2 ^ 63) 0 0 ∧
    Fires (tRun tActivation (tBlock 8 1 0)) (tBlock 8 1 0) .always false true false 0 1 0 := by simp only [fires_iff]; decide +kernel

theorem witness_words_no_operand :
    Fires (tRun tActivation (tBlock 0 1 1)) (tBlock 0 1 1) .onTrue false false false 0 0 0 ∧
    Fires (tRunAt 4 (tBlock 0 1 0)) (tBlock 0 1 0) .onFalse false false false 0 0 0 := by simp only [fires_iff]; decide +kernel

theorem witness_words_three_operands : Fires (tRun tActivation (tBlock 1 2 3)) (tBlock 1 2 3) .always true true true 1 2 3 := by simp only [fires_iff]; decide +kernel

theorem witness_ReadWords :
    let s := tRun tActivation (tBlock 0 0 1);
    Fires s (tBlock 0 0 1) .onTrue false false false 0 0 0 ∧ (s.seq 0 0).act = some tActivation ∧ s.launch? 1 = some (tLaunch tEntry) ∧ s.focus.seq.val < 4 := by
  simp only [fires_iff]; decide +kernel

/-- The last bytes of a range, and the last bytes that a window bounds. -/
theorem witness_Reads :
    (let r : LsidRec := { block := 64, lsid := 0, store := false, space := 0, size := 32, base := 4096 };
      0 < r.size ∧ r.base ≤ 4120 / 8 * 8 ∧ 4120 / 8 * 8 < r.base + r.size) ∧
    (let s := tRun tActivation (tBlock 7 0 1);
      ∃ d, Fires s (tBlock 7 0 1) .onTrue true false false 7 0 0 ∧ s.window? 0 0 7 = none ∧ s.window? 0 0 0 = some d ∧ 56 + 8 ≤ d.bound ∧ d.bound < 64 + 8) ∧
    (let s := tRun tActivation (tBlock 7 0 1); (s.seq 0 0).run = some (tBlock 7 0 1) ∧ s.ecc = [] ∧
      ∀ p ∈ [(none, false, false), (none, false, true), (none, true, false), (some 7, false, false)],
        let k : Load := { wait := 0, lat := 2, oob := p.1, pantry := p.2.1, wbuf := p.2.2, addr := 4194288, n := 16, target := .left 30 };
        k.oob = p.1 ∧ k.pantry = p.2.1 ∧ k.wbuf = p.2.2 ∧ k.n = 16) := by
  refine ⟨by decide, ⟨tWindow, ?_⟩, by decide +kernel⟩; simp only [fires_iff]; decide +kernel

theorem witness_StoreWords :
    (let b := tBlock 7 5 1; Fires (tRun tActivation b) b .always true true false 7 5 0 ∧ b.lsids.getLsbD 0 = false ∧ b.slots[0] = none) ∧
    (let b := { tBlock 7 5 1 with lsids := 1, slots := (Vector.replicate 8 none).set 0 (some none) };
      Fires (tRun tActivation b) b .onTrue true true false 7 5 0 ∧ b.lsids.getLsbD 0 = true ∧ b.slots[0].isSome = true) ∧
    (let b := tBlock 7 5 1; Fires (tRun tActivation b) b .always true true true 7 5 1 ∧ b.lsids.getLsbD 0 = false) ∧
    (let b := tBlock 7 5 1; Fires (tRun tActivation b) b .onTrue false false false 0 0 0 ∧ b.lsids.getLsbD 31 = false ∧ b.slots[7] = none) ∧
    (let b := { tBlock 7 5 1 with slots := (Vector.replicate 8 none).set 7 (some (some 1)) };
      Fires (tRun tActivation b) b .onTrue false false false 0 0 0 ∧ b.slots[7].isSome = true) := by
  simp only [fires_iff]; decide +kernel

/-- `amoadd` and `amocas` with a write slot and with no target. -/
theorem witness_Atomics :
    let b := tBlock 7 5 1;
    (Fires (tRun tActivation b) b .always true true false 7 5 0 ∧ b.lsids.getLsbD 0 = false ∧ b.slots[7] = none) ∧
    (Fires (tRun tActivation b) b .always true true true 7 5 1 ∧ b.lsids.getLsbD 31 = false ∧ b.slots[0] = none) ∧
    (let b := { b with lsids := 1 }; Fires (tRun tActivation b) b .always true true false 7 5 0 ∧ b.lsids.getLsbD 0 = true) := by simp only [fires_iff]; decide +kernel

/-- A jump table of one entry, at 96, that leads to the block at 64; index 1 is past its end. -/
def tJump : State := (tRun tActivation (tBlock 0 5 1)).updCore 0 fun k =>
  { k with blockStore := writeLE (writeLE (writeLE k.blockStore 96 8 1) 104 8 64) 64 4 1 }

theorem witness_ExitWords :
    (let b := tBlock 0 5 1; Fires (tRun tActivation b) b .always false false false 0 0 0 ∧ b.exit = none) ∧
    (let b := { tBlock 0 5 1 with exit := some ⟨7, some 64⟩ }; Fires (tRun tActivation b) b .onTrue false false false 0 0 0 ∧ Fires (tRun tActivation b) b .always true false false 0 0 0 ∧ b.exit = some ⟨7, some 64⟩) ∧
    (let b := tBlock 0 5 1; Fires tJump b .always true false false 0 0 0 ∧ b.exit = none ∧ tJump.jump 0 (b.addr + BitVec.ofInt 24 (32 * (1 : BitVec 20).toInt)) 0 = .ok 64 ∧
      tJump.jump 0 (b.addr + 32) 1 = .error ⟨0x03, 1⟩) := by simp only [fires_iff]; decide +kernel

theorem witness_EveryWord :
    (Mismatched (tRun tActivation (tBlock 1 2 0)) (tBlock 1 2 0) (Instr.pred (.add .onTrue .null .null)) ∧ (encodeWord (.add .onTrue .null .null)).isSome = true) ∧
    (let b := { tBlock 1 2 0 with fired := 1 };
      ((tRun tActivation b).seq 0 0).run = some b ∧ (b.fired.getLsbD 0 || b.nulled.getLsbD 0) = true) ∧
    encodeWord (.noexit 0 0) = none ∧ (encodeWord (.add .always .null .null)).isSome = true ∧
    (match exec (.add .always .null .null) (tRun tActivation { tBlock 1 2 0 with right := Vector.replicate 32 none }) with | .fault _ => true | _ => false) = true := by
  simp only [mismatched_iff]; decide +kernel

theorem witness_WordFrame : (encodeWord (.add .always .null (.left 1))).isSome = true ∧
    answersNext (exec (.add .always .null (.left 1)) (tRun tActivation (tBlock 1 2 0))) = true := by decide +kernel

/-- A nullified instruction; empty slots; filled ones. -/
theorem witness_ArrivalsFillSlots :
    (let b := { tBlock 1 2 3 with nulled := 0x80000000 }; b.nulled.getLsbD 31 = true) ∧
    (let b := tBlock 1 2 3; b.nulled.getLsbD 31 = false ∧ b.left[31] = none ∧ b.right[31] = none ∧ b.gate[31] = none ∧ b.slots[7] = none ∧ b.trap = none ∧
      b.left[0].isSome = true ∧ b.right[0].isSome = true ∧ b.gate[0].isSome = true) ∧
    (let b := { tBlock 1 2 3 with slots := (Vector.replicate 8 none).set 7 (some none) }; b.trap = none ∧ b.slots[7].isSome = true) := by decide +kernel

theorem witness_TrapStartsFallback :
    let s := tRun tActivation (tBlock 1 2 1);
    let r := ((tBlock 1 2 1).markFired 0 |>.raise ⟨0x05, 9⟩).settleSlots;
    Fires s (tBlock 1 2 1) .onTrue false false false 0 0 0 ∧ (s.seq 0 0).act = some tActivation ∧ tActivation.isFallback = false ∧
    tActivation.fallback = some 128 ∧ tActivation.drain = false ∧ s.health.marked.getLsbD 0 = false ∧ s.ecc = [] ∧ s.todo = [] ∧ r.trap = some ⟨0x05, 9⟩ ∧
    r.mayClash = false ∧ (s.seq 0 0).answered = false ∧ s.phase ≠ .values ∧ s.coreLaunch? 0 = some (tLaunch tEntry) ∧ (tLaunch tEntry).stopped s.tick = false ∧
    (s.openBlock 0 128 0 ((s.seq 0 0).g.set 63 tActivation.arg)).trap = none := by simp only [fires_iff]; decide +kernel

/-- In a fallback; without one; on a marked core; a quiescent block with no exit; one whose exit has fired but whose LSID 0 is not resolved. -/
theorem witness_TrapsEndBlocks :
    (let a := { tActivation with isFallback := true }; let s := tRun a (tBlock 1 2 1);
      Fires s (tBlock 1 2 1) .onTrue false false false 0 0 0 ∧ (s.seq 0 0).act = some a ∧ a.isFallback = true ∧ s.todo = [] ∧ (s.seq 0 0).answered = false ∧ s.phase ≠ .values ∧
      ((tBlock 1 2 1).markFired 0 |>.raise ⟨0x05, 9⟩).settleSlots.mayClash = false) ∧
    (let a := { tActivation with fallback := none }; let s := tRun a (tBlock 1 2 1);
      Fires s (tBlock 1 2 1) .onTrue false false false 0 0 0 ∧ (s.seq 0 0).act = some a ∧ a.fallback = none ∧ s.todo = []) ∧
    (let s := (tRun tActivation (tBlock 1 2 1)).updHealth fun h => { h with marked := 1 };
      Fires s (tBlock 1 2 1) .onTrue false false false 0 0 0 ∧ (s.seq 0 0).act = some tActivation ∧ s.health.marked.getLsbD 0 = true ∧ s.todo = []) ∧
    (let b := { tBlock 1 2 1 with fired := 0xFFFFFFFF }; let s := tRun tActivation b;
      (s.seq 0 0).run = some b ∧ 1 ≤ b.age ∧ b.flights = [] ∧ b.loads = [] ∧ b.waits = [] ∧ b.trap = none ∧
      (∀ i : Fin 32, b.due i (b.word i) false = false) ∧ b.exit = none) ∧
    (let b := { tBlock 1 2 1 with fired := 0xFFFFFFFF, exit := some ⟨0, none⟩ }; let s := tRun tActivation b;
      (s.seq 0 0).run = some b ∧ 1 ≤ b.age ∧ b.flights = [] ∧ b.loads = [] ∧ b.waits = [] ∧ b.trap = none ∧
      (∀ i : Fin 32, b.due i (b.word i) false = false) ∧ b.exit = some ⟨0, none⟩ ∧ b.ready = false) := by simp only [fires_iff]; decide +kernel

/-- A block that may commit: its exit fired, its LSID resolved, its write slot filled. -/
def tReady (effects : List (Nat × Effect)) (next : Option (BitVec 24)) : BlockRun :=
  { tBlock 1 2 1 with exit := some ⟨0, next⟩, lsids := 1, slots := (Vector.replicate 8 none).set 0 (some (some 42)), effects := effects }

theorem witness_CommitWritesRegisters :
    (let b := tReady [] none; let s := tRun tActivation b;
      (s.seq 0 0).run = some b ∧ (s.seq 0 0).act = some tActivation ∧ b.ready = true ∧ b.effects = [] ∧ b.exit = some ⟨0, none⟩ ∧ (s.seq 0 0).loops = [] ∧
      tActivation.mark = false ∧ s.bench = false ∧ ((s.ctx 0).regions[0]).queue.length ≤ 16) ∧
    (let b := tReady [] (some 64); let s := tRun tActivation b;
      (s.seq 0 0).run = some b ∧ b.ready = true ∧ b.effects = [] ∧ b.exit = some ⟨0, some 64⟩) := by decide +kernel

/-- Its write slot 0 names g5; no slot names g6. -/
theorem witness_CommitWritesRegisters_slots :
    let b := { tReady [] none with wregs := [some 5, some 5], slots := ((Vector.replicate 8 none).set 0 (some (some 42))).set 1 (some none) };
    b.ready = true ∧ b.wregs.getD 0 none = some (BitVec.ofFin (5 : Fin 64)) ∧ b.slots[0] = some (some 42) ∧
      (∀ w : Fin 8, 0 < w → b.wregs.getD w none = some (BitVec.ofFin (5 : Fin 64)) → b.slots[w] = some none) ∧ ∀ w : Fin 8, b.wregs.getD w none ≠ some (BitVec.ofFin (6 : Fin 64)) := by
  decide +kernel

theorem witness_CommitWritesStores :
    let b := tReady [(0, .store 4194296 [1, 2, 3, 4, 5, 6, 7, 8]), (31, .store 4194300 [9])] none; let s := tRun tActivation b;
    (s.seq 0 0).run = some b ∧ (s.seq 0 0).act = some tActivation ∧ b.ready = true ∧ s.bench = false ∧ tActivation.mark = false ∧
    (∀ e ∈ b.effects, ∃ n bytes, e.2 = .store n bytes) ∧ (b.effects.map Prod.fst).Nodup ∧ s.ecc = [] ∧ s.memWf = true ∧ (s.core 0).bankHolds = [] ∧ (s.seq 0 0).loops.length ≤ 4 ∧
    ((s.ctx 0).regions[0]).queue.length ≤ 16 := by
  refine ⟨?_, ?_, ?_, ?_, ?_, by simp [tReady], ?_, ?_, ?_, ?_, ?_, ?_⟩ <;> decide +kernel

theorem witness_CommitIssues :
    (let b := tReady [(0, .issue (.cp1 .always 3 0) 1 2)] none; let s := tRun tActivation b;
      (s.seq 0 0).run = some b ∧ (s.seq 0 0).act = some tActivation ∧ b.ready = true ∧ s.bench = false ∧ tActivation.mark = false ∧ (s.seq 0 0).loops.length ≤ 4 ∧
      ((s.ctx 0).regions[0]).queue.length < 16 ∧ copyChan? (.cp1 .always 3 0) = some 3 ∧ (s.ctx 0).chans[3].queue.length < 16 ∧ (s.ctx 0).chans[3].run = none) ∧
    (let b := tReady [(0, .issue (.run .always) 1 0)] none; let s := tRunAt 3 b;
      (s.seq 0 3).run = some b ∧ (s.seq 0 3).act = some tActivation ∧ b.ready = true ∧ s.bench = false ∧ (s.seq 0 3).loops.length ≤ 4 ∧
      copyChan? (.run .always) = none ∧ ((s.ctx 0).regions[3]).queue.length < 16) ∧
    (let b := tReady [(0, .issue (.mzero .always 1) 0 0)] none; let s := tRunAt 4 b;
      (s.seq 0 4).run = some b ∧ (s.seq 0 4).act = some tActivation ∧ b.ready = true ∧ s.bench = false ∧ (s.seq 0 4).loops.length ≤ 4 ∧
      copyChan? (.mzero .always 1) = none ∧ (s.ctx 0).matrix.queue.length < 16) ∧
    (let b := tReady [(0, .issue (.snot .always 1) 1 2)] none; let s := tRunAt 5 b;
      (s.seq 0 5).run = some b ∧ (s.seq 0 5).act = some tActivation ∧ b.ready = true ∧ s.bench = false ∧ (s.seq 0 5).loops.length ≤ 4 ∧
      copyChan? (.snot .always 1) = none ∧ (s.ctx 0).stoch.queue.length < 16) := by decide +kernel

theorem witness_ControlRegisterWrites : ∀ k : Fin 16, (State.reset.ctx 0).stoch.cntNew.getLsbD k = false := by decide +kernel

/-- A waiting word on sequencer 0. -/
def tWait (k : WaitKind) (n : Nat) : BlockRun := { tBlock 1 2 1 with waits := [⟨3, n, .left 1, k⟩] }

/-- Unit 5 has moved on to phase 1; the Landing 2 holds one vector. -/
def tWaiting (k : WaitKind) (n : Nat) : State := (tRun tActivation (tWait k n)).updCtx 0 fun x =>
  { x with barriers := x.barriers.set 5 ⟨4, 0, 1⟩, landings := x.landings.set 2 [0] }

theorem witness_WaitsEnd :
    (let k := WaitKind.waitw false 8 0 0 true true; let b := tWait k 0;
      ((tWaiting k 0).seq 0 0).run = some b ∧ (tWaiting k 0).waiting? 0 0 3 = some ⟨3, 0, .left 1, k⟩ ∧ b.trap = none ∧
      (b.deliver 3 (.left 1) 0).trap = none) ∧
    (let k := WaitKind.bwait 5 0 false false; let b := tWait k 0;
      (tWaiting k 0).waiting? 0 0 3 = some ⟨3, 0, .left 1, k⟩ ∧ ((tWaiting k 0).ctx 0).barriers[5].gen ≠ 0 ∧ (b.deliver 1 (.left 1) 1).trap = none) ∧
    (let k := WaitKind.bwait 5 1 true true; (tWaiting k 0).waiting? 0 0 3 = some ⟨3, 0, .left 1, k⟩) ∧
    (let k := WaitKind.fence; (tWaiting k 0).waiting? 0 0 3 = some ⟨3, 0, .left 1, k⟩ ∧ ((tWaiting k 0).ctx 0).busyFor (fun o => o.seq == 0) = false ∧
      ((tWaiting k 0).seq 0 0).rels = [] ∧ (tWaiting k 0).keyHeld 0 0 = false) ∧
    (let k := WaitKind.lwait 2 true 1; (tWaiting k 0).waiting? 0 0 3 = some ⟨3, 0, .left 1, k⟩ ∧ ((tWaiting k 0).ctx 0).landings[2].length ≤ 1) ∧
    (let k := WaitKind.lwait 2 false 1; (tWaiting k 0).waiting? 0 0 3 = some ⟨3, 0, .left 1, k⟩ ∧ 1 ≤ ((tWaiting k 0).ctx 0).landings[2].length) := by decide +kernel

theorem witness_KeyWrites :
    let s := (tRun tActivation (tBlock 1 2 1)).updSeq 0 0 fun x => { x with rels := [⟨0, false, 4194296, 5⟩, ⟨1, false, 8, 6⟩] };
    (s.seq 0 0).rels = ⟨0, false, 4194296, 5⟩ :: [⟨1, false, 8, 6⟩] ∧ (∀ r ∈ [(⟨1, false, 8, 6⟩ : PendingRel)], r.left ≠ 0) ∧ s.ecc = [] ∧ s.memWf = true ∧
    (s.core 0).bankHolds = [] := by decide +kernel

theorem witness_KeyWrites_pantry :
    let l := { tLaunch tEntry with img := { tImage tEntry with plog := 0 }, quadBase := [(0, 63)] };
    let s := (tBase l).updSeq 0 0 fun x => { x with rels := [⟨0, true, 1048568, 5⟩] };
    (s.seq 0 0).rels = ⟨0, true, 1048568, 5⟩ :: [] ∧ s.ecc = [] ∧ s.memWf = true ∧ s.dies[(s.pantryPhys 0 1048568).1].holds = [] := by decide +kernel

/-- One arrival at unit 63, for each of the three places the count can stand in; arrivals taken before the configuration, and none. -/
theorem witness_BarrierUnits : ∀ u ∈ [(⟨0, 0, 3⟩ : Barrier), ⟨1, 0, 255⟩, ⟨3, 1, 0⟩],
    let s := (tBase (tLaunch tEntry)).updCore 0 fun k => { k with arrivals := [⟨0, false, 1, 0, 63, 1⟩], ctx := { k.ctx with barriers := k.ctx.barriers.set 63 u } };
    (s.core 0).arrivals = [⟨0, false, (tLaunch tEntry).num, 0, 63, 1⟩] ∧ s.coreLaunch? 0 = some (tLaunch tEntry) ∧ (tLaunch tEntry).num = (s.core 0).launch ∧
    (tLaunch tEntry).frozen = false ∧ (s.core 0).swap = none ∧ (s.core 0).mailLen = 0 ∧ (s.core 0).attic = none ∧
    ((s.core 0).arrivals.filter fun a => a.done && a.unit == 63) = [] ∧ (u.target = 0 ∨ u.count.toNat + 1 = u.target.toNat ∨ u.count.toNat + 1 < u.target.toNat) := by decide +kernel

def tCmd (i : Instr) (x y : Word) (shapes : List (BitVec 19)) : EngineCmd :=
  { instr := i, left := x, right := y, owner := tOwner, key := 0, layer := 0, idx := 0, shapes := shapes, polV := false, tick := 0, rcb := 2, fdom := 3, tag := 0 }

/-! ### Copies -/

/-- A descriptor: spaces, addresses and length of one row; its completion word is at 4,080. -/
def tDesc (src dst : Nat) (a b len : Word) : List Word := [BitVec.ofNat 64 (src + 8 * dst + 4080 * 2 ^ 32), a, b, 0xFFFFFFFFFFFFFFFF, len + 0x1001000000, 0, 0, 0]

def tCopyRun (d : List Word) (len : Nat) : CopyRun :=
  { desc := d, head := 0, pieces := [(0, 0, 0, len)], next := 0, slot0 := 0, wait := none, paid := false, host := [], moving := [], halves := [], units := [], dying := false, hosted := false, hashed := [], hashFirst := 0, hashWall := 0, hashServo := .free }

/-- Virtual addresses below 2^30 lie from 2^28 in LPDDR 6 on, those from 2^40 on in host memory. -/
def tRanges : List RangeEntry :=
  [{ base := 0, limit := 0x40000000, offset := 0x10000000, valid := true, scope := 0, sysatom := false, rd := true, wr := true, at' := false, side := 0 },
   { base := 0x10000000000, limit := 0x20000000000, offset := 0x80000000000000, valid := true, scope := 0, sysatom := false, rd := true, wr := true, at' := false, side := 0 }]

def tCopy (k : EngineCmd) (r : CopyRun) : State := (tBase (tLaunch tEntry)).updCtx 0 fun x =>
  { x with ranges := tRanges, chans := x.chans.set 0 { x.chans[0] with queue := [k], run := some r } }

/-- The transfer of the last bytes of the A-buffer; a piece that misses; one that the table maps nowhere. -/
theorem witness_SlotTransfers :
    (let k := tCmd (.cp1 .always 0 0) 0 7 []; let d := tDesc 0 3 4194240 0 64; let r := tCopyRun d 64; let s := tCopy k r;
      Copying s 0 0 k r (tLaunch tEntry) ∧ s.pieceDue 0 0 = true ∧ r.pieces[r.next]? = some (0, 0, 0, 64) ∧ dscS r.desc = 0 ∧ dscD r.desc = 3 ∧
      isCpset k.instr = false ∧ s.copyResv 0 r.desc = some ⟨0, 1, 0, 0, 0, 0, 0⟩ ∧ s.translate 0 0 (pieceVa r.desc k.left (0, 0, 0, 64)) true = .ok (2 ^ 28) 0 ∧
      bits (2 ^ 28) 35 2 = (⟨0, 1, 0, 0, 0, 0, 0⟩ : Resv).die ∧ bits (2 ^ 28) 32 3 = (⟨0, 1, 0, 0, 0, 0, 0⟩ : Resv).chan ∧ bit (2 ^ 28) 55 = false ∧ 2 ^ 28 + 64 ≤ 2 ^ 55) ∧
    (let k := tCmd (.cp1 .always 0 0) 0 7 []; let d := tDesc 0 3 0 0x50000000 64; let r := tCopyRun d 64; let s := tCopy k r;
      Copying s 0 0 k r (tLaunch tEntry) ∧ s.pieceDue 0 0 = true ∧ s.translate 0 0 (pieceVa r.desc k.left (0, 0, 0, 64)) (dscD r.desc == 3) = .miss) ∧
    (let k := tCmd (.cp1 .always 0 0) 0 7 []; let d := tDesc 0 3 0 0 64; let r := tCopyRun d 64;
      let s := (tCopy k r).updCtx 0 fun x => { x with ranges := tRanges.map fun e => { e with wr := false } };
      Copying s 0 0 k r (tLaunch tEntry) ∧ s.pieceDue 0 0 = true ∧ s.translate 0 0 (pieceVa r.desc k.left (0, 0, 0, 64)) (dscD r.desc == 3) = .fault 8 0) := by
  simp only [copying_iff]; decide +kernel

/-- The transfer from LPDDR 6 to the last bytes of the A-buffer. -/
theorem witness_SlotTransfers_read :
    let k := tCmd (.cp1 .always 0 0) 0 7 []; let d := tDesc 3 0 0 4194240 64; let r := tCopyRun d 64; let s := tCopy k r;
    Copying s 0 0 k r (tLaunch tEntry) ∧ s.pieceDue 0 0 = true ∧ r.pieces[r.next]? = some (0, 0, 0, 64) ∧ dscS r.desc = 3 ∧ dscD r.desc ≠ 3 ∧
    isCpset k.instr = false ∧ s.copyResv 0 r.desc = some ⟨0, 1, 0, 0, 0, 0, 0⟩ ∧ s.translate 0 0 (pieceVa r.desc k.left (0, 0, 0, 64)) false = .ok (2 ^ 28) 0 := by
  simp only [copying_iff]; decide +kernel

/-- The last unit of such a piece, from the A-buffer's end to LPDDR 6; one whose bytes have come, for the A-buffer's end. -/
theorem witness_SlotTransfers_units :
    (let k := tCmd (.cp1 .always 0 0) 0 7 []; let r := tCopyRun (tDesc 0 3 4194240 0 64) 64; let s := tCopy k r; let u : PayUnit := ⟨0, 48, 16, 2 ^ 28 + 48, none⟩;
      s.ecc = [] ∧ s.memWf = true ∧ r.pieces[u.piece]? = some (0, 0, 0, 64) ∧ s.unitFree 0 k r u = true ∧ dscS r.desc = 0 ∧ dscD r.desc = 3 ∧ isCpset k.instr = false ∧
      u.bytes = none ∧ bit u.phys 55 = false ∧ u.phys + (u.x - 0) + u.n ≤ 2 ^ 55) ∧
    (let k := tCmd (.cp1 .always 0 0) 0 7 []; let r := tCopyRun (tDesc 3 0 0 4194240 64) 64; let s := tCopy k r;
      let u : PayUnit := ⟨0, 48, 16, 2 ^ 28 + 48, some (List.replicate 16 7)⟩;
      s.ecc = [] ∧ s.memWf = true ∧ r.pieces[u.piece]? = some (0, 0, 0, 64) ∧ s.unitFree 0 k r u = true ∧ u.bytes = some (List.replicate 16 7) ∧ dscD r.desc = 0 ∧
      isCpmc k.instr = false ∧ (s.core 0).bankHolds = []) := by decide +kernel

/-- A walk of a channel, served with an answer for tick 0. -/
def tWalk (step : WalkStep) : State :=
  (tCopy (tCmd (.cp1 .always 0 0) 0 7 []) (tCopyRun (tDesc 0 3 0 0x50000000 64) 64)).updChan 0 0 fun x => { x with walk := some ⟨0, 3, 2 ^ 21, some (0, step)⟩ }

/-- A level that names a table; a fault; a page's leaf at level 3. -/
theorem witness_WalksAndTables :
    (∀ step ∈ [WalkStep.table (2 ^ 21), .fault 1], let k := tCmd (.cp1 .always 0 0) 0 7 []; let r := tCopyRun (tDesc 0 3 0 0x50000000 64) 64; let s := tWalk step;
      Copying s 0 0 k r (tLaunch tEntry) ∧ (s.ctx 0).chans[0].walk = some ⟨0, 3, 2 ^ 21, some (0, step)⟩ ∧ 0 ≤ s.tick ∧ s.opRuns 0 k.owner = true ∧
      s.tr.rpActive = false) ∧
    (let x : Xlate := { va := 0, size := 2 ^ 19, phys := 2 ^ 28, scope := 0, rd := true, wr := true, side := 0 };
      let k := tCmd (.cp1 .always 0 0) 0 7 []; let r := tCopyRun (tDesc 0 3 0 0x50000000 64) 64; let s := tWalk (.leaf x);
      Copying s 0 0 k r (tLaunch tEntry) ∧ (s.ctx 0).chans[0].walk = some ⟨0, 3, 2 ^ 21, some (0, .leaf x)⟩ ∧ s.opRuns 0 k.owner = true ∧ s.tr.rpActive = false ∧
      s.xlateCheck 0 (x.phys + (0 - x.va)) x.rd x.wr (dscD r.desc == 3) x.side 3 = .ok (2 ^ 28) 0) := by
  simp only [copying_iff]; decide +kernel

/-- A range table of 64 invalid entries. -/
def tBind : CopyRun := { tCopyRun (tDesc 0 0 0 0 2048) 2048 with wait := some 1 }

def tBindCmd : EngineCmd := tCmd (.cpbind .always 0 0) 0 7 []

theorem leNat_zeros (n : Nat) : leNat (List.replicate n 0) = 0 := by
  induction n with
  | zero => rfl
  | succ n ih => rw [List.replicate_succ, leNat, ih]; rfl

theorem tBind_bytes :
    ((tCopy tBindCmd tBind).pieceBytes 0 tBind.desc 0 false 0 (0, 0, 0, 2048)).map (·.2) = List.replicate 2048 0 := by decide +kernel

theorem witness_WalksAndTables_bind :
    let bytes := ((tCopy tBindCmd tBind).pieceBytes 0 tBind.desc 0 false 0 (0, 0, 0, 2048)).map (·.2);
    Copying (tCopy tBindCmd tBind) 0 0 tBindCmd tBind (tLaunch tEntry) ∧ isCpbind tBindCmd.instr = true ∧ tBind.wait = some 1 ∧
    (tCopy tBindCmd tBind).opRuns 0 tBindCmd.owner = true ∧ tBind.pieces.head? = some (0, 0, 0, 2048) ∧
    ∀ e : Fin 64, rangeBad (fun i => leNat ((bytes.drop (32 * e.val + 8 * i)).take 8)) = false := by
  simp only [copying_iff, tBind_bytes, List.drop_replicate, List.take_replicate, leNat_zeros]; decide +kernel

theorem witness_CompletionWordWritten :
    let k := tCmd (.cp1 .always 0 0) 0 7 []; let r := { tCopyRun (tDesc 0 3 0 0 64) 64 with wait := some 0, next := 1, paid := true }; let s := tCopy k r;
    Copying s 0 0 k r (tLaunch tEntry) ∧ r.wait = some 0 ∧ s.opRuns 0 k.owner = true ∧ r.allPaid k = true ∧ isCphash k.instr = false ∧ s.wordFree 0 r = true ∧
    s.aPhys 0 ((r.desc.headD 0).toNat / 2 ^ 32 % 2 ^ 22) % 16 ≤ 8 := by simp only [copying_iff]; decide +kernel

/-- A host request of 16 bytes that completes at the end of the A-buffer; one outstanding for 16,384 ticks. -/
theorem witness_HostRequestsComplete :
    (let k := tCmd (.cp1 .always 0 0) 0 7 []; let r := { tCopyRun (tDesc 3 0 0x10000000000 4194288 16) 16 with host := [(0, 5, 2 ^ 55)], next := 1, hosted := true };
      let s := tCopy k r; let p := (0, 0, 0, 16); let phys := 2 ^ 55;
      Copying s 0 0 k r (tLaunch tEntry) ∧ s.storedCopy 0 0 = none ∧ r.host = (0, 5, phys) :: [] ∧ r.pieces[0]? = some p ∧ dscS r.desc = 3 ∧ dscD r.desc = 0 ∧ isCpset k.instr = false ∧
      bit phys 55 = true ∧ (s.core 0).bankHolds = [] ∧ sharesUnit r.desc k.left r.pieces 0 = false ∧ sharesUnit r.desc k.left r.pieces 1 = false ∧
      (copyOff r.desc k.left 0 0 0).2 % 16 + 16 ≤ 16 ∧ (∀ i : Fin 16, (copyOff r.desc k.left 0 0 (0 + i.val)).2 = (copyOff r.desc k.left 0 0 0).2 + i.val) ∧
      isCpmc k.instr = false ∧ phys % 2 ^ 55 + 16 ≤ 2 ^ 55) ∧
    (let k := tCmd (.cp1 .always 0 0) 0 7 []; let r := { tCopyRun (tDesc 3 0 0x10000000000 0 16) 16 with host := [(0, 16384, 2 ^ 55)], next := 1, hosted := true };
      Copying (tCopy k r) 0 0 k r (tLaunch tEntry) ∧ r.host ≠ [] ∧ ∃ h ∈ r.host, 16384 ≤ h.2.1) := by simp only [copying_iff]; decide +kernel

/-! ### Regions -/

def tRegion (k : EngineCmd) (f : RegionState → RegionState) : State :=
  { (tBase (tLaunch tEntry)).updRegion 0 0 fun g => f { g with queue := [k] } with tick := 10 }

/-- A plane of period 1 without rows. -/
def tPlane : Plane := { version := 7, fields := (Plane.zero.put 3 20 0 1).fields, bad := false }

/-- Every region command at the head of its queue; the tables at 96 of the block store, that the image lists, and at 128, that it does not. -/
theorem witness_RegionCommands :
    (let k := tCmd (.run .always) 4 0 []; RegionStart (tRegion k id) 0 0 k [] (tLaunch tEntry)) ∧
    (let k := tCmd (.tok .always 0x3F) 4 0 []; RegionStart (tRegion k id) 0 0 k [] (tLaunch tEntry)) ∧
    (let k := tCmd (.cfgact .always) 0 0 []; let s := tRegion k fun g => { g with shadow := some tPlane };
      RegionStart s 0 0 k [] (tLaunch tEntry) ∧ (s.ctx 0).regions[0].shadow = some tPlane ∧ tPlane.refused (tLaunch tEntry).img (s.landFormats (tLaunch tEntry) 0) 0 = false ∧ s.bench = false) ∧
    (let k := tCmd (.cfgdrop .always) 0 0 []; RegionStart (tRegion k id) 0 0 k [] (tLaunch tEntry)) ∧
    (let k := tCmd (.jtab .always) 96 0 []; RegionStart (tRegion k id) 0 0 k [] (tLaunch tEntry) ∧
      ((tLaunch tEntry).img.cfgTabs.any fun x => x.addr.toNat == k.left.toNat % 2 ^ 24 && x.ix == (tLaunch tEntry).ix 0 && x.iy == (tLaunch tEntry).iy 0) = true) ∧
    (let k := tCmd (.lrel .always 3) 0 0 []; RegionStart (tRegion k id) 0 0 k [] (tLaunch tEntry)) := by simp only [regionStart_iff]; decide +kernel

/-- The table bound holds one entry: 5 words at 128 for region 0, version 7. -/
def tBound (k : EngineCmd) : State := (tRegion k fun g => { g with bound := some 96 }).updCore 0 fun x =>
  { x with blockStore := writeLE (writeLE x.blockStore 96 8 1) 104 8 (128 + 5 * 2 ^ 24 + 7 * 2 ^ 48) }

theorem witness_RegionCommands_load :
    let k := tCmd (.cfgld .always 0) 0 0 []; let e := readLE ((tBound k).core 0).blockStore 104 8;
    RegionStart (tBound k) 0 0 k [] (tLaunch tEntry) ∧ ((tBound k).ctx 0).regions[0].bound = some 96 ∧
    0 < readLE ((tBound k).core 0).blockStore 96 8 % 2 ^ 5 ∧ e / 2 ^ 40 % 4 = 0 := by simp only [regionStart_iff]; decide +kernel

theorem witness_RegionCommands_refused :
    (let k := tCmd (.jtab .always) 128 0 []; RegionStart (tRegion k id) 0 0 k [] (tLaunch tEntry) ∧
      ((tLaunch tEntry).img.cfgTabs.any fun x => x.addr.toNat == k.left.toNat % 2 ^ 24 && x.ix == (tLaunch tEntry).ix 0 && x.iy == (tLaunch tEntry).iy 0) = false) ∧
    (let k := tCmd (.cfgld .always 0) 0 0 []; RegionStart (tRegion k id) 0 0 k [] (tLaunch tEntry) ∧ ((tRegion k id).ctx 0).regions[0].bound = none) ∧
    (let k := tCmd (.cfgld .always 1) 0 0 []; RegionStart (tBound k) 0 0 k [] (tLaunch tEntry) ∧ ((tBound k).ctx 0).regions[0].bound = some 96 ∧
      readLE ((tBound k).core 0).blockStore 96 8 % 2 ^ 5 ≤ 1) ∧
    (let k := tCmd (.cfgact .always) 0 0 []; let s := tRegion k fun g => { g with shadow := some { tPlane with bad := true } };
      RegionStart s 0 0 k [] (tLaunch tEntry) ∧ (s.ctx 0).regions[0].shadow = some { tPlane with bad := true } ∧
      Plane.refused { tPlane with bad := true } (tLaunch tEntry).img (s.landFormats (tLaunch tEntry) 0) 0 = true) := by simp only [regionStart_iff]; decide +kernel

/-- R292, R301: by hand, a plane of period 2 in cell 0. Stage 0 writes e0 in row 0; row 1 may read e0 and not e1. A `fadd` of stage 1 may read the output of
a `fadd` of stage 0 and not of a `fadd.bf16`. Two rows that pop Landing 1 in one tick are refused (R299). -/
theorem test_planes_refused :
    let row (a b dst : Nat) : Nat := 2 ^ 31 + a * 2 ^ 21 + b * 2 ^ 15 + 0x0B * 2 ^ 9 + dst * 2 ^ 5
    let p := (Plane.zero.put 3 20 0 2).put 0 0 0 (row 0x0A 0x0B 0)
    let q (op : Nat) := (((Plane.zero.put 3 20 0 16).put 0 0 0x10 op).put 0 0 0 (row 0x0A 0x0A 8)).put 0 0 0x30 0x30
    let refused (p : Plane) : Bool := p.refused (tImage tEntry) (fun _ => []) 0
    refused (p.put 0 0 1 (row 0 0x0B 8)) = false ∧ refused (p.put 0 0 1 (row 1 0x0B 8)) = true ∧
    refused ((q 0x30).put 0 0 0x24 (row 8 0x0A 8)) = false ∧ refused ((q 0x38).put 0 0 0x24 (row 8 0x0A 8)) = true ∧
    landClash (((p.put 0 0 0 (row 0x35 0x0B 8)).put 0 0 0x20 (row 0x35 0x0B 8))) = true ∧
    streamBad ⟨0, 0, 4, 4⟩ 2 [0x00100000, 0x001100FF] = true ∧ streamBad ⟨0, 0, 4, 4⟩ 2 [0x00100000, 0x00110000] = false := by decide +kernel

/-- A round of 3 iterations in its last tick; the last tick of a table's and of a plane's loading. -/
theorem witness_RegionWorkEnds :
    (let k : RoundRun := { n := 3, rc := 2, cmd := tCmd (.run .always) 3 0 [], moved := true, start := 0, cut := false };
      let s := tRegion k.cmd fun g => { g with queue := [], active := tPlane, round := some k };
      (s.ctx 0).regions[0].round = some k ∧ k.moved = true ∧ tPlane.version ≠ 0 ∧ k.n ≠ 0 ∧ (s.ctx 0).regions[0].active = tPlane ∧
      k.rc + 1 = (k.n.toNat + tPlane.depth) * tPlane.period) ∧
    (let j : PortJob := { owner := tOwner, table := some 96, stream := 96, words := 4, version := 0, left := 1, total := 1, redo := none, rerun := false };
      let s := tRegion (tCmd (.run .always) 3 0 []) fun g => { g with port := some j };
      (s.ctx 0).regions[0].port = some j ∧ j.left = 1 ∧ s.opRuns 0 j.owner = true ∧ j.table = some 96) ∧
    (let j : PortJob := { owner := tOwner, table := none, stream := 128, words := 4, version := 7, left := 1, total := 1, redo := none, rerun := false };
      let s := tRegion (tCmd (.run .always) 3 0 []) fun g => { g with port := some j };
      (s.ctx 0).regions[0].port = some j ∧ j.left = 1 ∧ s.opRuns 0 j.owner = true ∧ j.table = none) := by decide +kernel

/-! ### Engines -/

def tMatrix (f : MatrixState → MatrixState) : State := { (tBase (tLaunch tEntry)).updMatrix 0 f with tick := 10 }

def tMx (k : EngineCmd) (elapsed : Nat) : MxRun :=
  { cmd := k, start := 0, elapsed := elapsed, done := 0, total := 1, buf := [], chain := none, failed := false, redo := none, rerun := false, attached := none, undo := [] }

theorem witness_MatrixCommandsStart :
    (let k := tCmd (.mzero .always 31) 0 0 []; let s := tMatrix fun m => { m with queue := [k] };
      s.matrixReady 0 = true ∧ (s.ctx 0).matrix.queue = k :: [] ∧ s.matrixFault 0 k = none) ∧
    (let k := tCmd (.mma .always .i8 31 0) 0 1 [BitVec.ofNat 19 (2 * 2 ^ 4 + 3 * 2 ^ 11), BitVec.ofNat 19 (3 * 2 ^ 4 + 64 * 2 ^ 11)];
      let s := (tMatrix fun m => { m with queue := [k] }).updMatrix 0 fun m => m.openChain { tile := 31, rnd := .rne, fmt := none, sums := [] };
      s.matrixReady 0 = true ∧ (s.ctx 0).matrix.queue = k :: [] ∧ s.matrixFault 0 k = none ∧ k.product.isSome = true) ∧
    (let k := tCmd (.munpin .always 31) 0 0 []; let s := tMatrix fun m => { m with queue := [k] };
      s.matrixReady 0 = true ∧ (s.ctx 0).matrix.queue = k :: [] ∧ s.matrixFault 0 k = some 0x63) := by decide +kernel

/-- A product of 2 x 3 by 3 x 64 INT8 elements, tiles 0 and 1, into tile 31. -/
theorem witness_IntegerKStep :
    let k := tCmd (.mma .always .i8 31 0) 0 1 [BitVec.ofNat 19 (2 * 2 ^ 4 + 3 * 2 ^ 11), BitVec.ofNat 19 (3 * 2 ^ 4 + 64 * 2 ^ 11)];
    let r := tMx k 19; let s := tMatrix fun m => { m with compute := some r };
    s.memWf = true ∧ s.ecc = [] ∧ (s.ctx 0).matrix.compute = some r ∧ s.mxUnitRuns 0 .compute = true ∧ r.stepEnd = some r.elapsed ∧
    ∃ p ∈ r.cmd.product, p.tileB = some 1 ∧ (r.cmd.shape p.a).rows ≤ 64 ∧ p.n ≤ 64 := by decide +kernel

theorem witness_MatrixCommandsComplete :
    (let r := tMx (tCmd (.mzero .always 31) 0 0 []) 1; let s := tMatrix fun m => { m with compute := some r };
      s.memWf = true ∧ s.ecc = [] ∧ (s.ctx 0).matrix.compute = some r ∧ s.mxCompletes 0 .compute = true) ∧
    (let r := tMx (tCmd (.mpin .always 31 .fp32) 9 0 []) 0; let s := tMatrix fun m => { m with compute := some r };
      s.memWf = true ∧ (s.ctx 0).matrix.compute = some r ∧ s.mxCompletes 0 .compute = true ∧ s.launch? r.cmd.owner.launch = some (tLaunch tEntry)) ∧
    (let r := tMx (tCmd (.munpin .always 0) 0 0 []) 0; let s := tMatrix fun m => { m with compute := some r };
      (s.ctx 0).matrix.compute = some r ∧ s.mxCompletes 0 .compute = true) ∧
    (let r := tMx (tCmd (.mtst .always 3 4) 0 0 []) 11; let s := tMatrix fun m => { m with load := some r };
      s.memWf = true ∧ s.ecc = [] ∧ (s.ctx 0).matrix.load = some r ∧ r.failed = false ∧ s.mxCompletes 0 .load = true) ∧
    (let r := { tMx (tCmd (.mrd .always 3 0) 0 0 []) 4 with done := 1, attached := some 0 }; let s := tMatrix fun m => { m with read := some r };
      s.memWf = true ∧ s.ecc = [] ∧ (s.ctx 0).matrix.read = some r ∧ s.mxCompletes 0 .read = true) := by decide +kernel

/-- Streams 1 and 2 of 64 bits with no source in common; streams 3 and 4 with a source in common; stream 5 of 256 bits. -/
def tStoch (f : StochState → StochState) : State :=
  { (tBase (tLaunch tEntry)).updStoch 0 fun x => f { x with streams := ((((x.streams.set 1 ⟨5, 0, 1⟩).set 2 ⟨3, 0, 2⟩).set 3 ⟨5, 0, 4⟩).set 4 ⟨3, 0, 12⟩).set 5 ⟨1, 1, 0⟩ } with
    tick := 10 }

theorem witness_StochasticCommandsStart :
    (let k := tCmd (.sand .always 63) 0x0201 0 []; let s := tStoch fun x => { x with queue := [k] };
      s.stochReady 0 = true ∧ (s.ctx 0).stoch.queue = k :: [] ∧ s.ecc = [] ∧ ssCheck (s.ctx 0).stoch k = none) ∧
    (let k := tCmd (.sand .always 63) 0x0403 0 []; let s := tStoch fun x => { x with queue := [k] };
      s.stochReady 0 = true ∧ k.streams = 1 ∧
      (s.ctx 0).stoch.streams[ssReg k.left 0 0].mask &&& (s.ctx 0).stoch.streams[ssReg k.left 8 0].mask ≠ 0) ∧
    (let k := tCmd (.sand .always 63) 0x0501 0 []; let s := tStoch fun x => { x with queue := [k] };
      s.stochReady 0 = true ∧ k.streams = 1 ∧ (s.ctx 0).stoch.streams[ssReg k.left 0 0].len ≠ (s.ctx 0).stoch.streams[ssReg k.left 8 0].len) := by decide +kernel

theorem witness_StreamLogic : ∀ i ∈ [Instr.sand .always 63, .sor .always 0, .sxor .always 1, .sxnor .always 1, .smux .always 1, .snot .always 1, .smov .always 1,
    .srot .always 1, .scnt .always false 15], (tCmd i 0x0201 0xFFF0000 []).streams = 1 := by decide +kernel

theorem witness_StochasticEffects :
    let r : SsRun := { cmd := tCmd (.scnt .always false 15) 1 0 [], elapsed := 2, busy := 1, effect := 2, streams := [(63, ⟨5, 0, 1⟩)], counts := [(15, 2)],
                       gen := some (15, ⟨0, 1, 0, 0⟩), bytes := [], redo := none, rerun := false };
    let s := tStoch fun x => { x with logic := [r] };
    s.ecc = [] ∧ ((s.ctx 0).stoch.unit .logic).filter (s.ssDue 0) = [r] ∧ r.bytes = [] := by decide +kernel

/-! ### The front end -/

def tLevel : Level := { base := 0x1000, pos := 4088, left := 0, loopStart := 0, loopLeft := 0, loopBody := 0, loopDone := 0, loopPasses := 0, skip := 0 }

/-- Queue 15 stands at the last double-word of its ring of 4 KiB at 0x1000. -/
def tQueue (f : QueueState → QueueState) : State :=
  { (tBase (tLaunch tEntry)).updQueue 15 fun x => f { x with base := 0x1000, enable := true, sizelog := 12, tail := 2048, exec := { Stream'.init with levels := [tLevel] } } with
    source := .queue 15, packetAt := 0x1FF8, tick := 10 }

def tGraph : GraphState := { words := [0xD], subtrees := [], binding := none, run := none }

def tQueueGraph : State := { tQueue id with fe := { (tQueue id).fe with graphs := (tQueue id).fe.graphs.set 63 (some tGraph) } }

theorem witness_PlainPackets :
    (AtPacket (tQueue id) 15 tLevel ∧ (tQueue id).fe.pushes = [] ∧ (tQueue id).graphBound 63 = false ∧ (tQueue id).graphBusy 63 = false) ∧
    (AtPacket tQueueGraph 15 tLevel ∧ tQueueGraph.graphBound 63 = false ∧ tQueueGraph.graphBusy 63 = false ∧ tQueueGraph.fe.graphs[(63 : GraphIx)] = some tGraph ∧
      tQueueGraph.launch? 1 = some (tLaunch tEntry) ∧ tGraph.binding = none ∧ (tLaunch tEntry).stage ≠ .placed ∧ (tLaunch tEntry).cls = none ∧
      (∀ y ∈ tGraph.subtrees, ∀ z ∈ y.2, (tLaunch tEntry).bindable 3 z.2 = true) ∧ ∀ m ∈ tQueueGraph.launches, m.source ≠ .graph 63) := by
  simp only [atPacket_iff]; decide +kernel

/-- The packet of 4 double-words before the end of what the ring holds; a body of one packet. -/
theorem witness_ControlPackets :
    AtPacket (tQueue id) 15 tLevel ∧ (tQueue id).packetsFit (.queue 15) 1 4 ((tQueue id).levelDws (.queue 15)) = true ∧
    (tQueue id).packetsFit (.queue 15) 255 2 ((tQueue id).levelDws (.queue 15)) = true ∧ bit (0x3000000 : BitVec 56).toNat 55 = false ∧
    condHolds .eq (BitVec.ofNat 64 (readLE (tQueue id).dram 0x3000000 8)) 0 = true ∧ condHolds .eq (BitVec.ofNat 64 (readLE (tQueue id).dram 0x3000000 8)) 1 = false ∧
    (tQueue id).fe.queues[(15 : QueueIx)].exec.waitFrom = none ∧ (tQueue id).fe.queues[(15 : QueueIx)].exec.pending = [] ∧
    (tQueue id).fe.queues[(15 : QueueIx)].exec.issued = [] := by simp only [atPacket_iff]; decide +kernel

/-- A `pk.wait` for the word 1 at 0x3000000 whose time is over in this tick, and the present tick's reading of it from the ring's last and first double-words. -/
def tTimeout : State :=
  { tQueue fun x => { x with exec := { x.exec with waitFrom := some 9, waitEnd := some 10 } } with
    dram := writeLE (writeLE (writeLE (writeLE [] 0x1000 8 0x3000000) 0x1008 8 1) 0x1010 8 (2 ^ 32)) 0x1FF8 8 0x305 }

theorem witness_ControlPackets_timeout :
    AtPacket tTimeout 15 tLevel ∧ condHolds .eq (BitVec.ofNat 64 (readLE tTimeout.dram 0x3000000 8)) 1 = false ∧
    tTimeout.fe.queues[(15 : QueueIx)].exec.waitEnd = some 10 ∧ 10 ≤ tTimeout.tick ∧
    packetOf (tTimeout.fe.queues[(15 : QueueIx)].exec.waiting.getD (tTimeout.packetWords (.queue 15))) = some (.pkWait 0 0x3000000 1 .eq 1) ∧ tTimeout.packetAt = BitVec.ofNat 56 (tLevel.base.toNat + tLevel.pos) := by
  simp only [atPacket_iff]; decide +kernel

/-- A `pk.end` that waits, and one whose wait is over. -/
theorem witness_ControlPackets_end :
    (let s := tQueue fun x => { x with exec := { x.exec with issued := [(1, 1)] } }; AtPacket s 15 tLevel ∧ s.fe.queues[(15 : QueueIx)].exec.settled = false) ∧
    (let s := tQueue fun x => { x with exec := { x.exec with ending := true } };
      AtPacket s 15 tLevel ∧ s.fe.queues[(15 : QueueIx)].exec.ending = true ∧ s.fe.queues[(15 : QueueIx)].exec.pending = [] ∧
      s.fe.queues[(15 : QueueIx)].exec.issued = [] ∧ s.fe.queues[(15 : QueueIx)].frozen = false) := by simp only [atPacket_iff]; decide +kernel

def tPending : PendSignal :=
  { addr := 0x3000000, value := 5, op := .add, irq := false, vector := 0, errval := 7, tag := 0, afterSerial := 2, fromSerial := 1, error := false }

theorem witness_Signals :
    (AtPacket (tQueue id) 15 tLevel ∧ (tQueue id).memWf = true ∧ bit (0x3000000 : BitVec 56).toNat 55 = false ∧ (tQueue id).fe.queues[(15 : QueueIx)].exec.pending = []) ∧
    (let s := tQueue fun x => { x with exec := { x.exec with pending := List.replicate 15 tPending } };
      AtPacket s 15 tLevel ∧ s.memWf = true ∧ s.fe.queues[(15 : QueueIx)].exec.pending.length < 16) ∧
    (let s := tQueue fun x => { x with exec := { x.exec with pending := [tPending], issued := [(2, 1)] } };
      AtPacket s 15 tLevel ∧ s.memWf = true ∧ s.fe.queues[(15 : QueueIx)].exec.pending = tPending :: [] ∧
      (∀ k ∈ s.fe.queues[(15 : QueueIx)].exec.issued, tPending.afterSerial ≤ k.1) ∧ bit tPending.addr.toNat 55 = false) := by
  simp only [atPacket_iff]; decide +kernel

/-- A move that ends at the end of LPDDR 6's addresses, one from the end of the host's; whether a host read fails no state decides. -/
theorem witness_MovePackets :
    AtPacket (tQueue id) 15 tLevel ∧ (tQueue id).memWf = true ∧ (0x7FFFFFFFFFFFF8 : BitVec 56).toNat < 2 ^ 55 ∧
    (0x7FFFFFFFFFFFF8 : BitVec 56).toNat + (8 : BitVec 32).toNat ≤ 2 ^ 55 ∧ 2 ^ 55 ≤ (0xFFFFFFFFFFFFF8 : BitVec 56).toNat ∧
    (0xFFFFFFFFFFFFF8 : BitVec 56).toNat + (8 : BitVec 32).toNat ≤ 2 ^ 56 ∧ (tQueue id).fe.hasherBusy[0] = none := by simp only [atPacket_iff]; decide +kernel

def tLaunching : Waiting' := { source := .queue 15, serial := 1, packet := 0x1FE0, tag := 5, tokens := 0, priority := 0, specs := none, offender := some 0x40, tried := false }

theorem witness_LaunchPackets :
    (AtPacket (tQueue id) 15 tLevel ∧ (tQueue id).fe.queues[(15 : QueueIx)].tokWas = none) ∧
    (AtPacket (tQueue id) 15 tLevel ∧ (tQueue id).launch? 1 = some (tLaunch tEntry) ∧ (tLaunch tEntry).stage ≠ .placed ∧ (tLaunch tEntry).cls = none ∧
      (tLaunch tEntry).pendMode = none ∧ ((tLaunch tEntry).setFor 3 ((tLaunch tEntry).pendLevel.getD (tLaunch tEntry).current.2) (tQueue id).chmask).isSome = true) ∧
    (let s := { tQueue (fun x => { x with exec := { x.exec with issued := [(1, 0)] } }) with
        fe := { (tQueue (fun x => { x with exec := { x.exec with issued := [(1, 0)] } })).fe with waiting := [tLaunching] } };
      AtPacket s 15 tLevel ∧ s.fe.waiting.find? (fun w => w.source == .queue 15 && w.packet == 0x1FE0) = some tLaunching ∧
      s.fe.queues[(15 : QueueIx)].frozen = false ∧ s.fe.queues[(15 : QueueIx)].exec.issued.contains (tLaunching.serial, 0) = true ∧ s.fe.waiting = [tLaunching] ∧
      tLaunching.specs = none ∧ tLaunching.tried = false) ∧
    (let w := { tLaunching with tried := true }; let s := { tQueue id with fe := { (tQueue id).fe with waiting := [w] } };
      (∀ w ∈ s.fe.waiting, w.tried = true) ∧ s.fe.tryPlace = false ∧ s.tick % 32768 ≠ 0) := by simp only [atPacket_iff]; decide +kernel

theorem witness_QueueRegisters :
    ((State.reset.fe.queues[(15 : QueueIx)]).enable = false ∧ 12 ≤ (12 : BitVec 5).toNat ∧ (24 : BitVec 5).toNat ≤ 24) ∧
    ((11 : BitVec 5).toNat < 12 ∧ 24 < (25 : BitVec 5).toNat ∧ (State.reset.fe.queues[(15 : QueueIx)]).sizelog.toNat < 12) ∧
    (let x := (tQueue fun x => { x with frozen := true, reason := 6, skipOnResume := true }).fe.queues[(15 : QueueIx)];
      x.frozen = true ∧ x.exec.levels = [tLevel] ∧ tLevel.loopPasses = 0 ∧ x.reason ≠ 5 ∧ x.skipOnResume = true ∧ x.avail ≠ 0) ∧
    (let x := (tQueue fun x => { x with frozen := true, reason := 1 }).fe.queues[(15 : QueueIx)];
      x.frozen = true ∧ x.exec.levels = [tLevel] ∧ x.reason ≠ 5 ∧ x.skipOnResume = false) := by decide +kernel

/-- A stream of one `pk.end` at 0x3000000, and graph 63 loaded with it, running, triggered 15 times. -/
def tGraphs (run : Option Stream') (triggers : List GraphIx) : State :=
  { tQueue id with dram := writeLE [] 0x3000000 8 0xD,
                   fe := { (tQueue id).fe with graphs := (tQueue id).fe.graphs.set 63 (some { tGraph with run := run }), triggers := triggers } }

theorem witness_Graphs_load :
    let s := { tQueue id with dram := writeLE [] 0x3000000 8 0xD };
    AtPacket s 15 tLevel ∧ s.graphBound 63 = false ∧ s.graphBusy 63 = false ∧ bit (0x3000000 : BitVec 56).toNat 55 = false ∧
    s.loadGraph ((List.range 1).map fun k => BitVec.ofNat 64 (readLE s.dram (0x3000000 + 8 * k) 8)) = some tGraph ∧
    bit (0x3000000 + 8 * 0) 55 = false := by simp only [atPacket_iff]; decide +kernel

theorem witness_Graphs_runs :
    ((tGraphs none (List.replicate 15 63)).fe.graphs[(63 : GraphIx)] = some tGraph ∧ (tGraphs none (List.replicate 15 63)).fe.triggers.length < 16 ∧
      (tGraphs none []).fe.graphs[(0 : GraphIx)] = none) ∧
    ((tGraphs none [63, 0]).fe.triggers = 63 :: [0] ∧ (tGraphs none [63, 0]).fe.graphs[(63 : GraphIx)] = some tGraph ∧ tGraph.run = none) ∧
    (let e := { Stream'.init with ending := true };
      (tGraphs (some e) []).fe.graphs[(63 : GraphIx)] = some { tGraph with run := some e } ∧ e.failed = false ∧ e.cancelled = [] ∧ e.pending = [] ∧ e.issued = []) ∧
    ((0 : Fin 8) ≠ 7 ∧ (tGraphs none []).fe.mailboxes[(7 : Fin 8)].length < 16 ∧ (tGraphs none []).fe.outbox = []) := by decide +kernel

/-! A packet that can be placed: a launch image of one core at 0x4000, with no entry and no block but one byte. -/

def tWords : List (Nat × Nat) :=
  [(0, 0x4547414D + 2 ^ 36 + 2 ^ 40 + 2 ^ 50 + 2 ^ 53), (8, 128 + 2 ^ 40), (16, 160 + 2 ^ 40), (88, 12 + 16 * 2 ^ 5 + 7 * 2 ^ 13 + 7 * 2 ^ 16), (128, 144), (136, 1),
   (144, 0x5A), (160, 192), (192, 0x5453 + 32768 * 2 ^ 32), (200, 0xFFFFFFFF * 2 ^ 32), (208, 256), (216, 256)]

def tSpec : Spec :=
  { rcb := { addr := 0, magicOk := true, depth := 0, ovb := true, ovp := true, ovf := true, priority := 7, fdom := 3, id := 2, parent := 0, child := 0, sibling := 0,
             budget := ⟨64, 4096, 64, 65535, 0⟩, image := 0x4000, reservedOk := true },
    path := [(2, ⟨64, 4096, 64, 65535, 2 ^ 40⟩)], priority := 7, fdom := 3 }

def tPlacing : State :=
  let s := tQueue fun x => { x with primax := 7, exec := { x.exec with issued := [(1, 0)] } }
  { s with dram := tWords.foldl (fun m e => writeLE m (0x4000 + e.1) 8 e.2) [], launches := [], fe := { s.fe with waiting := [{ tLaunching with specs := some [tSpec], priority := 7 }] } }

/-- The image that stands there. -/
def tPlaced : Image :=
  { Image.empty with
    blocks := [[0x5A]], alog := 12, wlog := 16, clog := 0, regions := [none, none, none, none], landings := [none, none, none, none],
    sets := [{ mode := 0, level := 0, period := 32768, instances := 0, chmask := 0xFFFFFFFF, mcps := [], tables := List.replicate 7 [], resv := [], wins := [], safemode := 0 }],
    extent := (List.range 312).map fun o => BitVec.ofNat 8 (tPlacing.reader (0x4000 + o) 1) }

theorem tPlaced_read : tPlacing.imageAt 0x4000 = some tPlaced := by
  have h1 : tPlacing.readable 0x4000 128 = true := by decide +kernel
  have h2 : readImage tPlacing.reader 0x4000 = some tPlaced := by decide +kernel
  have h3 : tPlacing.readable 0x4000 tPlaced.extent.length = true := by decide +kernel
  simp only [State.imageAt, h1, h2, h3, Bool.not_true, Bool.false_eq_true, if_false, if_true]

def tPacket : Waiting' := { tLaunching with specs := some [tSpec], priority := 7 }

theorem tPlacing_races : (tPlaced.placed 0 0).races = .sound := by decide +kernel

theorem tPlacing_admitted (n : Nat) : tPlacing.admitted (tPlaced.placed 0 0) n = true := by
  have h1 : ((tPlaced.placed 0 0).sets.all fun t => t.resv.all fun r => t.chmask.getLsbD (8 * r.die + r.chan)) = true := by decide +kernel
  have h2 : (tPlaced.placed 0 0).checked (tPlaced.placed 0 0).sets = true := by decide +kernel
  have h3 : (tPlaced.placed 0 0).preload = [] := by decide +kernel
  have h4 : (tPlaced.placed 0 0).schedule = .sound := by decide +kernel
  rw [State.admitted, h1, h2, h3, h4, tPlacing_races]; simp [Finding.passes]

theorem tPlacing_tries : tPlacing.placeOne tPacket tSpec none = tPlacing.placeAt tPacket tSpec tPlaced 0 none (0, 0) [] := by
  have h1 : tPlaced.sporadic = false := by decide +kernel
  have h2 : tPlaced.firstSet tPlacing.chmask (tPlacing.startLevel (tPlacing.numberFor tSpec.rcb.id)) = some 0 := by decide +kernel
  have h3 : (origins.filter fun o => tPlacing.originFits tPlaced o.1 o.2).isEmpty = false := by decide +kernel
  have h4 : (budgetsHold (tPlacing.usesNow ++ [(tSpec.path, tPlaced.uses)])) = true := by decide +kernel
  have h5 : (origins.filter fun o => tPlacing.originFits tPlaced o.1 o.2).find? (fun o => tPlacing.rectFree tPlaced o.1 o.2 fun _ => false) = some (0, 0) := by decide +kernel
  have h6 : tPlacing.recordedPlace (tPlacing.numberFor tSpec.rcb.id) = none := by decide +kernel
  simp only [State.placeOne, State.imageOf, show tSpec.rcb.image.toNat % 2 ^ 56 = 0x4000 from by decide +kernel, tPlaced_read, h1, h2, h3, h4, h5, h6, Bool.not_true, Bool.false_eq_true, if_false]

theorem witness_LaunchPackets_placed :
    AtPacket tPlacing 15 tLevel ∧ tPlacing.host.tripped = false ∧ tPlacing.tr.rpActive = false ∧ tPlacing.fe.tryPlace = false ∧ tPlacing.launches = [] ∧
    tPlacing.fe.waiting = [tPacket] ∧ tPacket.specs = some [tSpec] ∧ tPacket.tried = false ∧ tPlacing.aheadOf tPacket.source tPacket.serial = [] ∧
    ∃ s', tPlacing.placePacket tPacket = .placed s' ∧ ∀ k ∈ s'.launches, k.chosen = none := by
  refine ⟨by rw [atPacket_iff]; decide +kernel, by decide +kernel, by decide +kernel, by decide +kernel, by decide +kernel, by decide +kernel, by decide +kernel, by decide +kernel, by decide +kernel, ?_⟩
  have h1 : (tPlacing.fe.queues[(15 : QueueIx)].primax.toNat < tPacket.priority) = False := by decide +kernel
  have h2 : tPlacing.exceedsAlone [tSpec] = false := by decide +kernel
  have h3 : (rectCores (tPlaced.placed 0 0) 0 0).mapM (tPlacing.grantCore (tPlaced.placed 0 0)) = some [⟨0, 0, 0⟩] := by decide +kernel
  have h4 : (tPlaced.placed 0 0).plog = 7 := by decide +kernel
  have h5 : (tPlaced.placed 0 0).rplog = 7 := by decide +kernel
  have h6 : (tPlaced.placed 0 0).hlanes = 0 := by decide +kernel
  have h7 : (tPlaced.placed 0 0).slots = [] := by decide +kernel
  have h8 : tPlacing.launches = [] := by decide +kernel
  have hp : ∃ s', tPlacing.placeAt tPacket tSpec tPlaced 0 none (0, 0) [] = .placed s' ∧ ∀ k ∈ s'.launches, k.chosen = none := by
    simp only [State.placeAt, h3, h4, h5, h6, h7, h8, State.grantParts, tPlacing_admitted, if_true]
    refine ⟨_, by simp only [List.take_zero, List.length_nil, Nat.lt_irrefl, decide_false, List.any_nil, Bool.or_false, Bool.not_true, Bool.false_eq_true, if_false]; rfl, ?_⟩
    simp [State.record]
  obtain ⟨s', hs, hc⟩ := hp
  refine ⟨s', ?_, hc⟩
  have h9 : tPacket.source = .queue 15 := by decide +kernel
  have h10 : tPacket.specs = some [tSpec] := by decide +kernel
  have h11 : tPlacing.host.tripped = false := by decide +kernel
  simp only [State.placePacket, h9, h10, h11, h1, h2, placeAll, tPlacing_tries, hs]
  simp

/-! ### Launches over time -/

/-- The launch on core 0 at a tick. -/
def tAt (tick : Nat) (l : Launch) : State := { tBase l with tick := tick }

def tEnd : TableEntry := { tEntry with isEnd := true, fallback := none }

theorem witness_LaunchTime_origin :
    let l := { tLaunch tEntry with stage := .placed, origin := 32768 }; let s := tAt 32768 l;
    s.launch? 1 = some l ∧ l.stage = .placed ∧ l.origin = s.tick ∧ s.preloadFaults l = false ∧ s.ecc = [] ∧ l.cores = [0] ∧
    (let z := { s with host := { s.host with mreq := true } }; z.host.mreq = true ∧ l.set? = some (tSet 0 tEntry) ∧ l.pendMode = none ∧
      (l.setFor (tSet 0 tEntry).safemode (l.pendLevel.getD l.current.2) z.chmask).isSome = true) := by decide +kernel

/-- A preload address that no table maps. -/
theorem witness_LaunchTime_preload :
    let l := { tLaunch tEntry with stage := .placed, origin := 32768, img := { tImage tEntry with preload := [⟨0x40000000, 0, 0, 0⟩] } }; let s := tAt 32768 l;
    s.launch? 1 = some l ∧ l.stage = .placed ∧ l.origin = s.tick ∧ s.preloadFaults l = true := by decide +kernel

/-- An entry that opens windows of class 0 on sequencer 0, and launch 2, which graph 63, bound to launch 1, has generated for that class. -/
def tSporadic : TableEntry := { tEntry with policyS := true, arg := 0 }

def tGuest (window : Option WindowBind) : Launch := { tLaunch tEntry with num := 2, cls := some 0, source := .graph 63, window := window, grants := [] }

def tWindows (g : Launch) : State :=
  let s := tAt 1024 (tLaunch tSporadic)
  { s with launches := [tLaunch tSporadic, g], fe := { s.fe with graphs := s.fe.graphs.set 63 (some { tGraph with binding := some (0, 1) }) } }

/-- An entry of the launch; one of a generated launch; an end entry on either side of a multiple of 32,768. -/
theorem witness_LaunchTime_entries :
    ((tBase (tLaunch tEntry)).hostEntry? 0 0 = some (tLaunch tEntry, 0, tEntry) ∧ tEntry.isEnd = false ∧ tEntry.policyS = false ∧
      ((tBase (tLaunch tEntry)).seq 0 0).act = none) ∧
    (let l := { tLaunch tEnd with inst := 3, ltime := 3000 };
      (tAt 1 l).hostEntry? 0 0 = some (l, 0, tEnd) ∧ tEnd.isEnd = true ∧ (tAt 1 l).needsFreeze l = true) ∧
    (let l := { tLaunch tEnd with inst := 3, ltime := 3000 };
      (tAt 32768 l).hostEntry? 0 0 = some (l, 0, tEnd) ∧ (tAt 32768 l).needsFreeze l = false ∧ l.cls = none ∧ ∀ g ∈ (tAt 32768 l).launches, g.window = none) := by
  decide +kernel

/-- A window that no launch waits for, and one that the pending launch takes. -/
theorem witness_LaunchTime_windows :
    (let w : WindowBind := ⟨1, 0, 0, 0, 900⟩; let g := tGuest (some w); let l := { tLaunch { tEntry with start := 5 } with ltime := 0 };
      let s := { tAt 1024 l with launches := [l, g] };
      s.hostEntry? 0 0 = none ∧ s.guestEntry? 0 0 = some (g, 0, tEntry) ∧ g.window = some w ∧ (s.seq 0 0).act = none) ∧
    ((tAt 1024 (tLaunch tSporadic)).hostEntry? 0 0 = some (tLaunch tSporadic, 0, tSporadic) ∧ tSporadic.isEnd = false ∧ tSporadic.policyS = true ∧
      (tAt 1024 (tLaunch tSporadic)).tr.rpActive = false ∧ (tAt 1024 (tLaunch tSporadic)).launches.find? (fun g => g.cls.isSome) = none) ∧
    (let g := tGuest none; let s := tWindows g;
      s.hostEntry? 0 0 = some (tLaunch tSporadic, 0, tSporadic) ∧ s.tr.rpActive = false ∧ (s.seq 0 0).act = none ∧
      s.launches.find? (fun g => g.cls == some (tSporadic.arg.setWidth 8) && g.window.isNone && decide (g.pendingFrom + 1024 ≤ s.tick) &&
        (match g.source with | .graph x => (match s.fe.graphs[x].bind (·.binding) with | some (_, m) => m == (tLaunch tSporadic).num | none => false) | .queue _ => false)) =
        some g ∧
      s.launch? g.num = some g ∧ budgetsHold (s.usesNow ++ [(g.path, g.img.uses)]) = true ∧ entryAt g.guestTable 0 = some (0, tEntry)) := by decide +kernel

theorem witness_LaunchTime_boundaries :
    (let l := { tLaunch tEntry with ltime := 1000 };
      (tAt 32768 l).launch? 1 = some l ∧ l.timeHeld 32768 = false ∧ l.set? = some (tSet 0 tEntry) ∧ l.inPeriod = (tSet 0 tEntry).period ∧
      (tAt 32768 l).needsFreeze l = false ∧ (tAt 1 l).launch? 1 = some l ∧ l.timeHeld 1 = false ∧ (tAt 1 l).needsFreeze l = true) ∧
    ∀ a ∈ [AfterBoundary.nextInst, .resume, .switch 1 1 false, .retire],
      let l := { tLaunch tEntry with ltime := 1000, boundary := some ⟨7, a, true, 32744⟩ };
      (tAt 32768 l).launch? 1 = some l ∧ l.boundary = some ⟨7, a, true, 32744⟩ ∧ (tAt 32768 l).boundaryOver l = true := by decide +kernel

/-- In a tick that needs a boundary freeze and in one that does not: nothing asked; mode 3, which has a set; mode 0, which is current; mode 5, which has none; a change
of the channels in service that leaves no set. -/
theorem witness_LaunchTime_switches :
    (∀ x ∈ [(500, true), (32768, false)], let l := { tLaunch tEntry with ltime := 500 }; let s := tAt x.1 l;
      s.launch? 1 = some l ∧ s.atSwitchPoint l = true ∧ l.asked x.1 = none ∧ s.needsFreeze l = x.2) ∧
    (∀ x ∈ [(500, true), (32768, false)], ∀ m ∈ [(3 : BitVec 4), 0, 5], let l := { tLaunch tEntry with ltime := 500, pendMode := some ⟨m, false, 1, 476⟩ }; let s := tAt x.1 l;
      s.launch? 1 = some l ∧ s.atSwitchPoint l = true ∧ l.asked x.1 = some (m, 0) ∧ s.needsFreeze l = x.2 ∧ l.chmaskNew = false ∧
      l.setFor m 0 s.chmask = if m = 3 then some 1 else if m = 0 then some l.setIx else none) ∧
    (let l := { tLaunch tEntry with ltime := 500, chmaskNew := true }; let s := (tAt 500 l).updHealth fun h => { h with fenced := 1 };
      s.launch? 1 = some l ∧ s.atSwitchPoint l = true ∧ l.asked 500 = some (0, 0) ∧ l.setFor 0 0 s.chmask = none ∧ l.current = (0, 0)) := by decide +kernel

/-- An activation at a tick. -/
def tActAt (tick : Nat) (l : Launch) (a : Activation) : State := { (tBase l).updSeq 0 0 fun x => { x with act := some a } with tick := tick }

theorem witness_DeadlinesAndFreezes :
    (let s := tActAt 900 (tLaunch tEntry) tActivation;
      (s.seq 0 0).act = some tActivation ∧ tActivation.isFallback = false ∧ tActivation.drain = false ∧ s.seqRuns 0 0 = true ∧ tActivation.deadline ≤ s.tick ∧
      (s.ctx 0).busyFor (fun o => o.launch == tActivation.launch && o.act == tActivation.id) = false ∧ tActivation.fallback = some 128 ∧ s.tick < tActivation.fbDeadline ∧ s.ecc = [] ∧
      s.coreLaunch? 0 = some (tLaunch tEntry) ∧ (tLaunch tEntry).stopped s.tick = false ∧ (s.openBlock 0 128 0 ((s.seq 0 0).g.set 63 tActivation.arg)).trap = none) ∧
    (let a := { tActivation with fallback := none }; let s := tActAt 900 (tLaunch tEntry) a;
      (s.seq 0 0).act = some a ∧ a.isFallback = false ∧ a.drain = false ∧ s.seqRuns 0 0 = true ∧ a.deadline ≤ s.tick ∧ a.fallback = none ∧ s.ecc = []) ∧
    (let a := { tActivation with isFallback := true }; let s := tActAt 1400 (tLaunch tEntry) a;
      (s.seq 0 0).act = some a ∧ a.isFallback = true ∧ a.drain = false ∧ s.seqRuns 0 0 = true ∧ a.fbDeadline ≤ s.tick) ∧
    (let l := { tLaunch tEntry with causes := [⟨2, 0, some 100⟩] }; (tAt 24 l).launch? 1 = some l ∧ l.stage ≠ .placed ∧ l.frozenFrom = none ∧ l.active (tAt 24 l).tick ≠ []) ∧
    (let l := { tLaunch tEntry with causes := [⟨2, 0, some 100⟩], frozenFrom := some 24, seen := 4 };
      (tAt 124 l).launch? 1 = some l ∧ l.frozenFrom = some 24 ∧ l.active (tAt 124 l).tick = []) ∧
    ((tBase (tLaunch tEntry)).launches.map Launch.num).Nodup ∧ (tBase (tLaunch tEntry)).tr.rpActive = false := by decide +kernel

/-- A newcomer, launch 2, waits to be placed on the core. -/
def tNewcomer : Launch := { tLaunch tEntry with num := 2, stage := .placed, priority := 20, tokens := 1, group := 2 }

theorem witness_Preemption :
    (let l := { tLaunch tEntry with chosen := some ⟨24, 2⟩ }; let s := { tActAt 24 l tActivation with launches := [l, tNewcomer] };
      s.launch? 1 = some l ∧ l.chosen = some ⟨24, 2⟩ ∧ s.preemptNow l = true ∧ l.stage = .running ∧ l.frozenFrom = none ∧ l.susp = none ∧ l.stopped s.tick = false ∧ 24 ≤ s.tick ∧
      s.tr.rpActive = false ∧ s.launch? 2 = some tNewcomer ∧
      s.activations l = [(0, 0, tActivation)] ∧ tActivation.isFallback = false ∧ tActivation.polD = false ∧ tActivation.polC = true ∧ 1 ≤ tNewcomer.tokens) ∧
    (let l := { tLaunch tEntry with urgentAt := some 24 }; let a := { tActivation with polD := true, remain := 4096 }; let s := tActAt 24 l a;
      s.launch? 1 = some l ∧ s.urgentNow l = true ∧ l.boundary = none ∧ s.activations l = [(0, 0, a)] ∧ a.isFallback = false ∧ a.polD = true ∧ a.remain - a.ran ≤ 4096) := by decide +kernel

theorem witness_Preemption_urgent :
    (let l := { tLaunch tEntry with urgentAt := some 24, boundary := some ⟨7, .nextInst, true, 7⟩, pendMode := some ⟨3, true, 1, 20⟩ }; let s := tAt 24 l;
      s.launch? 1 = some l ∧ l.stage = .running ∧ l.frozenFrom = none ∧ l.susp = none ∧ l.urgentFrom = none ∧ l.stopped s.tick = false ∧ l.urgentAt = some 24 ∧
      s.activations l = [] ∧ ({ l with urgentFrom := some s.tick } : Launch).asked s.tick = some (3, 0) ∧ l.setFor 3 0 s.chmask = some 1 ∧ 1 ≠ l.setIx) ∧
    (let l := { tLaunch tEntry with urgentAt := some 24 }; let s := tActAt 24 l tActivation;
      s.launch? 1 = some l ∧ s.urgentNow l = true ∧ l.stage = .running ∧ l.frozenFrom = none ∧ l.susp = none ∧ l.urgentFrom = none ∧ l.stopped s.tick = false ∧
      l.urgentAt = some 24 ∧ l.boundary = none ∧ s.activations l = [(0, 0, tActivation)] ∧ tActivation.polD = false ∧
      (s.ctx 0).busyFor (fun o => o.launch == tActivation.launch && o.act == tActivation.id) = false) ∧
    (let a := { tActivation with drain := true, drainLimit := 4120 }; let s := tActAt 4120 (tLaunch tEntry) a;
      (s.seq 0 0).act = some a ∧ a.drain = true ∧ s.seqRuns 0 0 = true ∧ a.drainLimit ≤ s.tick ∧
      (s.ctx 0).busyFor (fun o => o.launch == a.launch && o.act == a.id) = false) := by decide +kernel

/-- Of the victim: launch 1 with core 0 swapped out; its context in the Attic. -/
def tSuspended (p : Suspension) : Launch := { tLaunch tEntry with stage := .suspended, susp := some p }

theorem witness_Suspension :
    (let p : Suspension := ⟨24, 2, false, 0, none, false⟩; let l := { tLaunch tEntry with susp := some p }; let s := tAt 24 l;
      s.coreLaunch? 0 = some l ∧ l.susp = some p ∧ p.at' ≤ s.tick ∧ p.restoring = false ∧ l.stage = .running ∧ (s.core 0).swap = none ∧
      (∀ q, (s.seq 0 q).act = none) ∧ (∀ ch : ChanIx, (s.ctx 0).chans[ch].run = none) ∧ (s.ctx 0).matrix.load = none) ∧
    (let s := (tBase (tLaunch tEntry)).updCore 0 fun k => { k with swap := some (true, 0) };
      (s.core 0).swap = some (true, 0) ∧ s.coreLaunch? 0 = some (tLaunch tEntry)) := by decide +kernel

theorem witness_Suspension_restore :
    (let p : Suspension := ⟨24, 2, false, 0, none, false⟩; let l := tSuspended p;
      let s := { State.reset with launches := [l] }.updCore 0 fun k => { k with storeOwner := 1, attic := some ⟨1, .init, []⟩ };
      s.launch? 1 = some l ∧ l.susp = some p ∧ l.stage = .suspended ∧ p.restoring = false ∧
      (∀ c ∈ l.cores, (s.core c).launch = 0 ∧ (s.core c).attic.map Attic.launch = some 1) ∧
      (∀ k ∈ s.launches, ¬ (k.num ≠ 1 ∧ k.cls = none ∧ k.stage ≠ .suspended)) ∧ ∀ c ∈ l.cores, (s.core c).storeOwner = 1) := by decide +kernel

theorem witness_Suspension_resume :
    (∀ bad ∈ [false, true], let p : Suspension := ⟨24, 2, true, 0, some 5000, bad⟩; let l := tSuspended p;
      (tAt 5000 l).launch? 1 = some l ∧ l.susp = some p ∧ p.resume = some (tAt 5000 l).tick ∧ l.cores.Nodup ∧ p.badImage = bad ∧
      (tAt 5000 l).ecc = [] ∧ ∀ c ∈ l.cores, ((tAt 5000 l).core c).mailboxFull = false) := by decide +kernel

/-- At tick 4,994, with the resume at 5,000: a step of each kind of unit of which six ticks had passed. -/
theorem witness_Suspension_steps :
    let l := tSuspended ⟨24, 2, true, 0, some 5000, false⟩; let s := tAt 4994 l
    s.coreLaunch? 0 = some l ∧ l.susp.bind Suspension.resume = some 5000 ∧ s.ecc = [] ∧
    (let k := { tMx (tCmd (.mma .always .i8 31 0) 0 1 []) 9 with redo := some 6 };
      ((s.updMatrix 0 fun m => { m with compute := some k }).ctx 0).matrix.compute = some k ∧ k.redo = some (5000 - s.tick)) ∧
    (let k := { tMx (tCmd (.mtld .always 3 4) 0 0 []) 9 with redo := some 6 };
      ((s.updMatrix 0 fun m => { m with load := some k }).ctx 0).matrix.load = some k ∧ k.redo = some (5000 - s.tick)) ∧
    (let k : SsRun := { cmd := tCmd (.snot .always 9) 1 0 [], elapsed := 1, busy := 1, effect := 2, streams := [], counts := [], gen := none, bytes := [], redo := some 6, rerun := false };
      ((s.updStoch 0 fun m => { m with logic := [k] }).ctx 0).stoch.unit .logic = [k] ∧ k.redo = some (5000 - s.tick) ∧ k.rerun = false) ∧
    (let j : PortJob := { owner := tOwner, table := none, stream := 128, words := 4, version := 7, left := 1, total := 1, redo := some 6, rerun := false };
      ((s.updRegion 0 0 fun g => { g with port := some j }).ctx 0).regions[0].port = some j ∧ j.redo = some (5000 - s.tick)) := by decide +kernel

/-! ### Trace, replay, debug -/

def tRec : Rec := { typ := 0x13, tick := 0, place := none, payload := [1, 2], trace := false }

def tTrace (tick : Nat) (f : TraceState → TraceState) : State := { tBase (tLaunch tEntry) with tick := tick, tr := f TraceState.init }

/-- A record alone in the buffer, before and at its last tick, at the ring's end. -/
theorem witness_TraceEngine_place :
    (let s := tTrace 255 fun t => { t with buffer := [tRec] }; s.tr.buffer = [tRec] ∧ s.tr.rpActive = false ∧ s.tick < tRec.tick + 256) ∧
    (let s := tTrace 256 fun t => { t with buffer := [tRec], wptr := 4194300 };
      s.tr.buffer = [tRec] ∧ s.tr.rpActive = false ∧ tRec.tick + 256 ≤ s.tick ∧ tRec.words ≤ 32 ∧ s.tr.wptr.toNat + tRec.words ≤ 4194304 ∧
      sparseWf 0 0 s.tr.ring = true) := by decide +kernel

theorem witness_TraceEngine_loss : (tTrace 0 fun t => { t with lossCount := 3 }).tr.lossDue = true := by decide +kernel

theorem witness_TraceEngine_tstop :
    (let s := tTrace 4 fun t => { t with tstops := [(4, true)] }; s.tr.tstops = [(s.tick, true)]) ∧
    (let s := tTrace 4 fun t => { t with tstops := [(4, false)] }; s.tr.tstops = [(s.tick, false)] ∧ s.tr.post = 0) ∧
    (let s := tTrace 4 fun t => { t with tstops := [(4, false)], post := 5 }; s.tr.tstops = [(s.tick, false)] ∧ s.tr.post ≠ 0) := by decide +kernel

theorem witness_TraceEngine_profile : (tTrace 2048 fun t => { t with pen := true, interval := 2 }).profDue = true := by decide +kernel

theorem witness_TraceEngine_scan : 
    (tTrace 33554432 id).scanDue = true ∧ isWalkSlot (tTrace 33554432 id).tick = false ∧
    (let s := tTrace 8192 fun t => { t with scanLeft := [(1, 5, 2 ^ 55 - 8)] };
      s.tr.scanLeft = [(1, 5, 2 ^ 55 - 8)] ∧ isWalkSlot s.tick = true ∧ s.ecc = [] ∧ s.memWf = true ∧ s.tr.pen = false) := by decide +kernel

def tBench (s : State) : State := { s with host := { s.host with lifecycle := .bench } }

theorem witness_ExportsAndReplay :
    State.reset.bench = false ∧
    (let b : Build := ⟨[1], [], 2, [], 5⟩; (tTrace 0 fun t => { t with building := [b] }).tr.building = b :: [] ∧ b.segs = []) ∧
    (let s := { tBench State.reset with tr := { TraceState.init with rpOn := true } };
      s.bench = true ∧ s.tr.rpOn = true ∧ s.fe.actSerial = 1 ∧ ∀ q : QueueIx, s.fe.queues[q].lnCount = 0) := by decide +kernel

def tStop : DebugStop := { from' := 5, reason := 3, bp := 0, core := 0, seq := 0, stopped := none, resume := none, step := none, started := false, again := false }

def tStopped (d : DebugStop) : Launch := { tLaunch tEntry with dstop := some d }

/-- A stop holds a fallback that a trap would start. -/
theorem witness_TrapStartsFallback_stopped :
    let s := { (tBase (tStopped tStop)).updSeq 0 0 fun x => { x with act := some tActivation, run := some (tBlock 1 2 1) } with tick := 5 };
    Fires s (tBlock 1 2 1) .onTrue false false false 0 0 0 ∧ (s.seq 0 0).act = some tActivation ∧ (s.seq 0 0).answered = false ∧ s.phase ≠ .values ∧ s.todo = [] ∧
    s.coreLaunch? 0 = some (tStopped tStop) ∧ (tStopped tStop).stopped s.tick = true := by simp only [fires_iff]; decide +kernel

/-- A launch to be halted; one that nothing of runs, at its stop; one that still runs a block 2^20 ticks later; a step that is done; one that is late. -/
theorem witness_DebugStops :
    (let s := tBench (tBase (tLaunch tEntry)); s.launch? 1 = some (tLaunch tEntry) ∧ s.bench = true ∧ (tLaunch tEntry).stage ≠ .placed ∧ (tLaunch tEntry).dstop = none ∧
      (tBase (tLaunch tEntry)).bench = false) ∧
    (let l := tStopped tStop; (tBench (tAt 5 l)).bench = true ∧ (tAt 5 l).launch? 1 = some l ∧ l.dstop = some tStop ∧ l.stage ≠ .placed ∧ tStop.from' ≤ (tAt 5 l).tick ∧
      tStop.stopped = none ∧ l.susp = none ∧ (tAt 5 l).quiet l = true) ∧
    (let l := tStopped tStop; let s := (tAt 1048581 l).updSeq 0 0 fun x => { x with run := some (tBlock 1 2 1) };
      s.launch? 1 = some l ∧ l.dstop = some tStop ∧ tStop.stopped = none ∧ tStop.reason ≠ 7 ∧ tStop.from' + 2 ^ 20 ≤ s.tick ∧ 0 ∈ l.cores ∧
      (s.seq 0 0).run = some (tBlock 1 2 1)) ∧
    (let d := { tStop with stopped := some 6, step := some (0, .seq 0, 7), started := true };
      (tAt 9 (tStopped d)).launch? 1 = some (tStopped d) ∧ d.step = some (0, .seq 0, 7) ∧ d.started = true ∧ (tAt 9 (tStopped d)).quiet (tStopped d) = true) ∧
    (let d := { tStop with stopped := some 6, step := some (0, .seq 0, 7), started := true };
      let s := (tAt 1048583 (tStopped d)).updSeq 0 0 fun x => { x with run := some (tBlock 1 2 1) };
      s.launch? 1 = some (tStopped d) ∧ d.step = some (0, .seq 0, 7) ∧ 7 + 2 ^ 20 ≤ s.tick ∧ (s.seq 0 0).run = some (tBlock 1 2 1)) := by decide +kernel

/-- Stopped since tick 6: with a successor block; at an entry; with nothing to run; with a command in a region's queue, and with none. -/
theorem witness_DebugStops_steps :
    let d := { tStop with stopped := some 6 }; let l := tStopped d; let s := tBench (tAt 9 l)
    s.launch? 1 = some l ∧ l.dstop = some d ∧ s.bench = true ∧ d.stopped = some 6 ∧ d.step = none ∧ d.resume = none ∧ l.susp = none ∧ 0 ∈ l.cores ∧
    ((s.updSeq 0 0 fun x => { x with succ := some 64 }).seq 0 0).succ = some 64 ∧
    ((s.updSeq 0 0 fun x => { x with held := some 64 }).seq 0 0).held = some 64 ∧
    ((s.seq 0 0).succ = none ∧ (s.seq 0 0).held = none ∧ (s.seq 0 0).act = none ∧ l.stepEntry 0 0 = some (0, tEntry)) ∧
    ((s.seq 0 1).succ = none ∧ (s.seq 0 1).held = none ∧ l.stepEntry 0 1 = none) ∧
    ((s.updRegion 0 3 fun g => { g with queue := [tCmd (.run .always) 1 0 []] }).ctx 0).regions[3].queue ≠ [] ∧ (s.ctx 0).regions[0].queue = [] := by decide +kernel

/-! ### The host, time, health, boot -/

/-- A page with SYSATOM = 1 from 2^28 on, one without below it; channel 1 fenced. -/
def tHost : State :=
  let s := (tBase (tLaunch tEntry)).updCtx 0 fun x => { x with ranges := tRanges.map fun e => { e with sysatom := true } };
  { s with health := { s.health with fenced := 2 } }

theorem witness_HostAccesses :
    tHost.host.bootFailed = false ∧ tHost.host.powered = true ∧ tHost.bench = false ∧ (tBench tHost).bench = true ∧
    ¬ (((4 : BitVec 8) = 4 ∨ (4 : BitVec 8) = 8) ∧ (0x3002 : BitVec 16).toNat % (4 : BitVec 8).toNat = 0) ∧ ¬ ((2 : BitVec 8) = 4 ∨ (2 : BitVec 8) = 8) ∧
    tHost.fencedSpan (2 ^ 32 - 8) 8 = false ∧ tHost.fencedSpan (2 ^ 32 - 8) 9 = true ∧ tHost.ecc = [] ∧ tHost.memWf = true ∧ tHost.offSpan (2 ^ 32 - 8) 8 = false ∧ tHost.offSpan (2 ^ 28) 8 = false ∧
    tHost.sysatom (2 ^ 28) = true ∧ tHost.fencedSpan (2 ^ 28) 8 = false ∧ (tBase (tLaunch tEntry)).sysatom 0 = false := by decide +kernel

def tTime (tick : Nat) (f : TimeState → TimeState) : State := { State.reset with tick := tick, tm := f TimeState.init }

theorem witness_WallTime :
    State.reset.tr.rpActive = false ∧ (State.reset.tm.servo = .free ∧ 1000000 < (-1000001 : Int).natAbs) ∧
    ((tTime 5 fun t => { t with servo := .pps, goodSyncs := 7 }).tm.servo = .pps ∧ (-999 : Int).natAbs < 1000 ∧ (tTime 5 fun t => { t with goodSyncs := 7 }).tm.goodSyncs = 7) ∧
    (let s := tTime 5 fun t => { t with servo := .locked, badSyncs := 7 }; s.tm.servo = .locked ∧ s.tm.badSyncs = 7 ∧ s.edgesArrive = false) ∧
    (let s := tTime 5 fun t => { t with servo := .locked, badSyncs := 7, lastEdge := some 1, edges := 3 }; s.edgesArrive = true ∧ 3 ≤ s.tm.edges) ∧
    (tTime (2 ^ 33) fun t => { t with servo := .pps, lastEdge := some 1 }).holdoverDue = true ∧
    (tTime (2 ^ 37) fun t => { t with servo := .holdover }).expiryDue = true := by decide +kernel

theorem witness_Degradation :
    (State.reset.health.modules[(0 : Fin 8)] ≠ 0 ∧ State.reset.health.dropNow.getLsbD 0 = false ∧ (∀ l ∈ (tBase (tLaunch tEntry)).launches, l.spans 0 = false) ∧
      (∀ k : Fin 4, (State.reset.health.spares[(0 : Fin 8)])[k].toNat < 4) ∧ ((State.reset.coreHeld 5 = false) ∧ (tBase (tLaunch tEntry)).coreHeld 0 = true)) ∧
    (let l := { tLaunch tEntry with img := { tImage tEntry with width := 2, sx := 1 }, ox := 3 };
      (tBase l).launch? 1 = some l ∧ l.cls = none ∧ l.spans 0 = true ∧ l.stage ≠ .placed) ∧
    ((30 : Int) < 115 ∧ levelFor 30 ≤ State.reset.host.level.toNat) ∧
    (let s := { State.reset with tick := 2 ^ 30, host := { HostState.init with level := 2, coolSince := some 0 } }; s.launches = [] ∧ s.stepBackDue = true) ∧
    (let s := { State.reset with host := { HostState.init with celsius := 115 } }; 115 ≤ s.host.celsius ∧ s.host.tripped = false ∧ s.launches = []) ∧
    (let s := { tBase (tLaunch tEntry) with host := { HostState.init with mreqPin := true, mreqRun := 64 } };
      s.mreqDue = true ∧ s.tr.rpActive = false ∧ s.launches = [tLaunch tEntry] ∧ s.launch? 1 = some (tLaunch tEntry) ∧ (tLaunch tEntry).set? = some (tSet 0 tEntry) ∧
      (tLaunch tEntry).setFor (tSet 0 tEntry).safemode ((tLaunch tEntry).pendLevel.getD (tLaunch tEntry).current.2) s.chmask = some 1 ∧
      (tLaunch tEntry).pendMode = none ∧ (tLaunch tEntry).urgentFrom = none ∧ (tLaunch tEntry).urgentAt = none) ∧
    (let s := { State.reset with host := { HostState.init with mreq := true } }; s.host.mreqPin = false ∧ s.host.mreq = true) ∧
    (let s := { State.reset with tick := 2 ^ 20 }; s.tick % 2 ^ 20 = 0 ∧ s.tick ≠ 0) := by decide +kernel

/-- Without a spare lane in any module of link 0; after a loss of a module in the same tick. -/
theorem witness_Degradation_lanes :
    let s := { State.reset with health := { State.reset.health with spares := State.reset.health.spares.set 0 (Vector.replicate 4 4) } };
    (s.health.modules[(0 : Fin 8)] ≠ 0 ∧ s.launches = [] ∧ s.health.dropNow.getLsbD 0 = false ∧ ∀ k : Fin 4, ¬ (s.health.spares[(0 : Fin 8)])[k].toNat < 4) ∧
    ({ s.health with dropNow := 1 } : Health).dropNow.getLsbD 0 = true := by decide +kernel

theorem witness_Boot :
    (let s := { State.reset with host := { HostState.init with boot := 1, signed := false } };
      s.host.boot < 5 ∧ s.host.bootFailed = false ∧ s.host.bootLeft = 0 ∧ s.host.boot = 1 ∧ s.host.signed = false) ∧
    (∀ k ∈ [0, 1, 3, 4], let s := { State.reset with host := { HostState.init with boot := k, signed := true, rollback := 3, version := 3 } };
      s.host.boot < 5 ∧ s.host.bootFailed = false ∧ s.host.bootLeft = 0 ∧ s.host.signed = true ∧ s.host.rollback ≤ s.host.version) ∧
    State.reset.launches = [] ∧ State.reset.memWf = true ∧ (0x80000 : BitVec 56).toNat + 2 ^ 19 ≤ (0x100000 : BitVec 56).toNat := by decide +kernel

/-! ### Steps -/

/-- A block with a word at index 0, about to fire: that of `add`, and one that does not decode. -/
def tWord (w : BitVec 32) : BlockRun := { tBlock 1 2 1 with body := [w, 0] }

def tFetch (b : BlockRun) : State := { tRun tActivation b with todo := [.fire 0 0 0] }

theorem witness_StepRunsDecoded :
    (let b := tWord 0x010271F0; (tFetch b).todo = .fire 0 0 0 :: [] ∧ ((tFetch b).seq 0 0).run = some b ∧ b.word 0 = 0x010271F0 ∧
      (match decodeWord 0x010271F0 with | .ok i => i == .add .onTrue (.gate 19) (.left 31) && i.wf && Instr.allowed 0 0 i | .error _ => false) = true) ∧
    ((tWord 0xFE000000).word 0 = 0xFE000000 ∧
      (match decodeWord 0xFE000000 with | .ok _ => false | .error _ => true) = true) ∧
    (let s := State.reset.withFetchWord 64 0x7; s.todo = .packet (.queue 0) :: [] ∧ (({ s with todo := [] } : State).fetch (.packet (.queue 0))).2 = some (.pkFfence 0)) ∧
    0 ≤ (State.reset.openBlock 0 64 0 (Vector.replicate 64 0)).len ∧ State.reset.todo = [] := by decide +kernel

theorem witness_WordsRoundTrip : (Instr.add .onTrue (.gate 19) (.left 31)).wf = true ∧ encodeWord (.add .onTrue (.gate 19) (.left 31)) = some 0x010271F0 := by
  decide +kernel

theorem witness_PacketsRoundTrip : (Instr.pkLoop 0 4 1).wf = true ∧ encodePacket (.pkLoop 0 4 1) = some (0x104 :: [0x10004]) := by decide +kernel

theorem witness_MemoryInvariant : answersNext (step State.reset) = true ∧ State.reset.memWf = true ∧ sparseWf 0 0 State.reset.tr.ring = true := by decide +kernel

/-! ### Computations, with the manual's worked values -/

/-- 04_numbers: encoding of D8 bytes, to nearest even with saturation. -/
theorem test_d8_encodes :
    d8RoundFin .rne 0 true false 37 1000 = 0x25 ∧ d8RoundFin .rne 0 true true 99 10000 = 0xA0 ∧ d8RoundFin .rne 0 true false 8875 1000000 = 0x20 ∧
    d8RoundFin .rne 0 true false 7 (10 ^ 22) = 0x01 ∧ d8RoundFin .rne 0 true true 3 (10 ^ 22) = 0x00 ∧ d8RoundFin .rne 0 true false 125 10 = 0x7F := by decide +kernel

/-- R161: the worked QNT, to nearest even, up, and by the keyed draw on either side of the midpoint. -/
theorem test_qnt_midpoint :
    qnt .fp32 .e4m3 .rne 0 true 0x3F7C0000 0xFF = 0x32 ∧ qnt .fp32 .e4m3 .rup 0 true 0x3F7C0000 0xFF = 0x33 ∧
    qnt .fp32 .e4m3 .rsr 0x7FFFFFFF true 0x3F7C0000 0xFF = 0x33 ∧ qnt .fp32 .e4m3 .rsr 0x80000000 true 0x3F7C0000 0xFF = 0x32 := by decide +kernel

/-- R368: the first values of three generators. -/
theorem test_generators :
    let x (g : Gen) : Nat × Nat × Nat × Nat := let a := g.next 0 0; let b := a.2.next 0 0; let c := b.2.next 0 0; (a.1, b.1, c.1, (c.2.next 0 0).1);
    x ⟨1, 3, 0, 0⟩ = (0xC000, 0x2000, 0xA000, 0x6000) ∧ x ⟨2, 0x100, 0x4000, 0⟩ = (0x0100, 0x4100, 0x8100, 0xC100) ∧
    x ⟨3, 0, 0, 1⟩ = (0x0001, 0xB400, 0x5A00, 0x2D00) := by decide +kernel

/-- FIPS 180-4: the SHA-384 digest of "abc" begins CB00753F 45A35E8B and ends 34C825A7; the CRC-32C of "123456789" is E3069283. -/
theorem test_digests :
    (sha384 [0x61, 0x62, 0x63]).take 8 = [0xCB, 0x00, 0x75, 0x3F, 0x45, 0xA3, 0x5E, 0x8B] ∧ (sha384 [0x61, 0x62, 0x63]).drop 44 = [0x34, 0xC8, 0x25, 0xA7] ∧
    crc32c [0x31, 0x32, 0x33, 0x34, 0x35, 0x36, 0x37, 0x38, 0x39] = 0xE3069283 := by decide +kernel

/-! ### Single steps -/

/-- A property of the state that a step answers. -/
def after (o : Host.Outcome State Fault Refusal) (P : State → Bool) : Bool := match o with | .next t => P t | _ => false

/-- R220: the least number divided by -1, and by 0. -/
theorem test_div_corners :
    after (exec (.div .always (.left 1) .null) (tRun tActivation (tBlock (BitVec.intMin 64) (-1) 0)))
      (fun t => ((t.seq 0 0).run.map BlockRun.flights) == some [⟨20, .left 1, 0x8000000000000000⟩]) = true ∧
    after (exec (.rem .always (.left 1) .null) (tRun tActivation (tBlock 7 0 0))) (fun t => ((t.seq 0 0).run.map BlockRun.flights) == some [⟨20, .left 1, 7⟩]) = true := by
  decide +kernel

/-- R231: the immediate counts in units of the access size, and is signed. -/
theorem test_load_address :
    after (exec (.ldW .always 0 511 (.left 1)) (tRun tActivation (tBlock 64 0 0))) (fun t => ((t.seq 0 0).run.map fun b => b.loads.map Load.addr) == some [60]) = true := by
  decide +kernel

/-- R205, R171: a commit writes its slot's value to g5, counts, and names the successor. -/
theorem test_commit :
    after (exec (.blockCommit 0 0) (tRun tActivation (tReady [] (some 64))))
      (fun t => (t.seq 0 0).g[5] == 42 && (t.seq 0 0).commits == 1 && (t.seq 0 0).succ == some 64 && (t.seq 0 0).run.isNone) = true := by decide +kernel

/-- R240: the last arrival of two begins the next phase. -/
theorem test_barrier :
    after (exec (.barrierArrival 0 63)
        ((tBase (tLaunch tEntry)).updCore 0 fun k => { k with arrivals := [⟨0, false, 1, 0, 63, 1⟩], ctx := { k.ctx with barriers := k.ctx.barriers.set 63 ⟨2, 1, 255⟩ } }))
      (fun t => (t.ctx 0).barriers[63] == ⟨2, 0, 0⟩) = true := by decide +kernel

/-- R408: the add of a signal, and its SIGNAL record. -/
theorem test_signal_adds :
    after (exec (.pkSignal 0 0x3000000 0x10000 .add false false 0 0) { tQueue id with dram := writeLE [] 0x3000000 8 3 })
      (fun t => readLE t.dram 0x3000000 8 == 0x10003 && t.tr.buffer.map Rec.typ == [0x10]) = true := by decide +kernel

/-- R433: the worked example of a ring near its end: a SKIP record of 4 words, then the OVERRUN record at the start. -/
theorem test_ring_end :
    after (exec .cellarRecordPlace (tTrace 0x123456889 fun t =>
        { t with wptr := 4194300, cseq := 0x1A2B, buffer := [{ typ := 0x04, tick := 0x123456789, place := some 0, payload := [0, 0, 0], trace := false }] }))
      (fun t => t.tr.wptr == 6 && t.tr.cseq == 0x1A2D && sparseGet 0 t.tr.ring 4194300 == 0x80041A2B23456789 && sparseGet 0 t.tr.ring 0 == 0x84061A2C23456789 &&
        sparseGet 0 t.tr.ring 1 == 0x123456789) = true := by decide +kernel

/-- R382: `snot` inverts the L bits of its stream and no other. -/
theorem test_snot : ((tStoch id).ssRun 0 (tCmd (.snot .always 9) 1 0 [])).streams = [(9, ⟨0xFFFFFFFFFFFFFFFA, 0, 1⟩)] := by decide +kernel

/-- R199, R177: the word of `addi` placed where the step fetches runs; R398: so does the packet of `pk.loop`; with a reserved bit set it freezes its queue. -/
theorem test_step_fetches :
    after (step (State.reset.withFetchWord 32 0x040060FF)) (fun t => t.todo == []) = true ∧
    after (step (State.reset.withFetchWord 128 0x00000000010100040000000000000104)) (fun t => t.fe.queues[(0 : QueueIx)].frozen) = true ∧
    after (step (State.reset.withFetchWord 128 0x00000000000100040000000000000104)) (fun t => !t.fe.queues[(0 : QueueIx)].frozen &&
      t.fe.queues[(0 : QueueIx)].exec.levels.map Level.loopPasses == [4]) = true := by decide +kernel

end
end Sys2Proof
end

section
/-! SUPPORT. The host's accesses (R5, R133, R397, R463 to R468, R480): what a read gives back after a write, what an access meets in a memory without errors, what a write of 8 bytes
does in each register window; then the statement O51. -/

namespace Sys2Proof.Machine

/-! ### Bits -/

theorem bit_toNat {w : Nat} (v : BitVec w) (i : Nat) : bit v.toNat i = v.getLsbD i := by
  rw [bit, BitVec.getLsbD, Nat.testBit_eq_decide_div_mod_eq]
  exact beq_eq_decide _ _

/-- A physical address of the module names no host memory (R108). -/
theorem bit_55_of_dram (a : BitVec 37) : bit a.toNat 55 = false := by
  rw [bit, Nat.div_eq_of_lt (by omega)]
  rfl

/-! ### Little-endian values in memory (R1) -/

@[simp] theorem leBytes_length (n v : Nat) : (leBytes n v).length = n := by
  induction n generalizing v with
  | zero => rfl
  | succ n ih => simp [leBytes, ih]

theorem leNat_leBytes (n v : Nat) : leNat (leBytes n v) = v % 2 ^ (8 * n) := by
  induction n generalizing v with
  | zero => simp [leBytes, leNat, Nat.mod_one]
  | succ n ih =>
    rw [leBytes, leNat, ih, BitVec.toNat_ofNat, show 8 * (n + 1) = 8 + 8 * n by omega, Nat.pow_add]
    exact (Nat.mod_mul ..).symm

theorem leNat_lt (bs : List Byte) : leNat bs < 2 ^ (8 * bs.length) := by
  induction bs with
  | nil => simp [leNat]
  | cons b bs ih =>
    rw [leNat, List.length_cons, show 8 * (bs.length + 1) = 8 + 8 * bs.length by omega, Nat.pow_add]
    omega

@[simp] theorem readBytes_length (m : Memory) (a n : Nat) : (readBytes m a n).length = n := by
  induction n generalizing a with
  | zero => rfl
  | succ n ih => simp [readBytes, ih]

theorem readLE_lt (m : Memory) (a n : Nat) : readLE m a n < 2 ^ (8 * n) := by
  simpa [readLE] using leNat_lt (readBytes m a n)

theorem readBytes_writeBytes {m : Memory} (h : Memory.wf m = true) (a : Nat) (bs : List Byte) : readBytes (writeBytes m a bs) a bs.length = bs := by
  induction bs generalizing m a with
  | nil => rfl
  | cons b bs ih =>
    have first := readByte_writeBytes_inside (a := a) (bs := b :: bs) h 0 (Nat.zero_lt_succ _)
    exact congrArg₂ List.cons (by simpa using first) (ih (writeByte_wf h) (a + 1))

/-- What is read where n bytes of a value were written: the value modulo 2^(8n). -/
theorem readLE_writeLE {m : Memory} (h : Memory.wf m = true) (a n v : Nat) : readLE (writeLE m a n v) a n = v % 2 ^ (8 * n) := by
  have back := readBytes_writeBytes h a (leBytes n v)
  rw [leBytes_length] at back
  rw [readLE, writeLE, back, leNat_leBytes]

theorem State.dram_wf {s : State} (h : s.memWf = true) : Memory.wf s.dram = true := by
  simp only [State.memWf, Bool.and_eq_true] at h
  exact h.1.2

/-! ### Memory without errors (R121) -/

theorem State.hardError_of_clean {s : State} (h : s.ecc = []) (space : Fin 10) (place a n : Nat) : s.hardError space place a n = false := by
  simp [State.hardError, h]

theorem State.softRead_of_clean {s : State} (h : s.ecc = []) (pw : Word) (l : Option LaunchNo) (space : Fin 10) (place a n : Nat) :
    s.softRead pw l space place a n = s := by
  simp [State.softRead, State.softErrors, h]

theorem State.softWrite_of_clean {s : State} (h : s.ecc = []) (pw : Word) (l : Option LaunchNo) (space : Fin 10) (place a n : Nat) :
    s.softWrite pw l space place a n = s := by
  simp [State.softWrite, h]

theorem State.badWrite_of_clean {s : State} (h : s.ecc = []) (space : Fin 10) (place a n : Nat) : s.badWrite space place a n = false := by
  simp [State.badWrite, h]

theorem State.clearErrors_of_clean {s : State} (h : s.ecc = []) (space : Fin 10) (place a n : Nat) : s.clearErrors space place a n = s := by
  cases s
  cases h
  rfl

theorem State.writePhys_dram (s : State) {a : Nat} (ha : bit a 55 = false) (bs : List Byte) : s.writePhys a bs = { s with dram := writeBytes s.dram a bs } := by
  simp [State.writePhys, ha]

theorem State.feWrite_of_clean {s : State} (h : s.ecc = []) {a : Nat} (ha : bit a 55 = false) (bs : List Byte) :
    s.feWrite a bs = ({ s with dram := writeBytes s.dram a bs }, true) := by
  simp [State.feWrite, ha, State.badWrite_of_clean h, State.softWrite_of_clean h, State.clearErrors_of_clean h, State.writePhys_dram s ha]

/-! ### What stands -/

theorem OnlyHost.of_host {s t : State} (h : t = { s with host := t.host }) : OnlyHost s t := by
  rw [h]
  exact ⟨rfl, rfl, rfl, rfl, rfl, rfl, rfl, rfl, rfl, rfl⟩

theorem SameMachine.of_fe_tr_host {s t : State} (h : t = { s with fe := t.fe, tr := t.tr, host := t.host }) : SameMachine s t := by
  rw [h]
  exact ⟨rfl, rfl, rfl, rfl, rfl, rfl, rfl, rfl⟩

/-! ### A write of 8 bytes to a register (R480) -/

/-- A write that covers its whole register. -/
def RegWrite.whole (v : Word) : RegWrite := ⟨v.toNat, 2 ^ 64 - 1⟩

theorem regWrite_whole {a : Nat} (ha : a % 8 = 0) (v : Word) : regWrite a (8 : BitVec 8).toNat v = .whole v := by
  simp [regWrite, RegWrite.whole, ha, Nat.mod_eq_of_lt v.isLt]

@[simp] theorem RegWrite.over_whole (v : Word) (old : Nat) : (RegWrite.whole v).over old = v.toNat := by
  have none_kept : Nat.land old 0 = 0 := Nat.and_zero old
  have all_written : Nat.lor 0 v.toNat = v.toNat := Nat.zero_or v.toNat
  rw [RegWrite.over, RegWrite.whole, Nat.sub_self, none_kept, all_written]

theorem barSizeOk_iff (off size : Nat) : barSizeOk off size = true ↔ (size = 4 ∨ size = 8) ∧ off % size = 0 := by
  simp [barSizeOk]

theorem barSizeOk_false_of_not {off size : Nat} (h : ¬ ((size = 4 ∨ size = 8) ∧ off % size = 0)) : barSizeOk off size = false :=
  Bool.eq_false_iff.2 fun hs => h ((barSizeOk_iff ..).1 hs)

theorem barSizeOk_whole {off : Nat} (h8 : off % 8 = 0) : barSizeOk off (8 : BitVec 8).toNat = true := (barSizeOk_iff ..).2 ⟨.inr rfl, h8⟩

theorem queueIx_block (q : QueueIx) {k : Nat} (hk : k < 64) : queueIx ((64 * q.val + k) / 64) = q :=
  Fin.ext (show (64 * q.val + k) / 64 % 16 = q.val by omega)

/-- The value that an AtomicOp of n bytes leaves where it found `old` (R133). -/
def atomicResult (op : HostAtomic) (n old x y : Nat) : Nat :=
  match op with
  | .fetchAdd => (old + x) % 2 ^ (8 * n)
  | .swap => x % 2 ^ (8 * n)
  | .cas => if old = y % 2 ^ (8 * n) then x % 2 ^ (8 * n) else old

theorem atomicResult_lt (op : HostAtomic) {n old : Nat} (h : old < 2 ^ (8 * n)) (x y : Nat) : atomicResult op n old x y < 2 ^ (8 * n) := by
  have pos : 0 < 2 ^ (8 * n) := Nat.two_pow_pos _
  cases op with
  | fetchAdd => exact Nat.mod_lt _ pos
  | swap => exact Nat.mod_lt _ pos
  | cas =>
    rw [atomicResult]
    split_ifs
    · exact Nat.mod_lt _ pos
    · exact h

section Accesses
variable {s : State} (hb : s.host.bootFailed = false) (hp : s.host.powered = true)
include hb hp

theorem registerWrite_malformed {off : BitVec 16} {size : BitVec 8} (h : barSizeOk off.toNat size.toNat = false) (v : Word) :
    exec (.registerWrite off size v) s = .next (s.hostErr 1) := by
  simp [exec, execRegisterWrite, hb, hp, h]

theorem registerWrite_queue {off : BitVec 16} (h8 : off.toNat % 8 = 0) (hr : off.toNat < 0x400) (v : Word) :
    exec (.registerWrite off 8 v) s = .next (s.writeQueueReg (queueIx (off.toNat / 64)) (off.toNat % 64) (.whole v)) := by
  simp only [exec, execRegisterWrite, hb, hp, barSizeOk_whole h8, regWrite_whole h8, Nat.div_mul_cancel (Nat.dvd_of_mod_eq_zero h8), if_pos hr, Bool.not_true, Bool.or_self,
    Bool.false_eq_true, if_false]

theorem registerWrite_trigger {off : BitVec 16} (hoff : off.toNat = 0x400) (v : Word) :
    exec (.registerWrite off 8 v) s = .next (s.pushTrigger 0 (graphIx (v.toNat % 64))) := by
  simp only [exec, execRegisterWrite, hb, hp, hoff, barSizeOk_whole, regWrite_whole]
  simp [RegWrite.whole]

theorem registerWrite_trace {off : BitVec 16} (h8 : off.toNat % 8 = 0) (hlo : 0x1000 ≤ off.toNat) (hhi : off.toNat < 0x2000) (v : Word) :
    exec (.registerWrite off 8 v) s = .next (if s.bench then s.writeTrace (off.toNat - 0x1000) (.whole v) else s) := by
  simp only [exec, execRegisterWrite, hb, hp, barSizeOk_whole h8, regWrite_whole h8, Nat.div_mul_cancel (Nat.dvd_of_mod_eq_zero h8)]
  simp [show ¬ off.toNat < 0x400 by omega, show off.toNat ≠ 0x400 by omega, show off.toNat ≠ 0x418 by omega, hlo, hhi]

theorem registerWrite_hall {off : BitVec 16} (h8 : off.toNat % 8 = 0) (hlo : 0x3000 ≤ off.toNat) (hhi : off.toNat < 0x4000) (v : Word) :
    exec (.registerWrite off 8 v) s = .next (s.writeHall (off.toNat - 0x3000) (.whole v)) := by
  simp only [exec, execRegisterWrite, hb, hp, barSizeOk_whole h8, regWrite_whole h8, Nat.div_mul_cancel (Nat.dvd_of_mod_eq_zero h8)]
  simp [show ¬ off.toNat < 0x400 by omega, show off.toNat ≠ 0x400 by omega, show off.toNat ≠ 0x418 by omega, show ¬ off.toNat < 0x2000 by omega,
    show ¬ off.toNat < 0x2400 by omega, hlo, hhi]

/-! ### The registers that the statement names (R397, R460, R468) -/

theorem registerWrite_tail (q : QueueIx) (v : Word) : exec (.registerWrite (BitVec.ofNat 16 (64 * q.val + 0x18)) 8 v) s =
    .next (s.updQueue q fun x => { x with tail := v.setWidth 24, tailWas := some (x.tailWas.getD x.tail) }) := by
  have hoff : (BitVec.ofNat 16 (64 * q.val + 0x18)).toNat = 64 * q.val + 0x18 := by simp; omega
  rw [registerWrite_queue hb hp (by omega) (by omega) v, hoff, queueIx_block q (by decide), show (64 * q.val + 0x18) % 64 = 0x18 by omega]
  simp only [State.writeQueueReg, RegWrite.over_whole]
  rfl

theorem registerWrite_base (q : QueueIx) (v : Word) : exec (.registerWrite (BitVec.ofNat 16 (64 * q.val)) 8 v) s =
    .next (if s.fe.queues[q].enable then s else s.updQueue q fun x => { x with base := v.setWidth 56 }) := by
  have hoff : (BitVec.ofNat 16 (64 * q.val)).toNat = 64 * q.val + 0 := by simp; omega
  rw [registerWrite_queue hb hp (by omega) (by omega) v, hoff, queueIx_block q (by decide), show (64 * q.val + 0) % 64 = 0 by omega]
  simp only [State.writeQueueReg, RegWrite.over_whole]
  rfl

theorem registerWrite_herr (v : Word) : exec (.registerWrite 0x3000 8 v) s =
    .next { s with host := { s.host with herr := (s.host.herr &&& ~~~(v.setWidth 4)) ||| s.host.herrNew } } := by
  rw [registerWrite_hall hb hp rfl (by decide) (by decide), show (0x3000 : BitVec 16).toNat - 0x3000 = 0 from rfl]
  rfl

theorem registerWrite_tron (hs : s.bench = true) (v : Word) : exec (.registerWrite 0x1018 8 v) s =
    .next { s with tr := { s.tr with post := v.extractLsb' 16 16, tron := v.getLsbD 0 } } := by
  rw [registerWrite_trace hb hp rfl (by decide) (by decide), if_pos hs, show (0x1018 : BitVec 16).toNat - 0x1000 = 0x018 from rfl]
  have hpost : v.extractLsb' 16 16 = BitVec.ofNat 16 (v.toNat / 2 ^ 16) := by rw [BitVec.extractLsb', Nat.shiftRight_eq_div_pow]
  rw [hpost, ← bit_toNat, ← RegWrite.over_whole v (s.tr.reg 0x018)]
  rfl

/-! ### BAR2 and AtomicOps (R121, R133, R465) -/

theorem hostBar2Read_clean {a : BitVec 37} {n : BitVec 10} (hf : s.fencedSpan a.toNat n.toNat = false) (ho : s.offSpan a.toNat n.toNat = false) (he : s.ecc = []) :
    exec (.hostBar2Read a n) s = .next (s.reply (.data (readBytes s.dram a.toNat n.toNat))) := by
  simp [exec, execHostBar2Read, hb, hp, hf, ho, State.hardError_of_clean he, State.softRead_of_clean he]

theorem hostBar2Read_fenced {a : BitVec 37} {n : BitVec 10} (hf : s.fencedSpan a.toNat n.toNat = true) :
    exec (.hostBar2Read a n) s = .next ((s.hostErr 2).reply .unsupported) := by
  simp [exec, execHostBar2Read, hb, hp, hf]

theorem hostBar2Write_clean {a : BitVec 37} {data : List Byte} (hf : s.fencedSpan a.toNat data.length = false) (ho : s.offSpan a.toNat data.length = false)
    (he : s.ecc = []) : exec (.hostBar2Write a data) s = .next { s with dram := writeBytes s.dram a.toNat data } := by
  simp [exec, execHostBar2Write, hb, hp, hf, ho, State.feWrite_of_clean he (bit_55_of_dram a)]

section Atomic
variable {a : BitVec 37} {size : BitVec 5} (hf : s.fencedSpan a.toNat size.toNat = false) (ho : s.offSpan a.toNat size.toNat = false)
include hf ho

theorem hostAtomicop_refused (hs : s.sysatom a.toNat = false) (op : HostAtomic) (x y : BitVec 128) :
    exec (.hostAtomicop a op size x y) s = .next (s.reply .unsupported) := by
  simp [exec, execHostAtomicop, hb, hp, hf, ho, hs]

theorem hostAtomicop_done (hs : s.sysatom a.toNat = true) (he : s.ecc = []) (op : HostAtomic) (x y : BitVec 128) :
    let old := readLE s.dram a.toNat size.toNat
    exec (.hostAtomicop a op size x y) s = .next (State.reply
      { s with dram := writeLE s.dram a.toNat size.toNat (atomicResult op size.toNat old x.toNat y.toNat) } (.data (leBytes size.toNat old))) := by
  simp only [exec, execHostAtomicop, hb, hp, hf, ho, hs, State.hardError_of_clean he, State.softRead_of_clean he, State.writePhys_dram s (bit_55_of_dram a)]
  cases op <;> rfl

end Atomic

/-! ### Reads of BAR0 (R465, R480) -/

omit hp in
theorem barRead_formed {off n : Nat} (h : barSizeOk off n = true) :
    s.barRead off n = (s.reply (.data (s.barBytes off n s.bench))).barClears off s.bench := by
  simp [State.barRead, hb, h]

omit hp in
theorem barRead_malformed {off n : Nat} (h : barSizeOk off n = false) : s.barRead off n = (s.hostErr 1).reply .unsupported := by
  simp [State.barRead, hb, h]

end Accesses

/-- What a read clears is in the trace window (R460). -/
theorem State.barClears_only (s : State) (off : Nat) (trace : Bool) : s.barClears off trace = { s with tr := (s.barClears off trace).tr } := by
  unfold State.barClears
  split_ifs <;> rfl

/-- A read clears nothing but TR_CLOST and TR_PLOST, and those only where the trace window is open (R460). -/
theorem State.barClears_none (s : State) {off : Nat} {trace : Bool} (h : trace = false ∨ off ≠ 0x1010 ∧ off ≠ 0x1030) : s.barClears off trace = s := by
  rcases h with rfl | ⟨hc, hq⟩
  · rfl
  · simp [State.barClears, hc, hq]

/-! ### The link (R463) -/

theorem linkOk_iff (w : BitVec 5) (g : BitVec 8) : linkOk w g = true ↔ (w = 4 ∨ w = 8 ∨ w = 16) ∧ (g = 32 ∨ g = 64 ∨ g = 128) := by
  simp only [linkOk, Bool.and_eq_true, Bool.or_eq_true, beq_iff_eq]
  tauto

theorem linkTraining_ok {w : BitVec 5} {g : BitVec 8} (h : linkOk w g = true) (s : State) :
    exec (.linkTraining w g) s = .next { s with host := { s.host with linkUp := true, width := w, rate := g } } := by
  simp [exec, execLinkTraining, h]

theorem linkTraining_refused {w : BitVec 5} {g : BitVec 8} (h : linkOk w g = false) (s : State) : exec (.linkTraining w g) s = .next s := by
  simp [exec, execLinkTraining, h]

/-! ### The statement -/

/-- Settles O51, by the equation of each access. -/
theorem hostAccesses : Obligations.HostAccesses := by
  intro s hb hp
  refine ⟨?malformed, ?tail, ?base, ?trigger, ?herr, ?trace, ?traceClosed, ?bar2Read, ?bar2Write, ?atomic, ?ptm, ?linkDown, ?linkUp, ?linkRefused, ?bar0Read⟩
  case malformed =>
    intro off size v h
    have hs : barSizeOk off.toNat size.toNat = false := barSizeOk_false_of_not fun ⟨hn, h0⟩ => h ⟨hn.imp BitVec.eq_of_toNat_eq BitVec.eq_of_toNat_eq, h0⟩
    exact ⟨_, registerWrite_malformed hb hp hs v, rfl, .of_host rfl⟩
  case tail =>
    exact fun q v => ⟨_, registerWrite_tail hb hp q v, ⟨_, State.queue_updQueue ..⟩, fun _ h => State.queue_updQueue_ne s _ _ _ h, .of_fe_tr_host rfl, rfl, rfl⟩
  case base =>
    refine fun q v => ⟨_, registerWrite_base hb hp q v, ?_⟩
    split
    · exact ⟨rfl, fun _ _ => rfl, .of_fe_tr_host rfl, rfl, rfl⟩
    · exact ⟨State.queue_updQueue .., fun _ h => State.queue_updQueue_ne s _ _ _ h, .of_fe_tr_host rfl, rfl, rfl⟩
  case trigger =>
    have hg (v : Word) : graphIx (v.toNat % 64) = (v.setWidth 6).toFin := Fin.ext (by simp [graphIx])
    exact fun v => ⟨_, registerWrite_trigger hb hp rfl v, by rw [hg]; rfl, .of_fe_tr_host rfl, rfl, rfl⟩
  case herr => exact fun v => ⟨_, registerWrite_herr hb hp v, rfl, .of_host rfl⟩
  case trace => exact fun v hs => ⟨_, registerWrite_tron hb hp hs v, rfl, .of_fe_tr_host rfl, rfl, rfl⟩
  case traceClosed =>
    intro v hs
    rw [registerWrite_trace hb hp rfl (by decide) (by decide), hs]
    rfl
  case bar2Read =>
    exact fun a n => ⟨fun hf ho he => ⟨_, hostBar2Read_clean hb hp hf ho he, rfl, .of_host rfl⟩, fun hf => ⟨_, hostBar2Read_fenced hb hp hf, rfl, .of_host rfl⟩⟩
  case bar2Write =>
    intro a data hf ho he hw
    have hd := State.dram_wf hw
    exact ⟨_, hostBar2Write_clean hb hp hf ho he, fun i h => readByte_writeBytes_inside hd i h, fun x h => readByte_writeBytes_outside hd h,
      rfl, rfl, rfl, rfl, rfl, rfl, rfl⟩
  case atomic =>
    intro a op size x y hf ho he hw
    have hd := State.dram_wf hw
    refine ⟨fun hs => ⟨_, hostAtomicop_refused hb hp hf ho hs op x y, rfl, .of_host rfl⟩, fun hs => ⟨_, hostAtomicop_done hb hp hf ho hs he op x y, ?_⟩⟩
    refine ⟨?_, fun b h => readByte_writeBytes_outside hd (by rwa [leBytes_length]), rfl, rfl, rfl, rfl, rfl, rfl, rfl⟩
    refine (readLE_writeLE hd ..).trans ((Nat.mod_eq_of_lt (atomicResult_lt op (readLE_lt ..) _ _)).trans ?_)
    cases op <;> rfl
  case ptm => exact fun t1 t4 => ⟨_, rfl, rfl, rfl, rfl, rfl, rfl, .of_host rfl⟩
  case linkDown => exact ⟨_, rfl, rfl, .of_host rfl⟩
  case linkUp => exact fun w g hw hg => ⟨_, linkTraining_ok ((linkOk_iff w g).2 ⟨hw, hg⟩) s, rfl, .of_host rfl⟩
  case linkRefused => exact fun w g h => linkTraining_refused (Bool.eq_false_iff.2 fun hl => h ((linkOk_iff w g).1 hl)) s
  case bar0Read =>
    refine fun off n => ⟨fun h => ?_, fun h => ?_⟩
    · rw [barRead_formed hb ((barSizeOk_iff ..).2 h)]
      refine ⟨by rw [State.barClears_only]; rfl, .of_fe_tr_host (by rw [State.barClears_only]; rfl), fun hc => ?_⟩
      rw [State.barClears_none _ hc]
      exact .of_host rfl
    · rw [barRead_malformed hb (barSizeOk_false_of_not h)]
      exact ⟨rfl, .of_host rfl⟩

end Sys2Proof.Machine
end

section
/-! SUPPORT. Launches by number: what an update, a record and the engines of a core leave of them; what the end of launches leaves. -/

namespace Sys2Proof.Machine

/-- What one element of a list makes true and every element keeps is true once all have been gone through. -/
theorem foldl_of_mem {σ α : Type} {f : σ → α → σ} {P : σ → Prop} {a : α} (made : ∀ s, P (f s a)) (kept : ∀ s b, P s → P (f s b)) {l : List α} (h : a ∈ l) (s : σ) :
    P (l.foldl f s) := by
  obtain ⟨xs, ys, rfl⟩ := List.append_of_mem h
  rw [List.foldl_append, List.foldl_cons]
  exact List.foldlRecOn ys f (made _) fun s hs b _ => kept s b hs

/-! ### The launch of a number -/

theorem State.launch?_some {s : State} {n : LaunchNo} {l : Launch} (h : s.launch? n = some l) : n ≠ 0 ∧ l.num = n ∧ l ∈ s.launches := by
  unfold State.launch? at h
  split at h
  · cases h
  · exact ⟨‹_›, by simpa using List.find?_some h, List.mem_of_find?_eq_some h⟩

theorem State.launch?_num {s : State} {n : LaunchNo} {l : Launch} (h : s.launch? n = some l) : l.num = n := (State.launch?_some h).2.1

theorem State.launch?_congr {s t : State} (h : t.launches = s.launches) (n : LaunchNo) : t.launch? n = s.launch? n := by
  rw [State.launch?, State.launch?, h]

theorem State.coreLaunch?_some {s : State} {c : CoreIx} {l : Launch} (h : s.coreLaunch? c = some l) : s.launch? l.num = some l := by
  have hn := State.launch?_num h
  rw [hn]
  exact h

theorem State.launch?_none_iff {s : State} {n : LaunchNo} : s.launch? n = none ↔ n ≠ 0 → ∀ l ∈ s.launches, l.num ≠ n := by
  unfold State.launch?
  split_ifs with h
  · exact ⟨fun _ hn => absurd h hn, fun _ => rfl⟩
  · simp only [List.find?_eq_none, beq_iff_eq]
    exact ⟨fun k _ => k, fun k => k h⟩

/-- Launches changed one by one, each keeping its number. -/
theorem State.launch?_map {s t : State} {f : Launch → Launch} (h : t.launches = s.launches.map f) (hf : ∀ l, (f l).num = l.num) (n : LaunchNo) :
    t.launch? n = (s.launch? n).map f := by
  unfold State.launch?
  split_ifs
  · rfl
  · rw [h, List.find?_map, show ((fun l : Launch => l.num == n) ∘ f) = fun l => l.num == n from funext fun l => congrArg (· == n) (hf l)]

section
variable (s : State) {f : Launch → Launch} (hf : ∀ l, (f l).num = l.num)
include hf

theorem State.launch?_updLaunch (n : LaunchNo) : (s.updLaunch n f).launch? n = (s.launch? n).map f := by
  rw [State.launch?_map (f := fun l => if l.num = n then f l else l) rfl (fun l => by split <;> simp [hf])]
  cases h : s.launch? n with
  | none => rfl
  | some l => simp [State.launch?_num h]

theorem State.launch?_updLaunch_ne {n m : LaunchNo} (h : m ≠ n) : (s.updLaunch n f).launch? m = s.launch? m := by
  rw [State.launch?_map (f := fun l => if l.num = n then f l else l) rfl (fun l => by split <;> simp [hf])]
  cases hm : s.launch? m with
  | none => rfl
  | some l => simp [State.launch?_num hm, h]

theorem State.updLaunch_some {n : LaunchNo} {l : Launch} (h : s.launch? n = some l) : (s.updLaunch n f).launch? n = some (f l) := by
  rw [State.launch?_updLaunch s hf, h]
  rfl

theorem OnlyLaunch.of_updLaunch (n : LaunchNo) : OnlyLaunch n s (s.updLaunch n f) :=
  ⟨rfl, rfl, rfl, rfl, rfl, rfl, rfl, rfl, rfl, fun _ h => State.launch?_updLaunch_ne s hf h⟩

end

/-! ### Everything but one launch stands -/

theorem OnlyLaunch.refl (n : LaunchNo) (s : State) : OnlyLaunch n s s := ⟨rfl, rfl, rfl, rfl, rfl, rfl, rfl, rfl, rfl, fun _ _ => rfl⟩

theorem OnlyLaunch.trans {n : LaunchNo} {s t u : State} (h : OnlyLaunch n s t) (k : OnlyLaunch n t u) : OnlyLaunch n s u where
  cores := k.cores.trans h.cores
  dies := k.dies.trans h.dies
  dram := k.dram.trans h.dram
  hostMem := k.hostMem.trans h.hostMem
  tick := k.tick.trans h.tick
  fe := k.fe.trans h.fe
  tm := k.tm.trans h.tm
  host := k.host.trans h.host
  health := k.health.trans h.health
  others m hm := (k.others m hm).trans (h.others m hm)

theorem OnlyLaunch.of_tr {s t : State} (n : LaunchNo) (h : t = { s with tr := t.tr, todo := t.todo }) : OnlyLaunch n s t := by
  rw [h]
  exact ⟨rfl, rfl, rfl, rfl, rfl, rfl, rfl, rfl, rfl, fun _ _ => rfl⟩

theorem SameMachine.refl (s : State) : SameMachine s s := ⟨rfl, rfl, rfl, rfl, rfl, rfl, rfl, rfl⟩

/-! ### Records -/

theorem State.logs_record (s : State) (r : Rec) : s.logs (s.record r) [r.typ] := by simp [State.logs, State.record]

theorem State.logs.trans {s t u : State} {x y : List (BitVec 7)} (h : s.logs t x) (k : t.logs u y) : s.logs u (x ++ y) := by
  unfold State.logs at *
  rw [k, h, List.append_assoc]

theorem State.logs_of_tr {s t : State} (h : t.tr = s.tr) : s.logs t [] := by simp [State.logs, h]

/-! ### Mode requests (R62) -/

/-- A launch with a mode request pending; an urgent one keeps the tick in which an earlier one takes effect. -/
def Launch.requested (l : Launch) (tick : Nat) (mode : BitVec 4) (urgent : Bool) (rank : Nat) : Launch :=
  { l with pendMode := some ⟨mode, urgent, rank, tick⟩, urgentAt := if urgent && l.urgentFrom.isNone then some (match l.urgentAt with | some t => t | none => tick + 24) else none }

@[simp] theorem Launch.requested_num (l : Launch) (tick : Nat) (mode : BitVec 4) (urgent : Bool) (rank : Nat) : (l.requested tick mode urgent rank).num = l.num := rfl

/-- A mode request that no higher one stands against, and for whose mode there is a set, becomes pending. -/
theorem State.modeRequest_granted {s : State} {n : LaunchNo} {l : Launch} {mode : BitVec 4} {rank : Nat} (h : s.launch? n = some l)
    (hr : ∀ p, l.pendMode = some p → p.rank ≤ rank) (hs : (l.setFor mode (l.pendLevel.getD l.current.2) s.chmask).isSome = true) (urgent : Bool) :
    s.modeRequest n mode urgent rank = s.updLaunch n (·.requested s.tick mode urgent rank) := by
  have notLower : (match l.pendMode with | some p => decide (rank < p.rank) | none => false) = false := by
    cases hp : l.pendMode with
    | none => rfl
    | some p => simpa using hr p hp
  have present : (l.setFor mode (l.pendLevel.getD l.current.2) s.chmask).isNone = false := by rw [← Option.not_isSome, hs]; rfl
  rw [State.modeRequest, h]
  exact (if_neg (ne_true_of_eq_false notLower)).trans (if_neg (ne_true_of_eq_false present))

/-- A mode request that is not granted leaves only a record. -/
theorem State.modeRequest_or_record (s : State) (n : LaunchNo) (mode : BitVec 4) (urgent : Bool) (rank : Nat) :
    (∃ t, s.modeRequest n mode urgent rank = { s with tr := t }) ∨ s.modeRequest n mode urgent rank = s.updLaunch n (·.requested s.tick mode urgent rank) := by
  rw [State.modeRequest]
  cases s.launch? n with
  | none => exact .inl ⟨_, rfl⟩
  | some l =>
    dsimp only
    split_ifs
    · exact .inl ⟨_, rfl⟩
    · exact .inl ⟨_, rfl⟩
    · exact .inr rfl

/-- A mode request changes nothing of a launch but its requests. -/
theorem State.modeRequest_launch {s : State} {n : LaunchNo} {l : Launch} (h : s.launch? n = some l) (mode : BitVec 4) (urgent : Bool) (rank : Nat) :
    ∃ p u, (s.modeRequest n mode urgent rank).launch? n = some { l with pendMode := p, urgentAt := u } := by
  rcases s.modeRequest_or_record n mode urgent rank with ⟨t, ht⟩ | ht
  · rw [ht]
    exact ⟨_, _, h⟩
  · rw [ht]
    rw [State.updLaunch_some s (fun _ => Launch.requested_num ..) h]
    exact ⟨_, _, rfl⟩

theorem OnlyLaunch.modeRequest (s : State) (n : LaunchNo) (mode : BitVec 4) (urgent : Bool) (rank : Nat) : OnlyLaunch n s (s.modeRequest n mode urgent rank) := by
  rcases s.modeRequest_or_record n mode urgent rank with ⟨t, ht⟩ | ht
  · rw [ht]
    exact .of_tr n rfl
  · rw [ht]
    exact .of_updLaunch s (fun _ => Launch.requested_num ..) n

end Sys2Proof.Machine
end

section
/-! SUPPORT. What the engine operations that a cut settles (R278, R279, R359, R393) leave standing: every launch but for its causes of freezes, which launch a core runs, the degradation state. -/

namespace Sys2Proof.Machine

/-- A launch but for the causes of its freezes. -/
def Launch.calm (l : Launch) : Launch := { l with causes := [] }

/-- Every launch stands but for the causes of its freezes, every core runs the launch that it ran, and the degradation state and the call for a placement try stand. -/
structure KeepsLaunches (s t : State) : Prop where
  launches : t.launches.map Launch.calm = s.launches.map Launch.calm
  held : ∀ c, (t.core c).launch = (s.core c).launch
  tryPlace : t.fe.tryPlace = s.fe.tryPlace
  health : t.health = s.health

namespace KeepsLaunches

theorem refl (s : State) : KeepsLaunches s s := ⟨rfl, fun _ => rfl, rfl, rfl⟩

theorem trans {s t u : State} (h : KeepsLaunches s t) (k : KeepsLaunches t u) : KeepsLaunches s u :=
  ⟨k.launches.trans h.launches, fun c => (k.held c).trans (h.held c), k.tryPlace.trans h.tryPlace, k.health.trans h.health⟩

theorem foldl {α : Type} {f : State → α → State} (h : ∀ s a, KeepsLaunches s (f s a)) (l : List α) (s : State) : KeepsLaunches s (l.foldl f s) := by
  induction l generalizing s with
  | nil => exact refl s
  | cons a l ih => exact (h s a).trans (ih _)

theorem foldl_fst {α β : Type} {f : State × β → α → State × β} (h : ∀ x a, KeepsLaunches x.1 (f x a).1) (l : List α) (x : State × β) :
    KeepsLaunches x.1 (l.foldl f x).1 := by
  induction l generalizing x with
  | nil => exact refl _
  | cons a l ih => exact (h x a).trans (ih _)

theorem of_core {s t : State} (hl : t.launches = s.launches := by rfl) (hc : t.cores = s.cores := by rfl) (hf : t.fe.tryPlace = s.fe.tryPlace := by rfl)
    (hh : t.health = s.health := by rfl) : KeepsLaunches s t :=
  ⟨by rw [hl], fun c => by rw [State.core, hc]; rfl, hf, hh⟩

theorem fst {α : Type} {s t : State} {x : State × α} {a : α} (hx : x = (t, a)) (h : KeepsLaunches s x.1) : KeepsLaunches s t := by rwa [hx] at h

theorem ite {s t u : State} {p : Prop} [Decidable p] (h : KeepsLaunches s t) (k : KeepsLaunches s u) : KeepsLaunches s (if p then t else u) := by
  split
  · exact h
  · exact k

theorem ite_of {s t u : State} {p : Prop} [Decidable p] (h : p → KeepsLaunches s t) (k : KeepsLaunches s u) : KeepsLaunches s (if p then t else u) := by
  split
  · exact h ‹_›
  · exact k

theorem ite_fst {α : Type} {s : State} {x y : State × α} {p : Prop} [Decidable p] (h : KeepsLaunches s x.1) (k : KeepsLaunches s y.1) :
    KeepsLaunches s (if p then x else y).1 := by
  split
  · exact h
  · exact k

variable (s : State) (c : CoreIx)

theorem updCore {f : CoreState → CoreState} (h : ∀ k, (f k).launch = k.launch := by exact fun _ => rfl) : KeepsLaunches s (s.updCore c f) where
  launches := rfl
  held d := by
    by_cases hd : d = c
    · rw [hd, State.core_updCore, h]
    · rw [State.core_updCore_ne s c d f hd]
  tryPlace := rfl
  health := rfl

theorem updCtx (f : CoreCtx → CoreCtx) : KeepsLaunches s (s.updCtx c f) := updCore s c

theorem updMatrix (f : MatrixState → MatrixState) : KeepsLaunches s (s.updMatrix c f) := updCtx s c _

theorem updStoch (f : StochState → StochState) : KeepsLaunches s (s.updStoch c f) := updCtx s c _

theorem raiseCause (n : LaunchNo) (code : Nat) (r : Option Nat) : KeepsLaunches s (s.raiseCause n code r) := by
  unfold State.raiseCause
  split
  · exact refl s
  · refine ⟨?_, fun _ => rfl, rfl, rfl⟩
    simp only [State.updLaunch, List.map_map]
    refine List.map_congr_left fun l _ => ?_
    simp only [Function.comp]
    split <;> rfl

/-! ### Memory errors (R121) -/

theorem clearErrors (space : Fin 10) (place a n : Nat) : KeepsLaunches s (s.clearErrors space place a n) := of_core

theorem softRead (pw : Word) (l : Option LaunchNo) (space : Fin 10) (place a n : Nat) : KeepsLaunches s (s.softRead pw l space place a n) := by
  refine foldl (fun s m => ?_) _ s
  dsimp only
  split
  · split
    · refine trans ?_ (raiseCause ..)
      exact of_core
    · exact of_core
  · exact of_core

theorem softWrite (pw : Word) (l : Option LaunchNo) (space : Fin 10) (place a n : Nat) : KeepsLaunches s (s.softWrite pw l space place a n) := by
  unfold State.softWrite
  dsimp only
  split_ifs
  · exact refl s
  · exact refl s
  · exact softRead ..
  · exact softRead ..
  · exact (softRead ..).trans (softRead ..)

/-! ### Writes on chip -/

theorem wakeCore (pantry : Bool) (die : Fin 4) (lo n : Nat) : KeepsLaunches s (s.wakeCore c pantry die lo n) := ite (refl s) (updCtx ..)

theorem writeBank (phys : Nat) (bytes : List Byte) (who : Option (CoreIx × SeqIx × Bool)) : KeepsLaunches s (s.writeBank c phys bytes who) := by
  unfold State.writeBank
  split
  · exact updCore s c
  · refine trans ?_ (wakeCore ..)
    exact updCore s c

theorem writeA (phys : Nat) (bytes : List Byte) (who : Option (CoreIx × SeqIx × Bool)) : KeepsLaunches s (s.writeA c phys bytes who) := by
  unfold State.writeA
  split
  · exact writeBank ..
  · exact foldl (fun s p => writeBank s c ..) _ s

theorem writePantry (d : Fin 4) (phys : Nat) (bytes : List Byte) (who : Option (CoreIx × SeqIx × Bool)) : KeepsLaunches s (s.writePantry d phys bytes who) := by
  unfold State.writePantry
  dsimp only
  split
  · exact of_core
  · refine trans ?_ (foldl (fun s c => wakeCore s c ..) _ _)
    exact of_core

theorem touch (phys : Nat) : KeepsLaunches s (s.touch c phys) := updCore s c

theorem chipWrite (p : Fin 10 × Nat × Nat) (bytes : List Byte) (who : Option (CoreIx × SeqIx × Bool)) : KeepsLaunches s (s.chipWrite p bytes who) := by
  refine (clearErrors s p.1 p.2.1 p.2.2 bytes.length).trans ?_
  unfold State.chipWrite
  dsimp only
  split_ifs
  · exact writeA ..
  · exact updCore _ _
  · exact updCore _ _
  · exact writePantry ..

theorem writePhys (a : Nat) (bytes : List Byte) : KeepsLaunches s (s.writePhys a bytes) := by
  unfold State.writePhys
  split <;> exact of_core

/-! ### Copies -/

theorem pieceSoft (d : List Word) (left : Word) (o : Owner) (phys : Nat) (p : Nat × Nat × Nat × Nat) : KeepsLaunches s (s.pieceSoft c d left o phys p) := by
  unfold State.pieceSoft
  dsimp only
  split_ifs
  · exact refl s
  · exact refl s
  · exact softRead ..
  · exact foldl (fun s i => softRead s ..) _ s

theorem takePiece (k : EngineCmd) (d : List Word) (phys : Nat) (p : Nat × Nat × Nat × Nat) : KeepsLaunches s (s.takePiece c k d phys p).1 := by
  unfold State.takePiece
  dsimp only
  split <;> exact ite (refl s) (pieceSoft ..)

theorem takeUnit (k : EngineCmd) (r : CopyRun) (u : PayUnit) : KeepsLaunches s (s.takeUnit c k r u).1 := by
  unfold State.takeUnit
  split
  · exact refl s
  · exact refl s
  · split <;> exact fst ‹_› (takePiece ..)

theorem writeUnit (k : EngineCmd) (r : CopyRun) (u : PayUnit) (bytes : List Byte) : KeepsLaunches s (s.writeUnit c k r u bytes).1 := by
  unfold State.writeUnit
  split
  · exact refl s
  · dsimp only
    split_ifs
    · exact writePhys ..
    · exact refl s
    · exact ((softWrite ..).trans (clearErrors ..)).trans (writePhys ..)
    · refine foldl_fst (fun x q => ?_) _ (s, true)
      split_ifs
      · exact refl _
      · exact (softWrite ..).trans (chipWrite ..)

theorem postUnit (ch : ChanIx) (k : EngineCmd) (r : CopyRun) (u : PayUnit) (bytes : List Byte) : KeepsLaunches s (s.postUnit c ch k r u bytes).1 := by
  unfold State.postUnit
  dsimp only
  split_ifs
  · exact of_core
  · exact refl s
  · exact writeUnit ..

theorem moveUnits (ch : ChanIx) (k : EngineCmd) (r : CopyRun) (us : List PayUnit) : KeepsLaunches s (s.moveUnits c ch k r us).1 := by
  induction us generalizing s with
  | nil => exact refl s
  | cons u us ih =>
    unfold State.moveUnits
    split
    · exact ih s
    · split
      · exact fst ‹_› (takeUnit ..)
      · have taken := fst ‹_› (takeUnit s c k r u)
        split
        · exact taken.trans (fst ‹_› (postUnit ..))
        · exact (taken.trans (fst ‹_› (postUnit ..))).trans (ih _)

theorem chipPut (o : Owner) (space base off : Nat) (bytes : List Byte) : KeepsLaunches s (s.chipPut c o space base off bytes).1 := by
  unfold State.chipPut
  dsimp only
  split
  · exact refl s
  · exact foldl (fun s p => (softWrite ..).trans (chipWrite ..)) _ s

theorem payWhole (k : EngineCmd) (r : CopyRun) : KeepsLaunches s (s.payWhole c k r).1 := by
  unfold State.payWhole
  split
  · exact refl s
  · dsimp only
    split_ifs
    · exact refl s
    · exact refl s
    · exact chipPut ..
    · exact (foldl (fun s a => softRead s ..) _ s).trans (chipPut ..)

theorem payCopy (ch : ChanIx) (k : EngineCmd) (r : CopyRun) : KeepsLaunches s (s.payCopy c ch k r).1 := by
  have whole (p : Prop) [Decidable p] : KeepsLaunches s (if p then s.payWhole c k r else (s, r, true)).1 := by
    split
    · exact payWhole ..
    · exact refl s
  unfold State.payCopy
  dsimp only
  split
  · exact fst ‹_› (whole _)
  · have paid := fst ‹_› (whole _)
    exact ite_fst paid (paid.trans (moveUnits ..))

theorem completeCopy (ch : ChanIx) (k : EngineCmd) (r : CopyRun) : KeepsLaunches s (s.completeCopy c ch k r) := by
  unfold State.completeCopy
  dsimp only
  refine trans ?_ (updCtx ..)
  refine trans ?_ (updCore ..)
  refine trans ?_ (chipWrite ..)
  refine trans ?_ (softWrite ..)
  split
  · exact of_core
  · exact refl s

theorem maybeWrite (q : Fin 10 × Nat × Nat) (bytes : List Byte) : KeepsLaunches s (s.maybeWrite q bytes) := by
  unfold State.maybeWrite
  dsimp only
  split
  · refine trans ?_ (chipWrite ..)
    exact of_core
  · exact of_core

theorem partialCopy (ch : ChanIx) (k : EngineCmd) (r : CopyRun) : KeepsLaunches s (s.partialCopy c ch k r) := by
  unfold State.partialCopy
  dsimp only
  have put (s : State) (u : PayUnit) : KeepsLaunches s (match s.takeUnit c k r u with
      | (s, none) => s
      | (s, some bytes) => if !r.onChip then (s.postUnit c ch k r u bytes).1 else
        match r.pieces[u.piece]? with
        | none => s
        | some p => (s.chipTargets c (isCpmc k.instr) (dscD r.desc) (r.desc.getD 2 0).toNat (copyOff r.desc k.left p.1 p.2.1 u.x).2).foldl (fun s q => s.maybeWrite q bytes) s) := by
    split
    · exact fst ‹_› (takeUnit ..)
    · refine (fst ‹_› (takeUnit s c k r u)).trans (ite (postUnit ..) ?_)
      split
      · exact refl _
      · exact foldl (fun s q => maybeWrite ..) _ _
  refine ite (foldl put _ s) ?_
  split
  · exact refl s
  · exact ite (refl s) (foldl (fun s u => maybeWrite ..) _ s)
  · exact foldl put _ s

theorem settleCopies (p : Owner → Bool) : KeepsLaunches s (s.settleCopies c p) := by
  refine foldl (fun s ch => ?_) _ s
  split
  · refine ite (refl s) (ite ?_ (ite (partialCopy ..) (refl s)))
    split
    · have paid := fst ‹_› (payCopy s c ch _ _)
      exact ite (paid.trans (completeCopy ..)) (paid.trans (partialCopy ..))
    · exact fst ‹_› (payCopy ..)
  · exact refl s

/-! ### The matrix engine -/

theorem rangeSoft (l : LaunchNo) (n : Nat) (xs : List Nat) : KeepsLaunches s (s.rangeSoft c l n xs) := ite (refl s) (foldl (fun s _ => softRead s ..) _ s)

theorem spansSoft (l : LaunchNo) (spans : List (Fin 10 × Nat × Nat)) : KeepsLaunches s (s.spansSoft c l spans) := ite (refl s) (foldl (fun s _ => softRead s ..) _ s)

theorem rangeWrite (n : Nat) (l : List (Nat × Byte)) : KeepsLaunches s (s.rangeWrite c n l).1 := by
  refine foldl_fst (fun x u => ?_) _ (s, true)
  dsimp only
  split
  · exact refl _
  · exact (softWrite ..).trans ((ite (touch ..) (refl _)).trans (chipWrite ..))

theorem noteUndo (old : List (Fin 10 × Nat × Byte)) : KeepsLaunches s (s.noteUndo c old) := updMatrix ..

theorem touchRows (n : Nat) (xs : List Nat) : KeepsLaunches s (xs.foldl (fun s x =>
    let p := s.rangeByte c n x
    if p.1 = 1 && p.2.2 % 16 = 0 then s.touch c p.2.2 else s) s) :=
  foldl (fun s _ => ite (touch ..) (refl s)) xs s

theorem moveBeat (r : MxRun) (b : Nat) : KeepsLaunches s (s.moveBeat c r b).1 := by
  unfold State.moveBeat
  split
  · exact refl s
  · refine ite_fst (ite_fst (refl s) ?_) (ite_fst (refl s) ?_)
    · dsimp only
      refine trans ?_ (noteUndo ..)
      refine trans ?_ (rangeWrite ..)
      exact ite (spansSoft ..) (refl s)
    · refine ite_fst ?_ ?_ <;> dsimp only
      · refine trans ?_ (updMatrix ..)
        exact (rangeSoft ..).trans (touchRows ..)
      · refine trans ?_ (noteUndo ..)
        refine trans ?_ (updCtx ..)
        refine trans ?_ (clearErrors ..)
        exact (rangeSoft ..).trans (touchRows ..)

theorem productStep (r : MxRun) (p : Product) : KeepsLaunches s (s.productStep c r p) := by
  unfold State.productStep
  dsimp only
  refine trans ?_ (updCtx ..)
  split <;> dsimp only
  · exact updMatrix s c _
  · refine trans ?_ (updCore _ c)
    exact updMatrix s c _

theorem tokenStep (r : MxRun) (tile : Fin 32) (quad : Nat) : KeepsLaunches s (s.tokenStep c r tile quad) := by
  unfold State.tokenStep
  dsimp only
  refine trans ?_ (updCtx ..)
  refine trans ?_ (updCtx ..)
  refine trans ?_ (clearErrors ..)
  exact updCore ..

theorem stepEffect (r : MxRun) : KeepsLaunches s (s.stepEffect c r) := by
  unfold State.stepEffect
  split
  · exact productStep ..
  · exact tokenStep ..
  · exact refl s

theorem settleMatrix (p : Owner → Bool) : KeepsLaunches s (s.settleMatrix c p) := by
  have step : KeepsLaunches s (match (s.ctx c).matrix.compute with
      | some r => if p r.cmd.owner && r.stepUnderWay && !s.spansHard c (s.mxReads c r) then s.stepEffect c r else s
      | none => s) := by
    split
    · exact ite (stepEffect ..) (refl s)
    · exact refl s
  unfold State.settleMatrix
  dsimp only
  cases (s.ctx c).matrix.load with
  | none => exact step
  | some r =>
    refine step.trans (ite_of (fun h => ?_) (refl _))
    rw [State.loadBeat, if_pos (Bool.and_eq_true_iff.1 h).2]
    exact ite_fst (moveBeat ..) (refl _)

/-! ### The stochastic engine -/

theorem ssEffect (r : SsRun) : KeepsLaunches s (s.ssEffect c r).1 := by
  unfold State.ssEffect
  dsimp only
  split
  · exact refl s
  · dsimp only
    refine trans ?_ (updStoch ..)
    refine trans ?_ (foldl (fun s e => clearErrors ..) _ _)
    exact foldl (fun s u => ((softWrite ..).trans (touch ..)).trans (chipWrite ..)) _ s

theorem settleStoch (p : Owner → Bool) : KeepsLaunches s (s.settleStoch c p) :=
  ite (refl s) ((foldl (fun _ _ => ssEffect ..) _ s).trans (updCtx ..))

/-- A cut of engine operations while their core's tick goes on (R67). -/
theorem cutOps (p : Owner → Bool) : KeepsLaunches s (s.cutOps c p) := (settleStoch ..).trans (updCtx ..)

end KeepsLaunches

end Sys2Proof.Machine
end

section
/-! SUPPORT. What the end of launches leaves (R26, R30, R39): no launch is new, a core is given up or keeps its launch, and another placement try is called for. -/

namespace Sys2Proof.Machine

@[simp] theorem Health.settleMarks_linkLost (h : Health) (idle : CoreIx → Bool) : (h.settleMarks idle).linkLost = h.linkLost := by
  unfold Health.settleMarks
  split <;> rfl

/-! ### Launches that end -/

/-- No launch is new, and a host launch ends only where `p` names it; a core keeps its launch or gives it up; a call for a placement try and the lost links stand. -/
structure EndsOnly (p : LaunchNo → Prop) (s t : State) : Prop where
  nums : ∀ k ∈ t.launches, ∃ l ∈ s.launches, l.num = k.num
  stands : ∀ m l, ¬p m → s.launch? m = some l → l.cls = none → ∃ k, t.launch? m = some k ∧ k.cls = none
  held : ∀ c, (t.core c).launch = (s.core c).launch ∨ (t.core c).launch = 0
  tryPlace : s.fe.tryPlace = true → t.fe.tryPlace = true
  linkLost : t.health.linkLost = s.health.linkLost

namespace EndsOnly
variable {p : LaunchNo → Prop} {s t u : State}

theorem refl (p : LaunchNo → Prop) (s : State) : EndsOnly p s s := ⟨fun k h => ⟨k, h, rfl⟩, fun _ l _ h hl => ⟨l, h, hl⟩, fun _ => .inl rfl, id, rfl⟩

theorem trans (h : EndsOnly p s t) (k : EndsOnly p t u) : EndsOnly p s u where
  nums x hx := by
    obtain ⟨y, hy, hxy⟩ := k.nums x hx
    obtain ⟨z, hz, hyz⟩ := h.nums y hy
    exact ⟨z, hz, hyz.trans hxy⟩
  stands m l hm hl hc := by
    obtain ⟨l', hl', hc'⟩ := h.stands m l hm hl hc
    exact k.stands m l' hm hl' hc'
  held c := by
    rcases k.held c with hk | hk
    · rw [hk]
      exact h.held c
    · exact .inr hk
  tryPlace := k.tryPlace ∘ h.tryPlace
  linkLost := k.linkLost.trans h.linkLost

theorem mono {q : LaunchNo → Prop} (h : EndsOnly p s t) (hpq : ∀ n, p n → q n) : EndsOnly q s t :=
  { h with stands := fun m l hm => h.stands m l (hm ∘ hpq m) }

theorem foldl {α : Type} {f : State → α → State} (h : ∀ s a, EndsOnly p s (f s a)) (l : List α) (s : State) : EndsOnly p s (l.foldl f s) := by
  induction l generalizing s with
  | nil => exact refl p s
  | cons a l ih => exact (h s a).trans (ih _)

/-- A launch that is gone stays gone. -/
theorem gone {n : LaunchNo} (h : EndsOnly p s t) (hs : s.launch? n = none) : t.launch? n = none := by
  rw [State.launch?_none_iff] at *
  intro hn k hk hkn
  obtain ⟨l, hl, hlk⟩ := h.nums k hk
  exact hs hn l hl (hlk.trans hkn)

/-- Launches changed one by one, each keeping its number and its class. -/
theorem of_map {f : Launch → Launch} (hl : t.launches = s.launches.map f) (hn : ∀ l, (f l).num = l.num) (hf : ∀ l, (f l).cls = l.cls)
    (hc : ∀ c, (t.core c).launch = (s.core c).launch ∨ (t.core c).launch = 0) (ht : s.fe.tryPlace = true → t.fe.tryPlace = true)
    (hh : t.health.linkLost = s.health.linkLost) : EndsOnly p s t where
  nums k hk := by
    rw [hl] at hk
    obtain ⟨l, hl, rfl⟩ := List.mem_map.1 hk
    exact ⟨l, hl, (hn l).symm⟩
  stands m l _ h hc := ⟨f l, by rw [State.launch?_map hl hn, h]; rfl, (hf l).trans hc⟩
  held := hc
  tryPlace := ht
  linkLost := hh

/-- Launches left out, but no host launch that `p` does not name. -/
theorem of_filter {g : Launch → Bool} (hl : t.launches = s.launches.filter g) (hg : ∀ l, ¬p l.num → l.cls = none → g l = true)
    (hc : ∀ c, (t.core c).launch = (s.core c).launch ∨ (t.core c).launch = 0) (ht : s.fe.tryPlace = true → t.fe.tryPlace = true)
    (hh : t.health.linkLost = s.health.linkLost) : EndsOnly p s t where
  nums k hk := by
    rw [hl] at hk
    exact ⟨k, (List.mem_filter.1 hk).1, rfl⟩
  stands m l hm h hc := by
    obtain ⟨hn, hlm, -⟩ := State.launch?_some h
    refine ⟨l, ?_, hc⟩
    have found : s.launches.find? (·.num == m) = some l := by rwa [State.launch?, if_neg hn] at h
    obtain ⟨_, as, bs, hlist, has⟩ := List.find?_eq_some_iff_append.1 found
    have kept : g l = true := hg l (hlm ▸ hm) hc
    rw [State.launch?, if_neg hn, hl, hlist, List.filter_append, List.find?_append, List.filter_cons_of_pos kept, List.find?_cons_of_pos (by simpa using hlm),
      List.find?_eq_none.2 fun a ha => by simpa using has a (List.mem_filter.1 ha).1]
    rfl
  held := hc
  tryPlace := ht
  linkLost := hh

theorem of_same (hl : t.launches = s.launches := by rfl) (hc : t.cores = s.cores := by rfl) (ht : t.fe.tryPlace = s.fe.tryPlace := by rfl)
    (hh : t.health = s.health := by rfl) : EndsOnly p s t :=
  of_map (f := id) (by rw [hl, List.map_id]) (fun _ => rfl) (fun _ => rfl) (fun c => .inl (by rw [State.core, hc]; rfl)) (by rw [ht]; exact id) (by rw [hh])

theorem of_keeps (h : KeepsLaunches s t) : EndsOnly p s t where
  nums k hk := by
    have : k.calm ∈ s.launches.map Launch.calm := h.launches ▸ List.mem_map_of_mem hk
    obtain ⟨l, hl, hlk⟩ := List.mem_map.1 this
    exact ⟨l, hl, show l.calm.num = k.calm.num by rw [hlk]⟩
  stands m l _ hl hc := by
    have calm (s : State) : ({ s with launches := s.launches.map Launch.calm } : State).launch? m = (s.launch? m).map Launch.calm :=
      State.launch?_map (f := Launch.calm) rfl (fun _ => rfl) m
    have same : (t.launch? m).map Launch.calm = (s.launch? m).map Launch.calm := by rw [← calm, ← calm]; exact State.launch?_congr h.launches m
    rw [hl] at same
    obtain ⟨k, hk, hkl⟩ := Option.map_eq_some_iff.1 same
    exact ⟨k, hk, show k.calm.cls = none by rw [hkl]; exact hc⟩
  held c := .inl (h.held c)
  tryPlace := by rw [h.tryPlace]; exact id
  linkLost := by rw [h.health]

/-! ### What follows the end of a launch (R399, R416, R426) -/

variable (s)

theorem returnTokens (src : Source) (n : Nat) : EndsOnly p s (s.returnTokens src n) := by
  unfold State.returnTokens
  split
  · split <;> exact of_same
  · exact of_same

theorem setTokens (g : LaunchNo) (n : Nat) : EndsOnly p s (s.setTokens g n) :=
  of_map rfl (fun l => by split <;> rfl) (fun l => by split <;> rfl) (fun _ => .inl rfl) id rfl

theorem settleTokens (g : LaunchNo) : EndsOnly p s (s.settleTokens g) := by
  unfold State.settleTokens
  dsimp only
  split
  · exact refl ..
  · split
    · exact (returnTokens ..).trans (setTokens ..)
    · exact refl ..

theorem freeTokens (l : Launch) : EndsOnly p s (s.freeTokens l) := by
  have back : EndsOnly p s (if s.launches.any fun k => k.group == l.group then s else s.returnTokens l.source l.tokens) := by
    split
    · exact refl ..
    · exact returnTokens ..
  unfold State.freeTokens
  dsimp only
  split
  · exact back.trans (settleTokens ..)
  · exact back

theorem updExec (src : Source) (f : Stream' → Stream') : EndsOnly p s (s.updExec src f) := by
  unfold State.updExec
  split <;> exact of_same

theorem unbindAll (n : LaunchNo) : EndsOnly p s (s.unbindAll n) := by
  refine foldl (fun s g => ?_) _ s
  split
  · dsimp only
    split
    · refine trans (u := _) ?_ (foldl (fun s l => updExec ..) _ _)
      refine of_filter rfl (fun l _ hc => ?_) (fun _ => .inl rfl) id rfl
      simp [hc]
    · exact refl ..
  · exact refl ..

theorem irq (v : Nat) : EndsOnly p s (s.irq v) := by
  unfold State.irq
  split
  · split <;> exact of_same
  · exact refl ..

theorem freezeQueue (q : QueueIx) (reason addr : Nat) (tag : BitVec 32) (skip : Bool) : EndsOnly p s (s.freezeQueue q reason addr tag skip) := by
  refine trans ?_ (irq ..)
  exact of_same

end EndsOnly

/-! ### One launch ends -/

/-- A launch is struck off the list, with what it held of the front end, and another placement try is called for (R30, R34, R39). -/
def State.strike (s : State) (n : LaunchNo) (cancelled : Bool) : State :=
  { s with launches := s.launches.filter fun x => x.num != n,
           host := if cancelled then { s.host with cancel := true, smonNew := setBit s.host.smonNew 1 } else s.host,
           health := s.health.settleMarks fun c => (s.core c).launch == 0 && (s.core c).attic.isNone,
           fe := { s.fe with tryPlace := true, hasherBusy := s.fe.hasherBusy.map fun h => if h = some n then none else h,
                             slotsHeld := s.fe.slotsHeld.filter (fun h => h.2 != n), linkSlots := s.fe.linkSlots.filter fun h => h.2 != n } }

theorem EndsOnly.strike (s : State) (n : LaunchNo) (cancelled : Bool) : EndsOnly (· = n) s (s.strike n cancelled) :=
  of_filter rfl (fun l hl _ => by simpa using hl) (fun _ => .inl rfl) (fun _ => rfl) (Health.settleMarks_linkLost ..)

theorem State.strike_gone (s : State) (n : LaunchNo) (cancelled : Bool) : (s.strike n cancelled).launch? n = none := by
  rw [State.launch?_none_iff]
  intro _ l hl
  simpa using (List.mem_filter.1 hl).2

/-- What the end of a launch makes of a core (R26, R81): one that runs it is given up, and one that keeps its context in the Attic drops it. -/
def CoreState.without (k : CoreState) (n : LaunchNo) (cancelled past : Bool) : CoreState :=
  let k := if k.launch = n then k.release n cancelled past else k
  if k.attic.map Attic.launch = some n then { k with attic := none, mailHead := 0, mailLen := 0, mailboxFull := false } else k

theorem CoreState.without_launch (k : CoreState) (n : LaunchNo) (cancelled past : Bool) : (k.without n cancelled past).launch = if k.launch = n then 0 else k.launch := by
  simp only [CoreState.without]
  split_ifs <;> rfl

theorem State.core_vecMap (s : State) (f : Nat → CoreState → CoreState) (c : CoreIx) : ({ s with cores := vecMap s.cores f } : State).core c = f c (s.core c) := by
  simp [State.core, vecMap]

/-- A launch that ends gives up its window or its cores, is struck off the list, and what waits for it learns of its end. -/
theorem State.endOne_stages {s : State} {n : LaunchNo} {l : Launch} (cancelled : Bool) (h : s.launch? n = some l) :
    ∃ t, EndsOnly (fun _ => False) s t ∧ (l.cls = none → ∀ c, (s.core c).launch = n → (t.core c).launch = 0) ∧
      EndsOnly (fun _ => False) (t.strike n cancelled) (s.endOne n cancelled) := by
  unfold State.endOne
  rw [h]
  dsimp -zeta only
  extract_lets own running past settled left fe host struck freed told unbound
  have engines : KeepsLaunches s settled := .foldl (fun s c => ((KeepsLaunches.settleCopies s c _).trans (.settleMatrix ..)).trans (.settleStoch ..)) _ s
  have cores (c : CoreIx) : (({ settled with cores := vecMap settled.cores fun _ k => k.without n cancelled past } : State).core c).launch =
      if (s.core c).launch = n then 0 else (s.core c).launch := by
    rw [State.core_vecMap, CoreState.without_launch, engines.held]
  refine ⟨left, ?left, ?free, ?told⟩
  case left =>
    rcases Bool.eq_false_or_eq_true l.cls.isSome with hc | hc
    · have guest : left = _ := if_pos hc
      rw [guest]
      split
      · exact .of_keeps ((KeepsLaunches.ite (.cutOps ..) (.refl s)).trans (.updCtx ..))
      · exact .refl ..
    · have host : left = { settled with cores := vecMap settled.cores fun _ k => k.without n cancelled past } := if_neg (by simp [hc])
      rw [host]
      refine { EndsOnly.of_keeps engines with held := fun c => ?_ }
      rw [cores]
      split
      · exact .inr rfl
      · exact .inl rfl
  case free =>
    intro hc c hn
    have host : left = { settled with cores := vecMap settled.cores fun _ k => k.without n cancelled past } := if_neg (by simp [hc])
    rw [host, cores, if_pos hn]
  case told =>
    have hstruck : left.strike n cancelled = struck := rfl
    have rest : EndsOnly (fun _ => False) struck unbound := ((EndsOnly.freeTokens ..).trans (.updExec ..)).trans (.unbindAll ..)
    rw [hstruck]
    clear_value unbound
    split
    · split
      · exact rest
      · exact rest.trans (.freezeQueue ..)
    · exact rest

theorem State.endOne_none {s : State} {n : LaunchNo} (cancelled : Bool) (h : s.launch? n = none) : s.endOne n cancelled = s := by rw [State.endOne, h]

section
variable {s : State} {n : LaunchNo}

theorem EndsOnly.endOne (s : State) (n : LaunchNo) (cancelled : Bool) : EndsOnly (· = n) s (s.endOne n cancelled) := by
  cases h : s.launch? n with
  | none => rw [State.endOne_none cancelled h]; exact refl ..
  | some l =>
    obtain ⟨t, left, -, told⟩ := State.endOne_stages cancelled h
    exact ((left.mono fun _ => False.elim).trans (strike ..)).trans (told.mono fun _ => False.elim)

theorem State.endOne_gone (s : State) (n : LaunchNo) (cancelled : Bool) : (s.endOne n cancelled).launch? n = none := by
  cases h : s.launch? n with
  | none => rwa [State.endOne_none cancelled h]
  | some l =>
    obtain ⟨t, -, -, told⟩ := State.endOne_stages cancelled h
    exact told.gone (State.strike_gone ..)

/-- The end of a launch that stands calls for another placement try (R34). -/
theorem State.endOne_tries (s : State) (n : LaunchNo) (cancelled : Bool) : s.endOne n cancelled = s ∨ (s.endOne n cancelled).fe.tryPlace = true := by
  cases h : s.launch? n with
  | none => exact .inl (State.endOne_none cancelled h)
  | some l =>
    obtain ⟨t, -, -, told⟩ := State.endOne_stages cancelled h
    exact .inr (told.tryPlace rfl)

/-- A host launch that ends gives up its cores (R26, R30). -/
theorem State.endOne_frees {l : Launch} (cancelled : Bool) (h : s.launch? n = some l) (hc : l.cls = none) (c : CoreIx) (hn : (s.core c).launch = n) :
    ((s.endOne n cancelled).core c).launch = 0 := by
  obtain ⟨t, -, free, told⟩ := State.endOne_stages cancelled h
  have freed : ((t.strike n cancelled).core c).launch = 0 := free hc c hn
  exact (told.held c).elim (fun k => k.trans freed) id

/-- Every core that holds a launch is held by a host launch of the list. -/
def State.heldByHost (s : State) (n : LaunchNo) : Prop := ∀ c, (s.core c).launch = n → ∃ l, s.launch? n = some l ∧ l.cls = none

theorem State.heldByHost_of_some {l : Launch} (h : s.launch? n = some l) (hc : l.cls = none) : s.heldByHost n := fun _ _ => ⟨l, h, hc⟩

/-- No core is left to a launch that is gone. -/
theorem State.heldByHost.free (h : s.heldByHost n) (hn : s.launch? n = none) (c : CoreIx) : (s.core c).launch ≠ n := by
  intro hc
  obtain ⟨l, hl, -⟩ := h c hc
  rw [hn] at hl
  cases hl

theorem State.heldByHost.endOne (hn : n ≠ 0) (h : s.heldByHost n) (m : LaunchNo) (cancelled : Bool) : (s.endOne m cancelled).heldByHost n := by
  have ends := EndsOnly.endOne s m cancelled
  intro c hc
  have before : (s.core c).launch = n := (ends.held c).elim (fun k => k ▸ hc) fun k => absurd (hc.symm.trans k) hn
  obtain ⟨l, hl, hcls⟩ := h c before
  by_cases hm : n = m
  · subst hm
    exact absurd (hc.symm.trans (State.endOne_frees cancelled hl hcls c before)) hn
  · exact ends.stands n l hm hl hcls

/-! ### A launch and the generated launches in its windows -/

/-- The generated launches that run in a launch's windows have ended. -/
def State.endInside (s : State) (n : LaunchNo) : State :=
  (s.launches.filter fun l => l.window.map WindowBind.host = some n).foldl (fun s l => s.endOne l.num true) s

theorem State.endLaunch_eq (s : State) (n : LaunchNo) (cancelled : Bool) : s.endLaunch n cancelled = (s.endInside n).endOne n cancelled := rfl

theorem EndsOnly.endInside (s : State) (n : LaunchNo) : EndsOnly (fun _ => True) s (s.endInside n) :=
  foldl (fun s _ => (endOne s ..).mono fun _ _ => trivial) _ s

theorem EndsOnly.endLaunch (s : State) (n : LaunchNo) (cancelled : Bool) : EndsOnly (fun _ => True) s (s.endLaunch n cancelled) := by
  rw [State.endLaunch_eq]
  exact (endInside s n).trans ((endOne ..).mono fun _ _ => trivial)

theorem State.endLaunch_gone (s : State) (n : LaunchNo) (cancelled : Bool) : (s.endLaunch n cancelled).launch? n = none := State.endOne_gone ..

/-- Each launch that a fold ends is gone. -/
theorem State.foldl_ends_gone {f : State → Launch → State} (hf : ∀ s l, EndsOnly (fun _ => True) s (f s l)) {g : Launch}
    (hg : ∀ s, (f s g).launch? g.num = none) {ls : List Launch} (h : g ∈ ls) (s : State) : (ls.foldl f s).launch? g.num = none :=
  foldl_of_mem hg (fun s l => (hf s l).gone) h s

theorem State.endLaunch_inside_gone {g : Launch} (h : g ∈ s.launches) (hw : g.window.map WindowBind.host = some n) (cancelled : Bool) :
    (s.endLaunch n cancelled).launch? g.num = none := by
  refine (EndsOnly.endOne ..).gone (State.foldl_ends_gone (fun s _ => (EndsOnly.endOne s ..).mono fun _ _ => trivial) (fun _ => State.endOne_gone ..) ?_ s)
  exact List.mem_filter.2 ⟨h, decide_eq_true hw⟩

theorem State.endLaunch_tries (hn : s.launch? n ≠ none) (cancelled : Bool) : (s.endLaunch n cancelled).fe.tryPlace = true := by
  have inside (ls : List Launch) (t : State) (ht : t = s ∨ t.fe.tryPlace = true) :
      ls.foldl (fun s l => s.endOne l.num true) t = s ∨ (ls.foldl (fun s l => s.endOne l.num true) t).fe.tryPlace = true := by
    induction ls generalizing t with
    | nil => exact ht
    | cons a ls ih =>
      refine ih _ ?_
      rcases ht with rfl | ht
      · exact State.endOne_tries ..
      · exact .inr ((EndsOnly.endOne t ..).tryPlace ht)
  rw [State.endLaunch_eq]
  rcases inside (s.launches.filter fun l => l.window.map WindowBind.host = some n) s (.inl rfl) with h | h
  · have same : s.endInside n = s := h
    rw [same]
    refine (State.endOne_tries s n cancelled).resolve_left fun he => hn ?_
    rw [← he]
    exact State.endOne_gone ..
  · exact (EndsOnly.endOne ..).tryPlace h

/-- A host launch that ends gives up every core. -/
theorem State.endLaunch_frees {l : Launch} (h : s.launch? n = some l) (hc : l.cls = none) (cancelled : Bool) (c : CoreIx) (hn : (s.core c).launch = n) :
    ((s.endLaunch n cancelled).core c).launch = 0 := by
  have hne := (State.launch?_some h).1
  have inside (ls : List Launch) (t : State) (ht : t.heldByHost n) : (ls.foldl (fun s l => s.endOne l.num true) t).heldByHost n := by
    induction ls generalizing t with
    | nil => exact ht
    | cons a ls ih => exact ih _ (ht.endOne hne a.num true)
  have held : (s.endLaunch n cancelled).heldByHost n := (inside _ s (State.heldByHost_of_some h hc)).endOne hne n cancelled
  exact ((EndsOnly.endLaunch s n cancelled).held c).resolve_left fun k => held.free (State.endLaunch_gone ..) c (k.trans hn)

/-! ### A fault domain (R26) -/

theorem EndsOnly.cancelOne (s : State) (l : Launch) : EndsOnly (fun _ => True) s
    ((if s.tr.buffer.any fun r => r.voided s.tick l.num s.tr.buffer then
      { s with tr := { s.tr with buffer := s.tr.buffer.filter fun r => !r.voided s.tick l.num s.tr.buffer } } else s).endLaunch l.num true) := by
  refine trans ?_ (endLaunch ..)
  split
  · exact of_same
  · exact refl ..

theorem EndsOnly.cancelDomain (s : State) (d : BitVec 16) : EndsOnly (fun _ => True) s (s.cancelDomain d) := foldl cancelOne _ s

/-- After the cancellation of a fault domain no launch of it is left, but those that only wait to be placed (R26). -/
theorem State.cancelDomain_gone {l : Launch} (h : l ∈ s.launches) (hp : l.stage ≠ .placed) : (s.cancelDomain l.fdom).launch? l.num = none :=
  State.foldl_ends_gone EndsOnly.cancelOne (fun _ => State.endLaunch_gone ..) (List.mem_filter.2 ⟨h, by simpa using hp⟩) s

end

end Sys2Proof.Machine
end

section
/-! SUPPORT. Degradation, throttling and the safety monitor (R38 to R40, R62, R473, R475): what a cancellation by health ends, what the loss of power of a die clears, what the events
of the table do; then the statement O53. -/

namespace Sys2Proof.Machine

/-! ### Cancellation by health (R26, R39) -/

theorem State.cancelDomain_domainGone (s : State) (d : BitVec 16) : s.domainGone (s.cancelDomain d) d := by
  rintro l hl rfl hp hn k hk
  exact State.launch?_none_iff.1 (State.cancelDomain_gone hl hp) hn k hk

theorem State.healthCancel_some {s : State} {n : LaunchNo} {l : Launch} (h : s.launch? n = some l) :
    s.healthCancel n = (s.faultRec (some (placeNoCore n)) 6 0 0 true l.fdom 0 l.tag.toNat 0).cancelDomain l.fdom := by
  rw [State.healthCancel, h]

theorem State.healthCancel_domainGone {s : State} {n : LaunchNo} {l : Launch} (h : s.launch? n = some l) : s.domainGone (s.healthCancel n) l.fdom := by
  rw [State.healthCancel_some h]
  exact State.cancelDomain_domainGone (s.faultRec (some (placeNoCore n)) 6 0 0 true l.fdom 0 l.tag.toNat 0) l.fdom

theorem State.healthCancel_gone {s : State} {n : LaunchNo} {l : Launch} (h : s.launch? n = some l) (hp : l.stage ≠ .placed) : (s.healthCancel n).launch? n = none := by
  obtain ⟨hn, hln, hl⟩ := State.launch?_some h
  rw [State.launch?_none_iff]
  intro _ k hk
  rw [← hln]
  exact State.healthCancel_domainGone h l hl rfl hp (by rwa [hln]) k hk

theorem EndsOnly.healthCancel (s : State) (n : LaunchNo) : EndsOnly (fun _ => True) s (s.healthCancel n) := by
  cases h : s.launch? n with
  | none => rw [State.healthCancel, h]; exact refl ..
  | some l =>
    rw [State.healthCancel_some h]
    refine trans ?_ (cancelDomain ..)
    exact of_same

theorem EndsOnly.faultRec (s : State) (place : Option Word) (source code detail : Nat) (cancel : Bool) (fdom : BitVec 16) (addr w aux : Nat) :
    EndsOnly (fun _ => True) s (s.faultRec place source code detail cancel fdom addr w aux) := of_same

/-- A launch that health cancels (R39). -/
def State.cancelNow (s : State) (l : Launch) : State :=
  match s.launch? l.num with
  | some k => if k.stage = .placed then (s.faultRec (some (placeNoCore k.num)) 6 0 0 true k.fdom 0 k.tag.toNat 0).endLaunch k.num true else s.healthCancel k.num
  | none => s

theorem State.cancelWhere_eq (s : State) (p : Launch → Bool) : s.cancelWhere p = (s.launches.filter fun l => l.cls.isNone && p l).foldl State.cancelNow s := rfl

theorem EndsOnly.cancelNow (s : State) (l : Launch) : EndsOnly (fun _ => True) s (s.cancelNow l) := by
  unfold State.cancelNow
  split
  · split
    · exact (faultRec ..).trans (endLaunch ..)
    · exact healthCancel ..
  · exact refl ..

theorem State.cancelNow_gone (s : State) (l : Launch) : (s.cancelNow l).launch? l.num = none := by
  unfold State.cancelNow
  split
  · rename_i k hk
    have hkl := State.launch?_num hk
    rw [← hkl] at hk ⊢
    split
    · exact State.endLaunch_gone ..
    · exact State.healthCancel_gone hk ‹_›
  · assumption

theorem EndsOnly.cancelWhere (s : State) (p : Launch → Bool) : EndsOnly (fun _ => True) s (s.cancelWhere p) := foldl cancelNow _ s

theorem State.cancelWhere_gone {s : State} {n : LaunchNo} {l : Launch} {p : Launch → Bool} (h : s.launch? n = some l) (hc : l.cls = none) (hp : p l = true) :
    (s.cancelWhere p).launch? n = none := by
  obtain ⟨-, rfl, hl⟩ := State.launch?_some h
  rw [State.cancelWhere_eq]
  exact State.foldl_ends_gone EndsOnly.cancelNow (fun s => s.cancelNow_gone l) (List.mem_filter.2 ⟨hl, by simp [hc, hp]⟩) s

theorem State.cancelWhere_none {s : State} {p : Launch → Bool} (h : ∀ l ∈ s.launches, p l = false) : s.cancelWhere p = s := by
  have nobody : (s.launches.filter fun l => l.cls.isNone && p l) = [] := List.filter_eq_nil_iff.2 fun l hl => by simp [h l hl]
  rw [State.cancelWhere_eq, nobody]
  rfl

/-! ### Modules, lanes and links (R39, R40, R468) -/

/-- The loss of a module as the degradation state has it. -/
def Health.withoutModule (h : Health) (link : Fin 8) (k : Fin 4) : Health :=
  { h with modules := h.modules.set link (h.modules[link] - 1), spares := h.spares.set link (dropModule h.spares[link] k), dropNow := setBit h.dropNow link }

theorem State.loseModule_uncrossed {s : State} {link : Fin 8} (h : ∀ l ∈ s.launches, l.spans link = false) (k : Fin 4) :
    s.loseModule link k = (s.updHealth (·.withoutModule link k)).healthRec 3 link (s.health.withoutModule link k).modules[link].val :=
  State.cancelWhere_none fun l hl => by rw [h l hl]; rfl

theorem ucieModuleLost_of_standing {s : State} {link : Fin 8} (h : s.health.modules[link] ≠ 0) :
    exec (.ucieModuleLost link) s = .next (s.loseModule link (s.struck link)) := if_neg h

theorem State.spareLeft_of_dropped {s : State} {link : Fin 8} (h : s.health.dropNow.getLsbD link = true) : s.spareLeft link = false := by
  rw [State.spareLeft, h]
  rfl

theorem State.spareLeft_of_not_dropped {s : State} {link : Fin 8} (h : s.health.dropNow.getLsbD link = false) :
    s.spareLeft link = decide (s.health.spares[link][s.struck link].toNat < 4) := by
  rw [State.spareLeft, h]
  rfl

theorem ucieLaneLost_without_spare {s : State} {link : Fin 8} (hm : s.health.modules[link] ≠ 0) (h : s.spareLeft link = false) :
    exec (.ucieLaneLost link) s = .next (if s.health.dropNow.getLsbD link then s else s.loseModule link (s.struck link)) := by
  rw [apply_ite Host.Outcome.next]
  exact (if_neg hm).trans (if_neg (ne_true_of_eq_false h))

/-- A spare lane of a link's module more is in use (R39). -/
def Health.withSpare (h : Health) (link : Fin 8) (k : Fin 4) : Health := { h with spares := h.spares.set link (h.spares[link].set k (h.spares[link][k] + 1)) }

theorem ucieLaneLost_with_spare {s : State} {link : Fin 8} (hm : s.health.modules[link] ≠ 0) (h : s.spareLeft link = true) :
    exec (.ucieLaneLost link) s = .next ((({ s with fresh := s.fresh + 1 }.updHealth (·.withSpare link (s.struck link))).healthRec 2 link
      ((s.health.withSpare link (s.struck link)).sparesUsed link)).retrainStep link (Config.openDelay s.fresh)) :=
  (if_neg hm).trans (if_pos h)

/-- Steps that each change nothing but the launches. -/
theorem State.foldl_launches {f : State → Launch → State} (hf : ∀ s l, ∃ x, f s l = { s with launches := x }) (ls : List Launch) (s : State) :
    ∃ x, ls.foldl f s = { s with launches := x } := by
  induction ls generalizing s with
  | nil => exact ⟨_, rfl⟩
  | cons l ls ih =>
    obtain ⟨x, hx⟩ := hf s l
    obtain ⟨y, hy⟩ := ih { s with launches := x }
    exact ⟨y, by rw [List.foldl_cons, hx, hy]⟩

theorem State.raiseCause_only (s : State) (n : LaunchNo) (code : Nat) (r : Option Nat) : ∃ x, s.raiseCause n code r = { s with launches := x } := by
  unfold State.raiseCause
  split
  · exact ⟨_, rfl⟩
  · exact ⟨_, rfl⟩

/-- A retrain or repair step is counted on its link, up to the counter's end (R468). -/
def State.countRetrain (s : State) (link : Fin 8) : State :=
  { s with host := { s.host with retrain := s.host.retrain.set link (if s.host.retrain[link] = 0xFFFFFFFF then 0xFFFFFFFF else s.host.retrain[link] + 1) } }

/-- A retrain or repair step counts on its link, and freezes launches (R70, R468). -/
theorem State.retrainStep_only (s : State) (link : Fin 8) (ticks : Nat) : ∃ x, s.retrainStep link ticks = { s.countRetrain link with launches := x } := by
  refine State.foldl_launches (fun s l => ?_) s.launches (s.countRetrain link)
  split
  · exact State.raiseCause_only ..
  · exact ⟨_, rfl⟩

theorem saturated_toNat (c : BitVec 32) : (if c = 0xFFFFFFFF then 0xFFFFFFFF else c + 1).toNat = min (c.toNat + 1) 0xFFFFFFFF := by
  split <;> bv_omega

/-! ### Power of the work dies (R474) -/

/-- A byte that no entry of a memory names reads as zero. -/
theorem readByte_absent {m : Memory} {a : Nat} (h : ∀ e ∈ m, e.1 ≠ a) : readByte m a = 0 := by
  unfold readByte
  induction m with
  | nil => rfl
  | cons e m ih =>
    rw [sparseGet, if_neg (h e (List.mem_cons_self ..))]
    split
    · rfl
    · exact ih fun x hx => h x (List.mem_cons_of_mem _ hx)

/-- A property of each die that its loss of power makes, and that the loss of another keeps, holds of all once all are off. -/
theorem State.allDies_of_cutDie {P : Fin 4 → State → Prop} (made : ∀ (s : State) d, P d (s.cutDie d)) (kept : ∀ (s : State) d e, P d s → P d (s.cutDie e)) (s : State) (d : Fin 4) :
    P d ((List.finRange 4).foldl State.cutDie s) :=
  foldl_of_mem (made · d) (fun s e h => kept s d e h) (List.mem_finRange d) s

theorem State.cutDie_core (s : State) (d : Fin 4) (c : CoreIx) : (s.cutDie d).core c = if coreDie c = d then .init else s.core c := by
  simp [State.cutDie, State.core, vecMap]

theorem State.cutDie_dies (s : State) (d e : Fin 4) : (s.cutDie d).dies[e] = if e = d then ⟨[], [], [], []⟩ else s.dies[e] := by
  simp [State.cutDie, Vector.getElem_set, Fin.ext_iff, eq_comm]

theorem getLsbD_setBit {w : Nat} (v : BitVec w) (i j : Nat) (hj : j < w) : (setBit v i).getLsbD j = (v.getLsbD j || decide (i = j)) := by
  rw [setBit, BitVec.getLsbD_or, BitVec.getLsbD_ofNat, Nat.testBit_two_pow, decide_eq_true hj, Bool.true_and]

/-- All four dies lose their power (R474): their cores, their Pantries and the whole of LPDDR 6 lose what they hold. -/
def State.allOff (s : State) : State := (List.finRange 4).foldl State.cutDie s

theorem State.allOff_core (s : State) (c : CoreIx) : s.allOff.core c = .init := by
  refine State.allDies_of_cutDie (P := fun d s => ∀ c, coreDie c = d → s.core c = .init) (fun s d c hc => ?_) (fun s d e h c hc => ?_) s _ c rfl
  · rw [State.cutDie_core, if_pos hc]
  · rw [State.cutDie_core]
    split
    · rfl
    · exact h c hc

theorem State.allOff_dies (s : State) (d : Fin 4) : s.allOff.dies[d] = ⟨[], [], [], []⟩ := by
  refine State.allDies_of_cutDie (P := fun d s => s.dies[d] = ⟨[], [], [], []⟩) (fun s d => ?_) (fun s d e h => ?_) s d
  · rw [State.cutDie_dies, if_pos rfl]
  · rw [State.cutDie_dies]
    split
    · rfl
    · exact h

theorem State.allOff_dieOff (s : State) (d : Fin 4) : s.allOff.host.dieOff.getLsbD d = true := by
  refine State.allDies_of_cutDie (P := fun d s => s.host.dieOff.getLsbD d = true) (fun s d => ?_) (fun s d e h => ?_) s d
  · simp [State.cutDie, getLsbD_setBit _ _ _ d.isLt]
  · simp [State.cutDie, getLsbD_setBit _ _ _ d.isLt, h]

theorem State.allOff_dram (s : State) {x : Nat} (hx : x < 2 ^ 37) : readByte s.allOff.dram x = 0 := by
  have off (d : Fin 4) : ∀ e ∈ s.allOff.dram, ¬(d.val * 2 ^ 35 ≤ e.1 ∧ e.1 < (d.val + 1) * 2 ^ 35) := by
    refine State.allDies_of_cutDie (P := fun d s => ∀ e ∈ s.dram, ¬(d.val * 2 ^ 35 ≤ e.1 ∧ e.1 < (d.val + 1) * 2 ^ 35)) (fun s d e he => ?_) (fun s d k h e he => ?_) s d
    · simpa only [Bool.not_eq_true', Bool.and_eq_false_iff, decide_eq_false_iff_not, ← not_and_or] using (List.mem_filter.1 he).2
    · exact h e (List.mem_filter.1 he).1
  refine readByte_absent fun e he hex => off ⟨x / 2 ^ 35, by omega⟩ e he ?_
  rw [hex]
  exact ⟨by simp only; omega, by simp only; omega⟩

/-- The loss of power changes nothing else. -/
theorem State.allOff_only (s : State) : ∃ cores dies dram off, s.allOff = { s with cores := cores, dies := dies, dram := dram, host := { s.host with dieOff := off } } := by
  have cut (ds : List (Fin 4)) (s : State) :
      ∃ cores dies dram off, ds.foldl State.cutDie s = { s with cores := cores, dies := dies, dram := dram, host := { s.host with dieOff := off } } := by
    induction ds generalizing s with
    | nil => exact ⟨_, _, _, _, rfl⟩
    | cons d ds ih => exact ih (s.cutDie d)
  exact cut _ s

/-! ### Heat and the safety monitor (R473, R475) -/

/-- The state with a temperature read. -/
def State.warmed (s : State) (c : Int) : State := { s with host := { s.host with celsius := c } }

/-- An event that asks for no level leaves the level; below 115 degrees no trip follows (R475). -/
theorem thermalEvent_without_request {s : State} {c : Int} (hr : s.tr.rpActive = false) (hc : c < 115) (hl : levelFor c ≤ s.host.level.toNat) :
    exec (.thermalEvent c) s = .next (s.warmed c).cooling := by
  have noTrip (b : Bool) : ¬ (decide (115 ≤ c) && b) = true := by simp [hc]
  have noAsk : ¬ s.host.level.toNat < levelFor c := not_lt.2 hl
  refine congrArg Host.Outcome.next ((if_neg (noTrip _)).trans ((if_neg (ne_true_of_eq_false hr)).trans ?_))
  exact congrArg State.cooling (if_neg noAsk)

/-- With no launch to ask, a step back takes the level one down (R475). -/
theorem State.askLevel_of_no_launch {s : State} (h : s.launches = []) (v : Nat) : s.askLevel v = { s with host := { s.host with level := BitVec.ofNat 2 v } } := by
  rw [State.askLevel, h]
  rfl

theorem throttleStepBack_of_due {s : State} (h : s.stepBackDue = true) :
    exec .throttleStepBack s = .next { s.askLevel (s.host.level.toNat - 1) with host := { (s.askLevel (s.host.level.toNat - 1)).host with coolSince := none } }.cooling :=
  if_neg (by simp [h])

theorem State.level_of_stepBackDue {s : State} (h : s.stepBackDue = true) : s.host.level ≠ 0 := by
  unfold State.stepBackDue at h
  split at h
  · simpa using (Bool.and_eq_true_iff.1 h).2
  · cases h

/-- The trip as FE_SMON has it (R473, R475). -/
def State.tripping (s : State) : State := { s with host := { s.host with therm := true, smonNew := setBit s.host.smonNew 3, tripped := true } }

/-- The trip, with its interrupt, before the dies go off (R474, R475). -/
def State.tripped (s : State) : State := s.tripping.irq 17

/-- An interrupt changes only the pending bits and the interrupts sent. -/
theorem State.irq_only (s : State) (v : Nat) : ∃ p i, s.irq v = { s with host := { s.host with pba := p, irqs := i } } := by
  unfold State.irq
  split
  · split
    · exact ⟨_, _, rfl⟩
    · exact ⟨_, _, rfl⟩
  · exact ⟨_, _, rfl⟩

/-- An interrupt that is masked becomes pending; otherwise it is sent (R464). -/
theorem State.irq_told (s : State) (v : Fin 64) :
    if s.host.msix[v].ctrl.getLsbD 0 then (s.irq v).host.pba.getLsbD v = true else (s.irq v).host.irqs = s.host.irqs ++ [v] := by
  have masked : bit s.host.msix[v].ctrl.toNat 0 = s.host.msix[v].ctrl.getLsbD 0 := bit_toNat ..
  rw [State.irq, dif_pos v.isLt]
  split_ifs with h k k
  · simp [getLsbD_setBit _ _ _ v.isLt]
  · exact absurd (masked.trans h) k
  · exact absurd (masked.symm.trans k) h
  · rfl

/-- With no launch to cancel, the trip switches the dies off (R475). -/
theorem thermalTrip_of_hot {s : State} (hc : 115 ≤ s.host.celsius) (ht : s.host.tripped = false) (hl : s.launches = []) :
    exec .thermalTrip s = .next s.tripped.allOff := by
  have still : s.tripped.launches = [] := by
    obtain ⟨p, i, h⟩ := s.tripping.irq_only 17
    rw [State.tripped, h]
    exact hl
  have cancelled : s.tripped.cancelWhere (fun _ => true) = s.tripped := State.cancelWhere_none (by rw [still]; exact fun l h => nomatch h)
  refine (if_neg (by simp [hc, ht])).trans (congrArg Host.Outcome.next ?_)
  exact congrArg State.allOff cancelled

/-- MREQ is 1 (R473). -/
def State.withMreq (s : State) : State := { s with host := { s.host with mreq := true } }

/-- A safety request to a lone running launch is a mode request of its set's safe mode (R473). -/
theorem safetyModeRequest_of_lone {s : State} {l : Launch} {u : TableSet} (hd : s.mreqDue = true) (hr : s.tr.rpActive = false) (hl : s.launches = [l])
    (hs : l.stage ≠ .placed) (hc : l.cls = none) (hu : l.set? = some u) :
    exec .safetyModeRequest s = .next (s.withMreq.modeRequest l.num u.safemode true 2) := by
  have running : ¬ (decide (l.stage = .placed) || l.cls.isSome) = true := by simp [hs, hc]
  refine (if_neg (by simp [hd])).trans (congrArg Host.Outcome.next ((if_neg (ne_true_of_eq_false hr)).trans ((congrArg (List.foldl _ s.withMreq) hl).trans ?_)))
  rw [List.foldl_cons, List.foldl_nil, hu]
  exact if_neg running

/-! ### O53 -/

/-- Settles O53: a loss enters the degradation state and cancels what spans it; heat, the trip, the safety request and the heartbeat by their rules. Which module an event
strikes, when a marked core becomes defective and how the trip cancels is log entry 43, what a watchdog and the heartbeat show log entry 26. -/
theorem degradation : Obligations.Degradation := by
  intro s
  refine ⟨fun c => ?defective, fun ch => ?fenced, fun link hm hl => ⟨?module, ?again, ?noSpare, ?spare⟩, fun link n l h hc hl => ?link, fun c hr hc hl => ?heat,
    fun hl hd => ?stepBack, fun hc ht hl => ?trip, fun n l u k hd hr hl h hs hc hu hk hp hf ha => ?safety, fun hp hm => ?low, fun h0 h1 => ?heartbeat, fun k => ?watchdog⟩
  case defective =>
    refine ⟨_, rfl, ?_, State.logs_record .., rfl, rfl, rfl, rfl⟩
    rw [State.healthRec, State.record, State.updHealth]
    split <;> rfl
  case fenced => exact ⟨_, rfl, rfl, State.logs_record .., rfl, rfl, rfl, rfl, rfl⟩
  case module =>
    refine ⟨_, ucieModuleLost_of_standing hm, ?_⟩
    rw [State.loseModule_uncrossed hl]
    exact ⟨rfl, State.logs_record .., rfl, rfl, rfl, rfl⟩
  case again =>
    intro hd
    rw [ucieLaneLost_without_spare hm (State.spareLeft_of_dropped hd), if_pos hd]
  case noSpare =>
    intro hd h4
    have used : s.spareLeft link = false := by rw [State.spareLeft_of_not_dropped hd, decide_eq_false h4]
    rw [ucieLaneLost_without_spare hm used, if_neg (ne_true_of_eq_false hd), ucieModuleLost_of_standing hm]
  case spare =>
    intro hd h4
    have left : s.spareLeft link = true := by rw [State.spareLeft_of_not_dropped hd, decide_eq_true h4]
    refine ⟨_, ucieLaneLost_with_spare hm left, ?_⟩
    obtain ⟨x, hx⟩ := State.retrainStep_only ((({ s with fresh := s.fresh + 1 }.updHealth (·.withSpare link (s.struck link))).healthRec 2 link
      ((s.health.withSpare link (s.struck link)).sparesUsed link))) link (Config.openDelay s.fresh)
    rw [hx]
    refine ⟨rfl, State.logs_record .., rfl, ?_⟩
    exact (congrArg BitVec.toNat (Vector.getElem_set_self ..)).trans (saturated_toNat _)
  case link =>
    refine ⟨_, rfl, State.cancelWhere_gone h hc hl, ?_⟩
    exact (EndsOnly.cancelWhere ..).linkLost
  case heat => exact ⟨_, thermalEvent_without_request hr hc hl, rfl, rfl, rfl, rfl, rfl, rfl⟩
  case stepBack =>
    refine ⟨_, throttleStepBack_of_due hd, ?_⟩
    rw [State.askLevel_of_no_launch hl]
    have one := State.level_of_stepBackDue hd
    refine ⟨?_, rfl, rfl, rfl⟩
    change BitVec.ofNat 2 (s.host.level.toNat - 1) = s.host.level - 1
    bv_omega
  case trip =>
    refine ⟨_, thermalTrip_of_hot hc ht hl, ?_⟩
    obtain ⟨cores, dies, dram, off, hoff⟩ := s.tripped.allOff_only
    obtain ⟨p, i, hirq⟩ := s.tripping.irq_only 17
    have told := s.tripping.irq_told 17
    have tripped : s.tripped = { s.tripping with host := { s.tripping.host with pba := p, irqs := i } } := hirq
    have dark (d : Fin 4) : s.tripped.allOff.dies[d].pantry = [] ∧ s.tripped.allOff.dies[d].mail = [] := by
      rw [State.allOff_dies]
      exact ⟨rfl, rfl⟩
    refine ⟨?_, ?_, State.allOff_dieOff _, State.allOff_core _, dark, fun x hx => State.allOff_dram _ hx, ?_, ?_, ?_, ?_⟩
    all_goals rw [hoff, tripped]
    case refine_6 =>
      rw [show s.tripping.irq (17 : Fin 64) = _ from hirq] at told
      exact told
    all_goals rfl
  case safety =>
    obtain ⟨-, rfl, -⟩ := State.launch?_some h
    have asked : s.withMreq.launch? l.num = some l := h
    refine ⟨_, safetyModeRequest_of_lone hd hr hl hs hc hu, ?_⟩
    rw [State.modeRequest_granted asked (fun p hp' => by rw [hp] at hp'; cases hp') (by rw [show s.withMreq.chmask = s.chmask from rfl, hk]; rfl) true]
    refine ⟨rfl, ?_, rfl, rfl⟩
    rw [State.updLaunch_some _ (fun _ => Launch.requested_num ..) asked, Launch.requested, hf, ha]
    rfl
  case low => exact ⟨_, if_neg (by simp [hp, hm]), rfl, OnlyHost.of_host rfl⟩
  case heartbeat =>
    refine ⟨_, if_neg (by rw [h0]; simpa using h1), rfl, fun k => ?_, OnlyHost.of_host rfl⟩
    exact Vector.getElem_replicate ..
  case watchdog => exact ⟨_, rfl, rfl, OnlyHost.of_host rfl⟩

end Sys2Proof.Machine
end

section
/-! SUPPORT. Launch packets and placement (R24, R27, R29, R33, R34, R62, R77, R399, R414): how a queue passes a packet, what a placement try of one packet leaves; then the
statement O41. -/

namespace Sys2Proof.Machine

/-! ### A queue passes a packet (R397, R400) -/

section
variable {s t : State} {q : QueueIx}

theorem State.updExec_queue (s : State) (q : QueueIx) (f : Stream' → Stream') : s.updExec (.queue q) f = s.updQueue q fun x => { x with exec := f x.exec } := rfl

theorem State.packetDone_queue (h : s.source = .queue q) (n : Nat) :
    s.packetDone n = s.updQueue q fun x => { x with exec := x.exec.done (some s.fe.queues[q].ring) n } := by
  simp only [State.packetDone, State.updExec_source, h]
  rfl

/-- A packet of n bytes is done at the one level of a ring, outside any loop (R400, R404). -/
theorem Stream'.done_levels {e : Stream'} {l : Level} (h : e.levels = [l]) (straight : l.loopPasses = 0) (ring n : Nat) :
    (e.done (some ring) n).levels = [{ l with pos := (l.pos + n) % ring, left := l.left - n, skip := l.skip - 1 }] := by
  rw [Stream'.done, h, advanceLevels, Level.advance]
  simp [straight]

/-- What a packet that runs in a ring passes, whatever it did to the queue but for its execution state (R397, R400). -/
theorem State.passed_packetDone {s t : State} {q : QueueIx} {l : Level} (at' : AtPacket s q l) (source : t.source = s.source)
    (levels : t.fe.queues[q].exec.levels = s.fe.queues[q].exec.levels) (ring : t.fe.queues[q].sizelog = s.fe.queues[q].sizelog)
    (frozen : t.fe.queues[q].frozen = s.fe.queues[q].frozen) (others : ∀ p, p ≠ q → t.fe.queues[p] = s.fe.queues[p]) (n : Nat) :
    s.passed (t.packetDone n) q l n := by
  have one : t.fe.queues[q].exec.levels = [l] := levels.trans at'.levels
  have same : t.fe.queues[q].ring = s.fe.queues[q].ring := by rw [QueueState.ring, QueueState.ring, ring]
  have here := State.queue_updQueue t q fun x => { x with exec := x.exec.done (some t.fe.queues[q].ring) n }
  rw [State.packetDone_queue (source.trans at'.source)]
  refine ⟨?_, ?_, fun p hp => (State.queue_updQueue_ne t q p _ hp).trans (others p hp)⟩
  · rw [← same]
    exact (congrArg (fun x => x.exec.levels) here).trans (Stream'.done_levels one at'.straight ..)
  · exact (congrArg QueueState.frozen here).trans frozen

end

/-! ### Launch packets (R24, R27, R399) -/

/-- What `pk.launch` of a queue hands to the scheduling core. -/
def State.handed (s : State) (q : QueueIx) (tag : BitVec 32) (rcb : BitVec 56) (tokens : BitVec 8) : Waiting' where
  source := .queue q
  serial := s.fe.queues[q].exec.nextSerial
  packet := s.packetAt
  tag := tag
  tokens := min tokens.toNat (s.fe.queues[q].tokWas.getD s.fe.queues[q].tokens).toNat
  priority := match subtree s.reader s.readable rcb.toNat with | .ok (p, _) => p | .error _ => 0
  specs := match subtree s.reader s.readable rcb.toNat with | .ok (_, l) => some l | .error _ => none
  offender := match subtree s.reader s.readable rcb.toNat with | .ok _ => none | .error a => some a
  tried := false

/-- A queue whose pool has given c tokens to a subtree, so many being left. -/
def QueueState.carrying (x : QueueState) (c left : Nat) : QueueState := if c = 0 then x else { x with tokens := BitVec.ofNat 8 left, tokWas := none }

/-- A stream that has issued a launch packet. -/
def Stream'.issuing (e : Stream') (serial : Nat) : Stream' := { e with nextSerial := e.nextSerial + 1, issued := e.issued ++ [(serial, 0)] }

/-- A packet waits with the scheduling core. -/
def State.withWaiting (s : State) (w : Waiting') : State := { s with fe := { s.fe with waiting := s.fe.waiting ++ [w] } }

/-- The queue's tokens as a launch packet finds them (R429). -/
def QueueState.pool (x : QueueState) : Nat := (x.tokWas.getD x.tokens).toNat

/-- The packet is handed over, its tokens taken and its issue noted; the queue has not passed it yet. -/
def State.handing (s : State) (q : QueueIx) (w : Waiting') : State :=
  ((s.updQueue q (·.carrying w.tokens (s.fe.queues[q].pool - w.tokens))).withWaiting w).updExec (.queue q) (·.issuing w.serial)

theorem pkLaunch_handed {s : State} {q : QueueIx} (h : s.source = .queue q) (tag : BitVec 32) (rcb : BitVec 56) (tokens : BitVec 8) :
    exec (.pkLaunch tag rcb tokens false) s = .next ((s.handing q (s.handed q tag rcb tokens)).packetDone 24) := by
  change execPkLaunch tag rcb tokens false s = _
  rw [execPkLaunch, State.handing, State.handed]
  cases hs : subtree s.reader s.readable rcb.toNat with
  | ok x =>
    obtain ⟨p, specs⟩ := x
    simp only [Bool.false_and, Bool.false_eq_true, if_false, h, State.stream, State.exec?, State.withWaiting, State.updQueue_source]
    rfl
  | error x =>
    simp only [Bool.false_and, Bool.false_eq_true, if_false, h, State.stream, State.exec?, State.withWaiting, State.updQueue_source]
    rfl

section
variable (x : QueueState) (c left : Nat)

@[simp] theorem QueueState.carrying_exec : (x.carrying c left).exec = x.exec := by unfold QueueState.carrying; split <;> rfl
@[simp] theorem QueueState.carrying_frozen : (x.carrying c left).frozen = x.frozen := by unfold QueueState.carrying; split <;> rfl
@[simp] theorem QueueState.carrying_sizelog : (x.carrying c left).sizelog = x.sizelog := by unfold QueueState.carrying; split <;> rfl

/-- A pool that no host write of the tick has changed gives up the tokens that a packet carries. -/
theorem QueueState.carrying_tokens (h : x.tokWas = none) : (x.carrying c (x.pool - c)).tokens.toNat = x.tokens.toNat - c := by
  have pool : x.pool = x.tokens.toNat := by rw [QueueState.pool, h]; rfl
  rw [QueueState.carrying, pool]
  split_ifs with hc
  · rw [hc, Nat.sub_zero]
  · exact Nat.mod_eq_of_lt (by omega)

end

theorem State.handing_queue (s : State) (q : QueueIx) (w : Waiting') :
    (s.handing q w).fe.queues[q.val] =
      { s.fe.queues[q].carrying w.tokens (s.fe.queues[q].pool - w.tokens) with exec := s.fe.queues[q].exec.issuing w.serial } := by
  rw [State.handing, State.updExec_queue, State.queue_updQueue]
  have here := State.queue_updQueue s q (·.carrying w.tokens (s.fe.queues[q].pool - w.tokens))
  refine (congrArg (fun x : QueueState => { x with exec := x.exec.issuing w.serial }) here).trans ?_
  rw [QueueState.carrying_exec]
  rfl

theorem State.handing_queue_ne (s : State) {q p : QueueIx} (w : Waiting') (h : p ≠ q) : (s.handing q w).fe.queues[p] = s.fe.queues[p] :=
  (State.queue_updQueue_ne _ q p _ h).trans (State.queue_updQueue_ne s q p (·.carrying w.tokens (s.fe.queues[q].pool - w.tokens)) h)

/-- `pk.launch` passes its packet (R399). -/
theorem State.passed_handing {s : State} {q : QueueIx} {l : Level} (h : AtPacket s q l) (w : Waiting') : s.passed ((s.handing q w).packetDone 24) q l 24 := by
  have here := s.handing_queue q w
  refine State.passed_packetDone (t := s.handing q w) h rfl ?_ ?_ ?_ (fun p hp => s.handing_queue_ne w hp) 24
  · exact congrArg (fun x => x.exec.levels) here
  · exact (congrArg QueueState.sizelog here).trans (QueueState.carrying_sizelog ..)
  · exact (congrArg QueueState.frozen here).trans (QueueState.carrying_frozen ..)

theorem State.packetDone_handing {s : State} {q : QueueIx} (h : s.source = .queue q) (w : Waiting') :
    (s.handing q w).packetDone 24 = (s.handing q w).updQueue q fun x => { x with exec := x.exec.done (some (s.handing q w).fe.queues[q].ring) 24 } :=
  State.packetDone_queue (s := s.handing q w) h 24

/-- The queue after `pk.launch`: its tokens, the next serial number, what it has issued (R399). -/
theorem State.packetDone_handing_queue {s : State} {q : QueueIx} (h : s.source = .queue q) (w : Waiting') (hw : s.fe.queues[q].tokWas = none) :
    let x := s.fe.queues[q]
    let y := ((s.handing q w).packetDone 24).fe.queues[q]
    y.tokens.toNat = x.tokens.toNat - w.tokens ∧ y.exec.nextSerial = x.exec.nextSerial + 1 ∧ y.exec.issued = x.exec.issued ++ [(w.serial, 0)] := by
  have here := State.queue_updQueue (s.handing q w) q fun x => { x with exec := x.exec.done (some (s.handing q w).fe.queues[q].ring) 24 }
  rw [← State.packetDone_handing h, State.handing_queue] at here
  intro x y
  refine ⟨?_, ?_, ?_⟩
  · exact (congrArg (fun x => x.tokens.toNat) here).trans (QueueState.carrying_tokens _ _ hw)
  · exact congrArg (fun x => x.exec.nextSerial) here
  · exact congrArg (fun x => x.exec.issued) here

/-! ### Mode packets and refusals (R34, R62, R414) -/

theorem pkMode_of_running {s : State} {q : QueueIx} {n : LaunchNo} {k : Launch} (h : s.source = .queue q) (hk : s.launch? n = some k) (hs : k.stage ≠ .placed) (hc : k.cls = none)
    (tag : BitVec 32) (mode : BitVec 4) (u : Bool) : exec (.pkMode tag n mode u) s = .next ((s.modeRequest n mode u 1).packetDone 16) := by
  have running : (k.stage != .placed && k.cls.isNone) = true := by simp [hs, hc]
  change execPkMode tag n mode u s = _
  simp only [execPkMode, h, hk, running, if_true]

/-- A queue to whose pool tokens return (R399). -/
def QueueState.refilled (x : QueueState) (n : Nat) : QueueState := if n = 0 then x else { x with tokens := BitVec.ofNat 8 (min 255 (x.pool + n)), tokWas := none }

@[simp] theorem QueueState.refilled_exec (x : QueueState) (n : Nat) : (x.refilled n).exec = x.exec := by unfold QueueState.refilled; split <;> rfl
@[simp] theorem QueueState.refilled_frozen (x : QueueState) (n : Nat) : (x.refilled n).frozen = x.frozen := by unfold QueueState.refilled; split <;> rfl

theorem State.updQueue_id (s : State) (q : QueueIx) : s.updQueue q (fun x => x) = s := by
  have same : s.fe.queues.set q s.fe.queues[q] = s.fe.queues := Vector.set_getElem_self ..
  rw [State.updQueue, same]

theorem State.returnTokens_queue (s : State) (q : QueueIx) (n : Nat) : s.returnTokens (.queue q) n = s.updQueue q (·.refilled n) := by
  by_cases h : n = 0
  · subst h
    exact (s.updQueue_id q).symm
  · have filled : (fun x : QueueState => x.refilled n) = fun x => { x with tokens := BitVec.ofNat 8 (min 255 (x.pool + n)), tokWas := none } := funext fun x => if_neg h
    rw [filled]
    exact if_neg h

theorem Stream'.ended_of_issued {e : Stream'} {serial : Nat} {num : LaunchNo} (h : e.issued.contains (serial, num) = true) (tag : BitVec 32) :
    (e.ended serial num true tag).cancelled = e.cancelled ++ [serial] := by
  rw [Stream'.ended, h]
  rfl

/-- A stream that learns of a refusal (R414). -/
def Stream'.refusing (e : Stream') (w : Waiting') : Stream' := { e.ended w.serial 0 true w.tag with refused := e.refused ++ [w.serial] }

/-- The refused packet waits no more, its tokens are back, and its queue has learnt of it; the queue is not frozen yet (R414). -/
def State.refusing (s : State) (q : QueueIx) (w : Waiting') : State :=
  (({ s with fe := { s.fe with waiting := s.fe.waiting.filter (fun x => x != w) } } : State).updQueue q (·.refilled w.tokens)).updExec (.queue q) (·.refusing w)

theorem State.refusing_queue (s : State) (q : QueueIx) (w : Waiting') :
    (s.refusing q w).fe.queues[q.val] = { s.fe.queues[q].refilled w.tokens with exec := s.fe.queues[q].exec.refusing w } := by
  rw [State.refusing, State.updExec_queue, State.queue_updQueue, State.queue_updQueue, QueueState.refilled_exec]
  rfl

theorem launchRefused_unfrozen {s : State} {q : QueueIx} {a : BitVec 56} {w : Waiting'} (h : s.fe.waiting.find? (fun w => w.source == .queue q && w.packet == a) = some w)
    (hf : s.fe.queues[q].frozen = false) : exec (.launchRefused (.queue q) a) s = .next ((s.refusing q w).freezeQueue q 4 a.toNat w.tag false) := by
  have unfrozen : (s.refusing q w).fe.queues[q].frozen = false :=
    (congrArg QueueState.frozen (s.refusing_queue q w)).trans ((QueueState.refilled_frozen ..).trans hf)
  change execLaunchRefused (.queue q) a s = _
  rw [execLaunchRefused, h]
  dsimp only
  rw [State.returnTokens_queue]
  exact congrArg Host.Outcome.next (if_neg (ne_true_of_eq_false unfrozen))

theorem State.freezeQueue_launches (s : State) (q : QueueIx) (reason addr : Nat) (tag : BitVec 32) (skip : Bool) : (s.freezeQueue q reason addr tag skip).launches = s.launches := by
  obtain ⟨p, i, h⟩ := ((s.updQueue q fun x => { x with frozen := true, reason := BitVec.ofNat 8 reason, fault := BitVec.ofNat 56 addr, skipOnResume := skip }).faultRec none 4 reason 0
    false 0 addr tag.toNat 0).irq_only q
  rw [State.freezeQueue, h]
  rfl

/-- A queue that freezes: its state, and the FAULT record (R416). -/
theorem State.freezeQueue_told (s : State) (q : QueueIx) (reason addr : Nat) (tag : BitVec 32) (skip : Bool) :
    let t := s.freezeQueue q reason addr tag skip
    t.fe.queues[q.val] = { s.fe.queues[q] with frozen := true, reason := BitVec.ofNat 8 reason, fault := BitVec.ofNat 56 addr, skipOnResume := skip } ∧ s.logs t [0x08] ∧
      t.fe.waiting = s.fe.waiting ∧ t.fe.tryPlace = s.fe.tryPlace ∧ t.cores = s.cores ∧ t.dies = s.dies ∧ t.dram = s.dram ∧ t.hostMem = s.hostMem := by
  obtain ⟨p, i, h⟩ := ((s.updQueue q fun x => { x with frozen := true, reason := BitVec.ofNat 8 reason, fault := BitVec.ofNat 56 addr, skipOnResume := skip }).faultRec none 4 reason 0
    false 0 addr tag.toNat 0).irq_only q
  have here := State.queue_updQueue s q fun x => { x with frozen := true, reason := BitVec.ofNat 8 reason, fault := BitVec.ofNat 56 addr, skipOnResume := skip }
  rw [State.freezeQueue, h]
  exact ⟨here, State.logs_record .., rfl, rfl, rfl, rfl, rfl, rfl⟩

end Sys2Proof.Machine
end

section
/-! SUPPORT. Placement (R29, R33, R34, R77, R414, R415): what a placement try that succeeds leaves; then the statement O41. -/

namespace Sys2Proof.Machine

/-! ### Numbers and rectangles (R33, R415) -/

theorem State.freeNumber_congr {s t : State} (h : t.launches = s.launches) (fuel : Nat) (n : LaunchNo) : t.freeNumber fuel n = s.freeNumber fuel n := by
  induction fuel generalizing n with
  | zero => rfl
  | succ fuel ih => rw [State.freeNumber, State.freeNumber, h, ih]

/-- Outside a replay a launch takes the next free number. -/
theorem State.numberFor_live {s t : State} (live : t.tr.rpActive = false) (launches : t.launches = s.launches) (next : t.fe.nextLaunch = s.fe.nextLaunch) (rcb : BitVec 16) :
    t.numberFor rcb = s.freeNumber 65536 s.fe.nextLaunch := by
  have empty : t.recordsLeft 0x0C = [] := if_neg (ne_true_of_eq_false live)
  simp only [State.numberFor, empty, List.find?_nil, next]
  exact State.freeNumber_congr launches _ _

theorem State.occupied_of_rectFree {s : State} {i : Image} {ox oy : Nat} {asFree : Launch → Bool} (h : s.rectFree i ox oy asFree = true) {m : Launch} (hm : m ∈ s.launches)
    {c : CoreIx} (hc : c ∈ rectCores i ox oy) (ho : m.occupies c = true) : asFree m = true := by
  have free : ¬ s.launches.any (fun l => l.occupies c && !asFree l) = true := by simpa using List.all_eq_true.1 h c hc
  by_contra hn
  exact free (List.any_eq_true.2 ⟨m, hm, by rw [ho, Bool.eq_false_of_not_eq_true hn]; rfl⟩)

/-! ### One launch placed -/

/-- The launches of the module, with a newcomer's victims chosen (R77). -/
def State.choosing (s : State) (victims : List LaunchNo) (newcomer : LaunchNo) : List Launch :=
  s.launches.map fun v => if victims.contains v.num && v.chosen.isNone then { v with chosen := some ⟨s.tick + 24, newcomer⟩ } else v

/-- A newcomer that leaves no launch chosen has chosen none. -/
theorem State.choosing_of_unchosen {s : State} {victims : List LaunchNo} {n : LaunchNo} (h : ∀ k ∈ s.choosing victims n, k.chosen = none) :
    s.choosing victims n = s.launches ∧ ∀ v ∈ s.launches, v.num ∉ victims := by
  have spared (v : Launch) (hv : v ∈ s.launches) : ¬ (victims.contains v.num && v.chosen.isNone) = true := by
    intro hc
    have marked := h _ (List.mem_map.2 ⟨v, hv, if_pos hc⟩)
    cases marked
  refine ⟨(List.map_congr_left fun v hv => if_neg (spared v hv)).trans (List.map_id _), fun v hv hn => spared v hv ?_⟩
  have kept : v.chosen = none := h v (List.mem_map.2 ⟨v, hv, if_neg (spared v hv)⟩)
  simp [hn, kept]

/-- A launch has been placed on some cores, its victims chosen, with its PLACE record; nothing else has changed but the front end's books (R34, R77, R269). -/
structure Places (s : State) (w : Waiting') (rcb : BitVec 16) (cores : List CoreIx) (victims : List LaunchNo) (l : Launch) (t : State) : Prop where
  launches : t.launches = s.choosing victims (s.numberFor rcb) ++ [l]
  num : l.num = s.numberFor rcb
  stage : l.stage = .placed
  host : l.cls = none
  cores : l.cores = cores
  serial : l.serial = w.serial
  logs : s.logs t [0x0C]
  waiting : t.fe.waiting = s.fe.waiting
  only : t = { s with launches := t.launches, fe := t.fe, tr := t.tr }
  live : t.tr.rpActive = s.tr.rpActive

theorem State.placeAt_places {s t : State} {w : Waiting'} {sp : Spec} {img : Image} {setIx : Nat} {group : Option LaunchNo} {o : Nat × Nat} {victims : List LaunchNo}
    (h : s.placeAt w sp img setIx group o victims = .placed t) : ∃ l, Places s w sp.rcb.id (rectCores img o.1 o.2) victims l t := by
  simp only [State.placeAt] at h
  split at h
  · split at h
    · cases h
    · split at h
      · cases h
      · split at h
        · cases h
        · cases h
          exact ⟨_, rfl, rfl, rfl, rfl, rfl, rfl, by simp [State.logs, State.record], rfl, rfl, rfl⟩
  · cases h

/-- A launch is placed on cores that no host launch holds but those it chooses as its victims (R33, R77). -/
theorem State.placeOne_places {s t : State} {w : Waiting'} {sp : Spec} {group : Option LaunchNo} (h : s.placeOne w sp group = .placed t) :
    ∃ cores victims l, Places s w sp.rcb.id cores victims l t ∧ ∀ m ∈ s.launches, m.num ∉ victims → ∀ c ∈ cores, m.occupies c = false := by
  unfold State.placeOne at h
  split at h
  · cases h
  next img _ =>
    split at h
    · cases h
    · split at h
      · cases h
      · extract_lets possible mine lower at h
        clear_value possible lower
        split at h
        · cases h
        · split at h
          · cases h
          · split at h
            next o ho =>
              obtain ⟨l, hl⟩ := State.placeAt_places h
              refine ⟨_, _, l, hl, fun m hm _ c hc => ?_⟩
              have free := List.find?_some ho
              by_contra hn
              exact absurd (State.occupied_of_rectFree free hm hc (by simpa using hn)) Bool.false_ne_true
            next =>
              split at h
              · cases h
              · split at h
                · cases h
                next o ho =>
                  extract_lets victims at h
                  split at h
                  · obtain ⟨l, hl⟩ := State.placeAt_places h
                    refine ⟨_, _, l, hl, fun m hm hv c hc => ?_⟩
                    have free := List.find?_some ho
                    by_contra hn
                    have occupies : m.occupies c = true := by simpa using hn
                    have asFree := State.occupied_of_rectFree free hm hc occupies
                    exact hv (List.mem_map_of_mem (List.mem_filter.2 ⟨hm, Bool.and_eq_true_iff.2 ⟨asFree, List.any_eq_true.2 ⟨c, hc, occupies⟩⟩⟩))
                  · cases h

theorem placeAll_lone {s t : State} {w : Waiting'} {sp : Spec} {group : Option LaunchNo} (h : placeAll w [sp] group s = .placed t) : s.placeOne w sp group = .placed t := by
  unfold placeAll at h
  cases hp : s.placeOne w sp group with
  | placed u => rw [hp] at h; exact h
  | waits => rw [hp] at h; cases h
  | refused r => rw [hp] at h; cases h

theorem State.placePacket_places {s t : State} {w : Waiting'} {sp : Spec} (hw : w.specs = some [sp]) (h : s.placePacket w = .placed t) :
    ∃ cores victims l, Places s w sp.rcb.id cores victims l t ∧ ∀ m ∈ s.launches, m.num ∉ victims → ∀ c ∈ cores, m.occupies c = false := by
  unfold State.placePacket at h
  rw [hw] at h
  dsimp -zeta only at h
  extract_lets primax at h
  clear_value primax
  split at h
  · cases h
  · split at h
    · cases h
    · exact State.placeOne_places (placeAll_lone h)

/-! ### A packet settled (R29, R138, R399) -/

theorem State.returnTokens_only (s : State) (src : Source) (n : Nat) : ∃ q, s.returnTokens src n = { s with fe := { s.fe with queues := q } } := by
  cases src with
  | queue q => exact ⟨_, State.returnTokens_queue s q n⟩
  | graph g => exact ⟨_, rfl⟩

theorem State.updExec_only (s : State) (src : Source) (f : Stream' → Stream') : ∃ q g, s.updExec src f = { s with fe := { s.fe with queues := q, graphs := g } } := by
  cases src with
  | queue q => exact ⟨_, _, rfl⟩
  | graph g => exact ⟨_, _, rfl⟩

/-- The launches of a subtree keep no tokens. -/
def Launch.spent (group : LaunchNo) (l : Launch) : Launch := if l.group = group then { l with tokens := 0 } else l

/-- The origin tick of a lone newcomer that displaces nobody and waits for nobody: the multiple of 32,768 after the time that opening takes (R29). -/
def State.nextOrigin (s : State) : Nat := ((s.tick + Config.openDelay s.fresh) / 32768 + 1) * 32768

theorem State.nextOrigin_later (s : State) : s.tick < s.nextOrigin := by
  unfold State.nextOrigin
  omega

theorem State.nextOrigin_dvd (s : State) : s.nextOrigin % 32768 = 0 := Nat.mul_mod_left ..

/-- A lone newcomer of a new number, in a state with no launch chosen, outside a replay: the packet settles with the next origin tick for it, and nothing else has changed
but the front end's books. -/
theorem State.settlePlaced_lone {s : State} {w : Waiting'} {ls : List Launch} {l : Launch} (hl : s.launches = ls ++ [l]) (new : ∀ k ∈ ls, k.num ≠ l.num)
    (unchosen : ∀ k ∈ s.launches, k.chosen = none) (live : s.tr.rpActive = false) (first : s.aheadOf w.source w.serial = []) :
    ∃ q g, s.settlePlaced w (ls.map (·.num)) = { s with
      fresh := s.fresh + 1
      launches := (ls ++ [{ l with origin := s.nextOrigin }]).map (Launch.spent l.group)
      fe := { s.fe with queues := q, graphs := g } } := by
  unfold State.settlePlaced
  extract_lets newcomers displaces origin moved issued
  have lone : newcomers = [l] := by
    have old : ls.filter (fun k => !(ls.map (·.num)).contains k.num) = [] := List.filter_eq_nil_iff.2 fun k hk => by simpa using ⟨k, hk, rfl⟩
    have added : (!(ls.map (·.num)).contains l.num) = true := by simpa using new
    change s.launches.filter _ = [l]
    rw [hl, List.filter_append, old]
    exact (List.nil_append _).trans (List.filter_cons_of_pos added)
  have nobody : displaces = false := by
    refine List.any_eq_false.2 fun k hk => ?_
    rw [unchosen k hk]
    exact Bool.false_ne_true
  have originHere : s.recordedOrigin l.num (s.queueOrigin w.source w.serial origin) = s.nextOrigin := by
    have empty : s.recorded 0x01 = [] := if_neg (ne_true_of_eq_false live)
    simp only [State.recordedOrigin, empty, List.find?_nil, State.queueOrigin, first, List.any_nil, List.foldl_nil]
    rfl
  have placed : moved.launches = ls ++ [{ l with origin := s.nextOrigin }] := by
    have stays (k : Launch) (hk : k ∈ ls) : newcomers.any (fun m => m.num == k.num) = false := by
      rw [lone]
      simpa using (new k hk).symm
    have goes : newcomers.any (fun m => m.num == l.num) = true := by rw [lone]; simp
    change s.launches.map _ = _
    rw [hl, List.map_append, List.map_singleton, if_pos goes]
    refine congr (congrArg List.append ?_) (congrArg (fun x => [x]) ?_)
    · exact (List.map_congr_left fun k hk => if_neg (ne_true_of_eq_false (stays k hk))).trans (List.map_id' _)
    · rw [nobody, originHere]
      rfl
  obtain ⟨q, g, hissued⟩ := State.updExec_only moved w.source fun e => { e with issued := (e.issued.filter fun p => p != (w.serial, 0)) ++ newcomers.map fun l => (w.serial, l.num) }
  obtain ⟨q', hback⟩ := State.returnTokens_only issued w.source w.tokens
  refine ⟨q', g, ?_⟩
  rw [nobody, lone]
  change (issued.returnTokens w.source w.tokens).setTokens l.group 0 = _
  have same : issued = { s with fresh := s.fresh + 1, launches := ls ++ [{ l with origin := s.nextOrigin }], fe := { s.fe with queues := q, graphs := g } } := by
    rw [← placed]
    exact hissued
  rw [hback, same]
  rfl

/-! ### A placement attempt (R34) -/

/-- The call for another placement try is taken up (R34). -/
def State.trying (s : State) : State := { s with fe := { s.fe with tryPlace := false } }

theorem launchPlacement_tries (s : State) : exec .launchPlacement s = .next (tryPackets s.tryAgain s.fe.waiting [] s.trying) := rfl

/-- What waits and has been tried is not tried without a call for it. -/
theorem tryPackets_tried {ws : List Waiting'} (h : ∀ w ∈ ws, w.tried = true) (behind : List Source) (s : State) : tryPackets false ws behind s = s := by
  induction ws generalizing behind with
  | nil => rfl
  | cons w ws ih =>
    have tried : (behind.contains w.source || (w.tried && !false)) = true := by simp [h w (List.mem_cons_self ..)]
    rw [tryPackets, if_pos tried]
    exact ih (fun x hx => h x (List.mem_cons_of_mem _ hx)) _

/-- A packet has left the scheduling core. -/
def State.withoutWaiting (s : State) (w : Waiting') : State := { s with fe := { s.fe with waiting := s.fe.waiting.filter fun x => !(x.source == w.source && x.serial == w.serial) } }

section
variable {s t : State} {w : Waiting'} {again : Bool} (h : w.tried = false ∨ again = true)
include h

theorem tryPackets_placed (hp : s.placePacket w = .placed t) : tryPackets again [w] [] s = (t.withoutWaiting w).settlePlaced w (s.launches.map (·.num)) := by
  have due : ¬ (([] : List Source).contains w.source || (w.tried && !again)) = true := by rcases h with h | h <;> simp [h]
  rw [tryPackets, if_neg due, hp]
  rfl

theorem tryPackets_refused {r : Option Report} (hp : s.placePacket w = .refused r) : tryPackets again [w] [] s =
    { s.markTried w with todo := s.todo ++ [.event (.launchRefused w.source w.packet)], fe := { (s.markTried w).fe with reports := s.fe.reports ++ r.toList } } := by
  have due : ¬ (([] : List Source).contains w.source || (w.tried && !again)) = true := by rcases h with h | h <;> simp [h]
  rw [tryPackets, if_neg due, hp]
  rfl

end

theorem State.tryAgain_of {s : State} {b : Bool} (h : b = false ∨ s.fe.tryPlace = true ∨ s.tick % 32768 = 0) : b = false ∨ s.tryAgain = true := by
  rcases h with h | h | h <;> simp [State.tryAgain, h]

section
variable (group : LaunchNo) (l : Launch)

@[simp] theorem Launch.spent_stage : (l.spent group).stage = l.stage := by unfold Launch.spent; split <;> rfl
@[simp] theorem Launch.spent_origin : (l.spent group).origin = l.origin := by unfold Launch.spent; split <;> rfl
@[simp] theorem Launch.spent_cores : (l.spent group).cores = l.cores := by unfold Launch.spent; split <;> rfl

end

/-- A lone packet of one launch that is placed, in its new number, without a victim and with no launch of its queue ahead of it, outside a replay (R29, R34). -/
theorem State.placed_lone {s t : State} {w : Waiting'} {sp : Spec} (waiting : s.fe.waiting = [w]) (specs : w.specs = some [sp]) (live : s.tr.rpActive = false)
    (placed : s.trying.placePacket w = .placed t) (unchosen : ∀ k ∈ t.launches, k.chosen = none) (new : ∀ k ∈ s.launches, k.num ≠ s.freeNumber 65536 s.fe.nextLaunch)
    (first : s.aheadOf w.source w.serial = []) :
    ∃ k f n, (t.withoutWaiting w).settlePlaced w (s.launches.map (·.num)) = { s with launches := (s.launches ++ [k]).map (Launch.spent k.group), fe := f, tr := t.tr, fresh := n } ∧
      f.waiting = [] ∧ s.logs t [0x0C] ∧ k.stage = .placed ∧ k.origin = s.nextOrigin ∧ ∀ m ∈ s.launches, ∀ c ∈ k.cores, m.cls = none → c ∉ m.cores := by
  obtain ⟨cores, victims, l, hl, free⟩ := State.placePacket_places specs placed
  have number : l.num = s.freeNumber 65536 s.fe.nextLaunch := hl.num.trans (State.numberFor_live (s := s) (t := s.trying) live rfl rfl _)
  obtain ⟨same, spared⟩ := State.choosing_of_unchosen fun k hk => unchosen k (by rw [hl.launches]; exact List.mem_append_left _ hk)
  have launches : (t.withoutWaiting w).launches = s.launches ++ [l] := hl.launches.trans (congrArg (· ++ [l]) same)
  have ahead : (t.withoutWaiting w).aheadOf w.source w.serial = [] := by
    rw [State.aheadOf, launches, List.filter_append]
    refine List.append_eq_nil_iff.2 ⟨first, List.filter_eq_nil_iff.2 fun k hk => ?_⟩
    rw [List.mem_singleton.1 hk, hl.serial]
    simp
  obtain ⟨q, g, settled⟩ := State.settlePlaced_lone launches (fun k hk => by rw [number]; exact new k hk) unchosen (hl.live.trans live) ahead
  have only : t.withoutWaiting w = { s with launches := s.launches ++ [l], fe := (t.withoutWaiting w).fe, tr := t.tr } := by
    rw [← launches, State.withoutWaiting]
    conv_lhs => rw [hl.only]
    rfl
  have origin : (t.withoutWaiting w).nextOrigin = s.nextOrigin := by
    rw [State.nextOrigin, only]
    rfl
  have left : (t.withoutWaiting w).fe.waiting = [] := by
    have before : t.fe.waiting = [w] := hl.waiting.trans waiting
    change t.fe.waiting.filter _ = []
    rw [before]
    exact List.filter_cons_of_neg (by simp)
  refine ⟨{ l with origin := s.nextOrigin }, { (t.withoutWaiting w).fe with queues := q, graphs := g }, s.fresh + 1, ?_, left, hl.logs, hl.stage, rfl, ?_⟩
  · rw [settled, origin]
    conv_lhs => rw [only]
  · intro m hm c hc hcls hmc
    have mine : c ∈ cores := by
      rw [← hl.cores]
      exact hc
    have occupied : m.occupies c = true := by simpa [Launch.occupies, hcls] using hmc
    rw [free m hm (spared m hm) c mine] at occupied
    cases occupied

/-! ### O41 -/

/-- Settles O41: what each packet and each placement attempt leaves. That a refused packet's offending RCB is reported at all, and where, is the model's choice (log entry 49). -/
theorem launchPackets : Obligations.LaunchPackets := by
  intro s q l at'
  refine ⟨fun tag a n ht => ?launch, fun tag n mode u k hk hs hc hp hset => ?mode, fun a w hw hf hi => ?refused, fun w hw hspecs due => ?offends, fun tried still away => ?nothing,
    fun w sp t hw hspecs due cold live placed unchosen new first => ?placed⟩
  case launch =>
    refine ⟨_, pkLaunch_handed at'.source tag a n, ?_⟩
    have pool : s.fe.queues[q].pool = s.fe.queues[q].tokens.toNat := by rw [QueueState.pool, ht]; rfl
    have tokens : (s.handed q tag a n).tokens = min n.toNat s.fe.queues[q].tokens.toNat := congrArg (min n.toNat) pool
    obtain ⟨taken, serial, issued⟩ := State.packetDone_handing_queue at'.source (s.handed q tag a n) ht
    rw [tokens] at taken
    refine ⟨⟨s.handed q tag a n, ?_, rfl, rfl, rfl, rfl, tokens, rfl, ?_, ?_⟩, taken, serial, issued, State.passed_handing at' _, ?_, ?_⟩
    · rw [State.packetDone_handing at'.source]
      rfl
    · intro p specs h
      rw [State.handed, h]
      exact ⟨rfl, rfl⟩
    · intro b h
      rw [State.handed, h]
      exact ⟨rfl, rfl⟩
    all_goals rw [State.packetDone_handing at'.source]
    · exact ⟨rfl, rfl, rfl, rfl, rfl, rfl, rfl, rfl⟩
    · rfl
  case mode =>
    refine ⟨_, pkMode_of_running at'.source hk hs hc tag mode u, ?_⟩
    rw [State.modeRequest_granted hk (fun p h => by rw [hp] at h; cases h) hset u]
    have passed := State.passed_packetDone (t := s.updLaunch n (·.requested s.tick mode u 1)) at' rfl rfl rfl rfl (fun _ _ => rfl) 16
    refine ⟨?_, fun m hm => ?_, passed, ?_⟩
    all_goals rw [State.packetDone_queue (s := s.updLaunch n (·.requested s.tick mode u 1)) at'.source]
    · exact ⟨_, State.updLaunch_some s (fun _ => Launch.requested_num ..) hk, rfl, rfl⟩
    · exact State.launch?_updLaunch_ne s (fun _ => Launch.requested_num ..) hm
    · exact ⟨rfl, rfl, rfl, rfl, rfl⟩
  case refused =>
    refine ⟨_, launchRefused_unfrozen hw hf, ?_⟩
    obtain ⟨here, logs, waiting, tries, cores, dies, dram, host⟩ := (s.refusing q w).freezeQueue_told q 4 a.toNat w.tag false
    have exec := congrArg QueueState.exec (s.refusing_queue q w)
    refine ⟨congrArg QueueState.frozen here, congrArg QueueState.reason here, ?_, ?_, tries, ?_, logs, cores, dies, dram, host⟩
    · exact (congrArg QueueState.fault here).trans (BitVec.ofNat_toNat ..)
    · rw [waiting]
      exact fun h => by simpa using (List.mem_filter.1 h).2
    · have cancelled : (s.fe.queues[q].exec.refusing w).cancelled = s.fe.queues[q].exec.cancelled ++ [w.serial] := Stream'.ended_of_issued hi w.tag
      have told : ((s.refusing q w).freezeQueue q 4 a.toNat w.tag false).fe.queues[q].exec.cancelled = s.fe.queues[q].exec.cancelled ++ [w.serial] :=
        (congrArg (fun x => x.exec.cancelled) here).trans ((congrArg Stream'.cancelled exec).trans cancelled)
      rw [told]
      exact List.mem_append_right _ (List.mem_singleton_self _)
  case offends =>
    have refused : s.trying.placePacket w = .refused (w.offender.map .rcb) := by rw [State.placePacket, hspecs]
    have marked : (s.trying.markTried w).fe.waiting = [{ w with tried := true }] := by
      rw [State.markTried, show s.trying.fe.waiting = [w] from hw]
      exact congrArg (fun x => [x]) (if_pos (by simp))
    refine ⟨_, launchPlacement_tries s, ?_⟩
    rw [hw, tryPackets_refused (State.tryAgain_of due) refused]
    exact ⟨rfl, rfl, marked, rfl, ⟨rfl, rfl, rfl, rfl, rfl, rfl, rfl, rfl⟩, rfl⟩
  case nothing =>
    have again : s.tryAgain = false := by simp [State.tryAgain, still, away]
    have uncalled : s.trying = s := by rw [State.trying, ← still]
    rw [launchPlacement_tries, again, tryPackets_tried tried, uncalled]
  case placed =>
    obtain ⟨k, f, n, settled, left, logs, stage, origin, apart⟩ := State.placed_lone hw hspecs live placed unchosen new first
    refine ⟨_, launchPlacement_tries s, ?_⟩
    have placed : s.trying.placePacket w = .placed t := placed
    rw [hw, tryPackets_placed (State.tryAgain_of due) placed, show s.trying.launches = s.launches from rfl, settled]
    refine ⟨left, logs, rfl, rfl, rfl, rfl, k.spent k.group, ?_, ?_, ?_, ?_, ?_, ?_⟩
    · simp
    · simp
    · rw [Launch.spent_stage, stage]
    · rw [Launch.spent_origin, origin, State.nextOrigin_dvd]
    · rw [Launch.spent_origin, origin]
      exact s.nextOrigin_later
    · rw [Launch.spent_cores]
      exact apart

end Sys2Proof.Machine
end

section
/-! SUPPORT. Boundaries and switch points of a launch (R51, R59, R61 to R63, R75, R86): what an end entry, the end of a period, the end of a boundary freeze and a
switch point leave. -/

namespace Sys2Proof.Machine

/-! ### Which launch an entry is of (R51) -/

section
variable {s : State} {n : LaunchNo} {l : Launch}

theorem State.hostEntry?_launch {c : CoreIx} {q : SeqIx} {k : Nat} {e : TableEntry} (h : s.hostEntry? c q = some (l, k, e)) : s.launch? l.num = some l := by
  unfold State.hostEntry? at h
  split at h
  · cases h
  next m hm =>
    split at h
    · cases h
    · split at h
      · split at h
        · cases h
        · cases h
          exact State.coreLaunch?_some hm
      · cases h

/-! ### Boundary freezes and the next period (R51, R75) -/

/-- A boundary freeze begins with the launch's outstanding work noted, and nothing else (R75). -/
theorem State.beginBoundary_launch (h : s.launch? n = some l) (first : Nat) (after : AfterBoundary) (m : Launch) (hm : m.num = n) :
    ∃ b, (s.beginBoundary m first after).launch? n = some { l with boundary := some b } ∧ b.first = first ∧ b.after = after := by
  subst hm
  exact ⟨_, State.updLaunch_some s (f := fun l => { l with boundary := some ⟨first, after, s.outstanding m, s.tick⟩ }) (fun _ => rfl) h, rfl, rfl⟩

theorem OnlyLaunch.beginBoundary (s : State) (m : Launch) (first : Nat) (after : AfterBoundary) : OnlyLaunch m.num s (s.beginBoundary m first after) :=
  .of_updLaunch s (f := fun l => { l with boundary := some ⟨first, after, s.outstanding m, s.tick⟩ }) (fun _ => rfl) _

theorem State.nextInstance_launch (h : s.launch? n = some l) : (s.nextInstance n).launch? n = some { l with inst := l.inst + 1, instTick := s.tick } :=
  State.updLaunch_some s (f := fun l => { l with inst := l.inst + 1, instTick := s.tick }) (fun _ => rfl) h

theorem OnlyLaunch.nextInstance (s : State) (n : LaunchNo) : OnlyLaunch n s (s.nextInstance n) :=
  .of_updLaunch s (f := fun l => { l with inst := l.inst + 1, instTick := s.tick }) (fun _ => rfl) n

/-! ### The switch itself (R61 to R63) -/

/-- A launch in a new set, at position 0 of it. -/
def Launch.inSet (l : Launch) (k tick : Nat) : Launch := { l with setIx := k, setStart := l.ltime, inst := 0, instTick := tick, mcpAt := none }

@[simp] theorem Launch.inSet_num (l : Launch) (k tick : Nat) : (l.inSet k tick).num = l.num := rfl

/-- The switch changes the set of one launch, with its MODE record and, for another level, its THROTTLE record. -/
theorem State.switchSet_launch (h : s.launch? n = some l) (k src : Nat) (urgent : Bool) :
    (s.switchSet n k src urgent).launch? n = some (l.inSet k s.tick) ∧ OnlyLaunch n s (s.switchSet n k src urgent) ∧
      (s.logs (s.switchSet n k src urgent) [0x02] ∨ s.logs (s.switchSet n k src urgent) [0x02, 0x0B]) := by
  unfold State.switchSet
  rw [h]
  dsimp -zeta only
  extract_lets u
  have moved : u.launch? n = some (l.inSet k s.tick) := State.updLaunch_some s (f := (·.inSet k s.tick)) (fun _ => Launch.inSet_num ..) h
  have only : OnlyLaunch n s u := .of_updLaunch s (f := (·.inSet k s.tick)) (fun _ => Launch.inSet_num ..) n
  have sameTrace : u.tr = s.tr := rfl
  clear_value u
  rw [moved]
  dsimp only
  split
  · exact ⟨moved, only.trans (.of_tr n rfl), .inl ((State.logs_of_tr sameTrace).trans (State.logs_record ..))⟩
  · exact ⟨moved, only.trans (.of_tr n rfl), .inr ((State.logs_of_tr sameTrace).trans ((State.logs_record ..).trans (State.logs_record ..)))⟩

/-! ### Entries at the end, and the ends of instances and of boundary freezes (R51, R59, R75) -/

/-- A launch that no boundary freeze holds any more, with the FREEZE record (R73, R75). -/
def State.boundaryDone (s : State) (n : LaunchNo) (first : Nat) : State := (s.freezeRec n (2 ^ 4) first).updLaunch n fun l => { l with boundary := none }

theorem State.boundaryDone_launch (h : s.launch? n = some l) (first : Nat) : (s.boundaryDone n first).launch? n = some { l with boundary := none } :=
  State.updLaunch_some (s.freezeRec n (2 ^ 4) first) (f := fun l => { l with boundary := none }) (fun _ => rfl) h

theorem State.boundaryDone_only (s : State) (n : LaunchNo) (first : Nat) : OnlyLaunch n s (s.boundaryDone n first) ∧ s.logs (s.boundaryDone n first) [0x06] := by
  have freed : OnlyLaunch n (s.freezeRec n (2 ^ 4) first) (s.boundaryDone n first) := .of_updLaunch _ (f := fun l => { l with boundary := none }) (fun _ => rfl) n
  exact ⟨(OnlyLaunch.of_tr n rfl).trans freed, State.logs_record ..⟩

section
variable {c : CoreIx} {q : SeqIx} {k : Nat} {e : TableEntry} (h : s.hostEntry? c q = some (l, k, e)) (he : e.isEnd = true)
include h he

theorem entryDue_end_freezes (hf : s.needsFreeze l = true) : exec (.entryDue c q) s = .next (s.beginBoundary l s.tick .retire) := by
  change execEntryDue c q s = _
  rw [execEntryDue, h]
  exact (if_pos he).trans (if_pos hf)

theorem entryDue_end_retires (hf : s.needsFreeze l = false) : exec (.entryDue c q) s = .next (s.endLaunch l.num false) := by
  change execEntryDue c q s = _
  rw [execEntryDue, h]
  exact (if_pos he).trans (if_neg (ne_true_of_eq_false hf))

end

section
variable {u : TableSet} (h : s.launch? n = some l) (ht : l.timeHeld s.tick = false) (hu : l.set? = some u) (hp : l.inPeriod = u.period)
include ht hu hp

theorem State.atBoundary_of_period : s.atBoundary l = true := by simp [State.atBoundary, ht, hu, hp]

include h

theorem instanceBoundary_next (hf : s.needsFreeze l = false) : exec (.instanceBoundary n) s = .next (s.nextInstance n) := by
  have here : ¬ (!s.atBoundary l) = true := by rw [State.atBoundary_of_period ht hu hp]; exact Bool.false_ne_true
  change execInstanceBoundary n s = _
  rw [execInstanceBoundary, h]
  exact (if_neg here).trans (if_neg (ne_true_of_eq_false hf))

theorem instanceBoundary_freezes (hf : s.needsFreeze l = true) : exec (.instanceBoundary n) s = .next (s.beginBoundary l s.tick .nextInst) := by
  have here : ¬ (!s.atBoundary l) = true := by rw [State.atBoundary_of_period ht hu hp]; exact Bool.false_ne_true
  change execInstanceBoundary n s = _
  rw [execInstanceBoundary, h]
  exact (if_neg here).trans (if_pos hf)

end

theorem boundaryFreezeEnd_over {b : Boundary} (h : s.launch? n = some l) (hb : l.boundary = some b) (ho : s.boundaryOver l = true) :
    exec (.boundaryFreezeEnd n) s = .next ((s.boundaryDone n b.first).afterBoundary n b.after) := by
  have due : ¬ (!s.boundaryOver l) = true := by rw [ho]; exact Bool.false_ne_true
  change execBoundaryFreezeEnd n s = _
  rw [execBoundaryFreezeEnd, h]
  dsimp only
  rw [hb]
  exact if_neg due

/-! ### Switch points (R61 to R63, R75, R86) -/

/-- A launch past its switch point: no urgent switch waits, and the position is noted. -/
def Launch.pastSwitch (l : Launch) : Launch := { l with urgentFrom := none, mcpAt := some l.position }

@[simp] theorem Launch.pastSwitch_num (l : Launch) : l.pastSwitch.num = l.num := rfl

/-- The FREEZE record of the drains of an urgent switch that no boundary freeze follows (R86). -/
def State.drainsRec (s : State) (n : LaunchNo) (l : Launch) (first : Nat) : State := if l.urgentFrom.isSome then s.freezeRec n (2 ^ 4) first else s

theorem State.drainsRec_only (s : State) (n : LaunchNo) (l : Launch) (first : Nat) : OnlyLaunch n s (s.drainsRec n l first) ∧ (s.drainsRec n l first).launches = s.launches ∧
    s.logs (s.drainsRec n l first) (if l.urgentFrom.isSome then [0x06] else []) := by
  unfold State.drainsRec
  split
  · exact ⟨.of_tr n rfl, rfl, State.logs_record ..⟩
  · exact ⟨.refl n s, rfl, State.logs_of_tr rfl⟩

/-- Nothing is held: the launch goes on past the switch point, after the record of its drains. -/
theorem State.pastSwitch_launch {t : State} {l' : Launch} (only : OnlyLaunch n s t) (hl : t.launch? n = some l') (l : Launch) :
    let u := (t.updLaunch n Launch.pastSwitch).drainsRec n l (l.urgentFrom.getD s.tick)
    u.launch? n = some l'.pastSwitch ∧ OnlyLaunch n s u ∧ t.logs u (if l.urgentFrom.isSome then [0x06] else []) := by
  have past : (t.updLaunch n Launch.pastSwitch).launch? n = some l'.pastSwitch := State.updLaunch_some t Launch.pastSwitch_num hl
  obtain ⟨keeps, launches, logs⟩ := State.drainsRec_only (t.updLaunch n Launch.pastSwitch) n l (l.urgentFrom.getD s.tick)
  exact ⟨(State.launch?_congr launches n).trans past, (only.trans (.of_updLaunch t Launch.pastSwitch_num n)).trans keeps, logs⟩

section
variable {t : State} {after : AfterBoundary} {l' : Launch} (h : s.launch? n = some l) (hp : s.atSwitchPoint l = true) (ha : s.atSwitch l = some (t, after))
include h hp ha

theorem switchPoint_freezes (hf : s.needsFreeze l = true) :
    exec (.switchPoint n) s = .next ((t.updLaunch n Launch.pastSwitch).beginBoundary l (l.urgentFrom.getD s.tick) after) := by
  have here : ¬ (!s.atSwitchPoint l) = true := by rw [hp]; exact Bool.false_ne_true
  change execSwitchPoint n s = _
  rw [execSwitchPoint, h]
  refine (if_neg here).trans ?_
  rw [ha]
  exact if_pos hf

theorem switchPoint_at_once (hf : s.needsFreeze l = false) :
    ∃ x, exec (.switchPoint n) s = .next { ((t.updLaunch n Launch.pastSwitch).drainsRec n l (l.urgentFrom.getD s.tick)).afterBoundary n after with todo := x } := by
  have here : ¬ (!s.atSwitchPoint l) = true := by rw [hp]; exact Bool.false_ne_true
  have queued (u : State) : ∃ x, (if s.phase = .waits then { u with todo := u.todo ++ u.entryDues.map Work.event } else u) = { u with todo := x } := by
    split
    · exact ⟨_, rfl⟩
    · exact ⟨_, rfl⟩
  obtain ⟨x, hx⟩ := queued (((t.updLaunch n Launch.pastSwitch).drainsRec n l (l.urgentFrom.getD s.tick)).afterBoundary n after)
  refine ⟨x, ?_⟩
  change execSwitchPoint n s = _
  rw [execSwitchPoint, h]
  refine (if_neg here).trans ?_
  rw [ha]
  exact (if_neg (ne_true_of_eq_false hf)).trans (congrArg Host.Outcome.next hx)

section
variable (only : OnlyLaunch n s t) (hl : t.launch? n = some l')
include only hl

theorem switchPoint_frozen (hf : s.needsFreeze l = true) : ∃ u b, exec (.switchPoint n) s = .next u ∧ u.launch? n = some { l'.pastSwitch with boundary := some b } ∧
    b.first = l.urgentFrom.getD s.tick ∧ b.after = after ∧ OnlyLaunch n s u ∧ u.tr = t.tr := by
  have num := State.launch?_num h
  have past : (t.updLaunch n Launch.pastSwitch).launch? n = some l'.pastSwitch := State.updLaunch_some t Launch.pastSwitch_num hl
  obtain ⟨b, here, first, next⟩ := State.beginBoundary_launch past (l.urgentFrom.getD s.tick) after l num
  refine ⟨_, b, switchPoint_freezes h hp ha hf, here, first, next, ?_, rfl⟩
  exact (only.trans (.of_updLaunch t Launch.pastSwitch_num n)).trans (num ▸ OnlyLaunch.beginBoundary ..)

theorem switchPoint_resumed (hr : after = .resume) (hf : s.needsFreeze l = false) : ∃ u, exec (.switchPoint n) s = .next u ∧ u.launch? n = some l'.pastSwitch ∧ OnlyLaunch n s u ∧
    t.logs u (if l.urgentFrom.isSome then [0x06] else []) := by
  subst hr
  obtain ⟨x, step⟩ := switchPoint_at_once h hp ha hf
  obtain ⟨here, keeps, logs⟩ := State.pastSwitch_launch only hl l
  exact ⟨_, step, here, keeps.trans (.of_tr n rfl), logs⟩

theorem switchPoint_switched {k src : Nat} {urgent : Bool} (hr : after = .switch k src urgent) (hf : s.needsFreeze l = false) :
    ∃ u, exec (.switchPoint n) s = .next u ∧ u.launch? n = some (l'.pastSwitch.inSet k s.tick) ∧ OnlyLaunch n s u ∧
      (t.logs u ((if l.urgentFrom.isSome then [0x06] else []) ++ [0x02]) ∨ t.logs u ((if l.urgentFrom.isSome then [0x06] else []) ++ [0x02, 0x0B])) := by
  subst hr
  obtain ⟨x, step⟩ := switchPoint_at_once h hp ha hf
  obtain ⟨here, keeps, logs⟩ := State.pastSwitch_launch only hl l
  obtain ⟨moved, set, told⟩ := State.switchSet_launch here k src urgent
  rw [keeps.tick] at moved
  exact ⟨_, step, moved, (keeps.trans set).trans (.of_tr n rfl), told.imp logs.trans logs.trans⟩

end

end

theorem switchPoint_lost (h : s.launch? n = some l) (hp : s.atSwitchPoint l = true) (ha : s.atSwitch l = none) : exec (.switchPoint n) s = .next (s.healthCancel n) := by
  have here : ¬ (!s.atSwitchPoint l) = true := by rw [hp]; exact Bool.false_ne_true
  change execSwitchPoint n s = _
  rw [execSwitchPoint, h]
  refine (if_neg here).trans ?_
  rw [ha]

/-! ### What a switch point comes to (R39, R61 to R63) -/

/-- The requests that the switch point has acted on are no longer pending. -/
def State.clearing (s : State) (n : LaunchNo) : State := s.updLaunch n (·.clearAsked s.tick)

theorem Launch.clearAsked_num (l : Launch) (tick : Nat) : (l.clearAsked tick).num = l.num := rfl

theorem State.clearing_launch (h : s.launch? n = some l) : (s.clearing n).launch? n = some (l.clearAsked s.tick) :=
  State.updLaunch_some s (fun m => m.clearAsked_num s.tick) h

theorem OnlyLaunch.clearing (s : State) (n : LaunchNo) : OnlyLaunch n s (s.clearing n) := .of_updLaunch s (fun m => m.clearAsked_num s.tick) n

theorem State.atSwitch_unasked (h : l.asked s.tick = none) : s.atSwitch l = some (s, .resume) := by rw [State.atSwitch, h]

section
variable {a : BitVec 4 × BitVec 2} (h : l.asked s.tick = some a)
include h

theorem State.atSwitch_other {j : Nat} (hj : l.setFor a.1 a.2 s.chmask = some j) (hne : j ≠ l.setIx) :
    s.atSwitch l = some (s.clearing l.num, .switch j (l.askedBy s.tick).1 (l.askedBy s.tick).2) := by
  rw [State.atSwitch, h]
  dsimp only
  rw [hj]
  exact if_neg hne

theorem State.atSwitch_lost (hj : l.setFor a.1 a.2 s.chmask = none) (hm : l.chmaskNew = true) (hn : l.setFor l.current.1 l.current.2 s.chmask = none) :
    s.atSwitch l = none := by
  rw [State.atSwitch, h]
  dsimp only
  rw [hj]
  refine (if_neg (by rw [hm]; exact Bool.false_ne_true)).trans ?_
  rw [hn]

/-- The record of a request that a switch point does not follow. -/
def State.requestRec (s : State) (l : Launch) (a : BitVec 4 × BitVec 2) (status : Nat) : State :=
  if l.pendMode.isSome || l.pendLevel.isSome then s.modeRec l.num l.current a status (l.askedBy s.tick).1 (l.askedBy s.tick).2 else s

theorem State.atSwitch_same (hj : l.setFor a.1 a.2 s.chmask = some l.setIx ∨ (l.setFor a.1 a.2 s.chmask = none ∧ l.chmaskNew = false)) :
    ∃ status, s.atSwitch l = some ((s.requestRec l a status).clearing l.num, .resume) := by
  rw [State.atSwitch, h]
  dsimp only
  rcases hj with hj | ⟨hj, hm⟩
  · refine ⟨3, ?_⟩
    rw [hj]
    exact if_pos (rfl : l.setIx = l.setIx)
  · have refused : (!l.chmaskNew) = true := by rw [hm]; rfl
    refine ⟨2, ?_⟩
    rw [hj]
    exact if_pos refused

end

theorem State.requestRec_only (s : State) (n : LaunchNo) (l : Launch) (a : BitVec 4 × BitVec 2) (status : Nat) : OnlyLaunch n s (s.requestRec l a status) ∧
    (s.requestRec l a status).launches = s.launches ∧ s.logs (s.requestRec l a status) (if l.pendMode.isSome || l.pendLevel.isSome then [0x02] else []) := by
  unfold State.requestRec
  split
  · exact ⟨.of_tr n rfl, rfl, State.logs_record ..⟩
  · exact ⟨.refl n s, rfl, State.logs_of_tr rfl⟩

end

end Sys2Proof.Machine
end

section
/-! SUPPORT. Entries that come due (R51, R54, R57, R58, R60): what the start of an activation leaves, and a window that opens. -/

namespace Sys2Proof.Machine

/-! ### A block as it starts (R199) -/

/-- A block keeps its address and its age. -/
def BlockRun.sameStart (x y : BlockRun) : Prop := y.addr = x.addr ∧ y.age = x.age

theorem BlockRun.sameStart_ite {r x y : BlockRun} {p : Prop} [Decidable p] (hx : r.sameStart x) (hy : r.sameStart y) : r.sameStart (if p then x else y) := by
  split
  · exact hx
  · exact hy

theorem BlockRun.arrive_start (r : BlockRun) (t : Target) (v : Word) : r.sameStart (r.arrive t v) := by
  cases t with
  | null => exact ⟨rfl, rfl⟩
  | left i => exact sameStart_ite ⟨rfl, rfl⟩ (sameStart_ite ⟨rfl, rfl⟩ ⟨rfl, rfl⟩)
  | right i => exact sameStart_ite ⟨rfl, rfl⟩ (sameStart_ite ⟨rfl, rfl⟩ ⟨rfl, rfl⟩)
  | gate i => exact sameStart_ite ⟨rfl, rfl⟩ (sameStart_ite ⟨rfl, rfl⟩ ⟨rfl, rfl⟩)
  | slot w => exact sameStart_ite ⟨rfl, rfl⟩ ⟨rfl, rfl⟩

theorem BlockRun.foldl_start {α : Type} {f : BlockRun → α → BlockRun} (hf : ∀ (r : BlockRun) a, r.sameStart (f r a)) (l : List α) (r : BlockRun) : r.sameStart (l.foldl f r) := by
  induction l generalizing r with
  | nil => exact ⟨rfl, rfl⟩
  | cons a l ih =>
    obtain ⟨addr, age⟩ := hf r a
    obtain ⟨addr', age'⟩ := ih (f r a)
    exact ⟨addr'.trans addr, age'.trans age⟩

/-- A block starts at its address, at age 0. -/
theorem State.openBlock_start (s : State) (c : CoreIx) (addr : BitVec 24) (q : SeqIx) (g : Vector Word 64) :
    (s.openBlock c addr q g).addr = addr ∧ (s.openBlock c addr q g).age = 0 := by
  unfold State.openBlock
  extract_lets w len wregs r
  split
  · exact ⟨rfl, rfl⟩
  · split
    · exact ⟨rfl, rfl⟩
    · refine BlockRun.foldl_start (fun r k => ?_) _ r
      dsimp only
      split
      · split
        · exact BlockRun.arrive_start ..
        · exact ⟨rfl, rfl⟩
      · exact ⟨rfl, rfl⟩

/-! ### Reads for no launch, and changes of one sequencer -/

/-- Reads for no launch leave records and marks of errors, and nothing else (R121). -/
theorem State.softRead_only (s : State) (pw : Word) (space : Fin 10) (place a n : Nat) : ∃ tr ecc, s.softRead pw none space place a n = { s with tr := tr, ecc := ecc } := by
  have all {f : State → EccMark → State} (hf : ∀ s m, ∃ tr ecc, f s m = { s with tr := tr, ecc := ecc }) (ms : List EccMark) (s : State) :
      ∃ tr ecc, ms.foldl f s = { s with tr := tr, ecc := ecc } := by
    induction ms generalizing s with
    | nil => exact ⟨_, _, rfl⟩
    | cons m ms ih =>
      obtain ⟨tr, ecc, h⟩ := hf s m
      obtain ⟨tr', ecc', h'⟩ := ih { s with tr := tr, ecc := ecc }
      exact ⟨tr', ecc', by rw [List.foldl_cons, h, h']⟩
  refine all (fun s m => ?_) _ s
  dsimp only
  split
  · exact ⟨_, _, rfl⟩
  · exact ⟨_, _, rfl⟩

theorem State.sameMemory_updSeq (s : State) (c : CoreIx) (q : SeqIx) (f : SeqState → SeqState) : s.sameMemory (s.updSeq c q f) := by
  have core (d : CoreIx) := s.core_updCtx c d fun x => { x with seqs := x.seqs.set q (f x.seqs[q]) }
  have tiles (d : CoreIx) : ((s.updSeq c q f).ctx d).tiles = (s.ctx d).tiles := by
    rw [State.ctx, State.updSeq, core]
    split <;> rfl
  refine ⟨fun d a => ?_, fun d a => ?_, fun d a => ?_, fun d a => ?_, fun d a => by rw [tiles], fun _ _ => rfl, fun _ _ => rfl, fun _ => rfl, fun _ => rfl⟩
  all_goals rw [State.updSeq, core]

theorem State.updSeq_updSeq (s : State) (c : CoreIx) (q : SeqIx) (f g : SeqState → SeqState) : (s.updSeq c q f).updSeq c q g = s.updSeq c q (g ∘ f) := by
  simp [State.updSeq, State.updCtx, State.updCore, State.setCore, State.core, Vector.set_set]

/-! ### An activation as it starts (R57, R199) -/

/-- A sequencer that has started an activation with its first block. -/
def SeqState.started (x : SeqState) (a : Activation) (block : BitVec 24) (r : BlockRun) : SeqState :=
  { x with g := x.g.set 63 a.arg, act := some a, commits := 0, actEntry := a.entry, actFirst := block, held := none, loops := [], run := some r, succ := none, succLoop := false,
           actCur := block }

/-- The start of an activation changes its sequencer, and leaves the records of the errors that the read of its block meets. -/
theorem State.startActivation_only (s : State) (c : CoreIx) (q : SeqIx) (a : Activation) (block : BitVec 24) (g : Vector Word 64) :
    ∃ r tr ecc, r.addr = block ∧ r.age = 0 ∧ s.startActivation c q a block g = ({ s with tr := tr, ecc := ecc } : State).updSeq c q (·.started a block r) ∧
      (s.ecc = [] → tr = s.tr) := by
  unfold State.startActivation State.startBlock
  extract_lets u r v
  obtain ⟨addr, age⟩ := u.openBlock_start c block q (g.set 63 a.arg)
  obtain ⟨tr, ecc, hv⟩ := u.softRead_only (u.placeCore (u.core c).launch c q) 4 c block.toNat (36 + 4 * r.len)
  refine ⟨r, tr, ecc, addr, age, ?_, fun clean => ?_⟩
  · have read : v = ({ s with tr := tr, ecc := ecc } : State).updSeq c q fun x =>
      { x with g := x.g.set 63 a.arg, act := some a, commits := 0, actEntry := a.entry, actFirst := block, held := none, loops := [] } := hv
    rw [read, State.updSeq_updSeq]
    rfl
  · have same : v = u := State.softRead_of_clean (s := u) clean ..
    exact (congrArg State.tr (hv.symm.trans same))

/-- The entry's activation, with its first block, on its sequencer; every other sequencer, every launch and every memory stands (R57). -/
structure StartsEntry (s : State) (c : CoreIx) (q : SeqIx) (a : Activation) (e : TableEntry) (t : State) : Prop where
  seq : ∃ r, r.addr = e.block ∧ r.age = 0 ∧ t.seq c q = (s.seq c q).started a e.block r
  others : ∀ d r, (d, r) ≠ (c, q) → t.seq d r = s.seq d r
  launches : t.launches = s.launches
  clean : s.ecc = [] → t.tr = s.tr
  memory : s.sameMemory t

theorem State.startEntry_starts {s : State} {c : CoreIx} {q : SeqIx} (free : (s.seq c q).act = none) (l : Launch) (k : Nat) (e : TableEntry) (cap : Option Nat) :
    StartsEntry s c q (s.activation l k e cap) e (s.startEntry c q l k e cap) := by
  have idle : ¬ (s.seq c q).act.isSome = true := by rw [free]; exact Bool.false_ne_true
  have opened : s.startEntry c q l k e cap =
      State.startActivation { s with fe := { s.fe with actSerial := s.fe.actSerial + 1 } } c q (s.activation l k e cap) e.block (s.seq c q).g := if_neg idle
  obtain ⟨r, tr, ecc, addr, age, started, clean⟩ := State.startActivation_only { s with fe := { s.fe with actSerial := s.fe.actSerial + 1 } } c q (s.activation l k e cap) e.block
    (s.seq c q).g
  rw [opened, started]
  refine ⟨⟨r, addr, age, State.seq_updSeq ..⟩, fun d p hd => ?_, rfl, clean, State.sameMemory_updSeq (State.mk ..) c q _⟩
  refine State.seq_updSeq_ne (State.mk ..) c d q p _ ?_
  by_contra h
  simp only [not_or, not_not] at h
  exact hd (Prod.ext h.1 h.2)

/-! ### Entries of a launch and of the generated launch in its window (R51, R60) -/

section
variable {s : State} {c : CoreIx} {q : SeqIx} {l g : Launch} {k : Nat} {e : TableEntry}

theorem entryDue_host (h : s.hostEntry? c q = some (l, k, e)) (he : e.isEnd = false) (hs : e.policyS = false) : exec (.entryDue c q) s = .next (s.startEntry c q l k e none) := by
  change execEntryDue c q s = _
  rw [execEntryDue, h]
  exact (if_neg (ne_true_of_eq_false he)).trans (if_neg (ne_true_of_eq_false hs))

theorem entryDue_guest {w : WindowBind} (h : s.hostEntry? c q = none) (hg : s.guestEntry? c q = some (g, k, e)) (hw : g.window = some w) :
    exec (.entryDue c q) s = .next (s.startEntry c q g k e (some w.deadline)) := by
  change execEntryDue c q s = _
  rw [execEntryDue, h]
  dsimp only
  rw [hg, ← show g.window.map WindowBind.deadline = some w.deadline by rw [hw]; rfl]

theorem entryDue_sporadic (h : s.hostEntry? c q = some (l, k, e)) (he : e.isEnd = false) (hs : e.policyS = true) : exec (.entryDue c q) s = .next (s.openWindow c q l e) := by
  change execEntryDue c q s = _
  rw [execEntryDue, h]
  exact (if_neg (ne_true_of_eq_false he)).trans (if_pos hs)

/-! ### A window that opens (R58, R60) -/

/-- Whether a generated launch may take a window: it is of the entry's class, has none yet, has been pending for 1,024 ticks, and its graph is bound to the window's launch. -/
def State.pends (s : State) (l : Launch) (e : TableEntry) (g : Launch) : Bool :=
  g.cls == some (e.arg.setWidth 8) && g.window.isNone && decide (g.pendingFrom + 1024 ≤ s.tick) &&
    (match g.source with | .graph x => (match s.fe.graphs[x].bind (·.binding) with | some (_, m) => m == l.num | none => false) | .queue _ => false)

/-- A generated launch that runs in a window from this tick on. -/
def Launch.inWindow (g : Launch) (w : WindowBind) (tick : Nat) : Launch := { g with window := some w, stage := .running, origin := tick, instTick := tick, ltime := 0 }

@[simp] theorem Launch.inWindow_num (g : Launch) (w : WindowBind) (tick : Nat) : (g.inWindow w tick).num = g.num := rfl

/-- The window of a sporadic entry. -/
def Launch.windowOf (l : Launch) (c : CoreIx) (q : SeqIx) (e : TableEntry) : WindowBind := ⟨l.num, c, q, l.ltime.toNat, l.instTick + e.deadline⟩

theorem State.launchRec_only (s : State) (l : Launch) : ∃ x, s.launchRec l = { s with tr := (s.launchRec l).tr, fe := { s.fe with queues := x } } := by
  unfold State.launchRec
  split
  dsimp only
  split
  · exact ⟨_, rfl⟩
  · exact ⟨_, rfl⟩

theorem State.launchRec_logs (s : State) (l : Launch) : s.logs (s.launchRec l) [0x01] := by
  unfold State.launchRec
  split
  dsimp only
  split
  · exact State.logs_record ..
  · exact State.logs_record ..

/-- A launch starts in the window of a sporadic entry, with its LAUNCH record (R60). -/
def State.enterWindow (s : State) (g : Launch) (w : WindowBind) : State := (s.updLaunch g.num (·.inWindow w s.tick)).launchRec (g.inWindow w s.tick)

theorem State.enterWindow_launch (h : s.launch? g.num = some g) (w : WindowBind) : (s.enterWindow g w).launch? g.num = some (g.inWindow w s.tick) := by
  obtain ⟨x, hx⟩ := State.launchRec_only (s.updLaunch g.num (·.inWindow w s.tick)) (g.inWindow w s.tick)
  rw [State.enterWindow, hx]
  exact State.updLaunch_some s (fun m => m.inWindow_num w s.tick) h

theorem State.enterWindow_others (s : State) (g : Launch) (w : WindowBind) {m : LaunchNo} (h : m ≠ g.num) : (s.enterWindow g w).launch? m = s.launch? m := by
  obtain ⟨x, hx⟩ := State.launchRec_only (s.updLaunch g.num (·.inWindow w s.tick)) (g.inWindow w s.tick)
  rw [State.enterWindow, hx]
  exact State.launch?_updLaunch_ne s (fun m => m.inWindow_num w s.tick) h

theorem State.enterWindow_machine (s : State) (g : Launch) (w : WindowBind) : (s.enterWindow g w).cores = s.cores ∧ (s.enterWindow g w).ecc = s.ecc ∧ s.logs (s.enterWindow g w) [0x01] := by
  obtain ⟨x, hx⟩ := State.launchRec_only (s.updLaunch g.num (·.inWindow w s.tick)) (g.inWindow w s.tick)
  refine ⟨?_, ?_, State.launchRec_logs (s.updLaunch g.num (·.inWindow w s.tick)) _⟩
  all_goals rw [State.enterWindow, hx]; rfl

section
variable (live : s.tr.rpActive = false)
include live

/-- Outside a replay a window takes the first launch that pends for it. -/
theorem State.openWindow_none (h : s.launches.find? (s.pends l e) = none) : s.openWindow c q l e = s := by
  unfold State.openWindow
  extract_lets fits
  have same : fits = s.pends l e := funext fun m => congrArg (fun b => m.cls == some (e.arg.setWidth 8) && m.window.isNone && b && _) (if_neg (ne_true_of_eq_false live))
  rw [same, h]

theorem State.openWindow_opens {i : Nat} {f : TableEntry} (h : s.launches.find? (s.pends l e) = some g) (here : s.launch? g.num = some g)
    (budget : budgetsHold (s.usesNow ++ [(g.path, g.img.uses)]) = true) (first : entryAt g.guestTable 0 = some (i, f)) :
    s.openWindow c q l e =
      (s.enterWindow g (l.windowOf c q e)).startEntry c q (g.inWindow (l.windowOf c q e) s.tick) i f (some (l.windowOf c q e).deadline) := by
  unfold State.openWindow
  extract_lets fits w
  have same : fits = s.pends l e := funext fun m => congrArg (fun b => m.cls == some (e.arg.setWidth 8) && m.window.isNone && b && _) (if_neg (ne_true_of_eq_false live))
  rw [same, h]
  have within : ¬ (!budgetsHold (s.usesNow ++ [(g.path, g.img.uses)])) = true := by rw [budget]; exact Bool.false_ne_true
  refine (if_neg within).trans ?_
  extract_lets u v
  have bound : u.launch? g.num = some (g.inWindow (l.windowOf c q e) s.tick) := State.updLaunch_some s (fun m => m.inWindow_num (l.windowOf c q e) s.tick) here
  have entered : v = s.enterWindow g (l.windowOf c q e) := by
    change (match u.launch? g.num with | some g => u.launchRec g | none => u) = _
    rw [bound]
    rfl
  rw [entered, State.enterWindow_launch here, first]
  rfl

end

end

end Sys2Proof.Machine
end

section
/-! SUPPORT. The origin tick (R29, R53, R96, R115): what makes the cores of a rectangle ready, what clears the Pantry partitions, and what the launch itself becomes; then the
statement O44. -/

namespace Sys2Proof.Machine

/-! ### A launch refused as it is to start (R115, R416) -/

theorem State.refuseAtOrigin_ends {s : State} {l : Launch} (h : s.launch? l.num = some l) :
    (s.refuseAtOrigin l).launch? l.num = none ∧ (s.refuseAtOrigin l).fe.tryPlace = true := by
  have told : ∃ u : State, u.launches = s.launches ∧ s.refuseAtOrigin l = u.endLaunch l.num true := by
    unfold State.refuseAtOrigin
    split
    · refine ⟨_, ?_, rfl⟩
      split
      · rfl
      · exact State.freezeQueue_launches ..
    · exact ⟨s, rfl, rfl⟩
  obtain ⟨u, launches, ended⟩ := told
  have stands : u.launch? l.num ≠ none := by rw [State.launch?_congr launches, h]; exact Option.some_ne_none l
  rw [ended]
  exact ⟨State.endLaunch_gone .., State.endLaunch_tries stands true⟩

/-! ### Pantry partitions (R96, R98) -/

/-- A partition reads as zero. -/
def State.clearPart (log : Nat) (s : State) (b : Nat × Nat) : State :=
  let d : Fin 4 := ⟨b.1 % 4, Nat.mod_lt _ (by decide)⟩
  { s with dies := s.dies.set d { s.dies[d] with pantry := sparseClear s.dies[d].pantry (b.2 * 2 ^ 20) (2 ^ (20 + log)) } }

theorem State.clearPart_pantry (log : Nat) (s : State) (b : Nat × Nat) (d : Fin 4) : (s.clearPart log b).dies[d].pantry =
    if b.1 % 4 = d.val then sparseClear s.dies[d].pantry (b.2 * 2 ^ 20) (2 ^ (20 + log)) else s.dies[d].pantry := by
  unfold State.clearPart
  split
  next h => simp [h]
  next h => simp [h]

/-- A byte of a Pantry that no entry names stays so. -/
def State.pantryLacks (s : State) (d : Fin 4) (a : Nat) : Prop := ∀ e ∈ s.dies[d].pantry, e.1 ≠ a

theorem State.clearPart_lacks {s : State} {d : Fin 4} {a : Nat} (h : s.pantryLacks d a) (log : Nat) (b : Nat × Nat) : (s.clearPart log b).pantryLacks d a := by
  intro e he
  rw [State.clearPart_pantry] at he
  split at he
  · exact h e (List.mem_filter.1 he).1
  · exact h e he

theorem State.clearPart_lacks_own (s : State) {d : Fin 4} {b : Nat × Nat} (hb : b.1 = d.val) (log : Nat) {i : Nat} (hi : i < 2 ^ (20 + log)) :
    (s.clearPart log b).pantryLacks d (b.2 * 2 ^ 20 + i) := by
  intro e he hei
  rw [State.clearPart_pantry, if_pos (by omega)] at he
  have outside := (List.mem_filter.1 he).2
  simp only [hei, Nat.le_add_right, Nat.add_lt_add_iff_left, hi, decide_true, Bool.and_self, Bool.not_true] at outside
  cases outside

/-- Two folds whose steps agree where an invariant of the second holds. -/
theorem foldl_congr_of {σ α : Type} {f g : σ → α → σ} {P : σ → Prop} (same : ∀ s a, P s → f s a = g s a) (kept : ∀ s a, P s → P (g s a)) (l : List α) {s : σ} (h : P s) :
    l.foldl f s = l.foldl g s := by
  induction l generalizing s with
  | nil => rfl
  | cons a l ih =>
    rw [List.foldl_cons, List.foldl_cons, same s a h]
    exact ih (kept s a h)

theorem State.foldl_clearPart_only (log : Nat) (bs : List (Nat × Nat)) (s : State) : ∃ dies, bs.foldl (State.clearPart log) s = { s with dies := dies } := by
  induction bs generalizing s with
  | nil => exact ⟨_, rfl⟩
  | cons b bs ih => exact ih (s.clearPart log b)

/-- Without memory errors the partitions of a launch are cleared, and nothing else changes (R96). -/
theorem State.clearParts_clean {s : State} (h : s.ecc = []) (l : Launch) :
    s.clearParts l = l.replBase.foldl (State.clearPart l.img.rplog) (l.quadBase.foldl (State.clearPart l.img.plog) s) := by
  have step (log : Nat) (t : State) (b : Nat × Nat) (clean : t.ecc = []) :
      (t.clearPart log b).clearErrors 5 (b.1 % 4) (b.2 * 2 ^ 20) (2 ^ (20 + log)) = t.clearPart log b := State.clearErrors_of_clean (s := t.clearPart log b) clean ..
  have quads := foldl_congr_of (f := fun s b => (State.clearPart l.img.plog s b).clearErrors 5 (b.1 % 4) (b.2 * 2 ^ 20) (2 ^ (20 + l.img.plog))) (step l.img.plog)
    (fun _ _ clean => clean) l.quadBase h
  obtain ⟨dies, hd⟩ := State.foldl_clearPart_only l.img.plog l.quadBase s
  have clean : (l.quadBase.foldl (State.clearPart l.img.plog) s).ecc = [] := by rw [hd]; exact h
  have repls := foldl_congr_of (f := fun s b => (State.clearPart l.img.rplog s b).clearErrors 5 (b.1 % 4) (b.2 * 2 ^ 20) (2 ^ (20 + l.img.rplog))) (step l.img.rplog)
    (fun _ _ clean => clean) l.replBase clean
  rw [← repls, ← quads]
  rfl

theorem State.clearParts_only {s : State} (h : s.ecc = []) (l : Launch) : ∃ dies, s.clearParts l = { s with dies := dies } := by
  obtain ⟨dies, hd⟩ := State.foldl_clearPart_only l.img.plog l.quadBase s
  obtain ⟨dies', hd'⟩ := State.foldl_clearPart_only l.img.rplog l.replBase { s with dies := dies }
  exact ⟨dies', by rw [State.clearParts_clean h, hd, hd']⟩

/-- A granted partition reads as zero in the origin tick (R96). -/
theorem State.clearParts_zero {s : State} (h : s.ecc = []) (l : Launch) (d : Fin 4) :
    (∀ b ∈ l.quadBase, b.1 = d.val → ∀ i < 2 ^ (20 + l.img.plog), readByte (s.clearParts l).dies[d].pantry (b.2 * 2 ^ 20 + i) = 0) ∧
      ∀ b ∈ l.replBase, b.1 = d.val → ∀ i < 2 ^ (20 + l.img.rplog), readByte (s.clearParts l).dies[d].pantry (b.2 * 2 ^ 20 + i) = 0 := by
  rw [State.clearParts_clean h]
  refine ⟨fun b hb hd i hi => readByte_absent ?_, fun b hb hd i hi => readByte_absent ?_⟩
  · have cleared : (l.quadBase.foldl (State.clearPart l.img.plog) s).pantryLacks d (b.2 * 2 ^ 20 + i) :=
      foldl_of_mem (P := fun t => State.pantryLacks t d (b.2 * 2 ^ 20 + i)) (fun s => s.clearPart_lacks_own hd _ hi) (fun s x hs => State.clearPart_lacks hs _ x) hb s
    exact List.foldlRecOn l.replBase _ (motive := fun t => State.pantryLacks t d (b.2 * 2 ^ 20 + i)) cleared fun s hs x _ => State.clearPart_lacks hs _ x
  · exact foldl_of_mem (P := fun t => State.pantryLacks t d (b.2 * 2 ^ 20 + i)) (fun s => s.clearPart_lacks_own hd _ hi) (fun s x hs => State.clearPart_lacks hs _ x) hb _

/-! ### Cores made ready (R28, R96, R115, R266) -/

/-- The page tables and the degradation state alone say what a launch's preload entries translate to. -/
theorem State.walkAll_congr (s : State) (cores : Vector CoreState 64) (dies : Vector DieState 4) (fenced : Nat → Bool) (va fuel table level : Nat) :
    ({ s with cores := cores, dies := dies } : State).walkAll fenced va fuel table level = s.walkAll fenced va fuel table level := by
  induction fuel generalizing table level with
  | zero => rfl
  | succ fuel ih =>
    have same : ({ s with cores := cores, dies := dies } : State).walkLevel fenced table level va = s.walkLevel fenced table level va := rfl
    simp only [State.walkAll, same, ih]

theorem State.preloaded_congr (s : State) (cores : Vector CoreState 64) (dies : Vector DieState 4) (l : Launch) (c : CoreIx) (ch : ChanIx) :
    ({ s with cores := cores, dies := dies } : State).preloaded l c ch = s.preloaded l c ch := by
  simp only [State.preloaded, State.walkAll_congr]

/-- The context of a core made ready: as after reset, but for the range table and the translation caches, which are the image's (R28, R115, R418). -/
def State.readyCtx (s : State) (l : Launch) (c : CoreIx) : CoreCtx :=
  { CoreCtx.init with ranges := l.img.ranges, chans := Vector.ofFn fun ch => { CopyChan.init with cache := s.preloaded l c ch } }

/-- A core made ready with a context (R28, R96, R418). -/
def CoreState.readied (k : CoreState) (l : Launch) (c : CoreIx) (x : CoreCtx) : CoreState :=
  { k with launch := l.num, ctx := x, abuf := sparseClear k.abuf (l.grant c).aBase (2 ^ l.img.alog), wbuf := sparseClear k.wbuf (l.grant c).wBase (2 ^ l.img.wlog),
           cbuf := sparseClear k.cbuf ((l.grant c).cBase * 16384) (16384 * 2 ^ l.img.clog), blockStore := memOf 0 (l.img.blocks.getD (l.pos c) []),
           storeOwner := l.num, lsids := l.img.lsids, swap := none, arrivals := k.arrivals.filter fun a => a.launch != l.num }

theorem State.readyCore_clean {s : State} (h : s.ecc = []) (l : Launch) (c : CoreIx) : s.readyCore l c = s.updCore c (·.readied l c (s.readyCtx l c)) := by
  have clean : (s.updCore c (·.readied l c (s.readyCtx l c))).ecc = [] := h
  change ((((((s.updCore c (·.readied l c (s.readyCtx l c))).clearErrors 1 c _ _).clearErrors 2 c _ _).clearErrors 3 c _ _).clearErrors 4 c _ _).clearErrors 7 c _ _).clearErrors
    8 c _ _ = _
  simp only [State.clearErrors_of_clean clean]

/-- The cores of a launch made ready, their contexts those that a state gives (R28). -/
def State.readying (s : State) (l : Launch) (x : CoreIx → CoreCtx) (cs : List CoreIx) : State := cs.foldl (fun t c => t.updCore c (·.readied l c (x c))) s

theorem State.readying_only (s : State) (l : Launch) (x : CoreIx → CoreCtx) (cs : List CoreIx) : ∃ cores, s.readying l x cs = { s with cores := cores } := by
  induction cs generalizing s with
  | nil => exact ⟨_, rfl⟩
  | cons c cs ih => exact ih (s.updCore c (·.readied l c (x c)))

/-- Without memory errors the loader's work on one core does not depend on the others (R28). -/
theorem State.foldl_readyCore_clean {s t : State} {dies : Vector DieState 4} (h : s.ecc = []) (ht : t = { s with dies := dies }) (l : Launch) (cs : List CoreIx) :
    cs.foldl (fun t c => t.readyCore l c) t = t.readying l (s.readyCtx l) cs := by
  refine foldl_congr_of (P := fun u : State => ∃ cores, u = { s with cores := cores, dies := dies }) ?same ?kept cs ⟨_, ht⟩
  case same =>
    rintro _ c ⟨cores, rfl⟩
    rw [State.readyCore_clean (s := { s with cores := cores, dies := dies }) h]
    have ctx : ({ s with cores := cores, dies := dies } : State).readyCtx l c = s.readyCtx l c := by simp only [State.readyCtx, State.preloaded_congr]
    rw [ctx]
  case kept =>
    rintro _ c ⟨cores, rfl⟩
    exact ⟨_, rfl⟩

section
variable (s : State) (l : Launch) (x : CoreIx → CoreCtx) {cs : List CoreIx} {c : CoreIx}

theorem State.readying_core_ne (h : c ∉ cs) : (s.readying l x cs).core c = s.core c :=
  List.foldlRecOn cs _ (motive := fun t : State => t.core c = s.core c) rfl fun t ht d hd =>
    (State.core_updCore_ne t d c _ fun e => h (e ▸ hd)).trans ht

/-- A core of the list is one that has been made ready. -/
theorem State.readying_core (h : c ∈ cs) : ∃ k : CoreState, (s.readying l x cs).core c = k.readied l c (x c) := by
  refine foldl_of_mem (P := fun t : State => ∃ k : CoreState, t.core c = k.readied l c (x c)) (fun t => ⟨_, State.core_updCore ..⟩) (fun t d ht => ?_) h s
  by_cases hd : c = d
  · subst hd
    exact ⟨_, State.core_updCore ..⟩
  · rw [State.core_updCore_ne t d c _ hd]
    exact ht

/-- A memory of a core of which readiness clears a slice reads as zero there, and as before elsewhere (R96). -/
theorem State.readying_clears {mem : CoreState → Memory} {lo n : Nat} (hm : ∀ (k : CoreState) (y : CoreCtx), mem (k.readied l c y) = sparseClear (mem k) lo n) (h : c ∈ cs) :
    (∀ i < n, readByte (mem ((s.readying l x cs).core c)) (lo + i) = 0) ∧
      (Memory.wf (mem (s.core c)) = true → ∀ a, a < lo ∨ lo + n ≤ a → readByte (mem ((s.readying l x cs).core c)) a = readByte (mem (s.core c)) a) := by
  refine ⟨fun i hi => readByte_absent fun e he hei => ?_, fun hw a ha => ?_⟩
  · obtain ⟨k, hk⟩ := s.readying_core l x h
    rw [hk, hm] at he
    have outside := (List.mem_filter.1 he).2
    simp only [hei, Nat.le_add_right, Nat.add_lt_add_iff_left, hi, decide_true, Bool.and_self, Bool.not_true] at outside
    cases outside
  · have stands : Memory.wf (mem ((s.readying l x cs).core c)) = true ∧ readByte (mem ((s.readying l x cs).core c)) a = readByte (mem (s.core c)) a := by
      refine List.foldlRecOn cs _ (motive := fun t : State => Memory.wf (mem (t.core c)) = true ∧ readByte (mem (t.core c)) a = readByte (mem (s.core c)) a) ⟨hw, rfl⟩ fun t ht d _ => ?_
      by_cases hd : c = d
      · subst hd
        rw [State.core_updCore, hm]
        refine ⟨memory_clear_wf ht.1, ?_⟩
        rw [readByte, sparseGet_clear ht.1, if_neg (by omega)]
        exact ht.2
      · rw [State.core_updCore_ne t d c _ hd]
        exact ht
    exact stands.2

end

theorem State.core_wf {s : State} (h : s.memWf = true) (c : CoreIx) : Memory.wf (s.core c).abuf = true ∧ Memory.wf (s.core c).wbuf = true ∧ Memory.wf (s.core c).cbuf = true := by
  simp only [State.memWf, Bool.and_eq_true, List.all_eq_true] at h
  have core := h.1.1.1 (s.core c) (by simp [State.core])
  simp only [CoreState.memWf, Bool.and_eq_true] at core
  obtain ⟨⟨⟨⟨⟨a, w⟩, b⟩, -⟩, -⟩, -⟩ := core
  exact ⟨a, w, b⟩

/-! ### The launch in its origin tick (R29, R51, R53) -/

/-- A launch at launch time 0 (R51). -/
def Launch.atOrigin (l : Launch) (tick : Nat) : Launch := { l with stage := .running, ltime := 0, setStart := 0, inst := 0, instTick := tick }

@[simp] theorem Launch.atOrigin_num (l : Launch) (tick : Nat) : (l.atOrigin tick).num = l.num := rfl

/-- The module with the partitions and the cores of a launch made ready. -/
def State.ready (s : State) (l : Launch) : State := (s.clearParts l).readying l (s.readyCtx l) l.cores

/-- The launch has begun, with its LAUNCH record; a safety request that stands is not pending yet. -/
def State.begun (s : State) (n : LaunchNo) (l : Launch) : State := ((s.ready l).updLaunch n (·.atOrigin s.tick)).launchRec l

/-- What the origin tick of a launch leaves, but for the launch itself and the records. -/
structure Begins (s : State) (n : LaunchNo) (l : Launch) (t : State) : Prop where
  others : ∀ m, m ≠ n → t.launch? m = s.launch? m
  dram : t.dram = s.dram
  hostMem : t.hostMem = s.hostMem
  tm : t.tm = s.tm
  host : t.host = s.host
  health : t.health = s.health
  tick : t.tick = s.tick
  cores : t.cores = (s.ready l).cores
  dies : t.dies = (s.clearParts l).dies

theorem Begins.trans {s t u : State} {n : LaunchNo} {l : Launch} (h : Begins s n l t) (k : OnlyLaunch n t u) : Begins s n l u where
  others m hm := (k.others m hm).trans (h.others m hm)
  dram := k.dram.trans h.dram
  hostMem := k.hostMem.trans h.hostMem
  tm := k.tm.trans h.tm
  host := k.host.trans h.host
  health := k.health.trans h.health
  tick := k.tick.trans h.tick
  cores := k.cores.trans h.cores
  dies := k.dies.trans h.dies

section
variable {s : State} {n : LaunchNo} {l : Launch}

theorem State.ready_only (h : s.ecc = []) : ∃ cores, s.ready l = { s with cores := cores, dies := (s.clearParts l).dies } := by
  obtain ⟨dies, hd⟩ := State.clearParts_only h l
  obtain ⟨cores, hc⟩ := (s.clearParts l).readying_only l (s.readyCtx l) l.cores
  refine ⟨cores, ?_⟩
  rw [State.ready, hc, hd]

theorem State.begun_begins (h : s.ecc = []) (hl : s.launch? n = some l) :
    Begins s n l (s.begun n l) ∧ (s.begun n l).launch? n = some (l.atOrigin s.tick) ∧ s.logs (s.begun n l) [0x01] := by
  obtain ⟨cores, hr⟩ := State.ready_only (l := l) h
  obtain ⟨queues, hq⟩ := ((s.ready l).updLaunch n (·.atOrigin s.tick)).launchRec_only l
  have tr : (s.ready l).tr = s.tr := by rw [hr]
  have here : (s.ready l).launch? n = some l := by rw [hr]; exact hl
  have launches : (s.begun n l).launches = ((s.ready l).updLaunch n (·.atOrigin s.tick)).launches := by rw [State.begun, hq]
  refine ⟨⟨fun m hm => ?_, ?_, ?_, ?_, ?_, ?_, ?_, ?_, ?_⟩, ?_, (State.logs_of_tr tr).trans (State.launchRec_logs ((s.ready l).updLaunch n (·.atOrigin s.tick)) l)⟩
  case refine_1 =>
    rw [State.launch?_congr launches, State.launch?_updLaunch_ne _ (fun k => k.atOrigin_num s.tick) hm, hr]
    rfl
  case refine_10 => rw [State.launch?_congr launches, State.updLaunch_some _ (fun k => k.atOrigin_num s.tick) here]
  case refine_8 =>
    rw [State.begun, hq]
    rfl
  all_goals
    rw [State.begun, hq, hr]
    rfl

/-- What a standing safety request asks a launch for at its origin (R53). -/
def Launch.safeMode (l : Launch) : BitVec 4 := match l.set? with | some u => u.safemode | none => 0

theorem originTick_begins (h : s.launch? n = some l) (hp : l.stage = .placed) (ho : l.origin = s.tick) (hf : s.preloadFaults l = false) (hecc : s.ecc = []) :
    exec (.originTick n) s = .next (if s.host.mreq then (s.begun n l).modeRequest n l.safeMode true 2 else s.begun n l) := by
  have here : ¬ (decide (l.stage ≠ .placed) || decide (l.origin ≠ s.tick)) = true := by simp [hp, ho]
  have soft : s.preloadSoft l = s := if_pos (by rw [hecc]; rfl)
  have ready : l.cores.foldl (fun t c => t.readyCore l c) (s.clearParts l) = s.ready l := by
    obtain ⟨dies, hd⟩ := State.clearParts_only hecc l
    exact State.foldl_readyCore_clean hecc hd l l.cores
  have host : (s.begun n l).host = s.host := (State.begun_begins hecc h).1.host
  have tick : (s.ready l).tick = s.tick := by
    obtain ⟨cores, hr⟩ := State.ready_only (l := l) hecc
    rw [hr]
  change execOriginTick n s = _
  rw [execOriginTick, h]
  refine (if_neg here).trans ((if_neg (ne_true_of_eq_false hf)).trans ?_)
  rw [soft]
  dsimp only
  rw [ready, tick]
  change Host.Outcome.next (if (s.begun n l).host.mreq then (s.begun n l).modeRequest n l.safeMode true 2 else s.begun n l) = _
  rw [host]

/-- The origin tick of a launch whose preload addresses all translate: the launch begins, a standing safety request made of it where it has a set for that (R29, R53). -/
theorem originTick_launch (h : s.launch? n = some l) (hp : l.stage = .placed) (ho : l.origin = s.tick) (hf : s.preloadFaults l = false) (hecc : s.ecc = []) :
    ∃ t p u, exec (.originTick n) s = .next t ∧ Begins s n l t ∧ t.launch? n = some { l.atOrigin s.tick with pendMode := p, urgentAt := u } ∧
      (s.host.mreq = false → p = l.pendMode ∧ u = l.urgentAt ∧ s.logs t [0x01]) ∧
      ∀ v, s.host.mreq = true → l.set? = some v → (l.setFor v.safemode (l.pendLevel.getD l.current.2) s.chmask).isSome = true →
        (∀ p, l.pendMode = some p → p.rank ≤ 2) → p = some ⟨v.safemode, true, 2, s.tick⟩ ∧ s.logs t [0x01] := by
  obtain ⟨begins, here, record⟩ := State.begun_begins hecc h
  have step := originTick_begins h hp ho hf hecc
  cases mreq : s.host.mreq with
  | false =>
    rw [mreq] at step
    exact ⟨_, _, _, step, begins, here, fun _ => ⟨rfl, rfl, record⟩, fun _ h => nomatch h⟩
  | true =>
    rw [mreq] at step
    obtain ⟨p, u, asked⟩ := State.modeRequest_launch here l.safeMode true 2
    refine ⟨_, p, u, step, begins.trans (OnlyLaunch.modeRequest ..), asked, (fun h => nomatch h), fun v _ hv hset hr => ?_⟩
    have safe : l.safeMode = v.safemode := by rw [Launch.safeMode, hv]
    have chmask : (s.begun n l).chmask = s.chmask := by rw [State.chmask, State.chmask, begins.health]
    have granted := State.modeRequest_granted (mode := l.safeMode) (rank := 2) here hr (by rw [safe, chmask]; exact hset) true
    rw [granted, State.updLaunch_some _ (fun _ => Launch.requested_num ..) here] at asked
    rw [← safe, ← begins.tick]
    refine ⟨(congrArg Launch.pendMode (Option.some.inj asked)).symm, ?_⟩
    change s.logs ((s.begun n l).modeRequest n l.safeMode true 2) [0x01]
    rw [granted]
    exact record

/-- Where the cores of a launch stand in its origin tick, and every other core (R28, R96). -/
theorem Begins.core_ne {t : State} (hecc : s.ecc = []) (h : Begins s n l t) {c : CoreIx} (hc : c ∉ l.cores) : t.core c = s.core c := by
  obtain ⟨dies, hd⟩ := State.clearParts_only hecc l
  have same : (s.clearParts l).core c = s.core c := by rw [hd]; rfl
  rw [State.core, h.cores]
  exact ((s.clearParts l).readying_core_ne l (s.readyCtx l) hc).trans same

theorem Begins.core {t : State} (h : Begins s n l t) {c : CoreIx} (hc : c ∈ l.cores) : ∃ k : CoreState, t.core c = k.readied l c (s.readyCtx l c) := by
  rw [State.core, h.cores]
  exact (s.clearParts l).readying_core l (s.readyCtx l) hc

theorem Begins.clears {t : State} (hecc : s.ecc = []) (h : Begins s n l t) {c : CoreIx} (hc : c ∈ l.cores) {mem : CoreState → Memory} {lo size : Nat}
    (hm : ∀ (k : CoreState) (y : CoreCtx), mem (k.readied l c y) = sparseClear (mem k) lo size) :
    (∀ i < size, readByte (mem (t.core c)) (lo + i) = 0) ∧
      (Memory.wf (mem (s.core c)) = true → ∀ a, a < lo ∨ lo + size ≤ a → readByte (mem (t.core c)) a = readByte (mem (s.core c)) a) := by
  obtain ⟨dies, hd⟩ := State.clearParts_only hecc l
  have same : (s.clearParts l).core c = s.core c := by rw [hd]; rfl
  have cleared := (s.clearParts l).readying_clears l (s.readyCtx l) hm hc
  rw [same] at cleared
  have here : t.core c = (s.ready l).core c := by rw [State.core, h.cores]; rfl
  rw [here]
  exact cleared

/-- The context of a core made ready (R28, R115). -/
theorem State.readyCtx_reads (s : State) (l : Launch) (c : CoreIx) : (∀ q : SeqIx, (s.readyCtx l c).seqs[q] = .init) ∧
    { s.readyCtx l c with ranges := [], chans := CoreCtx.init.chans } = CoreCtx.init ∧ (s.readyCtx l c).ranges = l.img.ranges ∧
    ∀ ch : ChanIx, (s.readyCtx l c).chans[ch] = { CopyChan.init with cache := s.preloaded l c ch } :=
  ⟨fun _ => Vector.getElem_replicate .., rfl, rfl, fun _ => Vector.getElem_ofFn ..⟩

theorem originTick_refused (h : s.launch? n = some l) (hp : l.stage = .placed) (ho : l.origin = s.tick) (hf : s.preloadFaults l = true) :
    exec (.originTick n) s = .next (s.refuseAtOrigin l) := by
  have here : ¬ (decide (l.stage ≠ .placed) || decide (l.origin ≠ s.tick)) = true := by simp [hp, ho]
  change execOriginTick n s = _
  rw [execOriginTick, h]
  exact (if_neg here).trans (if_pos hf)

end

/-! ### O44 -/

/-- Settles O44: what the origin tick, an entry that comes due, the end of a period, the end of a boundary freeze and a switch point each leave. That a switch point
decides and records a null or refused request at once, and counts the held ticks of an urgent switch into its FREEZE record, is the model's choice (log entry 31); so is where M
falls when a halting freeze covers it (log entry 63). -/
theorem launchTime : Obligations.LaunchTime := by
  refine ⟨fun s n l h hp ho hf => ?refused, fun s n l h hp ho hf hecc => ?origin, fun s c q free => ?starts, fun s c q l k e h he => ⟨fun hf => ?endFreeze, fun hf hc => ?endRetire⟩,
    fun s n l u h ht hu hp => ⟨fun hf => ?next, fun hf => ?nextFreeze⟩, fun s n l b h hb ho => ⟨fun ha => ?overNext, fun ha => ?overResume, fun k src u ha => ?overSwitch, fun ha hc => ?overRetire⟩,
    fun s n l h hp => ?switch⟩
  case refused =>
    have num := State.launch?_num h
    subst num
    exact ⟨_, originTick_refused h hp ho hf, State.refuseAtOrigin_ends h⟩
  case origin =>
    have num := State.launch?_num h
    obtain ⟨t, p, u, step, begins, here, calm, urged⟩ := originTick_launch h hp ho hf hecc
    refine ⟨t, step, ⟨_, here, rfl, rfl, rfl, rfl, rfl, rfl, fun hm => ?_, fun v hm hv hset hr => urged v hm hv hset hr⟩, begins.others, begins.dram, begins.hostMem, begins.tm, begins.host,
      begins.health, fun c hc => begins.core_ne hecc hc, fun d => ?_, fun c hc => ?_⟩
    · obtain ⟨hp, hu, logs⟩ := calm hm
      rw [hp, hu]
      exact ⟨rfl, logs⟩
    · rw [begins.dies]
      exact State.clearParts_zero hecc l d
    · obtain ⟨k, hk⟩ := begins.core hc
      obtain ⟨seqs, rest, ranges, chans⟩ := s.readyCtx_reads l c
      have ctx : t.ctx c = s.readyCtx l c := by rw [State.ctx, hk]; rfl
      have wf (hw : s.memWf = true) := State.core_wf hw c
      obtain ⟨azero, aelse⟩ := begins.clears hecc hc (mem := CoreState.abuf) (fun _ _ => rfl)
      obtain ⟨wzero, welse⟩ := begins.clears hecc hc (mem := CoreState.wbuf) (fun _ _ => rfl)
      obtain ⟨czero, celse⟩ := begins.clears hecc hc (mem := CoreState.cbuf) (fun _ _ => rfl)
      refine ⟨?_, fun q => ?_, ?_, ?_, fun ch => ?_, ?_, ?_, ⟨azero, fun hw => aelse (wf hw).1⟩, ⟨wzero, fun hw => welse (wf hw).2.1⟩, ⟨czero, fun hw => celse (wf hw).2.2⟩⟩
      · rw [hk]
        exact num
      · rw [State.seq, ctx]
        exact seqs q
      · rw [ctx, rest]
      · rw [ctx, ranges]
      · rw [ctx]
        exact chans ch
      · rw [hk]
        rfl
      · rw [hk]
        rfl
  case starts =>
    intro starts
    have told (i : Instr) (l : Launch) (k : Nat) (e : TableEntry) (cap : Option Nat) (step : exec i s = .next (s.startEntry c q l k e cap)) :
        starts i l k e (s.activation l k e cap).deadline (s.activation l k e cap).fbDeadline := by
      obtain ⟨⟨r, addr, age, seq⟩, others, launches, clean, memory⟩ := State.startEntry_starts free l k e cap
      refine ⟨_, step, ?_⟩
      dsimp only
      rw [seq]
      exact ⟨⟨_, rfl, rfl, rfl, rfl, rfl, rfl, rfl, rfl, rfl, rfl, rfl, rfl⟩, ⟨r, rfl, addr, age⟩, rfl, rfl, rfl, rfl, rfl, rfl, rfl, rfl, launches, clean, memory, others⟩
    refine ⟨fun l k e h he hs => told _ l k e none (entryDue_host h he hs), fun g k e w h hg hw => told _ g k e (some w.deadline) (entryDue_guest h hg hw),
      fun l k e h he hs live => ⟨fun nobody => ?_, fun g i f found here budget first => ?_⟩⟩
    · rw [entryDue_sporadic h he hs, State.openWindow_none live nobody]
    · obtain ⟨cores, ecc, record⟩ := s.enterWindow_machine g (l.windowOf c q e)
      have seqs (d : CoreIx) (r : SeqIx) : (s.enterWindow g (l.windowOf c q e)).seq d r = s.seq d r := by rw [State.seq, State.ctx, State.core, cores]; rfl
      obtain ⟨⟨r, addr, age, seq⟩, others, launches, clean, memory⟩ := State.startEntry_starts (s := s.enterWindow g (l.windowOf c q e)) ((congrArg SeqState.act (seqs c q)).trans free)
        (g.inWindow (l.windowOf c q e) s.tick) i f (some (l.windowOf c q e).deadline)
      have step := entryDue_sporadic h he hs
      rw [State.openWindow_opens live found here budget first] at step
      refine ⟨_, step, ⟨_, (State.launch?_congr launches _).trans (State.enterWindow_launch here _), rfl, rfl, rfl, rfl⟩, ?_, ?_, fun hecc => ?_, fun m hm => ?_, fun d p hd => ?_⟩
      · rw [seq]
        exact ⟨_, rfl, rfl, rfl, rfl⟩
      · rw [seq]
        exact ⟨r, rfl, addr⟩
      · rw [State.logs, clean (ecc.trans hecc)]
        exact record
      · exact (State.launch?_congr launches m).trans (State.enterWindow_others s g _ hm)
      · exact (others d p hd).trans (seqs d p)
  case endFreeze =>
    have here := State.hostEntry?_launch h
    obtain ⟨b, begun, first, after⟩ := State.beginBoundary_launch here s.tick .retire l rfl
    exact ⟨_, entryDue_end_freezes h he hf, ⟨b, begun, first, after⟩, .beginBoundary .., rfl⟩
  case endRetire =>
    have here := State.hostEntry?_launch h
    have stands : s.launch? l.num ≠ none := by rw [here]; exact Option.some_ne_none l
    exact ⟨_, entryDue_end_retires h he hf, State.endLaunch_gone .., fun g hg hw => State.endLaunch_inside_gone hg hw false, State.endLaunch_frees here hc false,
      State.endLaunch_tries stands false⟩
  case next => exact ⟨_, instanceBoundary_next h ht hu hp hf, State.nextInstance_launch h, .nextInstance s n, rfl⟩
  case nextFreeze =>
    have num := State.launch?_num h
    obtain ⟨b, begun, first, after⟩ := State.beginBoundary_launch h s.tick .nextInst l num
    exact ⟨_, instanceBoundary_freezes h ht hu hp hf, ⟨b, begun, first, after⟩, num ▸ .beginBoundary .., rfl⟩
  case overNext =>
    have here := State.boundaryDone_launch h b.first
    obtain ⟨only, logs⟩ := s.boundaryDone_only n b.first
    refine ⟨_, boundaryFreezeEnd_over h hb ho, ?_⟩
    rw [ha]
    exact ⟨State.nextInstance_launch here, only.trans (.nextInstance ..), logs⟩
  case overResume =>
    have here := State.boundaryDone_launch h b.first
    obtain ⟨only, logs⟩ := s.boundaryDone_only n b.first
    refine ⟨_, boundaryFreezeEnd_over h hb ho, ?_⟩
    rw [ha]
    exact ⟨here, only, logs⟩
  case overSwitch =>
    have here := State.boundaryDone_launch h b.first
    obtain ⟨only, logs⟩ := s.boundaryDone_only n b.first
    obtain ⟨moved, set, told⟩ := State.switchSet_launch here k src u
    refine ⟨_, boundaryFreezeEnd_over h hb ho, ?_⟩
    rw [ha]
    exact ⟨moved, only.trans set, told.imp logs.trans logs.trans⟩
  case overRetire =>
    have here := State.boundaryDone_launch h b.first
    have stands : (s.boundaryDone n b.first).launch? n ≠ none := by rw [here]; exact Option.some_ne_none _
    refine ⟨_, boundaryFreezeEnd_over h hb ho, ?_⟩
    rw [ha]
    exact ⟨State.endLaunch_gone .., State.endLaunch_frees here hc false, State.endLaunch_tries stands false⟩
  case switch =>
    intro frozen atOnce held begins cleared reports
    have num := State.launch?_num h
    refine ⟨fun unasked => ⟨fun hf => ?_, fun hf => ?_⟩, fun a asked => ⟨fun j hj hne => ⟨fun hf => ?_, fun hf => ?_⟩, fun same => ⟨fun hf => ?_, fun hf => ?_⟩, fun hj hm hn => ?_⟩⟩
    · have outcome := State.atSwitch_unasked unasked
      obtain ⟨u, b, step, here, first, after, only, trace⟩ := switchPoint_frozen h hp outcome (.refl n s) h hf
      exact ⟨u, step, _, here, rfl, rfl, rfl, only, ⟨b, rfl, first, after⟩, trace⟩
    · have outcome := State.atSwitch_unasked unasked
      obtain ⟨u, step, here, only, logs⟩ := switchPoint_resumed h hp outcome (.refl n s) h rfl hf
      exact ⟨u, step, _, here, rfl, only, rfl, logs⟩
    · have outcome := State.atSwitch_other asked hj hne
      rw [num] at outcome
      obtain ⟨u, b, step, here, first, after, only, trace⟩ := switchPoint_frozen h hp outcome (.clearing s n) (State.clearing_launch h) hf
      exact ⟨u, step, _, here, rfl, rfl, rfl, only, ⟨_, _, b, rfl, first, after⟩, ⟨rfl, rfl, rfl⟩, trace⟩
    · have outcome := State.atSwitch_other asked hj hne
      rw [num] at outcome
      obtain ⟨u, step, here, only, logs⟩ := switchPoint_switched h hp outcome (.clearing s n) (State.clearing_launch h) rfl hf
      exact ⟨u, step, _, here, rfl, only, rfl, rfl, rfl, rfl, ⟨rfl, rfl, rfl⟩, logs⟩
    · obtain ⟨status, outcome⟩ := State.atSwitch_same asked same
      obtain ⟨keeps, launches, logs⟩ := s.requestRec_only n l a status
      rw [num] at outcome
      have cleared := State.clearing_launch ((State.launch?_congr launches n).trans h)
      rw [keeps.tick] at cleared
      obtain ⟨u, b, step, here, first, after, only, trace⟩ := switchPoint_frozen h hp outcome (keeps.trans (.clearing ..)) cleared hf
      exact ⟨u, step, _, here, rfl, rfl, rfl, only, ⟨b, rfl, first, after⟩, ⟨rfl, rfl, rfl⟩, by rw [State.logs, trace]; exact logs⟩
    · obtain ⟨status, outcome⟩ := State.atSwitch_same asked same
      obtain ⟨keeps, launches, logs⟩ := s.requestRec_only n l a status
      rw [num] at outcome
      have cleared := State.clearing_launch ((State.launch?_congr launches n).trans h)
      rw [keeps.tick] at cleared
      obtain ⟨u, step, here, only, told⟩ := switchPoint_resumed h hp outcome (keeps.trans (.clearing ..)) cleared rfl hf
      exact ⟨u, step, _, here, rfl, only, rfl, ⟨rfl, rfl, rfl⟩, logs.trans told⟩
    · exact ⟨_, switchPoint_lost h hp (State.atSwitch_lost asked hj hm hn), State.healthCancel_domainGone h⟩

end Sys2Proof.Machine
end

section
/-! SUPPORT. Wall time (R42 to R46): what a Sync, an edge, a failure of either and a written INC make of the time unit; then the statement O52. -/

namespace Sys2Proof.Machine

/-! ### INC (R43) -/

theorem clampInc_toNat (v : BitVec 40) : (clampInc v).toNat = max (incNominal.toNat - incSlack) (min (incNominal.toNat + incSlack) v.toNat) := by
  have nominal : incNominal.toNat = 2260509103 := rfl
  rw [clampInc, BitVec.toNat_ofNat]
  unfold incSlack
  omega

theorem clampInc_within (v : BitVec 40) : incNominal.toNat - 1130255 ≤ (clampInc v).toNat ∧ (clampInc v).toNat ≤ incNominal.toNat + 1130255 := by
  rw [clampInc_toNat]
  unfold incSlack
  omega

theorem clampInc_of_within {v : BitVec 40} (lo : incNominal.toNat - 1130255 ≤ v.toNat) (hi : v.toNat ≤ incNominal.toNat + 1130255) : clampInc v = v := by
  apply BitVec.eq_of_toNat_eq
  rw [clampInc_toNat]
  unfold incSlack
  omega

@[simp] theorem clampInc_nominal : clampInc incNominal = incNominal := clampInc_of_within (Nat.sub_le ..) (Nat.le_add_right ..)

/-! ### What stands -/

/-- Everything stands but the time unit and the trace engine. -/
theorem State.rest_of_time {s t : State} (h : t = { s with tm := t.tm, tr := t.tr }) : t.cores = s.cores ∧ t.dies = s.dies ∧ t.dram = s.dram ∧ t.hostMem = s.hostMem ∧
    t.launches = s.launches ∧ t.fe = s.fe ∧ t.host = s.host ∧ t.health = s.health ∧ t.tick = s.tick := by
  rw [h]
  exact ⟨rfl, rfl, rfl, rfl, rfl, rfl, rfl, rfl, rfl⟩

/-! ### Edges (R44) -/

/-- An edge counted; the first after a gap counts from 1. -/
def State.edgeCount (s : State) : Nat := if s.edgesArrive then s.tm.edges + 1 else 1

/-- Ticks since the last edge. -/
def State.edgeGap (s : State) : Int := match s.tm.lastEdge with | some k => (s.tick : Int) - k | none => 0

theorem State.edgeCount_enough (s : State) : 4 ≤ s.edgeCount ↔ s.edgesArrive = true ∧ 3 ≤ s.tm.edges := by
  unfold State.edgeCount
  split
  · next h => simp only [h, true_and]; omega
  · next h => simp [h]

/-! ### What each event comes to (R43 to R46) -/

section
variable {s : State} {offset : Int} (live : s.tr.rpActive = false)

/-- A Sync that counts as a good one, a bad one, or neither. -/
def TimeState.counted (t : TimeState) (offset : Int) (tick : Nat) : TimeState :=
  { t with goodSyncs := if offset.natAbs < 1000 then t.goodSyncs + 1 else 0, badSyncs := if 1000000 < offset.natAbs then t.badSyncs + 1 else 0, lastSync := some tick }

/-- The wall time stepped by a Sync (R45). -/
def TimeState.stepped (t : TimeState) (offset : Int) (tick : Nat) : TimeState :=
  { t with ns := t.ns + BitVec.ofInt 64 offset, goodSyncs := 0, badSyncs := 0, lastSync := some tick }

/-- Another state of the servo, counting Syncs anew. -/
def TimeState.entering (t : TimeState) (v : Servo) : TimeState := { t with servo := v, goodSyncs := 0, badSyncs := 0 }

include live

theorem ptpSync_steps (h : s.syncSteps offset = true) :
    exec (.ptpSync offset) s = .next ((s.notePast.updTime (·.stepped offset s.tick)).ptpRec s.tm.inc s.tm.inc (some offset)) :=
  (if_neg (ne_true_of_eq_false live)).trans (if_pos h)

theorem ptpSync_locks (h : s.syncSteps offset = false) (hs : s.tm.servo ≠ .locked) (good : 8 ≤ (s.tm.counted offset s.tick).goodSyncs) :
    exec (.ptpSync offset) s = .next ((s.updTime fun t => (t.counted offset s.tick).entering .locked).setInc (Config.servoInc (servoCode .locked) offset s.tm.inc)) :=
  (if_neg (ne_true_of_eq_false live)).trans ((if_neg (ne_true_of_eq_false h)).trans ((if_neg hs).trans (if_pos good)))

theorem ptpSync_unlocks (h : s.syncSteps offset = false) (hs : s.tm.servo = .locked) (bad : ¬ (s.tm.counted offset s.tick).badSyncs < 8) :
    exec (.ptpSync offset) s = .next ((s.updTime fun t => (t.counted offset s.tick).entering (if s.edgesArrive then .pps else .free)).setInc
      (if (if s.edgesArrive then Servo.pps else .free) = .free then incNominal else Config.servoInc (servoCode .pps) 0 s.tm.inc)) :=
  (if_neg (ne_true_of_eq_false live)).trans ((if_neg (ne_true_of_eq_false h)).trans ((if_pos hs).trans (if_neg bad)))

theorem ppsEdge_free (hs : s.tm.servo = .free) (h : ¬ 4 ≤ s.edgeCount) :
    exec .ppsEdge s = .next (s.updTime fun t => { t with edges := s.edgeCount, lastEdge := some s.tick }) := by
  refine (if_neg (ne_true_of_eq_false live)).trans (if_neg ?_)
  change ¬ ((decide (4 ≤ s.edgeCount) && _) || s.tm.servo == .pps) = true
  rw [decide_eq_false h, hs]
  exact Bool.false_ne_true

theorem ppsEdge_pps (hs : s.tm.servo = .free) (h : 4 ≤ s.edgeCount) :
    exec .ppsEdge s = .next ((s.updTime fun t => { t with edges := s.edgeCount, lastEdge := some s.tick, servo := .pps }).setInc
      (Config.servoInc (servoCode .pps) s.edgeGap s.tm.inc)) := by
  refine (if_neg (ne_true_of_eq_false live)).trans (if_pos ?_)
  change ((decide (4 ≤ s.edgeCount) && (s.tm.servo == .free || _)) || _) = true
  rw [decide_eq_true h, hs]
  rfl

theorem holdover_begins (h : s.holdoverDue = true) :
    ∃ fromPps good, exec .holdover s = .next (s.updTime fun t => { t with servo := .holdover, fromPps := fromPps, holdFrom := s.tick, edges := 0, badSyncs := 0, goodSyncs := good }) :=
  ⟨_, _, if_neg (by rw [h, live]; decide)⟩

theorem holdover_expires (h : s.expiryDue = true) : exec .holdoverExpiry s = .next ((s.updTime fun t => { t with servo := .free, edges := 0 }).setInc incNominal) :=
  if_neg (by rw [h, live]; decide)

theorem incWrite_set (v : BitVec 40) : exec (.incWrite v) s = .next (s.setInc v) := if_neg (ne_true_of_eq_false live)

end

/-- A Sync steps the wall time in FREE where it is more than 1 ms off, and never in LOCKED (R45). -/
theorem State.syncSteps_free {s : State} {offset : Int} (hs : s.tm.servo = .free) (h : 1000000 < offset.natAbs) : s.syncSteps offset = true := by
  rw [State.syncSteps, decide_eq_true h, hs]
  rfl

theorem State.syncSteps_locked {s : State} {offset : Int} (hs : s.tm.servo = .locked) : s.syncSteps offset = false := by
  rw [State.syncSteps, hs]
  exact Bool.and_false _

theorem State.syncSteps_near {s : State} {offset : Int} (h : ¬ 1000000 < offset.natAbs) : s.syncSteps offset = false := by
  rw [State.syncSteps, decide_eq_false h]
  rfl

/-! ### O52 -/

/-- Settles O52: each event of the time unit runs to the state that its equation above names. That the fourth edge after a gap leads to PPS, four seconds of edges being
three counted before it, is the model's reading (log entry 42). -/
theorem wallTime : Obligations.WallTime := by
  intro s live
  refine ⟨fun offset hs far => ?step, fun offset hs near good => ?lock, fun offset hs far bad => ?unlock, fun hs => ?edge, fun due => ?holdover, fun due => ?expiry, fun v => ?inc⟩
  case step =>
    have steps := ptpSync_steps live (State.syncSteps_free hs far)
    exact ⟨_, steps, rfl, rfl, hs, State.logs_record .., State.rest_of_time rfl⟩
  case lock =>
    have counted : 8 ≤ (s.tm.counted offset s.tick).goodSyncs := by
      rw [TimeState.counted, if_pos near, good]
    have unlocked : s.tm.servo ≠ .locked := by
      rcases hs with h | h <;> rw [h] <;> decide
    exact ⟨_, ptpSync_locks live (State.syncSteps_near (by omega)) unlocked counted, rfl, rfl, rfl, rfl, State.rest_of_time rfl⟩
  case unlock =>
    have counted : ¬ (s.tm.counted offset s.tick).badSyncs < 8 := by
      rw [TimeState.counted, if_pos far, bad]
      exact Nat.lt_irrefl 8
    refine ⟨_, ptpSync_unlocks live (State.syncSteps_locked hs) hs counted, rfl, rfl, fun gone => ?_, rfl, State.rest_of_time rfl⟩
    rw [gone]
    exact congrArg some clampInc_nominal
  case edge =>
    by_cases h : 4 ≤ s.edgeCount
    · exact ⟨_, ppsEdge_pps live hs h, (if_pos (s.edgeCount_enough.1 h)).symm, rfl, rfl, rfl, State.rest_of_time rfl⟩
    · exact ⟨_, ppsEdge_free live hs h, hs.trans (if_neg fun k => h (s.edgeCount_enough.2 k)).symm, rfl, rfl, rfl, State.rest_of_time rfl⟩
  case holdover =>
    obtain ⟨fromPps, good, step⟩ := holdover_begins live due
    exact ⟨_, step, rfl, rfl, rfl, rfl, rfl, rfl, State.rest_of_time rfl⟩
  case expiry => exact ⟨_, holdover_expires live due, rfl, congrArg some clampInc_nominal, rfl, rfl, State.rest_of_time rfl⟩
  case inc =>
    obtain ⟨lo, hi⟩ := clampInc_within v
    exact ⟨_, incWrite_set live v, ⟨clampInc v, rfl, lo, hi, clampInc_of_within⟩, rfl, State.rest_of_time rfl⟩

end Sys2Proof.Machine
end

section
/-! SUPPORT. Module reset, the collapse of the supply, the boot, attestation and page moves (R41, R117, R440, R470 to R472, R474): what each keeps of the state, how long a quote is,
which bytes a page move moves; then the statements O54 and O55. -/

namespace Sys2Proof.Machine

/-! ### Lengths (R264, R471) -/

@[simp] theorem exactly_length (n : Nat) (l : List Byte) : (exactly n l).length = n := by
  rw [exactly, List.length_take, List.length_append, List.length_replicate]
  omega

theorem shaBlock_length {h : List Word} (b : List Word) (hh : h.length = 8) : (shaBlock h b).length = 8 := by
  have step (v : List Word) (kw : Word × Word) (hv : v.length = 8) : (shaStep v kw).length = 8 := by
    unfold shaStep
    split
    · rfl
    · exact hv
  have steps : ((List.zip shaK (shaSchedule b)).foldl shaStep h).length = 8 := List.foldlRecOn (motive := fun v : List Word => v.length = 8) _ _ hh fun _ hv kw _ => step _ kw hv
  rw [shaBlock, List.length_zipWith, hh, steps]
  rfl

theorem shaBlocks_length (n : Nat) {h : List Word} (w : List Word) (hh : h.length = 8) : (shaBlocks n h w).length = 8 := by
  induction n generalizing h w with
  | zero => exact hh
  | succ n ih =>
    rw [shaBlocks]
    split
    · exact hh
    · exact ih _ (shaBlock_length _ hh)

@[simp] theorem sha384_length (m : List Byte) : (sha384 m).length = 48 := by
  have bytes (w : Word) : (beBytes w).length = 8 := by rw [beBytes, List.length_map, List.length_range]
  rw [sha384, List.length_flatMap, List.map_congr_left fun w _ => bytes w]
  simp only [List.map_const', List.sum_replicate, List.length_take, shaBlocks_length _ _ (rfl : shaInit.length = 8)]
  rfl

/-- A quote is its body of 153 bytes, the nonce first, and a signature of 96 (R471). -/
theorem State.quoteBody_length (s : State) (nonce : BitVec 256) : (s.quoteBody nonce).length = 153 := by simp [State.quoteBody]

theorem State.quoteBody_nonce (s : State) (nonce : BitVec 256) (signature : List Byte) : (s.quoteBody nonce ++ signature).take 32 = leBytes 32 nonce.toNat := by
  simp only [State.quoteBody, List.append_assoc]
  exact List.take_left' (leBytes_length ..)

/-! ### Page moves (R117) -/

/-- Of the entries that a choice of keys leaves, a key not chosen reads as the default. -/
theorem sparseGet_filter {α : Type} [DecidableEq α] {d : α} {m : Sparse α} {lo : Nat} (h : sparseWf d lo m = true) (p : Nat → Bool) (b : Nat) :
    sparseGet d (m.filter fun e => p e.1) b = if p b then sparseGet d m b else d := by
  induction m generalizing lo with
  | nil => exact (ite_self d).symm
  | cons e t ih =>
    obtain ⟨k, v⟩ := e
    simp only [sparseWf, Bool.and_eq_true, decide_eq_true_eq] at h
    have rest := ih h.2
    have below := fun hb : b < k + 1 => sparseGet_below h.2 hb
    have split (x : Sparse α) : sparseGet d ((k, v) :: x) b = if k = b then v else if b < k then d else sparseGet d x b := rfl
    by_cases hk : p k = true
    · rw [List.filter_cons_of_pos (p := fun e : Nat × α => p e.1) hk, split, split, rest]
      rcases Nat.lt_trichotomy b k with hlt | rfl | hgt
      · simp [hlt, hlt.ne']
      · simp [hk]
      · simp [hgt.ne, hgt.not_gt]
    · rw [List.filter_cons_of_neg (p := fun e : Nat × α => p e.1) hk, split, rest]
      rcases Nat.lt_trichotomy b k with hlt | rfl | hgt
      · simp [below (by omega), hlt, hlt.ne']
      · simp [hk]
      · simp [hgt.ne, hgt.not_gt]

/-- The entries of a canonical memory, each written at its distance from one place: a byte there reads as the entry's where one is listed, and as before elsewhere. -/
theorem readByte_foldl_moved {l : Memory} {lo src dst : Nat} (h : sparseWf (0 : Byte) lo l = true) (hl : ∀ e ∈ l, src ≤ e.1) {k : Memory} (hk : Memory.wf k = true) (x : Nat) :
    readByte (l.foldl (fun k e => writeByte k (dst + (e.1 - src)) e.2) k) x =
      if dst ≤ x ∧ readByte l (src + (x - dst)) ≠ 0 then readByte l (src + (x - dst)) else readByte k x := by
  induction l generalizing lo k with
  | nil => exact (if_neg fun g => g.2 rfl).symm
  | cons e t ih =>
    obtain ⟨a, b⟩ := e
    simp only [sparseWf, Bool.and_eq_true, decide_eq_true_eq] at h
    obtain ⟨⟨-, hb⟩, ht⟩ := h
    have ha : src ≤ a := hl _ (List.mem_cons_self ..)
    have below (hy : src + (x - dst) < a + 1) : readByte t (src + (x - dst)) = 0 := sparseGet_below ht hy
    have here : readByte ((a, b) :: t) (src + (x - dst)) = if a = src + (x - dst) then b else if src + (x - dst) < a then 0 else readByte t (src + (x - dst)) := rfl
    rw [List.foldl_cons, ih ht (fun e he => hl e (List.mem_cons_of_mem _ he)) (writeByte_wf hk), readByte_writeByte hk, here]
    by_cases hx : dst ≤ x
    · rcases Nat.lt_trichotomy (src + (x - dst)) a with hlt | heq | hgt
      · simp [below (by omega), hlt, hlt.ne', show ¬ x = dst + (a - src) by omega]
      · rw [below (by omega), if_neg fun g => g.2 rfl, if_pos (by omega), if_pos heq.symm, if_pos ⟨hx, hb⟩]
      · simp [hgt.ne, hgt.not_gt, show ¬ x = dst + (a - src) by omega]
    · simp [hx, show ¬ x = dst + (a - src) by omega]

/-- A span moved: the bytes of the source stand at the destination, and every other byte stands (R117). -/
theorem readByte_moveSpan {m : Memory} (h : Memory.wf m = true) (src dst n x : Nat) :
    readByte (moveSpan m src dst n) x = if dst ≤ x ∧ x < dst + n then readByte m (src + (x - dst)) else readByte m x := by
  have chosen (y : Nat) : readByte (m.filter fun e => decide (src ≤ e.1) && decide (e.1 < src + n)) y = if src ≤ y ∧ y < src + n then readByte m y else 0 := by
    have := sparseGet_filter h (fun k => decide (src ≤ k) && decide (k < src + n)) y
    simp only [Bool.and_eq_true, decide_eq_true_eq] at this
    exact this
  have inside : ∀ e ∈ m.filter fun e => decide (src ≤ e.1) && decide (e.1 < src + n), src ≤ e.1 := fun e he => by
    have := (List.mem_filter.1 he).2
    simp only [Bool.and_eq_true, decide_eq_true_eq] at this
    exact this.1
  rw [moveSpan, readByte_foldl_moved (sparseWf_filter _ h) inside (sparseClear_wf h), chosen]
  have cleared : readByte (sparseClear m dst n) x = if dst ≤ x ∧ x < dst + n then 0 else readByte m x := sparseGet_clear h
  rw [cleared]
  by_cases hx : dst ≤ x ∧ x < dst + n
  · have source : src ≤ src + (x - dst) ∧ src + (x - dst) < src + n := by omega
    simp +contextual [hx, source]
  · have source : ¬ (dst ≤ x ∧ src ≤ src + (x - dst) ∧ src + (x - dst) < src + n) := by omega
    simp only [if_neg hx]
    refine if_neg fun g => ?_
    rw [if_neg fun k => source ⟨g.1, k⟩] at g
    exact g.2 rfl

/-- How many bytes the size code of a page names (R117). -/
def pageBytes (size : BitVec 2) : Nat := if size = 0 then 2 ^ 19 else if size = 1 then 2 ^ 25 else 2 ^ 30

/-- With no launch there is nothing that maps the page, and it is moved. -/
theorem pageMove_unmapped {s : State} (h : s.launches = []) (old new : BitVec 56) (size : BitVec 2) : exec (.pageMove old new size) s =
    .next (({ s with dram := moveSpan s.dram old.toNat new.toNat (pageBytes size) } : State).record
      { typ := 0x12, tick := s.tick, place := none, trace := false, payload := [w64 old.toNat, w64 new.toNat, w64 size.toNat] }) :=
  if_neg (by rw [h]; exact Bool.false_ne_true)

/-! ### The boot (R470) -/

section
variable {s : State} (sound : s.host.bootFailed = false) (idle : s.host.bootLeft = 0)

/-- The BOOT record of the fourth step, and none of the others. -/
def State.bootTold (s : State) : State := if s.host.boot = 3 then s.bootRec s.host.bootCause else s

theorem State.bootTold_only (s : State) : s.bootTold = { s with tr := s.bootTold.tr } ∧ s.logs s.bootTold (if s.host.boot = 3 then [0x15] else []) := by
  unfold State.bootTold
  split
  · exact ⟨rfl, State.logs_record ..⟩
  · exact ⟨rfl, State.logs_of_tr rfl⟩

include sound idle

theorem State.bootTick_refused (h : s.host.boot = 1) (bad : s.host.signed = false ∨ s.host.version < s.host.rollback) :
    s.bootTick = { s with host := { s.host with bootFailed := true } } := by
  have live : ¬ (decide (5 ≤ s.host.boot) || s.host.bootFailed) = true := by rw [sound, h]; decide
  have refused : (decide (s.host.boot = 1) && (!s.host.signed || decide (s.host.version < s.host.rollback))) = true := by
    rcases bad with b | b <;> simp [h, b]
  rw [State.bootTick, if_neg live, if_neg (by rw [idle]; exact fun k => k rfl), if_pos refused]

theorem State.bootTick_steps (going : s.host.boot < 5) (good : s.host.boot ≠ 1 ∨ (s.host.signed = true ∧ s.host.rollback ≤ s.host.version)) :
    s.bootTick = { s.bootTold with fresh := s.fresh + 1, host := { s.host with boot := s.host.boot + 1, bootLeft := Config.openDelay s.fresh } } := by
  have live : ¬ (decide (5 ≤ s.host.boot) || s.host.bootFailed) = true := by rw [sound, decide_eq_false (by omega)]; exact Bool.false_ne_true
  have passed : ¬ (decide (s.host.boot = 1) && (!s.host.signed || decide (s.host.version < s.host.rollback))) = true := by
    rcases good with g | ⟨g, v⟩
    · simp [g]
    · simp [g, v]
  rw [State.bootTick, if_neg live, if_neg (by rw [idle]; exact fun k => k rfl), if_neg passed]
  change { s.bootTold with fresh := s.bootTold.fresh + 1, host := { s.bootTold.host with boot := s.bootTold.host.boot + 1, bootLeft := Config.openDelay s.bootTold.fresh } } = _
  rw [s.bootTold_only.1]

end

/-! ### Lifecycle changes (R472) -/

theorem lifecycleChange_written (s : State) (target : Lifecycle) (ok : Bool) : exec (.lifecycleChange target ok) s =
    .next (if (s.host.lifecycle = .manufacture ∧ target = .vehicle ∧ ok = true) ∨ (s.host.lifecycle = .vehicle ∧ target = .bench ∧ ok = true) ∨
      (s.host.lifecycle = .bench ∧ target = .vehicle) then { s with host := { s.host with lifecycleNext := some target } } else s) := by
  change execLifecycleChange target ok s = _
  unfold execLifecycleChange
  cases h : s.host.lifecycle <;> cases target <;> cases ok <;> rfl

/-! ### O54 and O55 -/

/-- Settles O54: each event runs to the state that its rule gives. That memories keep their contents over a module reset is the model's reading (log entry 19), so are the five steps of the
boot (log entry 45); the order and the length of a quote are its choice (log entry 8). -/
theorem boot : Obligations.Boot := by
  intro s
  refine ⟨fun cause ok => ?reset, fun going sound idle => ⟨fun h bad => ?refused, fun good => ?steps⟩, ?collapse, fun target ok => ?lifecycle, fun nonce => ?quote,
    fun old new size none wf => ?move⟩
  case reset =>
    have core (c : CoreIx) : ({ s with cores := s.cores.map fun k =>
        { CoreState.init with abuf := k.abuf, wbuf := k.wbuf, cbuf := k.cbuf, blockStore := k.blockStore } } : State).core c =
        { CoreState.init with abuf := (s.core c).abuf, wbuf := (s.core c).wbuf, cbuf := (s.core c).cbuf, blockStore := (s.core c).blockStore } := Vector.getElem_map ..
    refine ⟨_, rfl, rfl, rfl, fun c => ⟨congrArg CoreState.ctx (core c), congrArg CoreState.launch (core c)⟩, rfl, rfl, rfl, rfl, rfl, rfl, rfl, rfl, rfl, rfl, rfl, rfl, rfl, rfl, rfl⟩
  case refused => exact State.bootTick_refused sound idle h bad
  case steps =>
    obtain ⟨only, logs⟩ := s.bootTold_only
    have stepped := State.bootTick_steps sound idle going good
    refine ⟨?_, ?_, ?_, ?_, ?_⟩
    case refine_3 =>
      rw [stepped]
      exact logs
    all_goals rw [stepped, only]
    · exact sound
    · exact ⟨rfl, rfl, rfl, rfl, rfl, rfl, rfl, rfl⟩
  case collapse =>
    exact ⟨_, rfl, rfl, fun c => Vector.getElem_replicate .., rfl, rfl, rfl, rfl, rfl, rfl, rfl, rfl⟩
  case lifecycle =>
    refine ⟨_, lifecycleChange_written s target ok, ?_⟩
    split
    · exact ⟨rfl, .of_host rfl⟩
    · exact ⟨rfl, .of_host rfl⟩
  case quote =>
    exact ⟨_, rfl, ⟨_, rfl, State.quoteBody_nonce .., by simp [State.quoteBody_length]⟩, .of_host rfl⟩
  case move =>
    refine ⟨_, pageMove_unmapped none old new size, fun apart => ⟨fun i hi => ?_, fun x hx => ?_⟩, State.logs_record .., rfl, rfl, rfl, rfl, rfl⟩
    · have := readByte_moveSpan (State.dram_wf wf) old.toNat new.toNat (pageBytes size) (new.toNat + i)
      rw [if_pos ⟨Nat.le_add_right .., Nat.add_lt_add_left hi _⟩, Nat.add_sub_cancel_left] at this
      exact this
    · exact (readByte_moveSpan (State.dram_wf wf) ..).trans (if_neg (by change ¬ (_ ∧ x < new.toNat + (if size = 0 then _ else _)); omega))

/-- Settles O55: every register of the state after reset, read off its definition. Barrier units at 0, empty range tables and queues and canonical memories are the model's choice (log
entries 2 and 3), as is that planes, ownership entries and streams are clear at reset already and not only at a launch's origin tick. -/
theorem resetState : Obligations.ResetState := by
  have core (c : CoreIx) : State.reset.core c = .init := Vector.getElem_replicate ..
  have ctx (c : CoreIx) : State.reset.ctx c = .init := congrArg CoreState.ctx (core c)
  have seq (c : CoreIx) (q : SeqIx) : State.reset.seq c q = .init := (congrArg (fun x : CoreCtx => x.seqs[q]) (ctx c)).trans (Vector.getElem_replicate ..)
  have queue (q : QueueIx) : State.reset.fe.queues[q] = .init := Vector.getElem_replicate ..
  refine ⟨rfl, rfl, fun c => ?_, rfl, rfl, rfl, fun q => ?_, fun g => Vector.getElem_replicate .., rfl, rfl, rfl, rfl, ?_, rfl⟩
  · rw [core, ctx]
    refine ⟨rfl, rfl, rfl, rfl, fun u => Vector.getElem_replicate .., fun k => ?_, fun r => ?_, fun t => Vector.getElem_replicate .., fun q => ?_⟩
    · have chan : CoreCtx.init.chans[k] = .init := Vector.getElem_replicate ..
      rw [chan]
      exact ⟨rfl, rfl⟩
    · have region : CoreCtx.init.regions[r] = .init := Vector.getElem_replicate ..
      rw [region]
      exact ⟨rfl, rfl, rfl⟩
    · rw [seq]
      exact ⟨rfl, rfl, rfl, rfl, rfl⟩
  · rw [queue]
    exact ⟨rfl, rfl, rfl, rfl⟩
  · decide

end Sys2Proof.Machine
end

section
/-! SUPPORT. The cut of an activation's engine operations (R67, R359, R393, R394): what the commands that still take effect leave standing, what a cut leaves of each engine, and what the
death of an activation leaves of its sequencer and of the others. -/

namespace Sys2Proof.Machine

/-! ### What commands that take effect at a cut leave standing (R393, R394) -/

/-- A sequencer but for its running block, which may have been woken; none comes to be where none ran. -/
def SeqState.stands (x y : SeqState) : Prop := ∃ r, y = { x with run := r } ∧ (x.run = none → r = none)

theorem SeqState.stands.refl (x : SeqState) : x.stands x := ⟨x.run, rfl, id⟩

theorem SeqState.stands.trans {x y z : SeqState} (h : x.stands y) (k : y.stands z) : x.stands z := by
  obtain ⟨r, rfl, hr⟩ := h
  obtain ⟨r', rfl, hr'⟩ := k
  exact ⟨r', rfl, fun hx => hr' (hr hx)⟩

theorem SeqState.stands_map {f : SeqState → SeqState} (hf : ∀ x : SeqState, x.stands (f x)) (v : Vector SeqState 7) (q : SeqIx) : v[q].stands (v.map f)[q] := by
  have here : (v.map f)[q] = f v[q] := Vector.getElem_map ..
  rw [here]
  exact hf _

/-- Launches, block stores and sequencers stand, but for words that a write has woken; without memory errors there is no record either. -/
structure Settles (s t : State) : Prop where
  tick : t.tick = s.tick
  launches : t.launches = s.launches
  held : ∀ c, (t.core c).launch = (s.core c).launch
  blockStore : ∀ c, (t.core c).blockStore = (s.core c).blockStore
  seqs : ∀ c q, (s.seq c q).stands (t.seq c q)
  clean : s.ecc = [] → t.ecc = [] ∧ t.tr = s.tr

namespace Settles

theorem refl (s : State) : Settles s s := ⟨rfl, rfl, fun _ => rfl, fun _ => rfl, fun _ _ => .refl _, fun h => ⟨h, rfl⟩⟩

theorem trans {s t u : State} (h : Settles s t) (k : Settles t u) : Settles s u where
  tick := k.tick.trans h.tick
  launches := k.launches.trans h.launches
  held c := (k.held c).trans (h.held c)
  blockStore c := (k.blockStore c).trans (h.blockStore c)
  seqs c q := (h.seqs c q).trans (k.seqs c q)
  clean e := ⟨(k.clean (h.clean e).1).1, (k.clean (h.clean e).1).2.trans (h.clean e).2⟩

theorem foldl {α : Type} {f : State → α → State} (h : ∀ s a, Settles s (f s a)) (l : List α) (s : State) : Settles s (l.foldl f s) := by
  induction l generalizing s with
  | nil => exact refl s
  | cons a l ih => exact (h s a).trans (ih _)

theorem ite {s t u : State} {p : Prop} [Decidable p] (h : Settles s t) (k : Settles s u) : Settles s (if p then t else u) := by
  split
  · exact h
  · exact k

theorem coreLaunch {s t : State} (h : Settles s t) (c : CoreIx) : t.coreLaunch? c = s.coreLaunch? c := by
  rw [State.coreLaunch?, State.coreLaunch?, h.held, State.launch?_congr h.launches]

variable (s : State) (c : CoreIx)

/-- A change of one core that keeps its launch and its block store, and its sequencers but for woken words. -/
theorem updCore {f : CoreState → CoreState} (hl : ∀ k, (f k).launch = k.launch := by exact fun _ => rfl) (hb : ∀ k, (f k).blockStore = k.blockStore := by exact fun _ => rfl)
    (hs : ∀ (k : CoreState) (q : SeqIx), k.ctx.seqs[q].stands (f k).ctx.seqs[q] := by exact fun _ _ => .refl _) : Settles s (s.updCore c f) := by
  have here {d : CoreIx} (hd : d ≠ c) := State.core_updCore_ne s c d f hd
  refine ⟨rfl, rfl, fun d => ?_, fun d => ?_, fun d q => ?_, fun h => ⟨h, rfl⟩⟩
  · by_cases hd : d = c
    · rw [hd, State.core_updCore, hl]
    · rw [here hd]
  · by_cases hd : d = c
    · rw [hd, State.core_updCore, hb]
    · rw [here hd]
  · by_cases hd : d = c
    · have same : (s.updCore c f).seq d q = (f (s.core d)).ctx.seqs[q] := congrArg (fun k : CoreState => k.ctx.seqs[q]) (hd ▸ s.core_updCore c f)
      rw [same]
      exact hs (s.core d) q
    · have same : (s.updCore c f).seq d q = s.seq d q := congrArg (fun k : CoreState => k.ctx.seqs[q]) (here hd)
      rw [same]
      exact .refl _

theorem updCtx {f : CoreCtx → CoreCtx} (hs : ∀ (x : CoreCtx) (q : SeqIx), x.seqs[q].stands (f x).seqs[q] := by exact fun _ _ => .refl _) : Settles s (s.updCtx c f) :=
  updCore s c (hs := fun k => hs k.ctx)

theorem softRead (pw : Word) (space : Fin 10) (place a n : Nat) : Settles s (s.softRead pw none space place a n) := by
  obtain ⟨tr, ecc, h⟩ := s.softRead_only pw space place a n
  refine ⟨?_, ?_, fun _ => ?_, fun _ => ?_, fun _ _ => ?_, fun clean => ?_⟩
  case refine_6 =>
    rw [State.softRead_of_clean clean]
    exact ⟨clean, rfl⟩
  all_goals rw [h]
  · rfl
  · rfl
  · exact .refl _

theorem softWrite (pw : Word) (space : Fin 10) (place a n : Nat) : Settles s (s.softWrite pw none space place a n) := by
  unfold State.softWrite
  dsimp only
  split_ifs
  · exact refl s
  · exact refl s
  · exact softRead ..
  · exact softRead ..
  · exact (softRead ..).trans (softRead ..)

theorem clearErrors (space : Fin 10) (place a n : Nat) : Settles s (s.clearErrors space place a n) :=
  ⟨rfl, rfl, fun _ => rfl, fun _ => rfl, fun _ _ => .refl _, fun h => by rw [State.clearErrors_of_clean h]; exact ⟨h, rfl⟩⟩

theorem wakeCore (pantry : Bool) (die : Fin 4) (lo n : Nat) : Settles s (s.wakeCore c pantry die lo n) :=
  ite (refl s) (updCtx s c fun _ _ => SeqState.stands_map (fun _ => ⟨_, rfl, fun h => congrArg (Option.map _) h⟩) ..)

theorem writeBank (phys : Nat) (bytes : List Byte) (who : Option (CoreIx × SeqIx × Bool)) : Settles s (s.writeBank c phys bytes who) := by
  unfold State.writeBank
  split
  · exact updCore s c
  · exact (updCore s c).trans (wakeCore ..)

theorem writeA (phys : Nat) (bytes : List Byte) (who : Option (CoreIx × SeqIx × Bool)) : Settles s (s.writeA c phys bytes who) := by
  unfold State.writeA
  split
  · exact writeBank ..
  · exact foldl (fun s p => writeBank s c ..) _ s

/-- A write of the A-buffer clears the errors of the units that it covers. -/
theorem chipWriteA (place phys : Nat) (bytes : List Byte) (who : Option (CoreIx × SeqIx × Bool)) : Settles s (s.chipWrite (1, place, phys) bytes who) :=
  (clearErrors ..).trans (writeA ..)

theorem touch (phys : Nat) : Settles s (s.touch c phys) := updCore s c

theorem ssEffect (r : SsRun) : Settles s (s.ssEffect c r).1 := by
  unfold State.ssEffect
  dsimp only
  split
  · exact refl s
  · dsimp only
    refine trans ?_ (updCtx ..)
    refine trans ?_ (foldl (fun s e => clearErrors ..) _ _)
    exact foldl (fun s u => ((softWrite ..).trans (touch ..)).trans (chipWriteA ..)) _ s

theorem settleStoch (p : Owner → Bool) : Settles s (s.settleStoch c p) := by
  unfold State.settleStoch
  dsimp only
  split
  · exact refl s
  · exact (foldl (fun _ _ => ssEffect ..) _ s).trans (updCtx ..)

/-- A cut of engine operations while their core's tick goes on (R67). -/
theorem cutOps (p : Owner → Bool) : Settles s (s.cutOps c p) := (settleStoch ..).trans (updCtx ..)

end Settles

/-! ### What a cut leaves of each engine (R67, R278, R324, R359, R393) -/

section
variable {p : Owner → Bool}

theorem not_owned_of_filter {l : List EngineCmd} {k : EngineCmd} (h : k ∈ l.filter fun k => !p k.owner) : p k.owner = false := by simpa using (List.mem_filter.1 h).2

theorem CopyChan.mem_queue_of_live {x : CopyChan} {k : EngineCmd} (h : k ∈ x.live) : k ∈ x.queue := by
  unfold CopyChan.live at h
  split at h
  · split at h
    · exact List.mem_of_mem_drop h
    · exact h
  · exact h

theorem CopyChan.cut_live {x : CopyChan} {k : EngineCmd} (h : k ∈ (x.cut p).live) : p k.owner = false := by
  have queued := CopyChan.mem_queue_of_live h
  unfold CopyChan.cut at queued
  split at queued
  · next hq => rw [hq] at queued; cases queued
  · next e t hq =>
    by_cases he : p e.owner = true
    · rw [if_pos he] at queued
      exact not_owned_of_filter queued
    · rw [if_neg he] at queued
      rcases List.mem_cons.1 queued with rfl | queued
      · exact Bool.eq_false_iff.2 he
      · exact not_owned_of_filter queued

theorem CopyChan.doom_live {x : CopyChan} {k : EngineCmd} (h : k ∈ (x.doom p).live) : p k.owner = false := by
  unfold CopyChan.doom at h
  split at h
  · split at h
    · exact not_owned_of_filter h
    · exact cut_live h
  · exact cut_live h

theorem RegionState.cut_eq (x : RegionState) : x.cut p =
    { x with queue := x.queue.filter fun k => !p k.owner, port := x.port.filter fun j => !p j.owner,
             loading := if x.port.any fun j => p j.owner then none else x.loading, round := x.round.map fun r => if p r.cmd.owner then { r with cut := true } else r } := by
  obtain ⟨queue, started, active, shadow, loading, bound, port, round, flights, sinks, ap, held, lastN, lastRc, uncorr⟩ := x
  cases port with
  | none =>
    cases round with
    | none => rfl
    | some r => by_cases hr : p r.cmd.owner = true <;> simp [RegionState.cut, hr]
  | some j =>
    by_cases hj : p j.owner = true <;> cases round with
    | none => simp [RegionState.cut, Option.filter, hj]
    | some r => by_cases hr : p r.cmd.owner = true <;> simp [RegionState.cut, Option.filter, hj, hr]

theorem RegionState.cut_queue {x : RegionState} {k : EngineCmd} (h : k ∈ (x.cut p).queue) : p k.owner = false := by
  rw [cut_eq] at h
  exact not_owned_of_filter h

theorem RegionState.cut_round {x : RegionState} {k : RoundRun} (h : (x.cut p).round = some k) (hk : p k.cmd.owner = true) : k.cut = true := by
  rw [cut_eq] at h
  obtain ⟨r, -, rfl⟩ := Option.map_eq_some_iff.1 h
  by_cases hr : p r.cmd.owner = true
  · rw [if_pos hr]
  · rw [if_neg hr] at hk
    exact absurd hk hr

theorem RegionState.cut_port {x : RegionState} {j : PortJob} (h : (x.cut p).port = some j) : p j.owner = false := by
  rw [cut_eq] at h
  simpa using (Option.filter_eq_some_iff.1 h).2

theorem MatrixState.cut_queue {x : MatrixState} {k : EngineCmd} (h : k ∈ (x.cut p).queue) : p k.owner = false := by
  have queue : (x.cut p).queue = x.queue.filter fun k => !p k.owner := by
    unfold MatrixState.cut
    dsimp only
    split
    · split_ifs <;> rfl
    · rfl
  rw [queue] at h
  exact not_owned_of_filter h

theorem MatrixState.cut_compute {x : MatrixState} {k : MxRun} (h : (x.cut p).compute = some k) (hk : p k.cmd.owner = true) : k.failed = true := by
  unfold MatrixState.cut at h
  dsimp only at h
  split at h
  · next r hr =>
    split_ifs at h with other ended
    · rw [hr] at h
      cases h
      simp [hk] at other
    · cases h
    · cases h
      rfl
  · next hr => rw [hr] at h; cases h

theorem MatrixState.cut_load {x : MatrixState} {k : MxRun} (h : (x.cut p).load = some k) (hk : p k.cmd.owner = true) : k.failed = true := by
  have load : (x.cut p).load = x.load.map fun r => if p r.cmd.owner then { r with failed := true } else r := by
    unfold MatrixState.cut
    dsimp only
    split
    · split_ifs <;> rfl
    · rfl
  rw [load] at h
  obtain ⟨r, -, rfl⟩ := Option.map_eq_some_iff.1 h
  by_cases hr : p r.cmd.owner = true
  · rw [if_pos hr]
  · rw [if_neg hr] at hk
    exact absurd hk hr

theorem MatrixState.cut_read {x : MatrixState} {k : MxRun} (h : (x.cut p).read = some k) : p k.cmd.owner = false := by
  have read : (x.cut p).read = x.read.filter fun r => !p r.cmd.owner := by
    unfold MatrixState.cut
    dsimp only
    split
    · split_ifs <;> rfl
    · rfl
  rw [read] at h
  simpa using (Option.filter_eq_some_iff.1 h).2

theorem StochState.cut_unit {x : StochState} {u : SsUnit} {k : SsRun} (h : k ∈ (x.cut p).unit u) : p k.cmd.owner = false := by
  have unit : (x.cut p).unit u = (x.unit u).filter fun r => !p r.cmd.owner := by cases u <;> rfl
  rw [unit] at h
  simpa using (List.mem_filter.1 h).2

end

/-! ### Buffers and the rest of the module -/

namespace SameBuffers

theorem of_module {s t : State} (h : t = { s with tr := t.tr, todo := t.todo, focus := t.focus }) : SameBuffers s t := by
  rw [h]
  exact ⟨⟨rfl, rfl, rfl, rfl, rfl, rfl, rfl, rfl, rfl, rfl⟩, fun _ => rfl, fun _ => rfl, fun _ => rfl, fun _ => rfl⟩

theorem trans {s t u : State} (h : SameBuffers s t) (k : SameBuffers t u) : SameBuffers s u where
  module := ⟨k.module.tick.trans h.module.tick, k.module.dies.trans h.module.dies, k.module.dram.trans h.module.dram, k.module.hostMem.trans h.module.hostMem,
    k.module.launches.trans h.module.launches, k.module.fe.trans h.module.fe, k.module.tm.trans h.module.tm, k.module.host.trans h.module.host, k.module.health.trans h.module.health,
    k.module.ecc.trans h.module.ecc⟩
  abuf c := (k.abuf c).trans (h.abuf c)
  wbuf c := (k.wbuf c).trans (h.wbuf c)
  cbuf c := (k.cbuf c).trans (h.cbuf c)
  blockStore c := (k.blockStore c).trans (h.blockStore c)

theorem updCtx (s : State) (c : CoreIx) (f : CoreCtx → CoreCtx) : SameBuffers s (s.updCtx c f) :=
  ⟨⟨rfl, rfl, rfl, rfl, rfl, rfl, rfl, rfl, rfl, rfl⟩, fun d => by rw [State.core_updCtx], fun d => by rw [State.core_updCtx], fun d => by rw [State.core_updCtx],
    fun d => by rw [State.core_updCtx]⟩

theorem updSeq (s : State) (c : CoreIx) (q : SeqIx) (f : SeqState → SeqState) : SameBuffers s (s.updSeq c q f) := updCtx ..

end SameBuffers

theorem State.seq_updSeq_other (s : State) {c d : CoreIx} {q r : SeqIx} (f : SeqState → SeqState) (h : (d, r) ≠ (c, q)) : (s.updSeq c q f).seq d r = s.seq d r :=
  State.seq_updSeq_ne s c d q r f (by rwa [Ne, Prod.mk.injEq, not_and_or] at h)

/-- A change of a context that keeps its sequencers. -/
theorem State.seq_updCtx (s : State) (c d : CoreIx) (q : SeqIx) {f : CoreCtx → CoreCtx} (hf : ∀ x, (f x).seqs = x.seqs) : (s.updCtx c f).seq d q = s.seq d q := by
  have ctx : ((s.updCtx c f).ctx d).seqs = (s.ctx d).seqs := by
    rw [State.ctx, State.core_updCtx]
    split
    · exact hf _
    · rfl
  exact congrArg (fun v : Vector SeqState 7 => v[q]) ctx

theorem State.ctx_updSeq (s : State) (c : CoreIx) (q : SeqIx) (f : SeqState → SeqState) : (s.updSeq c q f).ctx c = { s.ctx c with seqs := ((s.updSeq c q f).ctx c).seqs } := by
  rw [State.updSeq, State.ctx_updCtx]

/-! ### Cores changed one after another -/

theorem State.foldl_updCore_only (f : CoreIx → CoreState → CoreState) (cores : List CoreIx) (s : State) : ∃ x, cores.foldl (fun s c => s.updCore c (f c)) s = { s with cores := x } := by
  induction cores generalizing s with
  | nil => exact ⟨_, rfl⟩
  | cons c cores ih =>
    obtain ⟨x, h⟩ := ih (s.updCore c (f c))
    exact ⟨x, h⟩

theorem State.foldl_updCore_other (f : CoreIx → CoreState → CoreState) {cores : List CoreIx} {d : CoreIx} (s : State) (h : d ∉ cores) :
    (cores.foldl (fun s c => s.updCore c (f c)) s).core d = s.core d := by
  induction cores generalizing s with
  | nil => rfl
  | cons c cores ih =>
    rw [List.mem_cons, not_or] at h
    exact (ih _ h.2).trans (State.core_updCore_ne _ _ _ _ h.1)

/-! ### A record changes no core -/

section
variable (s : State) (r : Rec) (c : CoreIx)

theorem State.core_record : (s.record r).core c = s.core c := rfl

theorem State.ctx_record : (s.record r).ctx c = s.ctx c := rfl

theorem State.seq_record (q : SeqIx) : (s.record r).seq c q = s.seq c q := rfl

theorem State.coreLaunch_record : (s.record r).coreLaunch? c = s.coreLaunch? c := rfl

theorem SameBuffers.record : SameBuffers s (s.record r) := .of_module rfl

end

/-! ### A core that has no operation to cut -/

theorem State.settleStoch_idle {s : State} {c : CoreIx} {p : Owner → Bool} (h : (s.ctx c).busyFor p = false) : s.settleStoch c p = s := by
  simp only [CoreCtx.busyFor, Bool.or_eq_false_iff] at h
  refine if_pos (List.isEmpty_iff.2 (List.filter_eq_nil_iff.2 fun r hr => ?_))
  rw [Bool.eq_false_iff.2 (List.any_eq_false.1 h.2 r hr)]
  exact Bool.false_ne_true

theorem State.cutOps_idle {s : State} {c : CoreIx} {p : Owner → Bool} (h : (s.ctx c).busyFor p = false) : s.cutOps c p = s.updCtx c (CoreCtx.doom p) := by
  rw [State.cutOps, State.settleStoch_idle h]

/-! ### An activation that dies (R80) -/

/-- Whether an engine operation is of an activation. -/
def Activation.owns (a : Activation) (o : Owner) : Bool := o.launch == a.launch && o.act == a.id

/-- A sequencer whose activation has been killed. -/
def SeqState.dead (x : SeqState) : SeqState := { x with run := none, succ := none, held := none, loops := [], act := none, killed := true }

section
variable (s : State) (c : CoreIx) (q : SeqIx) (a : Activation)

theorem State.kill_eq : s.kill c q a = (((s.abandon c q).cutOps c a.owns).updSeq c q fun x => { x with act := none, killed := true }) := rfl

theorem State.kill_seq : (s.kill c q a).seq c q = (s.seq c q).dead := by
  obtain ⟨r, seq, unrun⟩ := (Settles.cutOps (s.abandon c q) c a.owns).seqs c q
  rw [State.abandon, State.seq_updSeq] at seq unrun
  rw [State.kill_eq, State.seq_updSeq, State.abandon, seq, unrun rfl]
  rfl

theorem State.kill_others {d : CoreIx} {r : SeqIx} (h : (d, r) ≠ (c, q)) : (s.seq d r).stands ((s.kill c q a).seq d r) := by
  have cut := (Settles.cutOps (s.abandon c q) c a.owns).seqs d r
  rw [State.abandon, State.seq_updSeq_other _ _ h] at cut
  rw [State.kill_eq, State.seq_updSeq_other _ _ h]
  exact cut

theorem State.kill_tick : (s.kill c q a).tick = s.tick := (Settles.cutOps (s.abandon c q) c a.owns).tick

theorem State.kill_launches : (s.kill c q a).launches = s.launches := (Settles.cutOps (s.abandon c q) c a.owns).launches

/-- The death of an activation without engine operations changes its sequencer, and nothing else but what its engines would cut. -/
theorem State.kill_idle (h : (s.ctx c).busyFor a.owns = false) :
    (s.kill c q a).tr = s.tr ∧ SameBuffers s (s.kill c q a) ∧ ∀ d r, (d, r) ≠ (c, q) → (s.kill c q a).seq d r = s.seq d r := by
  have idle : ((s.abandon c q).ctx c).busyFor a.owns = false := by
    rw [State.abandon, State.ctx_updSeq]
    exact h
  rw [State.kill_eq, State.cutOps_idle idle]
  refine ⟨rfl, ((SameBuffers.updSeq ..).trans (.updCtx ..)).trans (.updSeq ..), fun d r hd => ?_⟩
  rw [State.seq_updSeq_other _ _ hd, State.seq_updCtx _ _ _ _ (f := CoreCtx.doom a.owns) fun _ => rfl, State.abandon, State.seq_updSeq_other _ _ hd]

end

end Sys2Proof.Machine
end

section
/-! SUPPORT. Overruns, fallbacks and their deadlines, halting freezes and retrains (R66 to R73, R468); then the statement O45. -/

namespace Sys2Proof.Machine

/-! ### A block and an activation that start where no memory error stands (R57, R121, R199) -/

/-- A block is read from the block store, and stopped by errors of it; nothing else decides what it is. -/
theorem State.openBlock_congr {s t : State} {c : CoreIx} (hb : (t.core c).blockStore = (s.core c).blockStore) (he : t.ecc = s.ecc) (addr : BitVec 24) (q : SeqIx)
    (g : Vector Word 64) : t.openBlock c addr q g = s.openBlock c addr q g := by
  have word : t.storeWord c = s.storeWord c := by
    funext k
    rw [State.storeWord, State.storeWord, hb]
  have hard : t.hardError = s.hardError := by
    funext space place x n
    rw [State.hardError, State.hardError, he]
  unfold State.openBlock
  simp only [word, hard]

theorem State.startActivation_clean {s : State} (h : s.ecc = []) (c : CoreIx) (q : SeqIx) (a : Activation) (block : BitVec 24) (g : Vector Word 64) :
    s.startActivation c q a block g = s.updSeq c q (·.started a block (s.openBlock c block q (g.set 63 a.arg))) := by
  unfold State.startActivation State.startBlock
  extract_lets u r v
  have read : v = u := State.softRead_of_clean (s := u) h ..
  have opened : r = s.openBlock c block q (g.set 63 a.arg) := State.openBlock_congr ((SameBuffers.updSeq ..).blockStore c) rfl ..
  rw [read, opened, State.updSeq_updSeq]
  rfl

/-- An activation that has become its fallback (R68). -/
def Activation.asFallback (a : Activation) : Activation := { a with isFallback := true, ran := 0, pwbSeen := 0 }

/-- The FALLBACK record (R436). -/
def State.fallbackRec (s : State) (c : CoreIx) (q : SeqIx) (a : Activation) (fb : BitVec 24) : State :=
  s.record { typ := 0x05, tick := s.tick, place := some (s.placeCore a.launch c q), trace := false, payload := [w64 (a.entry.toNat + fb.toNat * 2 ^ 12), w64 (a.fbDeadline % 2 ^ 63)] }

/-- A fallback whose first block is sound starts, with its record. -/
theorem State.startFallback_clean {s : State} {c : CoreIx} {q : SeqIx} {a : Activation} {fb : BitVec 24} (h : s.ecc = [])
    (going : ∀ l, s.coreLaunch? c = some l → l.stopped s.tick = false) (sound : (s.openBlock c fb q ((s.seq c q).g.set 63 a.arg)).trap = none) :
    s.startFallback c q a fb = (s.fallbackRec c q a fb).updSeq c q (·.started a.asFallback fb (s.openBlock c fb q ((s.seq c q).g.set 63 a.arg))) := by
  have opened : s.startFallback c q a fb = s.openFallback c q a fb (s.seq c q).g := by
    unfold State.startFallback
    split
    · next l hl => exact if_neg (ne_true_of_eq_false (going l hl))
    · rfl
  have started : (s.fallbackRec c q a fb).startActivation c q a.asFallback fb (s.seq c q).g =
      (s.fallbackRec c q a fb).updSeq c q (·.started a.asFallback fb (s.openBlock c fb q ((s.seq c q).g.set 63 a.arg))) := State.startActivation_clean (s := s.fallbackRec c q a fb) h ..
  have run : (((s.fallbackRec c q a fb).updSeq c q (·.started a.asFallback fb (s.openBlock c fb q ((s.seq c q).g.set 63 a.arg)))).seq c q).run.bind (·.trap) = none := by
    rw [State.seq_updSeq]
    exact sound
  rw [opened]
  change (match (((s.fallbackRec c q a fb).startActivation c q a.asFallback fb (s.seq c q).g).seq c q).run.bind (·.trap) with
    | none => (s.fallbackRec c q a fb).startActivation c q a.asFallback fb (s.seq c q).g
    | some t => _) = _
  rw [started, run]

/-! ### Overruns (R66 to R69) -/

/-- The block that stands, or stood last, on a sequencer. -/
def SeqState.block (x : SeqState) : BitVec 24 := match x.run with | some r => r.addr | none => x.actCur

/-- A sequencer whose activation has overrun: its cause registers, and its block abandoned. -/
def SeqState.overran (x : SeqState) (tick : Nat) (block : BitVec 24) : SeqState :=
  { x with trapDetail := 0, trapCause := 0x08, trapTick := BitVec.ofNat 40 tick, trapBlock := block, overrun := true, answered := true, run := none, succ := none, held := none, loops := [] }

/-- The overrun answered: the block abandoned, the engine operations cut, the OVERRUN record handed over (R436). -/
def State.overrunCut (s : State) (c : CoreIx) (q : SeqIx) (a : Activation) : State := (s.updSeq c q (·.overran s.tick (s.seq c q).block)).cutOps c a.owns

def State.overrunTold (s : State) (c : CoreIx) (q : SeqIx) (a : Activation) : State :=
  (s.overrunCut c q a).record
    { typ := 0x04, tick := (s.overrunCut c q a).tick, place := some ((s.overrunCut c q a).placeCore a.launch c q), trace := false,
      payload := [w64 (a.entry.toNat + a.inst.toNat * 2 ^ 12), w64 (a.deadline % 2 ^ 63), w64 ((s.overrunCut c q a).tick % 2 ^ 63)] }

theorem State.overrunCut_settles (s : State) (c : CoreIx) (q : SeqIx) (a : Activation) :
    Settles (s.updSeq c q (·.overran s.tick (s.seq c q).block)) (s.overrunCut c q a) := .cutOps ..

section
variable {s : State} {c : CoreIx} {q : SeqIx} {a : Activation} (h : (s.seq c q).act = some a) (drain : a.drain = false) (runs : s.seqRuns c q = true)
include h drain runs

theorem overrun_answered (hf : a.isFallback = false) (due : a.deadline ≤ s.tick) : exec (.overrun c q) s =
    (match a.fallback with
    | some fb => if s.tick < a.fbDeadline then .next ((s.overrunTold c q a).startFallback c q a fb)
      else .next ((s.overrunTold c q a).faultCancel c q a.launch 0 0x08 0 (s.seq c q).block.toNat)
    | none => .next ((s.overrunTold c q a).faultCancel c q a.launch 0 0x08 0 (s.seq c q).block.toNat)) := by
  have live : ¬ (a.isFallback || a.drain || !s.seqRuns c q || decide (s.tick < a.deadline)) = true := by
    rw [hf, drain, runs, decide_eq_false (by omega)]
    exact Bool.false_ne_true
  have cut : (((s.setCause c q ⟨0x08, 0⟩ (s.seq c q).block).updSeq c q fun x => { x with overrun := true, answered := true }).abandon c q).cutActivation c a =
      s.overrunCut c q a := by
    rw [State.abandon, State.setCause, State.updSeq_updSeq, State.updSeq_updSeq]
    rfl
  have tick : s.tick = (s.overrunTold c q a).tick := (s.overrunCut_settles c q a).tick.symm
  change execOverrun c q s = _
  rw [execOverrun, h]
  refine (if_neg live).trans ?_
  rw [tick, State.overrunTold, ← cut]
  rfl

theorem fallbackDeadline_answered (hf : a.isFallback = true) (due : a.fbDeadline ≤ s.tick) : exec (.fallbackDeadline c q) s =
    .next ((s.setCause c q ⟨0x08, 0⟩ (s.seq c q).block).faultCancel c q a.launch 0 0x08 0 (s.seq c q).block.toNat) := by
  have live : ¬ (!a.isFallback || a.drain || !s.seqRuns c q || decide (s.tick < a.fbDeadline)) = true := by
    rw [hf, drain, runs, decide_eq_false (by omega)]
    exact Bool.false_ne_true
  change execFallbackDeadline c q s = _
  rw [execFallbackDeadline, h]
  exact if_neg live

end

/-- A fault of an activation leaves no launch of its domain (R26). -/
theorem State.faultCancel_domainGone {s t : State} (h : t.launches = s.launches) (c : CoreIx) (q : SeqIx) (n : LaunchNo) (source code detail addr : Nat) :
    s.domainGone (t.faultCancel c q n source code detail addr) (s.fdomOf n) := by
  have domain : t.fdomOf n = s.fdomOf n := by rw [State.fdomOf, State.fdomOf, State.launch?_congr h]
  have gone := State.cancelDomain_domainGone (t.faultRec (some (t.placeCore n c q)) source code detail true (t.fdomOf n) addr (t.tagOf n) 0) (t.fdomOf n)
  rw [← domain]
  intro l hl
  exact gone l (h ▸ hl)

section
variable (s : State) (c : CoreIx) (q : SeqIx) (a : Activation)

theorem State.overrunTold_seq : (s.overrunTold c q a).seq c q = (s.seq c q).overran s.tick (s.seq c q).block := by
  obtain ⟨r, seq, unrun⟩ := (s.overrunCut_settles c q a).seqs c q
  rw [State.seq_updSeq] at seq unrun
  rw [State.overrunTold, State.seq_record, seq, unrun rfl]
  rfl

theorem State.overrunTold_blockStore : ((s.overrunTold c q a).core c).blockStore = (s.core c).blockStore := by
  rw [State.overrunTold, State.core_record]
  exact ((s.overrunCut_settles c q a).blockStore c).trans ((SameBuffers.updSeq ..).blockStore c)

theorem State.overrunTold_coreLaunch : (s.overrunTold c q a).coreLaunch? c = s.coreLaunch? c := by
  have held : ((s.updSeq c q (·.overran s.tick (s.seq c q).block)).core c).launch = (s.core c).launch := by rw [State.updSeq, State.core_updCtx]
  rw [State.overrunTold, State.coreLaunch_record]
  exact ((s.overrunCut_settles c q a).coreLaunch c).trans (congrArg s.launch? held)

/-- The engines of the core, cut (R67). -/
theorem State.overrunTold_ctx : (s.overrunTold c q a).ctx c = CoreCtx.doom a.owns (((s.updSeq c q (·.overran s.tick (s.seq c q).block)).settleStoch c a.owns).ctx c) := by
  rw [State.overrunTold, State.ctx_record]
  exact State.ctx_updCtx ..

theorem State.overrunTold_logs (clean : s.ecc = []) : (s.overrunTold c q a).ecc = [] ∧ s.logs (s.overrunTold c q a) [0x04] := by
  obtain ⟨cleanCut, trace⟩ := (s.overrunCut_settles c q a).clean clean
  exact ⟨cleanCut, (State.logs_of_tr (s := s) trace).trans (State.logs_record ..)⟩

theorem State.overrunTold_idle (idle : (s.ctx c).busyFor a.owns = false) :
    SameBuffers s (s.overrunTold c q a) ∧ ∀ d r, (d, r) ≠ (c, q) → (s.overrunTold c q a).seq d r = s.seq d r := by
  have same : s.overrunCut c q a = (s.updSeq c q (·.overran s.tick (s.seq c q).block)).updCtx c (CoreCtx.doom a.owns) := State.cutOps_idle (by rw [State.ctx_updSeq]; exact idle)
  have cut : SameBuffers s (s.overrunCut c q a) := by
    rw [same]
    exact (SameBuffers.updSeq ..).trans (.updCtx ..)
  refine ⟨cut.trans (.record ..), fun d r hd => ?_⟩
  rw [State.overrunTold, State.seq_record, same, State.seq_updCtx _ _ _ _ (f := CoreCtx.doom a.owns) fun _ => rfl, State.seq_updSeq_other _ _ hd]

end

/-- The sequencer of an overrun, its fallback started. -/
def State.overrunSeq (s : State) (c : CoreIx) (q : SeqIx) (a : Activation) (fb : BitVec 24) : SeqState :=
  ((s.seq c q).overran s.tick (s.seq c q).block).started a.asFallback fb (s.openBlock c fb q ((s.seq c q).g.set 63 a.arg))

theorem State.updSeq_const (s : State) (c : CoreIx) (q : SeqIx) (f : SeqState → SeqState) : s.updSeq c q f = s.updSeq c q fun _ => f (s.seq c q) := rfl

/-- An overrun whose fallback starts: its sequencer stands at the fallback's first block, whatever the cut has left of the rest (R66, R67). -/
theorem overrun_starts {s : State} {c : CoreIx} {q : SeqIx} {a : Activation} {fb : BitVec 24} (clean : s.ecc = [])
    (going : ∀ l, s.coreLaunch? c = some l → l.stopped s.tick = false) (sound : (s.openBlock c fb q ((s.seq c q).g.set 63 a.arg)).trap = none) :
    (s.overrunTold c q a).startFallback c q a fb = ((s.overrunTold c q a).fallbackRec c q a fb).updSeq c q fun _ => s.overrunSeq c q a fb := by
  have seq := s.overrunTold_seq c q a
  have cleanCut := (s.overrunTold_logs c q a clean).1
  have tick : (s.overrunTold c q a).tick = s.tick := (s.overrunCut_settles c q a).tick
  have first : (s.overrunTold c q a).openBlock c fb q (((s.overrunTold c q a).seq c q).g.set 63 a.arg) = s.openBlock c fb q ((s.seq c q).g.set 63 a.arg) := by
    rw [seq]
    exact State.openBlock_congr (s.overrunTold_blockStore c q a) (cleanCut.trans clean.symm) ..
  have started := State.startFallback_clean (s := s.overrunTold c q a) (c := c) (q := q) (a := a) (fb := fb) cleanCut
    (fun l hl => tick.symm ▸ going l (s.overrunTold_coreLaunch c q a ▸ hl)) (by rw [first]; exact sound)
  have after : ((s.overrunTold c q a).fallbackRec c q a fb).seq c q = (s.seq c q).overran s.tick (s.seq c q).block := (State.seq_record ..).trans seq
  rw [started, first, State.updSeq_const, after]
  rfl

/-! ### Halting freezes (R70 to R73) -/

/-- A launch frozen from a tick on, with the causes of the tick. -/
def Launch.halted (l : Launch) (tick : Nat) : Launch := { l with frozenFrom := some tick, seen := causeBits (l.active tick) }

section
variable {s : State} {n : LaunchNo} {l : Launch} (h : s.launch? n = some l)
include h

theorem haltingFreeze_begins (hp : l.stage ≠ .placed) (hf : l.frozenFrom = none) (ha : l.active s.tick ≠ []) : exec (.haltingFreeze n) s =
    .next (s.updLaunch n (·.halted s.tick)) := by
  have free : ¬ (l.frozen || decide (l.stage = .placed) || (l.active s.tick).isEmpty) = true := by
    rw [Launch.frozen, hf, decide_eq_false hp, Bool.eq_false_iff.2 fun k => ha (List.isEmpty_iff.1 k)]
    exact Bool.false_ne_true
  change execHaltingFreeze n s = _
  rw [execHaltingFreeze, h]
  exact if_neg free

/-- A launch out of a halting freeze, with the causes that may still come (R71, R73). -/
def Launch.thawed (l : Launch) (tick : Nat) : Launch :=
  { l with frozenFrom := none, seen := 0, causes := l.causes.filter fun c => match c.resolved with | some t => decide (tick < t + 24) | none => true }

theorem haltingFreezeEnd_thaws {first : Nat} (hf : l.frozenFrom = some first) (ha : l.active s.tick = []) : exec (.haltingFreezeEnd n) s =
    .next ((s.freezeRec n l.seen.toNat first).updLaunch n (·.thawed s.tick)) := by
  have calm : ¬ (!(l.active s.tick).isEmpty) = true := by
    rw [ha]
    exact Bool.false_ne_true
  change execHaltingFreezeEnd n s = _
  rw [execHaltingFreezeEnd, h]
  dsimp only
  rw [hf]
  exact if_neg calm

end

/-! ### Retrains (R70, R468) -/

/-- A launch with a retrain's cause of a freeze, of at most 4,096 ticks. -/
def Launch.retrained (l : Launch) (tick ticks : Nat) : Launch := { l with causes := l.causes ++ [⟨2, tick, some (tick + min ticks 4096)⟩] }

/-- A retrain's cause for one launch, where it has a route over the link. -/
def State.retrainOne (link : Fin 8) (ticks : Nat) (s : State) (l : Launch) : State := if l.usesLink link then s.raiseCause l.num 2 (some (s.tick + min ticks 4096)) else s

theorem State.retrainStep_eq (s : State) (link : Fin 8) (ticks : Nat) : s.retrainStep link ticks = s.launches.foldl (State.retrainOne link ticks) (s.countRetrain link) := rfl

theorem State.retrainOne_only (link : Fin 8) (ticks : Nat) (s : State) (l : Launch) : ∃ x, s.retrainOne link ticks l = { s with launches := x } := by
  unfold State.retrainOne
  split
  · exact State.raiseCause_only ..
  · exact ⟨_, rfl⟩

theorem State.retrainOne_replay {s : State} (h : s.tr.rpActive = true) (link : Fin 8) (ticks : Nat) (l : Launch) : s.retrainOne link ticks l = s := by
  unfold State.retrainOne
  split
  · exact if_pos h
  · rfl

theorem State.retrainOne_live {s : State} (live : s.tr.rpActive = false) (link : Fin 8) (ticks : Nat) (l : Launch) :
    s.retrainOne link ticks l = if l.usesLink link then s.updLaunch l.num (·.retrained s.tick ticks) else s := by
  unfold State.retrainOne State.raiseCause
  rw [if_neg (ne_true_of_eq_false live)]
  rfl

section
variable {s : State} {link : Fin 8} {ticks : Nat} {n : LaunchNo}

theorem State.retrained_replay (h : s.tr.rpActive = true) (ls : List Launch) : ls.foldl (State.retrainOne link ticks) s = s :=
  List.foldlRecOn ls _ (motive := fun t => t = s) rfl fun t ht l _ => by rw [ht, State.retrainOne_replay h]

/-- Launches of other numbers leave a launch as it stands. -/
theorem State.retrained_other (live : s.tr.rpActive = false) {ls : List Launch} (h : ∀ l ∈ ls, l.num ≠ n) : (ls.foldl (State.retrainOne link ticks) s).launch? n = s.launch? n := by
  refine (List.foldlRecOn ls _ (motive := fun t : State => t.tr.rpActive = false ∧ t.launch? n = s.launch? n) ⟨live, rfl⟩ fun t ht l hl => ?_).2
  rw [State.retrainOne_live ht.1]
  split
  · exact ⟨ht.1, (State.launch?_updLaunch_ne t (f := (·.retrained t.tick ticks)) (fun _ => rfl) (h l hl).symm).trans ht.2⟩
  · exact ht

/-- Where each number names one launch, a launch gets its cause once, if it has a route over the link. -/
theorem State.retrained_launch (live : s.tr.rpActive = false) {ls : List Launch} (one : (ls.map Launch.num).Nodup) {l : Launch} (mem : l ∈ ls) (h : s.launch? l.num = some l) :
    (ls.foldl (State.retrainOne link ticks) s).launch? l.num = some (if l.usesLink link then l.retrained s.tick ticks else l) := by
  obtain ⟨xs, ys, parts⟩ := List.append_of_mem mem
  rw [parts, List.map_append, List.map_cons, List.nodup_append, List.nodup_cons] at one
  obtain ⟨-, ⟨after, -⟩, before⟩ := one
  have early : ∀ k ∈ xs, k.num ≠ l.num := fun k hk e => before _ (List.mem_map_of_mem hk) _ (List.mem_cons_self ..) e
  have late : ∀ k ∈ ys, k.num ≠ l.num := fun k hk e => after (e ▸ List.mem_map_of_mem hk)
  obtain ⟨x, hx⟩ := State.foldl_launches (State.retrainOne_only link ticks) xs s
  have first := (State.retrained_other (link := link) (ticks := ticks) live early).trans h
  rw [parts, List.foldl_append, List.foldl_cons]
  generalize hu : xs.foldl (State.retrainOne link ticks) s = u at first hx
  have liveU : u.tr.rpActive = false := by rw [hx]; exact live
  have tickU : u.tick = s.tick := by rw [hx]
  rw [State.retrainOne_live liveU, tickU]
  split
  · exact (State.retrained_other (s := u.updLaunch l.num (·.retrained s.tick ticks)) liveU late).trans
      (State.updLaunch_some u (f := (·.retrained s.tick ticks)) (fun _ => rfl) first)
  · exact (State.retrained_other liveU late).trans first

end

/-! ### O45 -/

/-- No operation of such owners is left where it could start or take effect, but that one in progress is marked (R67, R359). -/
def CoreCtx.isCut (p : Owner → Bool) (x : CoreCtx) : Prop :=
  (∀ ch : ChanIx, ∀ k ∈ x.chans[ch].live, p k.owner = false) ∧
  (∀ g : RegionIx, (∀ k ∈ x.regions[g].queue, p k.owner = false) ∧ (∀ k, x.regions[g].round = some k → p k.cmd.owner = true → k.cut = true) ∧
    ∀ j, x.regions[g].port = some j → p j.owner = false) ∧
  (∀ k ∈ x.matrix.queue, p k.owner = false) ∧ (∀ k, x.matrix.compute = some k → p k.cmd.owner = true → k.failed = true) ∧
  (∀ k, x.matrix.load = some k → p k.cmd.owner = true → k.failed = true) ∧ (∀ k, x.matrix.read = some k → p k.cmd.owner = false) ∧
  (∀ k ∈ x.stoch.queue, p k.owner = false) ∧ ∀ u, ∀ k ∈ x.stoch.unit u, p k.cmd.owner = false

theorem CoreCtx.doom_isCut (p : Owner → Bool) (x : CoreCtx) : (CoreCtx.doom p x).isCut p := by
  have chan (ch : ChanIx) : (CoreCtx.doom p x).chans[ch] = x.chans[ch].doom p := Vector.getElem_map ..
  have region (g : RegionIx) : (CoreCtx.doom p x).regions[g] = x.regions[g].cut p := Vector.getElem_map ..
  refine ⟨fun ch k hk => CopyChan.doom_live (chan ch ▸ hk), fun g => ?_, fun _ => MatrixState.cut_queue, fun _ => MatrixState.cut_compute, fun _ => MatrixState.cut_load,
    fun _ => MatrixState.cut_read, fun _ => not_owned_of_filter, fun _ _ => StochState.cut_unit⟩
  rw [region]
  exact ⟨fun _ => RegionState.cut_queue, fun _ => RegionState.cut_round, fun _ => RegionState.cut_port⟩

/-- The engines of a core do not follow from its sequencers. -/
theorem State.isCut_updSeq {s : State} {c : CoreIx} {p : Owner → Bool} (h : (s.ctx c).isCut p) (q : SeqIx) (f : SeqState → SeqState) : ((s.updSeq c q f).ctx c).isCut p := by
  rw [State.ctx_updSeq]
  exact h

section
variable {s : State} {c : CoreIx} {q : SeqIx} {a : Activation} {fb : BitVec 24}

/-- An overrun whose fallback starts, from the state that the cut has left. -/
def State.overrunStarted (s : State) (c : CoreIx) (q : SeqIx) (a : Activation) (fb : BitVec 24) : State :=
  ((s.overrunTold c q a).fallbackRec c q a fb).updSeq c q fun _ => s.overrunSeq c q a fb

theorem State.overrunStarted_seq : (s.overrunStarted c q a fb).seq c q = s.overrunSeq c q a fb := State.seq_updSeq ..

theorem State.overrunStarted_logs (clean : s.ecc = []) : s.logs (s.overrunStarted c q a fb) [0x04, 0x05] := (s.overrunTold_logs c q a clean).2.trans (State.logs_record ..)

theorem State.overrunStarted_isCut : ((s.overrunStarted c q a fb).ctx c).isCut a.owns := by
  rw [State.overrunStarted]
  apply State.isCut_updSeq
  rw [State.fallbackRec, State.ctx_record, State.overrunTold_ctx]
  exact CoreCtx.doom_isCut ..

theorem State.overrunStarted_idle (idle : (s.ctx c).busyFor a.owns = false) :
    SameBuffers s (s.overrunStarted c q a fb) ∧ ∀ d r, (d, r) ≠ (c, q) → (s.overrunStarted c q a fb).seq d r = s.seq d r := by
  obtain ⟨same, others⟩ := s.overrunTold_idle c q a idle
  refine ⟨(same.trans (.record ..)).trans (.updSeq ..), fun d r hd => ?_⟩
  rw [State.overrunStarted, State.seq_updSeq_other _ _ hd, State.fallbackRec, State.seq_record]
  exact others d r hd

/-- An overrun that no fallback takes up cancels the fault domain (R69). -/
theorem overrun_cancels (h : (s.seq c q).act = some a) (hf : a.isFallback = false) (drain : a.drain = false) (runs : s.seqRuns c q = true) (due : a.deadline ≤ s.tick)
    (late : a.fallback = none ∨ a.fbDeadline ≤ s.tick) :
    exec (.overrun c q) s = .next ((s.overrunTold c q a).faultCancel c q a.launch 0 0x08 0 (s.seq c q).block.toNat) := by
  rw [overrun_answered h drain runs hf due]
  cases hb : a.fallback with
  | none => rfl
  | some fb => exact if_neg (Nat.not_lt.2 (late.resolve_left (by simp [hb])))

end

/-- Settles O45: an overrun's answer is taken apart into the sequencer, the engines as `CoreCtx.doom` leaves them, and what stands where nothing is cut; each cancellation is that of a
fault domain. A launch uses a link by its routes, one at its origin tick too (log entry 34). -/
theorem deadlinesAndFreezes : Obligations.DeadlinesAndFreezes := by
  refine ⟨fun s c q a h hf drain runs due => ⟨fun fb hfb before clean going => ?starts, fun late clean => ?cancels⟩,
    fun s c q a h hf drain runs due => ?fallback, fun s n l h hp hf ha => ?freeze, fun s n l first h hf ha => ?thaw, fun s link ticks => ?retrain⟩
  case starts =>
    intro x first sound
    have step : exec (.overrun c q) s = .next (s.overrunStarted c q a fb) := by
      rw [overrun_answered h drain runs hf due, hfb]
      exact (if_pos before).trans (congrArg Host.Outcome.next (overrun_starts clean going sound))
    have idle := State.overrunStarted_idle (s := s) (c := c) (q := q) (a := a) (fb := fb)
    refine ⟨_, step, ?_⟩
    dsimp only
    rw [State.overrunStarted_seq]
    exact ⟨rfl, rfl, rfl, rfl, rfl, rfl, rfl, rfl, rfl, rfl, rfl, rfl, rfl, rfl, rfl, State.overrunStarted_logs clean, State.overrunStarted_isCut, idle⟩
  case cancels =>
    have launches : (s.overrunTold c q a).launches = s.launches := (s.overrunCut_settles c q a).launches
    exact ⟨_, overrun_cancels h hf drain runs due late, State.faultCancel_domainGone launches c q a.launch 0 0x08 0 _⟩
  case fallback =>
    exact ⟨_, fallbackDeadline_answered h drain runs hf due, State.faultCancel_domainGone (t := s.setCause c q ⟨0x08, 0⟩ (s.seq c q).block) rfl c q a.launch 0 0x08 0 _⟩
  case freeze =>
    exact ⟨_, haltingFreeze_begins h hp hf ha, State.updLaunch_some s (f := (·.halted s.tick)) (fun _ => rfl) h, .of_updLaunch s (f := (·.halted s.tick)) (fun _ => rfl) n, rfl⟩
  case thaw =>
    have told : OnlyLaunch n s (s.freezeRec n l.seen.toNat first) := .of_tr n rfl
    have moved := State.updLaunch_some (s.freezeRec n l.seen.toNat first) (f := (·.thawed s.tick)) (fun _ => rfl) h
    exact ⟨_, haltingFreezeEnd_thaws h hf ha, ⟨_, moved, rfl, rfl, rfl, rfl, rfl⟩, told.trans (.of_updLaunch _ (f := (·.thawed s.tick)) (fun _ => rfl) n), State.logs_record ..⟩
  case retrain =>
    obtain ⟨x, hx⟩ := s.retrainStep_only link ticks.toNat
    have all : s.retrainStep link ticks.toNat = s.launches.foldl (State.retrainOne link ticks.toNat) (s.countRetrain link) := State.retrainStep_eq ..
    refine ⟨s.retrainStep link ticks.toNat, rfl, ?_, ?_, fun replay => ?_, fun live one n l h => ?_, ?_⟩
    · rw [hx]
      exact (congrArg BitVec.toNat (Vector.getElem_set_self ..)).trans (saturated_toNat _)
    · intro k hk
      rw [hx]
      exact Vector.getElem_set_ne link.isLt k.isLt fun e => hk (Fin.ext e.symm)
    · rw [all, State.retrained_replay (s := s.countRetrain link) replay]
      rfl
    · obtain ⟨-, rfl, mem⟩ := State.launch?_some h
      rw [all]
      exact State.retrained_launch (s := s.countRetrain link) live one mem h
    · rw [hx]
      exact ⟨rfl, rfl, rfl, rfl, rfl, rfl, rfl, rfl⟩

end Sys2Proof.Machine
end

section
/-! SUPPORT. Pre-emption, the urgent switch and drains (R79, R80, R86): what the responses leave of the sequencers, and of the launch; then the statement O46. -/

namespace Sys2Proof.Machine

/-! ### The response to one activation, and to several (R80) -/

theorem response_eq (a : Activation) (p tokens : Nat) (u : Bool) : response a p tokens u =
    if a.isFallback = true then (if p ≤ 4096 then .drain else .kill) else if a.polD = true ∧ p ≤ 4096 then .drain
    else if u = false ∧ a.polC = true ∧ 1 ≤ tokens then .checkpoint else .kill := by
  simp only [response, Bool.and_eq_true, decide_eq_true_eq, Bool.not_eq_true', and_assoc]

/-- An activation that may go on until its limit, and no longer than its deadline (R80). -/
def Activation.draining (a : Activation) (tick : Nat) : Activation := { a with drain := true, drainLimit := min (tick + 4096) (if a.isFallback then a.fbDeadline else a.deadline) }

/-- A sequencer after the response to its activation. -/
def SeqState.after (tick : Nat) (a : Activation) (x : SeqState) : Response → SeqState
  | .drain => { x with act := some (a.draining tick) }
  | .checkpoint => { x with act := some { a with halted := true } }
  | .kill => x.dead

section
variable (s : State) (c : CoreIx) (q : SeqIx) (a : Activation) (r : Response)

theorem State.applyResponse_seq : (s.applyResponse (c, q, a, r)).seq c q = (s.seq c q).after s.tick a r := by
  cases r with
  | drain => exact State.seq_updSeq ..
  | checkpoint => exact State.seq_updSeq ..
  | kill => exact State.kill_seq ..

theorem State.applyResponse_others {d : CoreIx} {e : SeqIx} (h : (d, e) ≠ (c, q)) : (s.seq d e).stands ((s.applyResponse (c, q, a, r)).seq d e) := by
  have alone (f : SeqState → SeqState) : (s.seq d e).stands ((s.updSeq c q f).seq d e) := by
    rw [State.seq_updSeq_other _ _ h]
    exact .refl _
  cases r with
  | drain => exact alone _
  | checkpoint => exact alone _
  | kill => exact State.kill_others _ _ _ _ h

theorem State.applyResponse_tick : (s.applyResponse (c, q, a, r)).tick = s.tick := by
  cases r with
  | drain => rfl
  | checkpoint => rfl
  | kill => exact State.kill_tick ..

theorem State.applyResponse_launches : (s.applyResponse (c, q, a, r)).launches = s.launches := by
  cases r with
  | drain => rfl
  | checkpoint => rfl
  | kill => exact State.kill_launches ..

end

/-- The sequencer that a response is for. -/
def Answer.place (x : CoreIx × SeqIx × Activation × Response) : CoreIx × SeqIx := (x.1, x.2.1)

theorem State.answered_tick (xs : List (CoreIx × SeqIx × Activation × Response)) (s : State) : (xs.foldl State.applyResponse s).tick = s.tick := by
  induction xs generalizing s with
  | nil => rfl
  | cons x xs ih =>
    obtain ⟨c, q, a, r⟩ := x
    exact (ih _).trans (State.applyResponse_tick ..)

theorem State.answered_launches (xs : List (CoreIx × SeqIx × Activation × Response)) (s : State) : (xs.foldl State.applyResponse s).launches = s.launches := by
  induction xs generalizing s with
  | nil => rfl
  | cons x xs ih =>
    obtain ⟨c, q, a, r⟩ := x
    exact (ih _).trans (State.applyResponse_launches ..)

theorem State.answered_others {xs : List (CoreIx × SeqIx × Activation × Response)} {d : CoreIx} {e : SeqIx} (s : State) (h : ∀ x ∈ xs, (d, e) ≠ Answer.place x) :
    (s.seq d e).stands ((xs.foldl State.applyResponse s).seq d e) := by
  induction xs generalizing s with
  | nil => exact .refl _
  | cons x xs ih =>
    obtain ⟨c, q, a, r⟩ := x
    rw [List.forall_mem_cons] at h
    exact (s.applyResponse_others c q a r h.1).trans (ih _ h.2)

/-- Where no sequencer is answered twice, each is as its own response leaves it, but for words that the cuts have woken. -/
theorem State.answered_seq {xs : List (CoreIx × SeqIx × Activation × Response)} (s : State) (one : (xs.map Answer.place).Nodup) {c : CoreIx} {q : SeqIx} {a : Activation} {r : Response}
    (mem : (c, q, a, r) ∈ xs) : ∃ y, (s.seq c q).stands y ∧ (y.after s.tick a r).stands ((xs.foldl State.applyResponse s).seq c q) := by
  obtain ⟨us, vs, rfl⟩ := List.append_of_mem mem
  rw [List.map_append, List.map_cons, List.nodup_append, List.nodup_cons] at one
  obtain ⟨-, ⟨late, -⟩, early⟩ := one
  have before := State.answered_others (xs := us) s fun x hx e => early _ (List.mem_map_of_mem hx) _ (List.mem_cons_self ..) e.symm
  have here := State.applyResponse_seq (us.foldl State.applyResponse s) c q a r
  have later := State.answered_others (xs := vs) ((us.foldl State.applyResponse s).applyResponse (c, q, a, r)) (d := c) (e := q)
    fun x hx e => late (List.mem_map.2 ⟨x, hx, e.symm⟩)
  rw [State.answered_tick] at here
  rw [here] at later
  rw [List.foldl_append, List.foldl_cons]
  exact ⟨_, before, later⟩

/-- What a response has left of its sequencer in the end. -/
def SeqState.took (tick : Nat) (a : Activation) (x y : SeqState) : Response → Prop
  | .drain => y.act = some (a.draining tick)
  | .checkpoint => y.act = some { a with halted := true }
  | .kill => y.act = none ∧ y.run = none ∧ y.killed = true ∧ y.g = x.g

theorem SeqState.took_of_stands {tick : Nat} {a : Activation} {x y z : SeqState} {r : Response} (h : x.stands y) (k : (y.after tick a r).stands z) : x.took tick a z r := by
  obtain ⟨u, rfl, -⟩ := h
  obtain ⟨v, rfl, unrun⟩ := k
  cases r with
  | drain => rfl
  | checkpoint => rfl
  | kill => exact ⟨rfl, unrun rfl, rfl, rfl⟩

/-! ### Each running activation is answered once -/

theorem respond_places (p : Nat) (u : Bool) (as : List (CoreIx × SeqIx × Activation)) (tokens : Nat) :
    (respond p u as tokens).1.map Answer.place = as.map fun x => (x.1, x.2.1) := by
  induction as generalizing tokens with
  | nil => rfl
  | cons x as ih => exact congrArg (List.cons _) (ih _)

theorem State.activations_places (s : State) (l : Launch) : ((s.activations l).map fun x => (x.1, x.2.1)).Nodup := by
  unfold State.activations
  rw [List.Nodup, List.pairwise_map, List.pairwise_flatMap]
  constructor
  · intro c _
    rw [List.pairwise_filterMap]
    refine (List.nodup_finRange 7).imp fun {q r} hqr x hx y hy e => ?_
    obtain ⟨a, -, rfl⟩ := Option.map_eq_some_iff.1 hx
    obtain ⟨b, -, rfl⟩ := Option.map_eq_some_iff.1 hy
    exact hqr (Prod.mk.inj e).2
  · refine ((List.nodup_finRange 64).filter _).imp fun {c d} hcd x hx y hy e => ?_
    obtain ⟨q, -, hx⟩ := List.mem_filterMap.1 hx
    obtain ⟨r, -, hy⟩ := List.mem_filterMap.1 hy
    obtain ⟨a, -, rfl⟩ := Option.map_eq_some_iff.1 hx
    obtain ⟨b, -, rfl⟩ := Option.map_eq_some_iff.1 hy
    exact hcd (Prod.mk.inj e).1

theorem respond_once (s : State) (l : Launch) (p : Nat) (u : Bool) (tokens : Nat) : ((respond p u (s.activations l) tokens).1.map Answer.place).Nodup := by
  rw [respond_places]
  exact s.activations_places l

/-! ### PREEMPT records (R436) -/

theorem State.foldl_record {α : Type} (f : State → α → Rec) (xs : List α) (s : State) : ∃ tr, xs.foldl (fun s x => s.record (f s x)) s = { s with tr := tr } := by
  induction xs generalizing s with
  | nil => exact ⟨_, rfl⟩
  | cons x xs ih =>
    obtain ⟨tr, h⟩ := ih (s.record (f s x))
    exact ⟨tr, h⟩

section
variable (s : State) (v n : LaunchNo) (tokens : Nat)

theorem State.preemptRecs_only (xs : List (CoreIx × SeqIx × Activation × Response)) : ∃ tr, s.preemptRecs v n tokens xs = { s with tr := tr } := State.foldl_record ..

/-- Up to 28 responses take one record. -/
theorem State.preemptRecs_none : ∃ r : Rec, r.typ = 0x07 ∧ s.preemptRecs v n tokens [] = s.record r := ⟨_, rfl, rfl⟩

theorem State.preemptRecs_lone (x : CoreIx × SeqIx × Activation × Response) : ∃ r : Rec, r.typ = 0x07 ∧ s.preemptRecs v n tokens [x] = s.record r := ⟨_, rfl, rfl⟩

end

/-! ### Engine operations at the pre-emption tick (R477) -/

/-- A core whose engines note how far their steps have come. -/
def CoreCtx.marked (x : CoreCtx) : CoreCtx := { x with regions := x.regions.map RegionState.markSteps, matrix := x.matrix.markSteps, stoch := x.stoch.markSteps }

def State.marking (s : State) (cores : List CoreIx) : State := cores.foldl (fun s c => s.updCtx c CoreCtx.marked) s

theorem State.marking_only (s : State) (cores : List CoreIx) : ∃ x, s.marking cores = { s with cores := x } :=
  State.foldl_updCore_only (fun _ k => { k with ctx := k.ctx.marked }) cores s

theorem State.marking_seq (s : State) (cores : List CoreIx) (c : CoreIx) (q : SeqIx) : (s.marking cores).seq c q = s.seq c q := by
  induction cores generalizing s with
  | nil => rfl
  | cons d cores ih => exact (ih _).trans (State.seq_updCtx _ _ _ _ (f := CoreCtx.marked) fun _ => rfl)

theorem State.marking_core {cores : List CoreIx} {c : CoreIx} (s : State) (h : c ∉ cores) : (s.marking cores).core c = s.core c :=
  State.foldl_updCore_other (fun _ k => { k with ctx := k.ctx.marked }) s h

/-! ### Tokens of a group (R78) -/

section
variable {s : State} {n : LaunchNo} {l : Launch}

theorem State.setTokens_launch (h : s.launch? n = some l) (g : LaunchNo) (t : Nat) : ∃ k, (s.setTokens g t).launch? n = some { l with tokens := k } := by
  have moved := State.launch?_map (s := s) (t := s.setTokens g t) (f := fun l => if l.group = g then { l with tokens := t } else l) rfl (fun l => by split <;> rfl) (n := n)
  rw [moved, h, Option.map_some]
  split
  · exact ⟨t, rfl⟩
  · exact ⟨l.tokens, rfl⟩

/-- The tokens that a group has left go back or stand; of a launch nothing else changes, and nothing else but the front end's queues. -/
theorem State.settleTokens_only (s : State) (g : LaunchNo) : ∃ x q, s.settleTokens g = { s with launches := x, fe := { s.fe with queues := q } } := by
  unfold State.settleTokens
  dsimp only
  split
  · exact ⟨_, _, rfl⟩
  · split
    · next l _ =>
      obtain ⟨q, h⟩ := s.returnTokens_only l.source l.tokens
      exact ⟨_, q, by rw [h]; rfl⟩
    · exact ⟨_, _, rfl⟩

theorem State.settleTokens_launch (h : s.launch? n = some l) (g : LaunchNo) : ∃ k, (s.settleTokens g).launch? n = some { l with tokens := k } := by
  unfold State.settleTokens
  dsimp only
  split
  · exact ⟨l.tokens, h⟩
  · split
    · next m _ =>
      obtain ⟨q, hq⟩ := s.returnTokens_only m.source m.tokens
      rw [hq]
      exact State.setTokens_launch (s := { s with fe := { s.fe with queues := q } }) h g 0
    · exact ⟨l.tokens, h⟩

end

/-! ### Pre-emption (R79) -/

/-- A launch whose suspension begins (R79, R458). -/
def Launch.preempted (l : Launch) (tick : Nat) (newcomer : LaunchNo) : Launch :=
  { l with chosen := none, susp := some ⟨tick, newcomer, false, 0, none, false⟩,
           dstop := l.dstop.map fun d => if d.stopped.isNone && d.from' == tick + 1 then { d with from' := DebugStop.atResume } else d }

/-- The newcomer's tokens. -/
def State.tokensOf (s : State) (n : LaunchNo) : Nat := (s.launch? n).map Launch.tokens |>.getD 0

/-- The pre-emption but for the group's tokens: records, marks, responses. -/
def State.preempting (s : State) (n newcomer : LaunchNo) (cores : List CoreIx) (tokens : Nat) (xs : List (CoreIx × SeqIx × Activation × Response)) : State :=
  xs.foldl State.applyResponse ((s.preemptRecs n newcomer tokens xs).marking cores)

section
variable {s : State} {n : LaunchNo} {l : Launch} {ch : Chosen}

theorem State.preempting_launches (s : State) (n newcomer : LaunchNo) (cores : List CoreIx) (tokens : Nat) (xs : List (CoreIx × SeqIx × Activation × Response)) :
    (s.preempting n newcomer cores tokens xs).launches = s.launches ∧ (s.preempting n newcomer cores tokens xs).tick = s.tick := by
  obtain ⟨tr, told⟩ := s.preemptRecs_only n newcomer tokens xs
  obtain ⟨k, marks⟩ := State.marking_only { s with tr := tr } cores
  rw [State.preempting, State.answered_launches, State.answered_tick, told, marks]
  exact ⟨rfl, rfl⟩

theorem preemption_answers (h : s.launch? n = some l) (hc : l.chosen = some ch) (now : s.preemptNow l = true) (live : s.tr.rpActive = false) : ∃ g t,
    exec (.preemption n) s = .next ((((s.preempting n ch.newcomer l.cores (s.tokensOf ch.newcomer) (respond s.tick false (s.activations l) (s.tokensOf ch.newcomer)).1).updLaunch n
      (·.preempted s.tick ch.newcomer)).setTokens g t).settleTokens g) := by
  have due : ¬ (!s.preemptNow l) = true := by
    rw [now]
    exact Bool.false_ne_true
  have step : ∃ g t, exec (.preemption n) s =
      .next ((((s.preempting n ch.newcomer l.cores (s.tokensOf ch.newcomer) (respond s.tick false (s.activations l) (s.tokensOf ch.newcomer)).1).updLaunch n
        (·.preempted (s.preempting n ch.newcomer l.cores (s.tokensOf ch.newcomer) (respond s.tick false (s.activations l) (s.tokensOf ch.newcomer)).1).tick ch.newcomer)).setTokens
          g t).settleTokens g) := by
    change ∃ g t, execPreemption n s = _
    rw [execPreemption, h]
    dsimp -zeta only
    rw [hc]
    dsimp -zeta only
    rw [if_neg due, State.tokensOf]
    cases hk : s.launch? ch.newcomer with
    | none =>
      rw [live]
      exact ⟨0, _, rfl⟩
    | some k =>
      rw [live]
      exact ⟨k.group, _, rfl⟩
  rwa [(State.preempting_launches ..).2] at step

/-- Each running activation of the victim takes its response, and the suspension begins (R79, R80). -/
theorem preempting_took (s : State) (l : Launch) (n newcomer : LaunchNo) (cores : List CoreIx) (p tokens : Nat) (u : Bool) {c : CoreIx} {q : SeqIx} {a : Activation} {r : Response}
    (mem : (c, q, a, r) ∈ (respond p u (s.activations l) tokens).1) :
    (s.seq c q).took s.tick a ((s.preempting n newcomer cores tokens (respond p u (s.activations l) tokens).1).seq c q) r := by
  have once := respond_once s l p u tokens
  generalize (respond p u (s.activations l) tokens).1 = xs at mem once
  obtain ⟨tr, told⟩ := s.preemptRecs_only n newcomer tokens xs
  obtain ⟨k, marks⟩ := State.marking_only { s with tr := tr } cores
  obtain ⟨y, before, later⟩ := State.answered_seq ((s.preemptRecs n newcomer tokens xs).marking cores) once mem
  have seq : ((s.preemptRecs n newcomer tokens xs).marking cores).seq c q = s.seq c q := by
    rw [State.marking_seq, told]
    rfl
  have tick : ((s.preemptRecs n newcomer tokens xs).marking cores).tick = s.tick := by rw [told, marks]
  rw [seq] at before
  rw [tick] at later
  exact SeqState.took_of_stands before later

/-- What stands, and what one launch is, where only launches and queues have changed since the responses. -/
theorem preemption_launch (h : s.launch? n = some l) (hc : l.chosen = some ch) (now : s.preemptNow l = true) (live : s.tr.rpActive = false) : ∃ t x q tokens,
    exec (.preemption n) s = .next t ∧
    t = { s.preempting n ch.newcomer l.cores (s.tokensOf ch.newcomer) (respond s.tick false (s.activations l) (s.tokensOf ch.newcomer)).1 with
      launches := x, fe := { (s.preempting n ch.newcomer l.cores (s.tokensOf ch.newcomer) (respond s.tick false (s.activations l) (s.tokensOf ch.newcomer)).1).fe with queues := q } } ∧
    t.launch? n = some { l.preempted s.tick ch.newcomer with tokens := tokens } := by
  obtain ⟨g, k, step⟩ := preemption_answers h hc now live
  generalize hu : s.preempting n ch.newcomer l.cores (s.tokensOf ch.newcomer) (respond s.tick false (s.activations l) (s.tokensOf ch.newcomer)).1 = u at step
  have stands : u.launch? n = some l := by rw [← hu, State.launch?_congr (State.preempting_launches ..).1, h]
  have begun := State.updLaunch_some u (f := (·.preempted s.tick ch.newcomer)) (fun _ => rfl) stands
  obtain ⟨i, set⟩ := State.setTokens_launch begun g k
  obtain ⟨j, settled⟩ := State.settleTokens_launch set g
  obtain ⟨x, q, only⟩ := State.settleTokens_only ((u.updLaunch n (·.preempted s.tick ch.newcomer)).setTokens g k) g
  exact ⟨_, x, q, j, step, only, settled⟩

end

/-! ### The urgent switch (R86) -/

/-- A launch whose time an urgent switch holds. -/
def Launch.urgentHeld (l : Launch) (tick : Nat) : Launch := { l with urgentAt := none, urgentFrom := some tick }

/-- A launch as its switch point takes it, launch time held from the tick. -/
def Launch.urgentFrozen (l : Launch) (tick : Nat) : Launch := { l with urgentFrom := some tick }

/-- A launch in a boundary freeze at whose end it switches. -/
def Launch.urgentBound (l : Launch) (b : Boundary) (after : AfterBoundary) : Launch :=
  { l with urgentAt := none, boundary := some { b with after := if after = .resume then b.after else after } }

/-- The responses of an urgent switch, with their records. -/
def State.urgentAnswered (s : State) (n : LaunchNo) (l : Launch) : State :=
  (respond s.tick true (s.activations l) 0).1.foldl State.applyResponse (s.preemptRecs n 0 0 (respond s.tick true (s.activations l) 0).1)

section
variable {s : State} {n : LaunchNo} {l : Launch}

theorem State.urgentAnswered_launches (s : State) (n : LaunchNo) (l : Launch) : (s.urgentAnswered n l).launches = s.launches ∧ (s.urgentAnswered n l).tick = s.tick := by
  obtain ⟨tr, told⟩ := s.preemptRecs_only n 0 0 (respond s.tick true (s.activations l) 0).1
  rw [State.urgentAnswered, State.answered_launches, State.answered_tick, told]
  exact ⟨rfl, rfl⟩

theorem urgentSwitch_holds (h : s.launch? n = some l) (now : s.urgentNow l = true) (hb : l.boundary = none) :
    exec (.urgentSwitch n) s = .next ((s.urgentAnswered n l).updLaunch n (·.urgentHeld s.tick)) := by
  have due : ¬ (!s.urgentNow l) = true := by
    rw [now]
    exact Bool.false_ne_true
  have step : exec (.urgentSwitch n) s = .next ((s.urgentAnswered n l).updLaunch n (·.urgentHeld (s.urgentAnswered n l).tick)) := by
    change execUrgentSwitch n s = _
    rw [execUrgentSwitch, h]
    dsimp -zeta only
    rw [if_neg due, hb]
    rfl
  rwa [(State.urgentAnswered_launches ..).2] at step

theorem urgentSwitch_held_launch (h : s.launch? n = some l) : ((s.urgentAnswered n l).updLaunch n (·.urgentHeld s.tick)).launch? n = some (l.urgentHeld s.tick) :=
  State.updLaunch_some _ (f := (·.urgentHeld s.tick)) (fun _ => rfl) ((State.launch?_congr (s.urgentAnswered_launches n l).1 n).trans h)

theorem urgentAnswered_took {c : CoreIx} {q : SeqIx} {a : Activation} {r : Response} (mem : (c, q, a, r) ∈ (respond s.tick true (s.activations l) 0).1) :
    (s.seq c q).took s.tick a ((s.urgentAnswered n l).seq c q) r := by
  have once := respond_once s l s.tick true 0
  unfold State.urgentAnswered
  generalize (respond s.tick true (s.activations l) 0).1 = xs at mem once
  obtain ⟨tr, told⟩ := s.preemptRecs_only n 0 0 xs
  obtain ⟨y, before, later⟩ := State.answered_seq (s.preemptRecs n 0 0 xs) once mem
  rw [told] at before later ⊢
  exact SeqState.took_of_stands before later

/-- In a boundary freeze with nothing running the tick is the switch point (R86; log entry 31). -/
theorem urgentSwitch_switches (h : s.launch? n = some l) (now : s.urgentNow l = true) {b : Boundary} (hb : l.boundary = some b) (calm : s.activations l = [])
    {a : BitVec 4 × BitVec 2} {j : Nat} (asked : (l.urgentFrozen s.tick).asked s.tick = some a) (hj : l.setFor a.1 a.2 s.chmask = some j) (hne : j ≠ l.setIx) : ∃ r : Rec, r.typ = 0x07 ∧
    exec (.urgentSwitch n) s = .next (((s.record r).clearing n).updLaunch n
      (·.urgentBound b (.switch j ((l.urgentFrozen s.tick).askedBy s.tick).1 ((l.urgentFrozen s.tick).askedBy s.tick).2))) := by
  have due : ¬ (!s.urgentNow l) = true := by
    rw [now]
    exact Bool.false_ne_true
  obtain ⟨r, hr, told⟩ := s.preemptRecs_none n 0 0
  have outcome : (s.record r).atSwitch (l.urgentFrozen s.tick) =
      some ((s.record r).clearing l.num, .switch j ((l.urgentFrozen s.tick).askedBy s.tick).1 ((l.urgentFrozen s.tick).askedBy s.tick).2) :=
    State.atSwitch_other (s := s.record r) asked hj hne
  rw [State.launch?_num h] at outcome
  refine ⟨r, hr, ?_⟩
  change execUrgentSwitch n s = _
  rw [execUrgentSwitch, h]
  dsimp -zeta only
  rw [if_neg due, hb, calm]
  change (match (s.preemptRecs n 0 0 []).atSwitch (l.urgentFrozen (s.preemptRecs n 0 0 []).tick) with
    | none => Host.Outcome.next ((s.preemptRecs n 0 0 []).healthCancel n)
    | some (t, after) => .next (t.updLaunch n (·.urgentBound b after))) = _
  rw [told, State.record_tick, outcome]

end

/-! ### One activation alone -/

section
variable {s : State} {n : LaunchNo} {l : Launch} {c : CoreIx} {q : SeqIx} {a : Activation}

theorem State.preemptNow_of {ch : Chosen} (hr : l.stage = .running) (hf : l.frozenFrom = none) (hs : l.susp = none) (hd : l.stopped s.tick = false) (hc : l.chosen = some ch)
    (due : ch.at' ≤ s.tick) (live : s.tr.rpActive = false) : s.preemptNow l = true := by
  simp [State.preemptNow, Launch.frozen, hr, hf, hs, hd, hc, due, live]

theorem State.urgentNow_of {u : Nat} (hr : l.stage = .running) (hf : l.frozenFrom = none) (hs : l.susp = none) (hd : l.stopped s.tick = false) (hu : l.urgentFrom = none)
    (ha : l.urgentAt = some u) (due : u ≤ s.tick) (hb : ∀ b, l.boundary = some b → b.after ≠ .retire) : s.urgentNow l = true := by
  cases hl : l.boundary with
  | none => simp [State.urgentNow, Launch.frozen, hr, hf, hs, hd, hu, ha, due, hl]
  | some b => simp [State.urgentNow, Launch.frozen, hr, hf, hs, hd, hu, ha, due, hl, hb b hl]

/-- A lone activation that is to halt where it stands (R80). -/
theorem State.preempting_halts (s : State) (n newcomer : LaunchNo) (cores : List CoreIx) (tokens : Nat) (c : CoreIx) (q : SeqIx) (a : Activation) : ∃ r : Rec, r.typ = 0x07 ∧
    s.preempting n newcomer cores tokens [(c, q, a, .checkpoint)] = ((s.record r).marking cores).updSeq c q fun y => { y with act := some { a with halted := true } } := by
  obtain ⟨r, hr, told⟩ := s.preemptRecs_lone n newcomer tokens (c, q, a, .checkpoint)
  rw [State.preempting, told]
  exact ⟨r, hr, rfl⟩

/-- What stands where a lone activation of the victim halts. -/
theorem State.preempting_halts_only (s : State) (n newcomer : LaunchNo) (cores : List CoreIx) (tokens : Nat) (c : CoreIx) (q : SeqIx) (a : Activation) :
    let t := s.preempting n newcomer cores tokens [(c, q, a, .checkpoint)]
    t.seq c q = { s.seq c q with act := some { a with halted := true } } ∧ s.logs t [0x07] ∧ t.dram = s.dram ∧ t.hostMem = s.hostMem ∧ t.dies = s.dies ∧
      ∀ d, d ∉ cores → d ≠ c → t.core d = s.core d := by
  obtain ⟨r, hr, halts⟩ := s.preempting_halts n newcomer cores tokens c q a
  obtain ⟨x, marks⟩ := State.marking_only (s.record r) cores
  rw [halts]
  refine ⟨?_, ?_, ?_, ?_, ?_, fun d hd hc => ?_⟩
  · rw [State.seq_updSeq, State.marking_seq]
    rfl
  · rw [marks]
    exact hr ▸ State.logs_record s r
  · rw [marks]
    rfl
  · rw [marks]
    rfl
  · rw [marks]
    rfl
  · exact (State.core_updCore_ne _ _ _ _ hc).trans ((s.record r).marking_core hd)

theorem State.urgentAnswered_lone (one : s.activations l = [(c, q, a)]) : ∃ r : Rec, r.typ = 0x07 ∧
    s.urgentAnswered n l = (s.record r).applyResponse (c, q, a, response a (a.left s.tick) 0 true) := by
  obtain ⟨r, hr, told⟩ := s.preemptRecs_lone n 0 0 (c, q, a, response a (a.left s.tick) 0 true)
  refine ⟨r, hr, ?_⟩
  rw [State.urgentAnswered, one]
  exact congrArg (fun t : State => t.applyResponse (c, q, a, response a (a.left s.tick) 0 true)) told

/-- A sequencer has come to a new state, with one PREEMPT record, and nothing else has changed but the engines of its core. -/
def State.answersAlone (s t : State) (c : CoreIx) (q : SeqIx) (y : SeqState) : Prop :=
  t.seq c q = y ∧ s.logs t [0x07] ∧ SameBuffers s t ∧ ∀ d e, (d, e) ≠ (c, q) → t.seq d e = s.seq d e

theorem State.urgentAnswered_drains (one : s.activations l = [(c, q, a)]) (drain : response a (a.left s.tick) 0 true = .drain) :
    s.answersAlone (s.urgentAnswered n l) c q { s.seq c q with act := some (a.draining s.tick) } := by
  obtain ⟨r, hr, lone⟩ := State.urgentAnswered_lone (n := n) one
  have drained : s.urgentAnswered n l = (s.record r).updSeq c q fun y => { y with act := some (a.draining s.tick) } := lone.trans (by rw [drain]; rfl)
  rw [drained]
  exact ⟨State.seq_updSeq .., hr ▸ State.logs_record s r, (SameBuffers.record s r).trans (.updSeq ..), fun d e hd => State.seq_updSeq_other _ _ hd⟩

theorem State.urgentAnswered_dies (one : s.activations l = [(c, q, a)]) (kill : response a (a.left s.tick) 0 true = .kill) (idle : (s.ctx c).busyFor a.owns = false) :
    s.answersAlone (s.urgentAnswered n l) c q (s.seq c q).dead := by
  obtain ⟨r, hr, lone⟩ := State.urgentAnswered_lone (n := n) one
  have killed : s.urgentAnswered n l = (s.record r).kill c q a := lone.trans (by rw [kill]; rfl)
  obtain ⟨trace, buffers, others⟩ := (s.record r).kill_idle c q a idle
  rw [killed]
  exact ⟨State.kill_seq .., (hr ▸ State.logs_record s r).trans (State.logs_of_tr trace), (SameBuffers.record s r).trans buffers, others⟩

end

/-! ### O46 -/

/-- Where buffers stand, a change of a launch changes the launches alone. -/
theorem SameBuffers.updLaunch {s t : State} (h : SameBuffers s t) (n : LaunchNo) (f : Launch → Launch) :
    SameBuffers { s with launches := (t.updLaunch n f).launches } (t.updLaunch n f) where
  module := ⟨h.module.tick, h.module.dies, h.module.dram, h.module.hostMem, rfl, h.module.fe, h.module.tm, h.module.host, h.module.health, h.module.ecc⟩
  abuf := h.abuf
  wbuf := h.wbuf
  cbuf := h.cbuf
  blockStore := h.blockStore

/-- Settles O46: each running activation is answered once, and what its response leaves of its sequencer stands through the responses to the others. That an urgent switch in
a boundary freeze has its switch point in that tick (log entry 31), and that a drained activation is killed at its limit before that tick's commits (log entry 56), is the model's choice. -/
theorem preemption : Obligations.Preemption := by
  refine ⟨fun a p tokens u => response_eq a p tokens u, fun s n l ch h hr hf hs hd hc due live => ?victim, fun s n l ch k c q a h hc now live hk one hf hpd hpc ht => ?halts,
    fun s n l u h hr hf hs hu hd ha due => ⟨fun hb => ?urgent, fun b hb hret calm a j asked hj hne => ?bound⟩,
    fun s n l c q a h now hb one hf => ⟨fun hpd hleft => ?drains, fun hpd idle => ?dies⟩, fun s c q a h drain runs due => ?limit⟩
  case victim =>
    obtain ⟨t, x, fe, tokens, step, only, moved⟩ := preemption_launch h hc (State.preemptNow_of hr hf hs hd hc due live) live
    refine ⟨t, step, ⟨_, moved, rfl, rfl, rfl⟩, ?_⟩
    rintro ⟨c, q, a, r⟩ mem
    have taken := preempting_took s l n ch.newcomer l.cores s.tick (s.tokensOf ch.newcomer) false mem
    rw [only]
    cases r with
    | drain => exact taken
    | checkpoint => exact taken
    | kill => exact taken
  case halts =>
    obtain ⟨t, x, fe, tokens, step, only, moved⟩ := preemption_launch h hc now live
    have answer : (respond s.tick false (s.activations l) (s.tokensOf ch.newcomer)).1 = [(c, q, a, .checkpoint)] := by
      have halt : response a (a.left s.tick) k.tokens false = .checkpoint := by simp [response_eq, hf, hpd, hpc, ht]
      rw [one, State.tokensOf, hk]
      exact congrArg (fun r => [(c, q, a, r)]) halt
    rw [answer] at only
    obtain ⟨seq, logs, dram, hostMem, dies, others⟩ := s.preempting_halts_only n ch.newcomer l.cores (s.tokensOf ch.newcomer) c q a
    refine ⟨t, step, ?_⟩
    have here : t.seq c q = { s.seq c q with act := some { a with halted := true } } := by
      rw [only]
      exact seq
    dsimp only
    rw [here]
    refine ⟨rfl, rfl, rfl, ⟨_, moved, rfl, rfl, rfl⟩, ?_⟩
    rw [only]
    exact ⟨logs, dram, hostMem, dies, others⟩
  case urgent =>
    have now := State.urgentNow_of hr hf hs hd hu ha due (by simp [hb])
    refine ⟨_, urgentSwitch_holds h now hb, ⟨_, urgentSwitch_held_launch h, rfl, rfl, rfl, rfl⟩, ?_⟩
    rintro ⟨c, q, a, r⟩ mem
    have taken := urgentAnswered_took (n := n) mem
    cases r with
    | drain => exact taken
    | checkpoint => exact taken
    | kill => exact taken
  case bound =>
    have now := State.urgentNow_of hr hf hs hd hu ha due fun k hk => (Option.some.inj (hb.symm.trans hk)) ▸ hret
    obtain ⟨r, hrec, step⟩ := urgentSwitch_switches h now hb calm asked hj hne
    have cleared : ((s.record r).clearing n).launch? n = some (l.clearAsked s.tick) := State.clearing_launch (s := s.record r) h
    have told : OnlyLaunch n s (s.record r) := .of_tr n rfl
    exact ⟨_, step, _, _, _, State.updLaunch_some _ (f := (·.urgentBound b _)) (fun _ => rfl) cleared, rfl, rfl,
      (told.trans (.clearing ..)).trans (.of_updLaunch _ (f := (·.urgentBound b _)) (fun _ => rfl) n), hrec ▸ State.logs_record s r⟩
  case drains =>
    have drain : response a (a.left s.tick) 0 true = .drain := by simp [response_eq, Activation.left, hf, hpd, hleft]
    have limit : a.draining s.tick = { a with drain := true, drainLimit := min (s.tick + 4096) a.deadline } := by rw [Activation.draining, hf]; rfl
    obtain ⟨seq, logs, buffers, others⟩ := State.urgentAnswered_drains (n := n) one drain
    rw [limit] at seq
    have run : ((s.urgentAnswered n l).seq c q).run = (s.seq c q).run := by rw [seq]
    exact ⟨_, urgentSwitch_holds h now hb, congrArg SeqState.act seq, run, urgentSwitch_held_launch h, logs, buffers.updLaunch .., others⟩
  case dies =>
    have kill : response a (a.left s.tick) 0 true = .kill := by simp [response_eq, hf, hpd]
    obtain ⟨seq, logs, buffers, others⟩ := State.urgentAnswered_dies (n := n) one kill idle
    have g : ((s.urgentAnswered n l).seq c q).g = (s.seq c q).g := by rw [seq]; rfl
    exact ⟨_, urgentSwitch_holds h now hb, congrArg SeqState.act seq, congrArg SeqState.run seq, congrArg SeqState.killed seq, g, urgentSwitch_held_launch h, logs,
      buffers.updLaunch .., others⟩
  case limit =>
    have step : exec (.drainKill c q) s = .next (s.kill c q a) := by
      change execDrainKill c q s = _
      rw [execDrainKill, h]
      exact if_pos (by simp [drain, runs, due])
    refine ⟨_, step, ?_⟩
    dsimp only
    rw [State.kill_seq]
    exact ⟨rfl, rfl, rfl, rfl, s.kill_idle c q a⟩

end Sys2Proof.Machine
end

section
/-! SUPPORT. Swap-out, restore, restarted steps and resume (R81 to R85, R87, R477, R478); then the statement O47. -/

namespace Sys2Proof.Machine

/-! ### A core that keeps its buffers, sequencers, copies, ranges and barrier units -/

structure CoreState.keeps (x y : CoreState) : Prop where
  abuf : y.abuf = x.abuf := by rfl
  wbuf : y.wbuf = x.wbuf := by rfl
  cbuf : y.cbuf = x.cbuf := by rfl
  blockStore : y.blockStore = x.blockStore := by rfl
  tiles : y.ctx.tiles = x.ctx.tiles := by rfl
  seqs : y.ctx.seqs = x.ctx.seqs := by rfl
  chans : y.ctx.chans = x.ctx.chans := by rfl
  ranges : y.ctx.ranges = x.ctx.ranges := by rfl
  barriers : y.ctx.barriers = x.ctx.barriers := by rfl

theorem SameModule.refl (s : State) : SameModule s s := ⟨rfl, rfl, rfl, rfl, rfl, rfl, rfl, rfl, rfl, rfl⟩

theorem SameModule.trans {s t u : State} (h : SameModule s t) (k : SameModule t u) : SameModule s u :=
  ⟨k.tick.trans h.tick, k.dies.trans h.dies, k.dram.trans h.dram, k.hostMem.trans h.hostMem, k.launches.trans h.launches, k.fe.trans h.fe, k.tm.trans h.tm, k.host.trans h.host,
    k.health.trans h.health, k.ecc.trans h.ecc⟩

theorem State.sameMemory.trans {s t u : State} (h : s.sameMemory t) (k : t.sameMemory u) : s.sameMemory u := by
  obtain ⟨h1, h2, h3, h4, h5, h6, h7, h8, h9⟩ := h
  obtain ⟨k1, k2, k3, k4, k5, k6, k7, k8, k9⟩ := k
  exact ⟨fun c a => (k1 c a).trans (h1 c a), fun c a => (k2 c a).trans (h2 c a), fun c a => (k3 c a).trans (h3 c a), fun c a => (k4 c a).trans (h4 c a),
    fun c a => (k5 c a).trans (h5 c a), fun d a => (k6 d a).trans (h6 d a), fun d a => (k7 d a).trans (h7 d a), fun a => (k8 a).trans (h8 a), fun a => (k9 a).trans (h9 a)⟩

namespace OnlyEngines

theorem refl (c : CoreIx) (s : State) : OnlyEngines c s s :=
  ⟨.refl s, ⟨fun _ _ => rfl, fun _ _ => rfl, fun _ _ => rfl, fun _ _ => rfl, fun _ _ => rfl, fun _ _ => rfl, fun _ _ => rfl, fun _ => rfl, fun _ => rfl⟩,
    fun _ _ => rfl, fun _ _ => rfl, rfl, rfl, rfl⟩

theorem trans {c : CoreIx} {s t u : State} (h : OnlyEngines c s t) (k : OnlyEngines c t u) : OnlyEngines c s u where
  module := h.module.trans k.module
  memory := h.memory.trans k.memory
  seqs d q := (k.seqs d q).trans (h.seqs d q)
  others d hd := (k.others d hd).trans (h.others d hd)
  copies := k.copies.trans h.copies
  ranges := k.ranges.trans h.ranges
  barriers := k.barriers.trans h.barriers

theorem updCore (s : State) (c : CoreIx) {f : CoreState → CoreState} (hf : ∀ k : CoreState, k.keeps (f k) := by exact fun _ => {}) : OnlyEngines c s (s.updCore c f) := by
  have here := s.core_updCore c f
  have kept := hf (s.core c)
  have each {α : Type} {g : CoreState → α} (hg : g (f (s.core c)) = g (s.core c)) (d : CoreIx) : g ((s.updCore c f).core d) = g (s.core d) := by
    by_cases hd : d = c
    · rw [hd, here, hg]
    · rw [State.core_updCore_ne _ _ _ _ hd]
  have on {g : CoreState → Memory} (hg : g (f (s.core c)) = g (s.core c)) (d : CoreIx) (a : Nat) : readByte (g ((s.updCore c f).core d)) a = readByte (g (s.core d)) a := by rw [each hg d]
  exact ⟨⟨rfl, rfl, rfl, rfl, rfl, rfl, rfl, rfl, rfl, rfl⟩,
    ⟨on kept.abuf, on kept.wbuf, on kept.cbuf, on kept.blockStore, on (g := fun k => k.ctx.tiles) kept.tiles, fun _ _ => rfl, fun _ _ => rfl, fun _ => rfl, fun _ => rfl⟩,
    fun d q => congrArg (fun v : Vector SeqState 7 => v[q]) (each (g := fun k => k.ctx.seqs) kept.seqs d), fun d hd => State.core_updCore_ne _ _ _ _ hd,
    each (g := fun k => k.ctx.chans) kept.chans c, each (g := fun k => k.ctx.ranges) kept.ranges c, each (g := fun k => k.ctx.barriers) kept.barriers c⟩

theorem updCtx (s : State) (c : CoreIx) {f : CoreCtx → CoreCtx} (hf : ∀ k : CoreState, k.keeps { k with ctx := f k.ctx } := by exact fun _ => {}) : OnlyEngines c s (s.updCtx c f) :=
  updCore s c hf

theorem updMatrix (s : State) (c : CoreIx) (f : MatrixState → MatrixState) : OnlyEngines c s (s.updMatrix c f) := updCtx s c

theorem updRegion (s : State) (c : CoreIx) (g : RegionIx) (f : RegionState → RegionState) : OnlyEngines c s (s.updRegion c g f) := updCtx s c

end OnlyEngines

/-! ### Swap-out (R81, R87) -/

section
variable {s : State} {c : CoreIx}

theorem State.swapDue_of {l : Launch} {p : Suspension} (h : s.coreLaunch? c = some l) (hp : l.susp = some p) (due : p.at' ≤ s.tick) (away : p.restoring = false) (hr : l.stage = .running)
    (free : (s.core c).swap = none) (drained : ∀ q a, (s.seq c q).act = some a → a.drain = false) : s.swapDue c = true := by
  simp only [State.swapDue, h, hp, due, away, hr, free, Bool.and_eq_true, decide_true, Bool.not_false, beq_self_eq_true, Option.isNone_none, and_self, true_and, Bool.not_eq_true',
    List.any_eq_false]
  intro q _
  split
  · next a ha => exact ne_true_of_eq_false (drained q a ha)
  · exact Bool.false_ne_true

/-- A core whose swap-out has begun: its mailbox empty, its steps abandoned. -/
def CoreState.leaving (k : CoreState) : CoreState :=
  { k with swap := some (true, 3800), mailHead := 0, mailLen := 0, mailboxFull := false,
           ctx := { k.ctx with regions := k.ctx.regions.map RegionState.abandonSteps, matrix := k.ctx.matrix.abandonSteps, stoch := k.ctx.stoch.abandonSteps } }

theorem swapOut_leaves (h : s.swapDue c = true) : exec (.swapOut c) s = .next ((((s.dropCut c).endPieces c).undoLoad c).updCore c CoreState.leaving) :=
  if_neg (by rw [h]; exact Bool.false_ne_true)

theorem State.dropCut_idle (h : ∀ (ch : ChanIx) r, (s.ctx c).chans[ch].run = some r → r.dying = false) : s.dropCut c = s := by
  refine List.foldlRecOn _ _ (motive := fun t => t = s) rfl fun t ht ch _ => ?_
  subst ht
  split
  · next k r _ hr => exact if_neg (ne_true_of_eq_false (h ch r hr))
  · rfl

theorem State.endPieces_idle (h : ∀ (ch : ChanIx) r, (s.ctx c).chans[ch].run = some r → r.moving = [] ∧ r.units = []) : s.endPieces c = s := by
  refine List.foldlRecOn _ _ (motive := fun t => t = s) rfl fun t ht ch _ => ?_
  subst ht
  split
  · next k r _ hr =>
    obtain ⟨moving, units⟩ := h ch r hr
    exact if_pos (by simp [moving, units])
  · rfl

theorem State.undoLoad_idle (h : ∀ k, (s.ctx c).matrix.load = some k → k.undo = []) : s.undoLoad c = s := by
  unfold State.undoLoad
  split
  · rfl
  · next r hr => simp [h r hr]

/-! ### The Attic (R81, R82) -/

theorem State.mem_savedTiles {k : Nat} {bytes : List Byte} : (k, bytes) ∈ s.savedTiles c ↔ ∃ o : Fin 32, k = o.val ∧ (s.ctx c).matrix.owners[o].pin = true ∧
    (s.ctx c).matrix.owners[o].vder = false ∧ bytes = readBytes (s.core c).cbuf (o.val * 16384) 16384 := by
  simp only [State.savedTiles, List.mem_map, List.mem_filter, List.mem_finRange, true_and, Bool.and_eq_true, Bool.not_eq_true', Prod.mk.injEq]
  constructor
  · rintro ⟨o, ⟨pin, vder⟩, rfl, rfl⟩
    exact ⟨o, rfl, pin, vder, rfl⟩
  · rintro ⟨o, rfl, pin, vder, rfl⟩
    exact ⟨o, ⟨pin, vder⟩, rfl, rfl⟩

/-- A core whose context has gone to its Attic. -/
def CoreState.vacated (k : CoreState) (tiles : List (Nat × List Byte)) : CoreState := { k with swap := none, launch := 0, attic := some ⟨k.launch, k.ctx, tiles⟩, ctx := .init }

/-- Whether the last core of a launch has been given up. -/
def State.allOut (s : State) (n : LaunchNo) : Bool := match s.launch? n with | some l => l.cores.all fun d => (s.core d).launch != n | none => false

/-- A launch that has left its cores. -/
def Launch.away (l : Launch) : Launch := { l with stage := .suspended }

/-- A core given up. -/
def State.vacating (s : State) (c : CoreIx) : State := s.updCore c (·.vacated (s.savedTiles c))

/-- The state in which a core has been given up, and with the last one the launch suspended. -/
def State.departed (s : State) (c : CoreIx) : State :=
  if (s.vacating c).allOut (s.core c).launch then (s.vacating c).updLaunch (s.core c).launch Launch.away else s.vacating c

theorem swapOutEnd_departs (h : (s.core c).swap = some (true, 0)) : exec (.swapOutEnd c) s = .next (s.departed c) := if_neg (not_not.2 h)

theorem State.departed_only : ∃ x, s.departed c = { s.vacating c with launches := x } := by
  unfold State.departed
  split
  · exact ⟨_, rfl⟩
  · exact ⟨_, rfl⟩

theorem State.departed_core : (s.departed c).core c = (s.core c).vacated (s.savedTiles c) := by
  obtain ⟨x, hx⟩ := s.departed_only (c := c)
  rw [hx]
  exact State.core_updCore s c (·.vacated (s.savedTiles c))

theorem State.departed_other {d : CoreIx} (h : d ≠ c) : (s.departed c).core d = s.core d := by
  obtain ⟨x, hx⟩ := s.departed_only (c := c)
  rw [hx]
  exact State.core_updCore_ne s c d (·.vacated (s.savedTiles c)) h

theorem State.allOut_iff {l : Launch} (h : s.coreLaunch? c = some l) :
    (s.vacating c).allOut (s.core c).launch = true ↔ ∀ d ∈ l.cores, d ≠ c → (s.core d).launch ≠ l.num := by
  obtain ⟨placed, num, -⟩ := State.launch?_some h
  have held : (s.vacating c).launch? (s.core c).launch = some l := h
  rw [State.allOut, held]
  dsimp only
  rw [List.all_eq_true, num]
  refine forall₂_congr fun d _ => ?_
  by_cases hd : d = c
  · rw [hd, State.vacating, State.core_updCore]
    simpa [CoreState.vacated] using placed.symm
  · rw [State.vacating, State.core_updCore_ne _ _ _ _ hd]
    simp [hd]

theorem State.departed_launch {l : Launch} (h : s.coreLaunch? c = some l) :
    (s.departed c).launch? l.num = some (if ∀ d ∈ l.cores, d ≠ c → (s.core d).launch ≠ l.num then l.away else l) := by
  have num := State.launch?_num h
  have held : (s.vacating c).launch? (s.core c).launch = some l := h
  rw [State.departed, num]
  by_cases out : ∀ d ∈ l.cores, d ≠ c → (s.core d).launch ≠ (s.core c).launch
  · rw [if_pos out, if_pos ((State.allOut_iff h).2 (num ▸ out))]
    exact State.updLaunch_some _ (f := Launch.away) (fun _ => rfl) held
  · rw [if_neg out, if_neg fun k => out (num ▸ (State.allOut_iff h).1 k)]
    exact held

end

/-! ### Restore (R83) -/

/-- A core whose swap-in begins, its block store written again where another launch has written it. -/
def CoreState.entering (l : Launch) (c : CoreIx) (k : CoreState) : CoreState :=
  let k := if k.storeOwner = l.num then k else { k with blockStore := memOf 0 (l.img.blocks.getD (l.pos c) []), lsids := l.img.lsids, storeOwner := l.num }
  { k with swap := some (false, 3800) }

theorem State.beginSwapIn_only (s : State) (l : Launch) : ∃ x, s.beginSwapIn l = { s with cores := x } := State.foldl_updCore_only (CoreState.entering l) l.cores s

theorem State.beginSwapIn_other {l : Launch} {c : CoreIx} (s : State) (h : c ∉ l.cores) : (s.beginSwapIn l).core c = s.core c := State.foldl_updCore_other (CoreState.entering l) s h

/-- Where no other launch has written their block stores, the cores begin their swap-ins, and nothing else changes. -/
theorem State.entering_own {l : Launch} {cores : List CoreIx} {d : CoreIx} (s : State) (own : ∀ c ∈ cores, (s.core c).storeOwner = l.num) :
    (cores.foldl (fun s c => s.updCore c (CoreState.entering l c)) s).core d = if d ∈ cores then { s.core d with swap := some (false, 3800) } else s.core d := by
  induction cores generalizing s with
  | nil => rfl
  | cons c cores ih =>
    have here : (s.updCore c (CoreState.entering l c)).core c = { s.core c with swap := some (false, 3800) } := by
      rw [State.core_updCore, CoreState.entering, if_pos (own c (List.mem_cons_self ..))]
    have owner : ∀ b ∈ cores, ((s.updCore c (CoreState.entering l c)).core b).storeOwner = l.num := by
      intro b hb
      by_cases hbc : b = c
      · rw [hbc, here]
        exact own c (List.mem_cons_self ..)
      · rw [State.core_updCore_ne _ _ _ _ hbc]
        exact own b (List.mem_cons_of_mem _ hb)
    rw [List.foldl_cons, ih _ owner]
    by_cases hd : d = c
    · rw [hd, here]
      simp
    · rw [State.core_updCore_ne _ _ _ _ hd]
      simp [hd]

theorem State.beginSwapIn_own {l : Launch} (s : State) (own : ∀ c ∈ l.cores, (s.core c).storeOwner = l.num) :
    s.sameMemory (s.beginSwapIn l) ∧ ∀ c ∈ l.cores, ((s.beginSwapIn l).core c).swap = some (false, 3800) := by
  have core (d : CoreIx) : (s.beginSwapIn l).core d = if d ∈ l.cores then { s.core d with swap := some (false, 3800) } else s.core d := State.entering_own s own
  have each {α : Type} {g : CoreState → α} (hg : ∀ k v, g { k with swap := v } = g k) (d : CoreIx) : g ((s.beginSwapIn l).core d) = g (s.core d) := by
    rw [core]
    split
    · exact hg ..
    · rfl
  have on {g : CoreState → Memory} (hg : ∀ k v, g { k with swap := v } = g k) (d : CoreIx) (a : Nat) :
      readByte (g ((s.beginSwapIn l).core d)) a = readByte (g (s.core d)) a := by rw [each hg d]
  obtain ⟨x, only⟩ := s.beginSwapIn_only l
  refine ⟨⟨on fun _ _ => rfl, on fun _ _ => rfl, on fun _ _ => rfl, on fun _ _ => rfl, on (g := fun k => k.ctx.tiles) fun _ _ => rfl, ?_, ?_, ?_, ?_⟩, fun c hc => ?_⟩
  case refine_5 =>
    rw [core, if_pos hc]
  all_goals
    rw [only]
    intros
    rfl

section
variable {s : State} {n : LaunchNo} {l : Launch}

theorem State.restoreDue_of {p : Suspension} (h : s.launch? n = some l) (hp : l.susp = some p) (away : l.stage = .suspended) (fresh : p.restoring = false)
    (home : ∀ c ∈ l.cores, (s.core c).launch = 0 ∧ (s.core c).attic.map Attic.launch = some n)
    (free : ∀ k ∈ s.launches, k.num ≠ n → k.cls = none → k.stage ≠ .suspended → ∀ c ∈ k.cores, c ∉ l.cores) : s.restoreDue l = true := by
  have num := State.launch?_num h
  simp only [State.restoreDue, away, hp, fresh, num, beq_self_eq_true, Bool.not_false, Bool.true_and, Bool.and_eq_true, List.all_eq_true, beq_iff_eq, Bool.not_eq_true', List.any_eq_false,
    List.any_eq_true, List.contains_iff_mem, bne_iff_ne, Option.isNone_iff_eq_none]
  exact ⟨home, fun k hk ⟨⟨⟨other, live⟩, stays⟩, c, hc, shared⟩ => free k hk other live stays c hc shared⟩

/-- A launch whose loader runs. -/
def Launch.loading (l : Launch) (wait : Nat) (bad : Bool) : Launch := { l with susp := l.susp.map fun p => { p with restoring := true, loadLeft := wait, badImage := bad } }

theorem Launch.loading_of_susp {l : Launch} {p : Suspension} (h : l.susp = some p) (wait : Nat) (bad : Bool) :
    l.loading wait bad = { l with susp := some { p with restoring := true, loadLeft := wait, badImage := bad } } := by
  rw [Launch.loading, h]
  rfl

/-- The state in which the loader starts. -/
def State.loading (s : State) (n : LaunchNo) (fresh wait : Nat) (bad : Bool) : State := { s with fresh := fresh }.updLaunch n (·.loading wait bad)

theorem State.loading_launch (h : s.launch? n = some l) (fresh wait : Nat) (bad : Bool) : (s.loading n fresh wait bad).launch? n = some (l.loading wait bad) :=
  State.updLaunch_some { s with fresh := fresh } (f := (·.loading wait bad)) (fun _ => rfl) h

theorem State.loading_launch_ne {m : LaunchNo} (h : m ≠ n) (fresh wait : Nat) (bad : Bool) : (s.loading n fresh wait bad).launch? m = s.launch? m :=
  State.launch?_updLaunch_ne { s with fresh := fresh } (f := (·.loading wait bad)) (fun _ => rfl) h

/-- Whether another launch has written a block store of the launch's cores. -/
def State.stale (s : State) (n : LaunchNo) (l : Launch) : Bool := l.cores.any fun c => (s.core c).storeOwner != n

/-- Whether the image no longer has the digest that was measured at placement. -/
def State.altered (s : State) (l : Launch) : Bool := sha384 ((List.range l.img.extent.length).map fun o => BitVec.ofNat 8 (s.reader (l.imgAddr + o) 1)) != l.digest

/-- The ticks that the loader takes (log entry 11). -/
def State.loadTicks (s : State) (n : LaunchNo) (l : Launch) : Nat := if s.stale n l && !s.tr.rpActive then Config.openDelay s.fresh else 0

/-- The state in which the loader has started. -/
def State.loaderStarted (s : State) (n : LaunchNo) (l : Launch) : State :=
  s.loading n (s.fresh + b2n (s.stale n l && !s.tr.rpActive)) (s.loadTicks n l) (s.stale n l && s.altered l)

theorem restore_loads (h : s.launch? n = some l) (due : s.restoreDue l = true) :
    exec (.restore n) s = .next (if s.loadTicks n l = 0 then (s.loaderStarted n l).beginSwapIn l else s.loaderStarted n l) := by
  have go : ¬ (!s.restoreDue l) = true := by
    rw [due]
    exact Bool.false_ne_true
  change execRestore n s = _
  rw [execRestore, h]
  exact if_neg go

theorem State.loaderStarted_launch {p : Suspension} (h : s.launch? n = some l) (hp : l.susp = some p) : (s.loaderStarted n l).launch? n =
    some { l with susp := some { p with restoring := true, loadLeft := s.loadTicks n l, badImage := s.stale n l && s.altered l } } := by
  rw [← Launch.loading_of_susp hp]
  exact State.loading_launch h ..

theorem State.loaderStarted_launch_ne {m : LaunchNo} (h : m ≠ n) : (s.loaderStarted n l).launch? m = s.launch? m := State.loading_launch_ne h ..

theorem State.stale_own (own : ∀ c ∈ l.cores, (s.core c).storeOwner = n) : s.stale n l = false := by simpa [State.stale] using own

theorem State.loadTicks_own (own : ∀ c ∈ l.cores, (s.core c).storeOwner = n) : s.loadTicks n l = 0 :=
  if_neg (by rw [State.stale_own own]; exact Bool.false_ne_true)

end

/-! ### Steps that restart (R478) -/

/-- The step of a unit restarted, so many ticks before the resume tick as had passed of it. -/
def State.restarted (s : State) (c : CoreIx) (e : Nat) : StepUnit → State
  | .matrixCompute => s.updMatrix c fun m => { m with compute := m.compute.map fun k => if k.redo = some e then { k with rerun := true } else k }
  | .matrixLoad => s.updMatrix c fun m => { m with load := m.load.map fun k => if k.redo = some e then { k with rerun := true } else k }
  | .stoch u => s.rerunStoch c u true fun k => k.redo == some e && !k.rerun
  | .port g => s.updRegion c g fun x => if x.port.bind (·.redo) = some e then x.restartStep else x

theorem StochState.unit_setUnit (x : StochState) (u : SsUnit) (l : List SsRun) : (x.setUnit u l).unit u = l := by cases u <;> rfl

theorem StochState.unit_setUnit_ne (x : StochState) {u v : SsUnit} (h : v ≠ u) (l : List SsRun) : (x.setUnit u l).unit v = x.unit v := by
  cases u with
  | logic => cases v with | logic => exact absurd rfl h | gen => rfl | xfer => rfl
  | gen => cases v with | logic => rfl | gen => exact absurd rfl h | xfer => rfl
  | xfer => cases v with | logic => rfl | gen => rfl | xfer => exact absurd rfl h

section
variable {s : State} {c : CoreIx}

theorem engineStepRestart_restarts {l : Launch} {r : Nat} (h : s.coreLaunch? c = some l) (hr : l.susp.bind Suspension.resume = some r) (u : StepUnit) :
    exec (.engineStepRestart c u) s = .next (s.restarted c (r - s.tick) u) := by
  have resume : ((s.coreLaunch? c).bind fun l => l.susp.bind (·.resume)) = some r := by
    rw [h]
    exact hr
  change execEngineStepRestart c u s = _
  rw [execEngineStepRestart, resume]
  cases u <;> rfl

theorem OnlyEngines.restarted_compute (e : Nat) : OnlyEngines c s (s.restarted c e .matrixCompute) := by
  rw [State.restarted]
  exact .updMatrix ..

theorem OnlyEngines.restarted_load (e : Nat) : OnlyEngines c s (s.restarted c e .matrixLoad) := by
  rw [State.restarted]
  exact .updMatrix ..

theorem State.restarted_compute {k : MxRun} (hk : (s.ctx c).matrix.compute = some k) {e : Nat} (he : k.redo = some e) :
    (s.restarted c e .matrixCompute).ctx c = { s.ctx c with matrix := { (s.ctx c).matrix with compute := some { k with rerun := true } } } := by
  rw [State.restarted, State.updMatrix, State.ctx_updCtx, hk, Option.map_some, if_pos he]

theorem State.restarted_load {k : MxRun} (hk : (s.ctx c).matrix.load = some k) {e : Nat} (he : k.redo = some e) :
    (s.restarted c e .matrixLoad).ctx c = { s.ctx c with matrix := { (s.ctx c).matrix with load := some { k with rerun := true } } } := by
  rw [State.restarted, State.updMatrix, State.ctx_updCtx, hk, Option.map_some, if_pos he]

/-- The port's job runs again from its first word, into the active plane where it writes no table (R324, R478). -/
theorem State.restarted_port {g : RegionIx} {j : PortJob} (hj : (s.ctx c).regions[g].port = some j) {e : Nat} (he : j.redo = some e) :
    (s.restarted c e (.port g)).ctx c = { s.ctx c with regions := (s.ctx c).regions.set g { (s.ctx c).regions[g] with
      port := some { j with rerun := true }, loading := if j.table = none then some (s.ctx c).regions[g].active else (s.ctx c).regions[g].loading } } := by
  have again : (s.ctx c).regions[g].port.bind PortJob.redo = some e := by
    rw [hj]
    exact he
  rw [State.restarted, State.updRegion, State.ctx_updCtx]
  have started : (if (s.ctx c).regions[g].port.bind PortJob.redo = some e then (s.ctx c).regions[g].restartStep else (s.ctx c).regions[g]) = { (s.ctx c).regions[g] with
      port := some { j with rerun := true }, loading := if j.table = none then some (s.ctx c).regions[g].active else (s.ctx c).regions[g].loading } := by
    rw [if_pos again, RegionState.restartStep, hj]
    simp
  exact congrArg (fun x => { s.ctx c with regions := (s.ctx c).regions.set g x }) started

/-- The banks that a command's reads touch are noted, and nothing else. -/
theorem State.ssTouch_only (s : State) (c : CoreIx) (k : EngineCmd) :
    (s.ssTouch c k).ctx c = s.ctx c ∧ (s.ssTouch c k).tr = s.tr ∧ OnlyEngines c s (s.ssTouch c k) := by
  refine List.foldlRecOn _ _ (motive := fun t : State => t.ctx c = s.ctx c ∧ t.tr = s.tr ∧ OnlyEngines c s t) ⟨rfl, rfl, .refl c s⟩ fun t ⟨ctx, trace, only⟩ i _ => ?_
  refine ⟨?_, trace, only.trans (.updCore t c)⟩
  rw [State.touch, State.ctx, State.core_updCore]
  exact ctx

/-- Where no memory error stands, a command that is to run again is computed again from its sources. -/
theorem State.rerunStoch_lone (clean : s.ecc = []) {u : SsUnit} {k : SsRun} (one : (s.ctx c).stoch.unit u = [k]) {sel : SsRun → Bool} (hk : sel k = true) (rerun : Bool) :
    s.rerunStoch c u rerun sel = (s.ssTouch c k.cmd).updStoch c fun x => x.setUnit u ((x.unit u).map fun y => if y = k then { s.ssRun c k.cmd with redo := k.redo, rerun } else y) := by
  have sound : s.ssUncorr c k.cmd = none := if_pos (by rw [clean]; rfl)
  have soft : s.ssSoft c k.cmd = s := if_pos (by rw [clean]; rfl)
  rw [State.rerunStoch, one, List.foldl_cons, List.foldl_nil, one, sound, soft]
  exact if_neg (by simp [hk])

theorem State.restarted_stoch (clean : s.ecc = []) {u : SsUnit} {k : SsRun} (one : (s.ctx c).stoch.unit u = [k]) {e : Nat} (he : k.redo = some e) (hk : k.rerun = false) :
    (s.restarted c e (.stoch u)).ctx c = { s.ctx c with stoch := (s.ctx c).stoch.setUnit u [{ s.ssRun c k.cmd with redo := k.redo, rerun := true }] } := by
  have again : (k.redo == some e && !k.rerun) = true := by simp [he, hk]
  rw [State.restarted, State.rerunStoch_lone clean one again, State.updStoch, State.ctx_updCtx, (s.ssTouch_only c k.cmd).1, one, List.map_singleton, if_pos rfl]

theorem State.rerunStoch_only (clean : s.ecc = []) (u : SsUnit) (rerun : Bool) (sel : SsRun → Bool) :
    (s.rerunStoch c u rerun sel).tr = s.tr ∧ OnlyEngines c s (s.rerunStoch c u rerun sel) := by
  refine List.foldlRecOn _ _ (motive := fun t : State => t.tr = s.tr ∧ OnlyEngines c s t) ⟨rfl, .refl c s⟩ fun t ⟨trace, only⟩ k _ => ?_
  have empty : t.ecc.isEmpty = true := by
    rw [only.module.ecc, clean]
    rfl
  have sound : t.ssUncorr c k.cmd = none := if_pos empty
  have soft : t.ssSoft c k.cmd = t := if_pos empty
  obtain ⟨-, touch, noted⟩ := t.ssTouch_only c k.cmd
  rw [sound, soft]
  split
  · exact ⟨trace, only⟩
  · exact ⟨touch.trans trace, (only.trans noted).trans (.updCtx ..)⟩

end

/-! ### Resume (R52, R83, R85) -/

/-- An activation that runs again, its deadlines moved by the ticks that passed. -/
def Activation.later (d : Nat) (a : Activation) : Activation := { a with halted := false, deadline := a.deadline + d, fbDeadline := a.fbDeadline + d }

/-- A core's activations run again; no other core and no memory has changed. -/
structure Resumes (d : Nat) (c : CoreIx) (s t : State) : Prop where
  module : SameModule s t
  trace : t.tr = s.tr
  others : ∀ b, b ≠ c → t.core b = s.core b
  acts : ∀ q, (t.seq c q).act = (s.seq c q).act.map (·.later d)

theorem State.resumeCore_resumes {s : State} (clean : s.ecc = []) (d : Nat) (c : CoreIx) : Resumes d c s (s.resumeCore d c) := by
  unfold State.resumeCore
  extract_lets u
  have ctx : (u.ctx c).seqs = (s.ctx c).seqs.map (SeqState.resume d (s.resumeWait c)) := by
    rw [State.ctx_updCtx, State.ctx, State.core_updCore]
    rfl
  have others : ∀ b, b ≠ c → u.core b = s.core b := fun b hb => (State.core_updCore_ne _ _ _ _ hb).trans (State.core_updCore_ne _ _ _ _ hb)
  have module : SameModule s u := ⟨rfl, rfl, rfl, rfl, rfl, rfl, rfl, rfl, rfl, rfl⟩
  have trace : u.tr = s.tr := rfl
  clear_value u
  have again : ([SsUnit.logic, .gen, .xfer].foldl (fun s u => s.rerunStoch c u false fun k => !k.rerun) u).tr = u.tr ∧
      OnlyEngines c u ([SsUnit.logic, .gen, .xfer].foldl (fun s u => s.rerunStoch c u false fun k => !k.rerun) u) := by
    refine List.foldlRecOn _ _ (motive := fun t : State => t.tr = u.tr ∧ OnlyEngines c u t) ⟨rfl, .refl c u⟩ fun t ⟨same, only⟩ k _ => ?_
    obtain ⟨told, rerun⟩ := State.rerunStoch_only (s := t) (c := c) ((only.module.ecc.trans module.ecc).trans clean) k false fun k => !k.rerun
    exact ⟨told.trans same, only.trans rerun⟩
  obtain ⟨told, rerun⟩ := again
  generalize [SsUnit.logic, .gen, .xfer].foldl (fun s u => s.rerunStoch c u false fun k => !k.rerun) u = v at told rerun
  have only : OnlyEngines c u (v.updStoch c StochState.resumeSteps) := rerun.trans (.updCtx ..)
  refine ⟨module.trans only.module, told.trans trace, fun b hb => (only.others b hb).trans (others b hb), fun q => ?_⟩
  have seq : u.seq c q = (s.seq c q).resume d (s.resumeWait c) := by
    rw [State.seq, ctx]
    exact Vector.getElem_map ..
  rw [only.seqs, seq]
  rfl

/-- The cores of a launch, one after another. -/
def State.resumeCores (s : State) (d : Nat) (cores : List CoreIx) : State := cores.foldl (fun s c => s.resumeCore d c) s

structure ResumesAll (d : Nat) (cores : List CoreIx) (s t : State) : Prop where
  module : SameModule s t
  trace : t.tr = s.tr
  others : ∀ b, b ∉ cores → t.core b = s.core b
  acts : cores.Nodup → ∀ c ∈ cores, ∀ q, (t.seq c q).act = (s.seq c q).act.map (·.later d)

theorem State.seq_congr {s t : State} {c : CoreIx} (h : t.core c = s.core c) (q : SeqIx) : t.seq c q = s.seq c q := by rw [State.seq, State.seq, State.ctx, State.ctx, h]

theorem ResumesAll.cons {d : Nat} {c : CoreIx} {cores : List CoreIx} {s t u : State} (h : Resumes d c s t) (k : ResumesAll d cores t u) : ResumesAll d (c :: cores) s u where
  module := h.module.trans k.module
  trace := k.trace.trans h.trace
  others b hb := by
    rw [List.mem_cons, not_or] at hb
    exact (k.others b hb.2).trans (h.others b hb.1)
  acts one b hb q := by
    obtain ⟨hc, one⟩ := List.nodup_cons.1 one
    rcases List.mem_cons.1 hb with rfl | hb
    · rw [State.seq_congr (k.others b hc)]
      exact h.acts q
    · rw [k.acts one b hb q, State.seq_congr (h.others b fun e => hc (e ▸ hb))]

theorem State.resumeCores_resume (d : Nat) (cores : List CoreIx) {s : State} (clean : s.ecc = []) : ResumesAll d cores s (s.resumeCores d cores) := by
  induction cores generalizing s with
  | nil => exact ⟨.refl s, rfl, fun _ _ => rfl, fun _ c hc => absurd hc List.not_mem_nil⟩
  | cons c cores ih =>
    have first := State.resumeCore_resumes clean d c
    have rest := ih (first.module.ecc.trans clean)
    rw [State.resumeCores, List.foldl_cons]
    exact .cons first rest

/-- A launch of the module at a resume tick: the one that resumes runs again, and the time windows of its guests move with it. -/
def Launch.resumedBy (n : LaunchNo) (tick d : Nat) (k : Launch) : Launch :=
  if k.num = n then { k with susp := none, stage := .running, instTick := k.instTick + d, dstop := k.dstop.map fun x => if x.stopped.isNone then { x with from' := tick + 1 } else x }
  else match k.window with
    | some w => if w.host = n then { k with instTick := k.instTick + d, window := some { w with deadline := w.deadline + d } } else k
    | none => k

theorem Launch.resumedBy_num (n : LaunchNo) (tick d : Nat) (k : Launch) : (k.resumedBy n tick d).num = k.num := by
  unfold Launch.resumedBy
  split
  · rfl
  · split
    · split <;> rfl
    · rfl

/-- The state in which a launch has resumed. -/
def State.resumed (s : State) (n : LaunchNo) (d : Nat) (cores : List CoreIx) : State :=
  { s.resumeCores d cores with launches := (s.resumeCores d cores).launches.map (Launch.resumedBy n (s.resumeCores d cores).tick d) }

theorem State.resumed_launch {s : State} {n : LaunchNo} {l : Launch} (clean : s.ecc = []) (h : s.launch? n = some l) (d : Nat) (cores : List CoreIx) :
    (s.resumed n d cores).launch? n = some (l.resumedBy n s.tick d) := by
  have all := State.resumeCores_resume d cores clean
  have moved := State.launch?_map (s := s) (t := s.resumed n d cores) (f := Launch.resumedBy n s.tick d) (by rw [State.resumed, all.module.launches, all.module.tick])
    (Launch.resumedBy_num n s.tick d) n
  rw [moved, h]
  rfl

section
variable {s : State} {n : LaunchNo} {l : Launch} {p : Suspension}

theorem launchResume_resumes (h : s.launch? n = some l) (hp : l.susp = some p) (hr : p.resume = some s.tick) (sound : p.badImage = false)
    (room : ∀ c ∈ l.cores, (s.core c).mailboxFull = false) :
    exec (.launchResume n) s = .next ((s.freezeRec n (2 ^ 3) p.at').resumed n (s.tick - p.at') l.cores) := by
  have go : ¬ (p.badImage || l.cores.any fun c => ((s.freezeRec n (2 ^ 3) p.at').core c).mailboxFull) = true := by
    have some : (l.cores.any fun c => (s.core c).mailboxFull) = false := by simpa using room
    rw [sound, Bool.false_or]
    exact ne_true_of_eq_false some
  change execLaunchResume n s = _
  rw [execLaunchResume, h]
  dsimp -zeta only
  rw [hp]
  exact (if_neg (not_not.2 hr)).trans (if_neg go)

theorem launchResume_cancels (h : s.launch? n = some l) (hp : l.susp = some p) (hr : p.resume = some s.tick)
    (bad : p.badImage = true ∨ ∃ c ∈ l.cores, (s.core c).mailboxFull = true) : exec (.launchResume n) s = .next ((s.freezeRec n (2 ^ 3) p.at').healthCancel n) := by
  have stop : (p.badImage || l.cores.any fun c => ((s.freezeRec n (2 ^ 3) p.at').core c).mailboxFull) = true := by
    rw [Bool.or_eq_true, List.any_eq_true]
    exact bad
  change execLaunchResume n s = _
  rw [execLaunchResume, h]
  dsimp -zeta only
  rw [hp]
  exact (if_neg (not_not.2 hr)).trans (if_pos stop)

end

/-! ### O47 -/

/-- Settles O47: each event by the equation of its state after, and what that state keeps. That the Attic holds the whole context as it stands (log entry 25) and how long the
loader takes (log entry 11) is the model's choice. -/
theorem suspension : Obligations.Suspension := by
  refine ⟨fun s c l p h hp due away hr free drained => ?leaves, fun s c h => ?vacates, fun s n l p h hp away fresh home free => ⟨?loads, fun own => ?enters⟩,
    fun s c l r h hr => ⟨fun k hk hredo => ?compute, fun k hk hredo => ?load, fun u k hk hredo hrun clean => ?stoch, fun g j hj hredo => ?port⟩,
    fun s n l p h hp hr => ⟨fun sound room clean => ?resumes, fun bad => ?cancels⟩⟩
  case leaves =>
    have due := State.swapDue_of h hp due away hr free drained
    refine ⟨_, swapOut_leaves due, ?_⟩
    dsimp only
    rw [State.core_updCore]
    refine ⟨rfl, rfl, rfl, fun still undone => ?_⟩
    have dropped : s.dropCut c = s := State.dropCut_idle fun ch r hr => (still ch r hr).2.2
    have ended : s.endPieces c = s := State.endPieces_idle fun ch r hr => ⟨(still ch r hr).1, (still ch r hr).2.1⟩
    rw [dropped, ended, State.undoLoad_idle undone]
    exact ⟨rfl, .updCore ..⟩
  case vacates =>
    refine ⟨_, swapOutEnd_departs h, ?_⟩
    obtain ⟨x, only⟩ := s.departed_only (c := c)
    have launch := fun l hl => State.departed_launch (s := s) (c := c) (l := l) hl
    have init : ∀ q, (s.departed c).seq c q = .init := fun q => by
      rw [State.seq, State.ctx, State.departed_core]
      exact Vector.getElem_replicate ..
    rw [State.departed_core]
    refine ⟨rfl, rfl, ⟨_, rfl, rfl, rfl, fun _ _ => State.mem_savedTiles⟩, init, rfl, rfl, rfl, rfl, ?_, ?_, ?_, ?_, fun d hd => State.departed_other hd, launch⟩
    all_goals
      rw [only]
      rfl
  case loads =>
    refine ⟨_, restore_loads h (State.restoreDue_of h hp away fresh home free), ?_⟩
    obtain ⟨x, only⟩ := (s.loaderStarted n l).beginSwapIn_only l
    have moved := State.loaderStarted_launch h hp
    have others : ∀ m, m ≠ n → (s.loaderStarted n l).launch? m = s.launch? m := fun m hm => State.loaderStarted_launch_ne hm
    have cores : ∀ c, c ∉ l.cores → ((s.loaderStarted n l).beginSwapIn l).core c = s.core c := fun c hc => State.beginSwapIn_other _ hc
    split
    · rw [only] at cores ⊢
      exact ⟨⟨_, moved, rfl, rfl, rfl⟩, others, cores, rfl⟩
    · exact ⟨⟨_, moved, rfl, rfl, rfl⟩, others, fun _ _ => rfl, rfl⟩
  case enters =>
    have moved := State.loaderStarted_launch h hp
    rw [State.loadTicks_own own, State.stale_own own, Bool.false_and] at moved
    have others : ∀ m, m ≠ n → (s.loaderStarted n l).launch? m = s.launch? m := fun m hm => State.loaderStarted_launch_ne hm
    obtain ⟨memory, swaps⟩ := (s.loaderStarted n l).beginSwapIn_own fun c hc => (own c hc).trans (State.launch?_num h).symm
    have cores : ∀ c, c ∉ l.cores → ((s.loaderStarted n l).beginSwapIn l).core c = s.core c := fun c hc => State.beginSwapIn_other _ hc
    obtain ⟨x, only⟩ := (s.loaderStarted n l).beginSwapIn_only l
    have step := restore_loads h (State.restoreDue_of h hp away fresh home free)
    rw [if_pos (State.loadTicks_own own)] at step
    refine ⟨_, step, ?_⟩
    rw [only] at memory swaps cores ⊢
    exact ⟨moved, others, swaps, cores, rfl, memory⟩
  case compute =>
    have ctx := State.restarted_compute hk hredo
    refine ⟨_, engineStepRestart_restarts h hr .matrixCompute, ?_⟩
    dsimp only
    rw [ctx]
    exact ⟨⟨rfl, rfl, rfl⟩, rfl, .restarted_compute _⟩
  case load =>
    have ctx := State.restarted_load hk hredo
    refine ⟨_, engineStepRestart_restarts h hr .matrixLoad, ?_⟩
    dsimp only
    rw [ctx]
    exact ⟨⟨rfl, rfl, rfl⟩, rfl, .restarted_load _⟩
  case stoch =>
    obtain ⟨trace, only⟩ := State.rerunStoch_only (c := c) clean u true fun k => k.redo == some (r - s.tick) && !k.rerun
    have ctx := State.restarted_stoch clean hk hredo hrun
    refine ⟨_, engineStepRestart_restarts h hr (.stoch u), ?_⟩
    dsimp only
    rw [ctx]
    exact ⟨⟨StochState.unit_setUnit .., fun v hv => StochState.unit_setUnit_ne _ hv _, rfl, rfl⟩, trace, only⟩
  case port =>
    have ctx := State.restarted_port hj hredo
    refine ⟨_, engineStepRestart_restarts h hr (.port g), ?_⟩
    dsimp only
    rw [ctx]
    exact ⟨⟨Vector.getElem_set_self .., fun i hi => Vector.getElem_set_ne g.isLt i.isLt fun e => hi (Fin.ext e.symm), rfl, rfl⟩, rfl, .updRegion ..⟩
  case resumes =>
    have all := State.resumeCores_resume (s.tick - p.at') l.cores (s := s.freezeRec n (2 ^ 3) p.at') clean
    have moved := State.resumed_launch (s := s.freezeRec n (2 ^ 3) p.at') clean h (s.tick - p.at') l.cores
    have running : l.resumedBy n s.tick (s.tick - p.at') = _ := if_pos (State.launch?_num h)
    refine ⟨_, launchResume_resumes h hp hr sound room, ⟨_, moved.trans (congrArg some running), rfl, rfl, rfl, rfl, rfl⟩, fun one c hc q a ha => ?_, all.others, ?_, all.module.dram,
      all.module.hostMem, all.module.dies⟩
    · exact (all.acts one c hc q).trans (congrArg (Option.map _) ha)
    · exact (State.logs_record ..).trans (State.logs_of_tr all.trace)
  case cancels =>
    exact ⟨_, launchResume_cancels h hp hr bad, State.healthCancel_domainGone (s := s.freezeRec n (2 ^ 3) p.at') h⟩

end Sys2Proof.Machine
end

section
/-! SUPPORT. A translation fault of a copy (R113, R277, R279), and why the statements O25 and O26 fail: their fault clauses speak of every state, one included in which a
generated launch runs in no window and shares its number with another launch, which R60 and R415 rule out and the statements do not. -/

namespace Sys2Proof.Machine

/-! ### A translation fault as it is met (R113, R277) -/

section
variable {s : State} {c : CoreIx} {ch : ChanIx} {k : EngineCmd} {r : CopyRun} {l : Launch}

/-- A step answers one state only. -/
theorem Runs.of_exec {i : Instr} {t : State} {P : State → Prop} (h : Runs s i P) (answers : exec i s = .next t) : P t := by
  obtain ⟨u, hu, hP⟩ := h
  cases answers.symm.trans hu
  exact hP

theorem slotTransfer_faults (copying : Copying s c ch k r l) (due : s.pieceDue c ch = true) {p : Nat × Nat × Nat × Nat} (piece : r.pieces[r.next]? = some p) {cond level : Nat}
    (fault : s.translate c ch (pieceVa r.desc k.left p) (dscD r.desc == 3) = .fault cond level) :
    exec (.slotTransfer c ch) s = .next (s.xlateFault c ch k (pieceVa r.desc k.left p) cond level) := by
  have head := copying.head
  have run := copying.run
  simp only [Fin.getElem_fin] at head run
  simp [exec, execSlotTransfer, due, head, run, piece, copying.launch, fault]

theorem State.walkDue_of_served (copying : Copying s c ch k r l) {w : Walk} (walk : (s.ctx c).chans[ch].walk = some w) {tick : Nat} {step : WalkStep}
    (served : w.served = some (tick, step)) (come : tick ≤ s.tick) (runs : s.opRuns c k.owner = true) : s.walkDue c ch = true := by
  have head := copying.head
  simp only [Fin.getElem_fin] at head walk
  simp [State.walkDue, walk, head, served, come, runs]

theorem translationWalk_faults (copying : Copying s c ch k r l) {w : Walk} (walk : (s.ctx c).chans[ch].walk = some w) {tick cond : Nat}
    (served : w.served = some (tick, .fault cond)) (come : tick ≤ s.tick) (runs : s.opRuns c k.owner = true) :
    exec (.translationWalk c ch) s = .next (s.xlateFault c ch k w.va cond w.level) := by
  have due := State.walkDue_of_served copying walk served come runs
  have head := copying.head
  have run := copying.run
  simp only [Fin.getElem_fin] at head run walk
  simp [exec, execTranslationWalk, due, walk, head, run, copying.launch, served]

/-- A fault domain is not gone while the number of a launch of it is still a launch's. -/
theorem State.not_domainGone {t : State} (was : l ∈ s.launches) (placed : l.stage ≠ .placed) (named : l.num ≠ 0) (still : l.num ∈ t.launches.map Launch.num) :
    ¬ s.domainGone t l.fdom := by
  obtain ⟨twin, here, same⟩ := List.mem_map.1 still
  exact fun gone => gone l was rfl placed named twin here same

end

/-! ### Two launches of one number -/

/-- A running launch of one core, with an empty image and nothing pending. -/
def Launch.bare (num : LaunchNo) (fdom : BitVec 16) : Launch :=
  { num, fdom, rcbId := 0, rcbAddr := 0, path := [], priority := 0, source := .queue 0, tag := 0, graphGen := false, packet := 0, serial := 0, img := .empty, imgAddr := 0, digest := [],
    stage := .running, ox := 0, oy := 0, grants := [], quadBase := [], replBase := [], ptroot := 0, sidebase := 0, lanes := [], origin := 0, ltime := 0, setIx := 0, setStart := 0,
    inst := 0, instTick := 0, pendMode := none, pendLevel := none, causes := [], frozenFrom := none, seen := 0, boundary := none, urgentAt := none, urgentFrom := none, chosen := none,
    susp := none, dstop := none, displaced := false, window := none, cls := none, pendingFrom := 0, chmaskNew := false, mcpAt := none, group := num, tokens := 0, stepped := [],
    modeWas := 0, displacedWas := false }

/-- A launch of fault domain 1 that graph 0 has generated; it is bound to no window, and its number is 3. -/
def Launch.windowless : Launch := { Launch.bare 3 1 with source := .graph 0, cls := some 0 }

/-- A `cp1` of launch 1. -/
def deniedCopy : EngineCmd :=
  { instr := .cp1 .always 0 0, left := 0, right := 0, owner := ⟨1, 0, 0, 0⟩, key := 0, layer := 0, idx := 0, shapes := [], polV := false, tick := 0, rcb := 0, fdom := 1, tag := 0 }

/-- It copies one row of 64 bytes from the A-buffer to the virtual address 0, under no reservation. -/
def deniedRun : CopyRun :=
  { desc := [24 + 255 * 2 ^ 8, 0, 0, 0xFFFFFFFFFFFFFFFF, 64 + 2 ^ 24 + 2 ^ 36, 0, 0, 0], pieces := [(0, 0, 0, 64)], head := 0, next := 0, slot0 := 0, wait := none, paid := false, host := [],
    moving := [], halves := [], units := [], dying := false, hosted := false, hashed := [], hashFirst := 0, hashWall := 0, hashServo := .free }

/-- Core 1 makes that copy for launch 1, its range table denies writes, and a copy of launch 2, of fault domain 2, has met a fault in the same phase. Launch 2 is the one that graph 0
is bound to. The number of the graph's generated launch is also that of a launch of fault domain 3. -/
def twinState (walk : Option Walk) : State :=
  { State.reset with
    launches := [.bare 1 1, .bare 2 2, .windowless, .bare 3 3]
    fe := { FrontEnd.init with graphs := FrontEnd.init.graphs.set 0 (some { words := [], subtrees := [], binding := some (0, 2), run := none }) }
    faults := [{ core := 0, chan := 0, code := 0x41, owner := ⟨2, 0, 0, 0⟩, fdom := 2, tag := 0, desc := 0, va := none, cond := none }] }.updCore 1 fun x =>
  { x with
    launch := 1
    ctx := { x.ctx with
      ranges := [{ base := 0, limit := 0x1000, offset := 0, valid := true, scope := 0, sysatom := false, rd := true, wr := false, at' := false, side := 0 }]
      chans := x.ctx.chans.set 0 { CopyChan.init with queue := [deniedCopy], run := some deniedRun, walk } } }

/-- The page walk for that address has met an entry that is not valid. -/
def deniedWalk : Walk := { va := 0, level := 1, table := 0, served := some (0, .fault 0) }

theorem twinState_copying (walk : Option Walk) : Copying (twinState walk) 1 0 deniedCopy deniedRun (.bare 1 1) where
  head := rfl
  run := rfl
  launch := rfl
  alive := rfl
  clean := rfl
  canonical := rfl

/-- The walk under way, the condition and the level of the fault: a write that the range table denies, and an entry of a page table that is not valid (R113). -/
def denials : List (Option Walk × Nat × Nat) := [(none, 8, 0), (some deniedWalk, 0, 1)]

/-- The cancellation of fault domain 2 removes the binding to launch 2, and with it the generated launch (R426): the cancellation of fault domain 1, which comes after it, finds no launch
of number 3 in its domain, and the launch of fault domain 3 keeps that number. -/
theorem twinState_settles : ∀ x ∈ denials,
    ((twinState x.1).xlateFault 1 0 deniedCopy 0 x.2.1 x.2.2).settleFaults.launches.map Launch.num = [Launch.windowless.num] := by decide +kernel

theorem twinState_domain_stays {x : Option Walk × Nat × Nat} (h : x ∈ denials) :
    ¬ (twinState x.1).domainGone ((twinState x.1).xlateFault 1 0 deniedCopy 0 x.2.1 x.2.2).settleFaults deniedCopy.fdom := by
  have was : Launch.windowless ∈ (twinState x.1).launches := .tail _ (.tail _ (.head _))
  refine State.not_domainGone was (by decide) (by decide) ?_
  rw [twinState_settles x h]
  exact .head _

/-! ### O25 and O26 -/

/-- Refutes O25: the fault of a translation that the range table denies does not clear its fault domain of every number, where a generated launch of the domain shares its number with a
launch of another domain and is gone, with the binding of its graph, before the domain is cancelled. -/
theorem not_slotTransfers : ¬ Obligations.SlotTransfers := by
  unfold Obligations.SlotTransfers
  rintro ⟨transfers, -⟩
  have copying := twinState_copying none
  have due : (twinState none).pieceDue 1 0 = true := by decide +kernel
  have denied : (twinState none).translate 1 0 (pieceVa deniedRun.desc deniedCopy.left (0, 0, 0, 64)) (dscD deniedRun.desc == 3) = .fault 8 0 := by decide +kernel
  obtain ⟨-, -, faults⟩ := transfers (twinState none) 1 0 deniedCopy deniedRun (.bare 1 1) (0, 0, 0, 64) copying due rfl
  exact twinState_domain_stays (.head _) ((faults 8 0 denied).of_exec (slotTransfer_faults copying due rfl denied))

/-- Refutes O26, in the same way: the fault of a page walk does not clear its fault domain of every number. -/
theorem not_walksAndTables : ¬ Obligations.WalksAndTables := by
  unfold Obligations.WalksAndTables
  rintro ⟨-, walks, -⟩
  have copying := twinState_copying (some deniedWalk)
  have runs : (twinState (some deniedWalk)).opRuns 1 deniedCopy.owner = true := by decide +kernel
  obtain ⟨-, faults, -⟩ := walks (twinState (some deniedWalk)) 1 0 deniedCopy deniedRun (.bare 1 1) deniedWalk 0 (.fault 0) copying rfl rfl (Nat.le_refl _) runs rfl
  exact twinState_domain_stays (.tail _ (.head _)) ((faults 0 rfl).of_exec (translationWalk_faults copying rfl rfl (Nat.le_refl _) runs))

end Sys2Proof.Machine
end

section
/-! SUPPORT. Words of a block's body and their instructions (02_encoding.md, R177 to R179): each decoder answers an instruction exactly where its form gives the word back; then the statement O58. -/

namespace Sys2Proof

/-! ### Fields as numbers -/

/-- The number that each way of making a field has, and equality of fields as equality of numbers: what `omega` needs to put fields together and to take them apart. -/
theorem field_arith :
    (∀ {n m : Nat} (x : BitVec n) (y : BitVec m), (x ++ y).toNat = x.toNat * 2 ^ m + y.toNat) ∧
    (∀ {n : Nat} (lo k : Nat) (x : BitVec n), (x.extractLsb' lo k).toNat = x.toNat / 2 ^ lo % 2 ^ k) ∧
    (∀ {n k : Nat} (x : BitVec n), (x.setWidth k).toNat = x.toNat % 2 ^ k) ∧
    (∀ {k n : Nat} (i : Fin k), (num n i).toNat = i.val % 2 ^ n) ∧ (∀ {k x : Nat} [NeZero k], (Fin.ofNat k x).val = x % k) ∧
    (∀ b : Bool, (bitOf b).toNat = b.toNat) ∧ (∀ {n : Nat} (x : BitVec n) (k : Nat), (x.getLsbD k).toNat = x.toNat / 2 ^ k % 2) ∧
    (∀ n x : Nat, (OfNat.ofNat x : BitVec n) = BitVec.ofNat n x) ∧ (∀ n x : Nat, (BitVec.ofNat n x).toNat = x % 2 ^ n) ∧
    (∀ {n : Nat} {x y : BitVec n}, x = y ↔ x.toNat = y.toNat) ∧ (∀ {n : Nat} {i j : Fin n}, i = j ↔ i.val = j.val) ∧
    (∀ {n : Nat} {x : BitVec n} {k : Nat} {b : Bool}, x.getLsbD k = b ↔ x.toNat / 2 ^ k % 2 = b.toNat) ∧
    true.toNat = 1 ∧ false.toNat = 0 ∧ ∀ (p : Prop) [Decidable p], (decide p = true) = p := by
  have bit {n : Nat} (x : BitVec n) (k : Nat) : (x.getLsbD k).toNat = x.toNat / 2 ^ k % 2 := Nat.toNat_testBit ..
  refine ⟨fun x y => ?_, fun lo k x => ?_, BitVec.toNat_setWidth _, fun _ => rfl, rfl, (by decide), bit, fun _ _ => rfl, fun n x => BitVec.toNat_ofNat x n, BitVec.toNat_eq,
    Fin.ext_iff, fun {n x k b} => ?_, rfl, rfl, fun _ => decide_eq_true_eq⟩
  · rw [BitVec.toNat_append, ← Nat.shiftLeft_add_eq_or_of_lt y.isLt, Nat.shiftLeft_eq]
  · rw [BitVec.extractLsb'_toNat, Nat.shiftRight_eq_div_pow]
  · rw [← bit]
    cases x.getLsbD k <;> cases b <;> decide

theorem getLsbD_iff {n : Nat} {x : BitVec n} {k : Nat} : x.getLsbD k = true ↔ x.toNat / 2 ^ k % 2 = 1 := by simp only [field_arith]

/-! ### Decoding that succeeds -/

@[simp] theorem bind_eq_ok {ε α β : Type} {x : Except ε α} {f : α → Except ε β} {b : β} : (x >>= f) = .ok b ↔ ∃ a, x = .ok a ∧ f a = .ok b := by
  cases x with
  | error e => exact ⟨fun h => (by cases h), fun ⟨_, h, _⟩ => by cases h⟩
  | ok a => exact ⟨fun h => ⟨a, rfl, h⟩, fun ⟨_, h, k⟩ => by cases h; exact k⟩

@[simp] theorem need_eq_ok {c : Bool} {e : Reject} {u : Unit} : need c e = .ok u ↔ c = true := by
  cases c <;> simp [need]

@[simp] theorem orReject_eq_ok {α : Type} {o : Option α} {e : Reject} {a : α} : orReject o e = .ok a ↔ o = some a := by
  cases o <;> simp [orReject]

@[simp] theorem nullE_eq_ok {r : Raw} {n : Nat} {u : Unit} : nullE r n = .ok u ↔ r.hi = 0x1FF ∧ r.lo.toNat < 2 ^ n := by
  simp [nullE]

@[simp] theorem decodePred_eq_ok {b : BitVec 2} {p : Pred} : decodePred b = .ok p ↔ encodePred p = b := by
  revert b; cases p <;> decide

theorem encodeTarget_of_decodeTarget {b : BitVec 9} {t : Target} (h : decodeTarget b = .ok t) : encodeTarget t = b := by
  unfold decodeTarget at h
  split at h
  next null => cases h; exact null.symm
  next =>
    split at h
    next => cases h
    next low =>
      simp only [field_arith, not_not] at low
      split at h
      case h_4 notLeft notRight notGate =>
        split at h <;> cases h
        have kind : (b.extractLsb' 2 2).toNat ≠ 0 ∧ (b.extractLsb' 2 2).toNat ≠ 1 ∧ (b.extractLsb' 2 2).toNat ≠ 2 := ⟨notLeft, notRight, notGate⟩
        simp only [encodeTarget, field_arith] at kind ⊢
        omega
      all_goals
        next kind =>
        cases h
        simp only [encodeTarget, field_arith] at kind ⊢
        omega

@[simp] theorem decodeTarget_eq_ok {b : BitVec 9} {t : Target} : decodeTarget b = .ok t ↔ encodeTarget t = b :=
  ⟨encodeTarget_of_decodeTarget, fun h => h ▸ decodeTarget_encodeTarget t⟩

@[simp] theorem decodeTarget7_eq_ok {b : BitVec 7} {t : Target} : decodeTarget7 b = .ok t ↔ encodeTarget7 t = b := by
  refine ⟨fun h => ?_, fun h => h ▸ decodeTarget7_encodeTarget7 t⟩
  unfold decodeTarget7 at h
  split at h
  next null => cases h; exact null.symm
  next =>
    rw [encodeTarget7, decodeTarget_eq_ok.1 h]
    exact BitVec.extractLsb'_append_eq_left

@[simp] theorem encodeTarget6_decodeTarget6 (b : BitVec 6) : encodeTarget6 (decodeTarget6 b) = b := by
  unfold decodeTarget6
  split
  next null => exact null.symm
  next => split <;> simp only [encodeTarget6, field_arith] <;> omega

theorem compact_decodeTarget6 (b : BitVec 6) : (decodeTarget6 b).compact = true := by
  unfold decodeTarget6
  split
  next => rfl
  next notNull =>
    split
    next => rfl
    next => simp only [Target.compact, field_arith] at notNull ⊢; omega

@[simp] theorem Fmt.ofCode_eq_some {b : BitVec 4} {f : Fmt} : Fmt.ofCode b = some f ↔ f.code = b := by revert b; cases f <;> decide
@[simp] theorem MmaFmt.ofCode_eq_some {b : BitVec 3} {f : MmaFmt} : MmaFmt.ofCode b = some f ↔ f.code = b := by revert b; cases f <;> decide
@[simp] theorem Round.ofCode_eq_some {b : BitVec 3} {f : Round} : Round.ofCode b = some f ↔ f.code = b := by revert b; cases f <;> decide
@[simp] theorem Cond.ofCode_eq_some {b : BitVec 3} {f : Cond} : Cond.ofCode b = some f ↔ f.code = b := by revert b; cases f <;> decide
@[simp] theorem WinSize.code_ofCode (b : BitVec 2) : (WinSize.ofCode b).code = b := by revert b; decide

theorem Round.code_lt_four {f : Round} (h : f ≠ .rsr) : f.code.toNat < 4 := by revert h; cases f <;> decide

/-! ### Formats -/

theorem rawGE_eq_iff {r : Raw} {m : BitVec 7} {p : Pred} {x : BitVec 5} {hi lo : BitVec 9} :
    rawGE m p x hi lo = r ↔ m = r.major ∧ encodePred p = r.pred ∧ x = r.xop ∧ hi = r.hi ∧ lo = r.lo := by
  obtain ⟨m', p', x', hi', lo'⟩ := r
  exact Raw.mk.injEq .. ▸ Iff.rfl

theorem rawI_eq_iff {r : Raw} {m : BitVec 7} {p : Pred} {n : BitVec 14} {lo : BitVec 9} :
    rawI m p n lo = r ↔ m = r.major ∧ encodePred p = r.pred ∧ n = r.imm14 ∧ lo = r.lo := by
  simp only [rawI, rawGE_eq_iff, Raw.imm14, field_arith]
  omega

theorem rawC_eq_iff {r : Raw} {m : BitVec 7} {n : BitVec 16} {t : Target} :
    rawC m n t = r ↔ m = r.major ∧ n = r.imm16 ∧ encodeTarget t = r.lo := by
  obtain ⟨m', p', x', hi', lo'⟩ := r
  simp only [rawC, Raw.mk.injEq, Raw.imm16, field_arith]
  omega

theorem rawLow_eq_iff {r : Raw} {m : BitVec 7} {b : BitVec 25} : rawLow m b = r ↔ m = r.major ∧ b = r.pred ++ r.low23 := by
  obtain ⟨m', p', x', hi', lo'⟩ := r
  simp only [rawLow, Raw.mk.injEq, Raw.low23, field_arith]
  omega

/-! ### Decoders of one form each

Such a decoder answers an instruction exactly where its form puts the instruction's fields back to the same word; either direction of the round trip is one reading of the equivalence. -/

variable {r : Raw} {i : Instr}

theorem decodeI_eq_ok {f : Pred → BitVec 14 → Target → Instr} :
    decodeI f r = .ok i ↔ ∃ p n t, f p n t = i ∧ rawI r.major p n (encodeTarget t) = r := by
  simp only [decodeI, bind_eq_ok, decodePred_eq_ok, decodeTarget_eq_ok, Except.ok.injEq, rawI_eq_iff, true_and]
  exact ⟨fun ⟨p, hp, t, ht, h⟩ => ⟨p, _, t, h, hp, rfl, ht⟩, fun ⟨p, n, t, h, hp, hn, ht⟩ => ⟨p, hp, t, ht, hn ▸ h⟩⟩

theorem decodeShift_eq_ok {f : Pred → BitVec 6 → Target → Instr} :
    decodeShift f r = .ok i ↔ ∃ p n t, f p n t = i ∧ rawI r.major p ((0 : BitVec 8) ++ n) (encodeTarget t) = r := by
  have cut (n : BitVec 6) : (0 : BitVec 8) ++ n = r.imm14 ↔ r.imm14.extractLsb' 6 8 = 0 ∧ r.imm14.extractLsb' 0 6 = n := by
    simp only [field_arith]
    omega
  simp only [decodeShift, bind_eq_ok, need_eq_ok, beq_iff_eq, decodePred_eq_ok, decodeTarget_eq_ok, Except.ok.injEq, rawI_eq_iff, true_and, cut]
  exact ⟨fun ⟨_, z, p, hp, t, ht, h⟩ => ⟨p, _, t, h, hp, ⟨z, rfl⟩, ht⟩, fun ⟨p, n, t, h, hp, ⟨z, hn⟩, ht⟩ => ⟨(), z, p, hp, t, ht, hn ▸ h⟩⟩

theorem decodeC_eq_ok {f : BitVec 16 → Target → Instr} : decodeC f r = .ok i ↔ ∃ n t, f n t = i ∧ rawC r.major n t = r := by
  simp only [decodeC, bind_eq_ok, decodeTarget_eq_ok, Except.ok.injEq, rawC_eq_iff, true_and]
  exact ⟨fun ⟨t, ht, h⟩ => ⟨_, t, h, rfl, ht⟩, fun ⟨n, t, h, hn, ht⟩ => ⟨t, ht, hn ▸ h⟩⟩

theorem decodeFan3_eq_ok : decodeFan3 r = .ok i ↔
    ∃ a b c, .fan3 a b c = i ∧ rawLow r.major ((0 : BitVec 4) ++ encodeTarget7 c ++ encodeTarget7 b ++ encodeTarget7 a) = r := by
  have cut (a b c : BitVec 7) : (0 : BitVec 4) ++ c ++ b ++ a = r.pred ++ r.low23 ↔
      (r.pred = 0 ∧ r.low23.extractLsb' 21 2 = 0) ∧ a = r.low23.extractLsb' 0 7 ∧ b = r.low23.extractLsb' 7 7 ∧ c = r.low23.extractLsb' 14 7 := by
    simp only [field_arith]
    omega
  simp only [decodeFan3, bind_eq_ok, need_eq_ok, Bool.and_eq_true, beq_iff_eq, decodeTarget7_eq_ok, Except.ok.injEq, rawLow_eq_iff, true_and, cut]
  exact ⟨fun ⟨_, z, a, ha, b, hb, c, hc, h⟩ => ⟨a, b, c, h, z, ha, hb, hc⟩, fun ⟨a, b, c, h, z, ha, hb, hc⟩ => ⟨(), z, a, ha, b, hb, c, hc, h⟩⟩

theorem decodeLoad_eq_ok {f : Pred → BitVec 5 → BitVec 9 → Target → Instr} :
    decodeLoad f r = .ok i ↔ ∃ p l n t, f p l n t = i ∧ rawGE r.major p l n (encodeTarget t) = r := by
  simp only [decodeLoad, bind_eq_ok, decodePred_eq_ok, decodeTarget_eq_ok, Except.ok.injEq, rawGE_eq_iff, true_and]
  exact ⟨fun ⟨p, hp, t, ht, h⟩ => ⟨p, _, _, t, h, hp, rfl, rfl, ht⟩, fun ⟨p, l, n, t, h, hp, hl, hn, ht⟩ => ⟨p, hp, t, ht, hn ▸ hl ▸ h⟩⟩

theorem decodeStore_eq_ok {f : Pred → BitVec 5 → BitVec 9 → Instr} :
    decodeStore f r = .ok i ↔ ∃ p l n, f p l n = i ∧ rawGE r.major p l n 0x1FF = r := by
  simp only [decodeStore, bind_eq_ok, need_eq_ok, beq_iff_eq, decodePred_eq_ok, Except.ok.injEq, rawGE_eq_iff, true_and]
  exact ⟨fun ⟨_, z, p, hp, h⟩ => ⟨p, _, _, h, hp, rfl, rfl, z.symm⟩, fun ⟨p, l, n, h, hp, hl, hn, z⟩ => ⟨(), z.symm, p, hp, hn ▸ hl ▸ h⟩⟩

theorem decodeStQ_eq_ok : decodeStQ r = .ok i ↔ ∃ l n, .stQ l n = i ∧ rawGE r.major .always l n 0x1FF = r := by
  simp only [decodeStQ, bind_eq_ok, need_eq_ok, beq_iff_eq, Except.ok.injEq, rawGE_eq_iff, encodePred, true_and]
  exact ⟨fun ⟨_, z, _, hp, h⟩ => ⟨_, _, h, hp.symm, rfl, rfl, z.symm⟩, fun ⟨l, n, h, hp, hl, hn, z⟩ => ⟨(), z.symm, (), hp.symm, hn ▸ hl ▸ h⟩⟩

theorem decodeB_eq_ok {f : Pred → BitVec 3 → BitVec 20 → Instr} :
    decodeB f r = .ok i ↔ ∃ p e o, f p e o = i ∧ rawLow r.major (encodePred p ++ e ++ o) = r := by
  have cut (p : BitVec 2) (e : BitVec 3) (o : BitVec 20) : p ++ e ++ o = r.pred ++ r.low23 ↔
      p = r.pred ∧ e = r.low23.extractLsb' 20 3 ∧ o = r.low23.extractLsb' 0 20 := by
    simp only [field_arith]
    omega
  simp only [decodeB, bind_eq_ok, decodePred_eq_ok, Except.ok.injEq, rawLow_eq_iff, true_and, cut]
  exact ⟨fun ⟨p, hp, h⟩ => ⟨p, _, _, h, hp, rfl, rfl⟩, fun ⟨p, e, o, h, hp, he, ho⟩ => ⟨p, hp, ho ▸ he ▸ h⟩⟩

theorem decodeCopy_eq_ok {f : Pred → ChanIx → BitVec 9 → Instr} {hi : BitVec 3} :
    decodeCopy f hi r = .ok i ↔ ∃ p c d, f p c d = i ∧ rawN r.major p (hi ++ (num 2 c : BitVec 2)) d = r := by
  have cut (c : ChanIx) : hi ++ (num 2 c : BitVec 2) = r.xop ↔ r.xop.extractLsb' 2 3 = hi ∧ Fin.ofNat 4 r.xop.toNat = c := by
    simp only [field_arith]
    omega
  simp only [decodeCopy, bind_eq_ok, need_eq_ok, beq_iff_eq, decodePred_eq_ok, Except.ok.injEq, rawN, rawGE_eq_iff, true_and, cut]
  exact ⟨fun ⟨_, z, _, x, p, hp, h⟩ => ⟨p, _, _, h, hp, ⟨x, rfl⟩, z.symm, rfl⟩, fun ⟨p, c, d, h, hp, ⟨x, hc⟩, z, hd⟩ => ⟨(), z.symm, (), x, p, hp, hd ▸ hc ▸ h⟩⟩

theorem decodeCpchk_eq_ok :
    decodeCpchk r = .ok i ↔ ∃ p n t, .cpchk p n t = i ∧ rawGE r.major p 0 (encodeTarget t) ((0 : BitVec 1) ++ n) = r := by
  have cut (n : BitVec 8) : (0 : BitVec 1) ++ n = r.lo ↔ r.lo.extractLsb' 8 1 = 0 ∧ r.lo.extractLsb' 0 8 = n := by
    simp only [field_arith]
    omega
  simp only [decodeCpchk, bind_eq_ok, need_eq_ok, Bool.and_eq_true, beq_iff_eq, decodePred_eq_ok, decodeTarget_eq_ok, Except.ok.injEq, rawGE_eq_iff, true_and, cut]
  exact ⟨fun ⟨_, ⟨x, z⟩, p, hp, t, ht, h⟩ => ⟨p, _, t, h, hp, x.symm, ht, z, rfl⟩, fun ⟨p, n, t, h, hp, x, ht, z, hn⟩ => ⟨(), ⟨x.symm, z⟩, p, hp, t, ht, hn ▸ h⟩⟩

theorem decodeLdpw_eq_ok : decodeLdpw r = .ok i ↔
    ∃ p w z n t, .ldpw p w z n t = i ∧ rawGE r.major p ((num 3 w : BitVec 3) ++ WinSize.code z) (encodeTarget t) n = r := by
  have cut (w : Fin 8) (z : BitVec 2) : (num 3 w : BitVec 3) ++ z = r.xop ↔ Fin.ofNat 8 (r.xop.extractLsb' 2 3).toNat = w ∧ r.xop.extractLsb' 0 2 = z := by
    simp only [field_arith]
    omega
  simp only [decodeLdpw, bind_eq_ok, decodePred_eq_ok, decodeTarget_eq_ok, Except.ok.injEq, rawGE_eq_iff, true_and, cut]
  refine ⟨fun ⟨p, hp, t, ht, h⟩ => ⟨p, _, _, _, t, h, hp, ⟨rfl, (WinSize.code_ofCode _).symm⟩, ht, rfl⟩, fun ⟨p, w, z, n, t, h, hp, ⟨hw, hz⟩, ht, hn⟩ => ⟨p, hp, t, ht, ?_⟩⟩
  rw [hw, hz, WinSize.ofCode_code, ← hn, h]

theorem decodeFan4_eq_ok : decodeFan4 r = .ok i ↔ ∃ a b c d, (Instr.fan4 a b c d).wf = true ∧ .fan4 a b c d = i ∧
    rawLow r.major ((0 : BitVec 1) ++ encodeTarget6 d ++ encodeTarget6 c ++ encodeTarget6 b ++ encodeTarget6 a) = r := by
  have cut (a b c d : BitVec 6) : (0 : BitVec 1) ++ d ++ c ++ b ++ a = r.pred ++ r.low23 ↔ r.pred.extractLsb' 1 1 = 0 ∧
      a = r.low24.extractLsb' 0 6 ∧ b = r.low24.extractLsb' 6 6 ∧ c = r.low24.extractLsb' 12 6 ∧ d = r.low24.extractLsb' 18 6 := by
    simp only [Raw.low23, Raw.low24, field_arith]
    omega
  simp only [decodeFan4, bind_eq_ok, need_eq_ok, beq_iff_eq, Except.ok.injEq, rawLow_eq_iff, true_and, cut, Instr.wf, Bool.and_eq_true]
  constructor
  · rintro ⟨_, z, rfl⟩
    exact ⟨_, _, _, _, by simp only [compact_decodeTarget6, and_self], rfl, z, by simp only [encodeTarget6_decodeTarget6, and_self]⟩
  · rintro ⟨a, b, c, d, ⟨⟨⟨ha, hb⟩, hc⟩, hd⟩, rfl, z, ea, eb, ec, ed⟩
    refine ⟨(), z, ?_⟩
    rw [← ea, ← eb, ← ec, ← ed, decodeTarget6_encodeTarget6 a ha, decodeTarget6_encodeTarget6 b hb, decodeTarget6_encodeTarget6 c hc, decodeTarget6_encodeTarget6 d hd]

/-! ### Format G: the list of a major opcode's forms -/

theorem decodeG_eq_ok {m : Nat} :
    decodeG m r = .ok i ↔ ∃ f p t u, (formsG m)[r.xop.toNat]? = some f ∧ f p t u = i ∧ rawG r.major r.xop p t u = r := by
  simp only [decodeG, bind_eq_ok, orReject_eq_ok, decodePred_eq_ok, decodeTarget_eq_ok, Except.ok.injEq, rawG, rawGE_eq_iff, true_and]
  exact ⟨fun ⟨f, hf, p, hp, t, ht, u, hu, h⟩ => ⟨f, p, t, u, hf, h, hp, ht, hu⟩, fun ⟨f, p, t, u, hf, h, hp, ht, hu⟩ => ⟨f, hf, p, hp, t, ht, u, hu, h⟩⟩

/-- The k-th of a list of forms has the k-th of the codes that the forms have in order. -/
theorem getElem?_of_map_eq {α β : Type} {l : List α} {n : Nat} {f : α → β} {g : Nat → β} (h : l.map f = (List.range n).map g) {k : Nat} {a : α} (ha : l[k]? = some a) :
    f a = g k := by
  have both := congrArg (·[k]?) h
  obtain ⟨hk, -⟩ := List.getElem?_eq_some_iff.1 ha
  have len : l.length = n := by simpa using congrArg List.length h
  simpa [ha, List.getElem?_range (len ▸ hk)] using both

theorem encodeRaw_formsG (p : Pred) (t u : Target) : ∀ m ∈ [0, 1, 2],
    (formsG m).map (fun f => encodeRaw (f p t u)) = (List.range (formsG m).length).map fun k => some (rawG (BitVec.ofNat 7 m) (BitVec.ofNat 5 k) p t u) := by
  simp only [List.forall_mem_cons]
  exact ⟨rfl, rfl, rfl, by simp⟩

theorem decodeG_encodes {m : Nat} (hm : m ∈ [0, 1, 2]) (major : r.major.toNat = m) (h : decodeG m r = .ok i) : encodeRaw i = some r := by
  obtain ⟨f, p, t, u, hf, rfl, hr⟩ := decodeG_eq_ok.1 h
  rw [getElem?_of_map_eq (encodeRaw_formsG p t u m hm) hf, ← major, BitVec.ofNat_toNat, BitVec.ofNat_toNat, BitVec.setWidth_eq, BitVec.setWidth_eq, hr]

/-! ### From a word to its instruction and back: decoders with minor codes

What such a decoder demands of the fields that a form leaves unused is what makes the form put the same word together again. -/

theorem rawN_of_fields {m : BitVec 7} {p : Pred} {x : BitVec 5} {lo : BitVec 9} (major : r.major.toNat = m.toNat) (pred : encodePred p = r.pred)
    (xop : r.xop.toNat = x.toNat) (null : r.hi = 0x1FF) (low : r.lo.toNat = lo.toNat) : some (rawN m p x lo) = some r :=
  congrArg some (rawGE_eq_iff.2 ⟨BitVec.eq_of_toNat_eq major.symm, pred, BitVec.eq_of_toNat_eq xop.symm, null.symm, BitVec.eq_of_toNat_eq low.symm⟩)

theorem rawGE_of_fields {m : BitVec 7} {p : Pred} {x : BitVec 5} {t : Target} {lo : BitVec 9} (major : r.major.toNat = m.toNat) (pred : encodePred p = r.pred)
    (xop : r.xop.toNat = x.toNat) (target : encodeTarget t = r.hi) (low : r.lo.toNat = lo.toNat) : some (rawGE m p x (encodeTarget t) lo) = some r :=
  congrArg some (rawGE_eq_iff.2 ⟨BitVec.eq_of_toNat_eq major.symm, pred, BitVec.eq_of_toNat_eq xop.symm, target, BitVec.eq_of_toNat_eq low.symm⟩)

theorem low_of_lt {n k w : Nat} {x : BitVec w} (h : x.toNat < 2 ^ k) : x.toNat = ((0 : BitVec n) ++ x.extractLsb' 0 k).toNat := by
  simp [Nat.mod_eq_of_lt h]

/-- Reserved high bits are 0 exactly where the number fits below them. -/
theorem high_eq_zero {n k w : Nat} {x : BitVec w} (h : w = k + n) : x.extractLsb' k n = 0 ↔ x.toNat < 2 ^ k := by
  subst h
  have small : x.toNat / 2 ^ k < 2 ^ n := Nat.div_lt_of_lt_mul (by simpa [Nat.pow_add] using x.isLt)
  simp only [field_arith, Nat.mod_eq_of_lt small, Nat.zero_mod]
  exact Nat.div_eq_zero_iff_lt (Nat.two_pow_pos k)

theorem num_of_lt {n k : Nat} [NeZero k] {x : Nat} (h : x < k) (hk : k ≤ 2 ^ n) : x = (num n (Fin.ofNat k x)).toNat := by
  simp only [field_arith, Nat.mod_eq_of_lt h, Nat.mod_eq_of_lt (h.trans_le hk)]

theorem decodeSys_encodes (major : r.major.toNat = 0x3F) (h : decodeSys r = .ok i) : encodeRaw i = some r := by
  simp only [decodeSys, bind_eq_ok, decodePred_eq_ok] at h
  obtain ⟨p, hp, h⟩ := h
  split at h <;> simp only [bind_eq_ok, need_eq_ok, nullE_eq_ok, exists_const, beq_iff_eq, decodeTarget_eq_ok, Except.ok.injEq, reduceCtorEq] at h
  case h_1 | h_2 | h_9 => obtain ⟨⟨hi, lo⟩, rfl⟩ := h; exact rawN_of_fields major hp ‹_› hi (low_of_lt lo)
  case h_3 | h_5 => obtain ⟨⟨hi, lo⟩, rfl⟩ := h; exact rawN_of_fields major hp ‹_› hi (Nat.lt_one_iff.1 lo)
  case h_10 => obtain ⟨⟨hi, lo⟩, rfl⟩ := h; exact rawN_of_fields major hp ‹_› hi (num_of_lt lo (by decide))
  case h_4 | h_6 | h_7 | h_8 => obtain ⟨lo, t, ht, rfl⟩ := h; exact rawGE_of_fields major hp ‹_› ht (congrArg BitVec.toNat lo)

theorem decodeSync_encodes (major : r.major.toNat = 0x3C) (h : decodeSync r = .ok i) : encodeRaw i = some r := by
  simp only [decodeSync, bind_eq_ok, decodePred_eq_ok] at h
  obtain ⟨p, hp, h⟩ := h
  split at h <;>
    simp only [bind_eq_ok, need_eq_ok, exists_const, beq_iff_eq, decodeTarget_eq_ok, Except.ok.injEq, reduceCtorEq, high_eq_zero] at h
  case h_1 | h_3 => obtain ⟨lo, t, ht, rfl⟩ := h; exact rawGE_of_fields major hp ‹_› ht (low_of_lt lo)
  case h_2 => obtain ⟨lo, hi, rfl⟩ := h; exact rawN_of_fields major hp ‹_› hi (low_of_lt lo)
  case h_4 => obtain ⟨lo, hi, rfl⟩ := h; exact rawN_of_fields major hp ‹_› hi (num_of_lt lo (by decide))
  case h_5 => obtain ⟨lo, t, ht, rfl⟩ := h; exact rawGE_of_fields major hp ‹_› ht (num_of_lt lo (by decide))

theorem encodeRaw_amo (p : Pred) (l : BitVec 5) (t : Target) :
    [Instr.amoaddW, .amoaddD, .amominW, .amominD, .amomaxW, .amomaxD, .amoswapW, .amoswapD].map (fun f => encodeRaw (f p l t)) =
      (List.range 8).map fun k => some (rawGE 0x3B p (BitVec.ofNat 5 k) (encodeTarget t) ((0 : BitVec 4) ++ l)) := rfl

theorem decodeAmo_encodes (major : r.major.toNat = 0x3B) (h : decodeAmo r = .ok i) : encodeRaw i = some r := by
  simp only [decodeAmo, bind_eq_ok, need_eq_ok, exists_const, beq_iff_eq, decodeTarget_eq_ok, high_eq_zero] at h
  obtain ⟨lo, t, ht, h⟩ := h
  split at h
  · simp only [bind_eq_ok, orReject_eq_ok, decodePred_eq_ok, Except.ok.injEq] at h
    obtain ⟨f, hf, p, hp, rfl⟩ := h
    rw [getElem?_of_map_eq (encodeRaw_amo p _ t) hf]
    exact rawGE_of_fields major hp (by simp) ht (low_of_lt lo)
  · simp only [bind_eq_ok, need_eq_ok, exists_const, beq_iff_eq] at h
    obtain ⟨hp, h⟩ := h
    split at h <;> cases h
    all_goals exact rawGE_of_fields major hp.symm ‹_› ht (low_of_lt lo)

theorem decodeTrace_encodes {m : Nat} (major : r.major.toNat = m) (le : m ≤ 0x4F) (ge : 0x4C ≤ m) (h : decodeTrace m r = .ok i) : encodeRaw i = some r := by
  simp only [decodeTrace, bind_eq_ok, decodePred_eq_ok] at h
  obtain ⟨p, hp, h⟩ := h
  split at h <;> simp only [bind_eq_ok, need_eq_ok, nullE_eq_ok, exists_const, beq_iff_eq, Except.ok.injEq] at h
  case h_1 => obtain ⟨⟨hi, lo⟩, rfl⟩ := h; exact rawN_of_fields major hp rfl hi (Nat.lt_one_iff.1 lo)
  case h_2 => obtain ⟨xop, ⟨hi, lo⟩, rfl⟩ := h; exact rawN_of_fields major hp (congrArg BitVec.toNat xop) hi (low_of_lt lo)
  case h_3 => obtain ⟨xop, ⟨hi, lo⟩, rfl⟩ := h; exact rawN_of_fields major hp (congrArg BitVec.toNat xop) hi (Nat.lt_one_iff.1 lo)
  case h_4 notRec notMark notHash =>
    obtain ⟨xop, ⟨hi, lo⟩, rfl⟩ := h
    have others : m ≠ 0x4C ∧ m ≠ 0x4D ∧ m ≠ 0x4E := ⟨notRec, notMark, notHash⟩
    have last : r.major.toNat = 0x4F := by omega
    split
    next zero => exact rawN_of_fields last hp (congrArg BitVec.toNat xop) hi (congrArg BitVec.toNat zero)
    next one => exact rawN_of_fields last hp (congrArg BitVec.toNat xop) hi ((Nat.le_of_lt_succ lo).antisymm (Nat.pos_of_ne_zero fun zero => one (BitVec.eq_of_toNat_eq zero)))

theorem decodeRegion_encodes {m : Nat} (major : r.major.toNat = m) (h : decodeRegion m r = .ok i) : encodeRaw i = some r := by
  simp only [decodeRegion, bind_eq_ok, need_eq_ok, exists_const, beq_iff_eq, decodePred_eq_ok] at h
  obtain ⟨p, hp, xop, h⟩ := h
  have xop := congrArg BitVec.toNat xop
  split at h <;>
    simp only [bind_eq_ok, need_eq_ok, nullE_eq_ok, exists_const, decide_eq_true_eq, decodeTarget_eq_ok, Except.ok.injEq, reduceCtorEq] at h
  case h_1 | h_3 | h_4 | h_5 | h_6 => obtain ⟨⟨hi, lo⟩, rfl⟩ := h; exact rawN_of_fields major hp xop hi (Nat.lt_one_iff.1 lo)
  case h_2 | h_7 => obtain ⟨⟨hi, lo⟩, rfl⟩ := h; exact rawN_of_fields major hp xop hi (low_of_lt lo)
  case h_8 => obtain ⟨lo, t, ht, rfl⟩ := h; exact rawGE_of_fields major hp xop ht (num_of_lt lo (by decide))
  case h_9 =>
    obtain ⟨lo, t, ht, rfl⟩ := h
    exact rawGE_of_fields major hp xop ht (by simp only [field_arith]; omega)
  case h_10 => obtain ⟨⟨hi, lo⟩, rfl⟩ := h; exact rawN_of_fields major hp xop hi (num_of_lt lo (by decide))

theorem decodeMatrix_encodes {m : Nat} (major : r.major.toNat = m) (h : decodeMatrix m r = .ok i) : encodeRaw i = some r := by
  simp only [decodeMatrix, bind_eq_ok, need_eq_ok, exists_const, beq_iff_eq, decodePred_eq_ok] at h
  obtain ⟨p, hp, hi, h⟩ := h
  split at h
  case h_1 =>
    split at h <;> cases h
    all_goals exact rawN_of_fields major hp ‹_› hi (by simp only [field_arith]; omega)
  case h_2 =>
    simp only [bind_eq_ok, need_eq_ok, exists_const, beq_iff_eq, Except.ok.injEq, high_eq_zero] at h
    obtain ⟨lo, rfl⟩ := h
    simp only [getLsbD_iff]
    split <;> exact rawN_of_fields major hp (by simp only [field_arith]; omega) hi (by simp only [field_arith]; omega)
  case h_3 =>
    simp only [bind_eq_ok, need_eq_ok, orReject_eq_ok, exists_const, beq_iff_eq, Except.ok.injEq, MmaFmt.ofCode_eq_some, field_arith] at h
    obtain ⟨xop, f, hf, rfl⟩ := h
    exact rawN_of_fields major hp (by simp only [field_arith]; omega) hi (by simp only [field_arith]; omega)
  case h_4 =>
    simp only [bind_eq_ok, orReject_eq_ok, Except.ok.injEq, MmaFmt.ofCode_eq_some, field_arith] at h
    obtain ⟨f, hf, rfl⟩ := h
    exact rawN_of_fields major hp (by simp only [field_arith]; omega) hi (by simp only [field_arith]; omega)
  case h_5 =>
    split at h <;>
      simp only [bind_eq_ok, need_eq_ok, orReject_eq_ok, exists_const, beq_iff_eq, decide_eq_true_eq, Except.ok.injEq, reduceCtorEq, Round.ofCode_eq_some, field_arith] at h
    case h_1 =>
      obtain ⟨lo, f, hf, rfl⟩ := h
      exact rawN_of_fields major hp ‹_› hi (by simp only [field_arith]; omega)
    case h_2 | h_3 => obtain ⟨lo, rfl⟩ := h; exact rawN_of_fields major hp ‹_› hi (num_of_lt lo (by decide))
  case h_6 =>
    simp only [bind_eq_ok, orReject_eq_ok, Except.ok.injEq, Round.ofCode_eq_some, field_arith] at h
    obtain ⟨f, hf, rfl⟩ := h
    exact rawN_of_fields major hp (by simp only [field_arith]; omega) hi (by simp only [field_arith]; omega)
  case h_7 =>
    simp only [bind_eq_ok, need_eq_ok, exists_const, beq_iff_eq, decide_eq_true_eq, Except.ok.injEq] at h
    obtain ⟨xop, lo, rfl⟩ := h
    exact rawN_of_fields major hp (congrArg BitVec.toNat xop) hi (by simp only [field_arith]; omega)
  case h_8 =>
    split at h <;>
      simp only [bind_eq_ok, need_eq_ok, orReject_eq_ok, exists_const, decide_eq_true_eq, Except.ok.injEq, reduceCtorEq, Fmt.ofCode_eq_some, field_arith] at h
    case h_1 => obtain ⟨f, hf, rfl⟩ := h; exact rawN_of_fields major hp ‹_› hi (by simp only [field_arith]; omega)
    case h_2 => obtain ⟨lo, rfl⟩ := h; exact rawN_of_fields major hp ‹_› hi (num_of_lt lo (by decide))
  case h_9 =>
    simp only [bind_eq_ok, need_eq_ok, exists_const, beq_iff_eq, decide_eq_true_eq, field_arith] at h
    obtain ⟨xop, lo, h⟩ := h
    split at h <;> cases h
    all_goals exact rawN_of_fields major hp (by simp only [field_arith]; omega) hi (num_of_lt lo (by decide))

theorem encodeRaw_logic (p : Pred) (d : Fin 64) :
    [Instr.sand, .sor, .sxor, .sxnor, .smux, .snot, .smov, .srot].map (fun f => encodeRaw (f p d)) =
      (List.range 8).map fun k => some (rawN 0x70 p (BitVec.ofNat 5 k) (num 9 d)) := rfl

theorem decodeStoch_encodes {m : Nat} (major : r.major.toNat = m) (h : decodeStoch m r = .ok i) : encodeRaw i = some r := by
  simp only [decodeStoch, bind_eq_ok, need_eq_ok, exists_const, beq_iff_eq, decodePred_eq_ok] at h
  obtain ⟨p, hp, hi, h⟩ := h
  split at h
  case h_1 =>
    split at h <;>
      simp only [bind_eq_ok, need_eq_ok, orReject_eq_ok, exists_const, Bool.and_eq_true, beq_iff_eq, decide_eq_true_eq, Except.ok.injEq, field_arith] at h
    case h_1 => obtain ⟨lo, rfl⟩ := h; exact rawN_of_fields major hp ‹_› hi (by simp only [field_arith]; omega)
    case h_2 => obtain ⟨⟨lo, z⟩, rfl⟩ := h; exact rawN_of_fields major hp ‹_› hi (by simp only [field_arith]; omega)
    case h_3 =>
      obtain ⟨lo, f, hf, rfl⟩ := h
      rw [getElem?_of_map_eq (encodeRaw_logic p _) hf]
      exact rawN_of_fields major hp (by simp) hi (num_of_lt lo (by decide))
  case h_2 =>
    simp only [getLsbD_iff] at h
    split at h <;> simp only [bind_eq_ok, need_eq_ok, exists_const, decide_eq_true_eq, Except.ok.injEq] at h
    next => obtain ⟨lo, rfl⟩ := h; exact rawN_of_fields major hp (by simp only [field_arith]; omega) hi (num_of_lt lo (by decide))
    next => cases h; exact rawN_of_fields major hp (by simp only [field_arith]; omega) hi (by simp only [field_arith]; omega)
  case h_3 =>
    cases h
    simp only [getLsbD_iff]
    split <;> exact rawN_of_fields major hp (by simp only [field_arith]; omega) hi (by simp only [field_arith]; omega)
  case h_4 =>
    split at h <;> simp only [bind_eq_ok, need_eq_ok, exists_const, decide_eq_true_eq, Except.ok.injEq, reduceCtorEq] at h
    case h_1 | h_2 => obtain ⟨lo, rfl⟩ := h; exact rawN_of_fields major hp ‹_› hi (by simp only [field_arith]; omega)
    case h_3 => obtain ⟨lo, rfl⟩ := h; exact rawN_of_fields major hp ‹_› hi (num_of_lt lo (by decide))
  case h_5 =>
    simp only [bind_eq_ok, need_eq_ok, exists_const, beq_iff_eq, decide_eq_true_eq, Except.ok.injEq] at h
    obtain ⟨xop, lo, rfl⟩ := h
    exact rawN_of_fields major hp (congrArg BitVec.toNat xop) hi (num_of_lt lo (by decide))
  case h_6 => cases h

/-! ### A word that decodes is its instruction's word -/

theorem Raw.major_of_toNat {k : Nat} (h : r.major.toNat = k) : r.major = BitVec.ofNat 7 k := by
  rw [← h, BitVec.ofNat_toNat, BitVec.setWidth_eq]

theorem num_channel (c : ChanIx) : (num 5 c : BitVec 5) = (0 : BitVec 3) ++ (num 2 c : BitVec 2) := by
  simp only [field_arith]
  omega

theorem decodeWrcr_eq_ok : (do need (r.lo == 0x1FF) .targetNotNull; .ok (.wrcr (← decodePred r.pred) r.imm14)) = Except.ok i ↔
    ∃ p n, .wrcr p n = i ∧ rawI r.major p n 0x1FF = r := by
  simp only [bind_eq_ok, need_eq_ok, beq_iff_eq, decodePred_eq_ok, Except.ok.injEq, rawI_eq_iff, true_and, exists_const]
  exact ⟨fun ⟨z, p, hp, h⟩ => ⟨p, _, h, hp, rfl, z.symm⟩, fun ⟨p, n, h, hp, hn, z⟩ => ⟨z.symm, p, hp, hn ▸ h⟩⟩

/-- Decoding loses nothing (R177 to R179): by the major opcode, each with the decoder that it selects. -/
theorem decodeRaw_encodes (h : decodeRaw r = .ok i) : encodeRaw i = some r := by
  unfold decodeRaw at h
  split at h
  case h_1 | h_2 | h_3 => exact decodeG_encodes (by decide) ‹_› h
  case h_4 | h_5 | h_6 | h_7 | h_8 | h_12 | h_13 | h_14 | h_15 | h_16 | h_17 | h_18 | h_19 | h_25 =>
    obtain ⟨p, n, t, rfl, e⟩ := decodeI_eq_ok.1 h
    rw [Raw.major_of_toNat ‹_›] at e; exact congrArg some e
  case h_9 | h_10 | h_11 =>
    obtain ⟨p, n, t, rfl, e⟩ := decodeShift_eq_ok.1 h
    rw [Raw.major_of_toNat ‹_›] at e; exact congrArg some e
  case h_20 | h_21 | h_22 =>
    obtain ⟨n, t, rfl, e⟩ := decodeC_eq_ok.1 h
    rw [Raw.major_of_toNat ‹_›] at e; exact congrArg some e
  case h_23 =>
    obtain ⟨a, b, c, rfl, e⟩ := decodeFan3_eq_ok.1 h
    rw [Raw.major_of_toNat ‹_›] at e; exact congrArg some e
  case h_24 =>
    obtain ⟨a, b, c, d, -, rfl, e⟩ := decodeFan4_eq_ok.1 h
    rw [Raw.major_of_toNat ‹_›] at e; exact congrArg some e
  case h_26 =>
    obtain ⟨p, n, rfl, e⟩ := decodeWrcr_eq_ok.1 h
    rw [Raw.major_of_toNat ‹_›] at e; exact congrArg some e
  case h_27 | h_28 | h_29 | h_30 | h_31 =>
    obtain ⟨p, l, n, t, rfl, e⟩ := decodeLoad_eq_ok.1 h
    rw [Raw.major_of_toNat ‹_›] at e; exact congrArg some e
  case h_32 | h_33 | h_34 | h_35 =>
    obtain ⟨p, l, n, rfl, e⟩ := decodeStore_eq_ok.1 h
    rw [Raw.major_of_toNat ‹_›] at e; exact congrArg some e
  case h_36 =>
    obtain ⟨l, n, rfl, e⟩ := decodeStQ_eq_ok.1 h
    rw [Raw.major_of_toNat ‹_›] at e; exact congrArg some e
  case h_37 =>
    obtain ⟨p, w, z, n, t, rfl, e⟩ := decodeLdpw_eq_ok.1 h
    rw [Raw.major_of_toNat ‹_›] at e; exact congrArg some e
  case h_38 => exact decodeAmo_encodes ‹_› h
  case h_39 => exact decodeSync_encodes ‹_› h
  case h_40 | h_41 =>
    obtain ⟨p, x, o, rfl, e⟩ := decodeB_eq_ok.1 h
    rw [Raw.major_of_toNat ‹_›] at e; exact congrArg some e
  case h_42 => exact decodeSys_encodes ‹_› h
  case h_43 | h_44 | h_45 | h_46 | h_47 | h_48 | h_49 | h_51 =>
    obtain ⟨p, c, d, rfl, e⟩ := decodeCopy_eq_ok.1 h
    rw [Raw.major_of_toNat ‹_›, ← num_channel] at e; exact congrArg some e
  case h_50 =>
    split at h
    next =>
      obtain ⟨p, c, d, rfl, e⟩ := decodeCopy_eq_ok.1 h
      rw [Raw.major_of_toNat ‹_›] at e; exact congrArg some e
    next =>
      obtain ⟨p, c, d, rfl, e⟩ := decodeCopy_eq_ok.1 h
      rw [Raw.major_of_toNat ‹_›, ← num_channel] at e; exact congrArg some e
  case h_52 =>
    obtain ⟨p, n, t, rfl, e⟩ := decodeCpchk_eq_ok.1 h
    rw [Raw.major_of_toNat ‹_›] at e; exact congrArg some e
  case h_53 =>
    split at h
    next range => exact decodeTrace_encodes rfl range.2 range.1 h
    split at h
    next => exact decodeRegion_encodes rfl h
    split at h
    next => exact decodeMatrix_encodes rfl h
    split at h
    next => exact decodeStoch_encodes rfl h
    next => cases h

/-! ### An instruction's word decodes to it -/

theorem decodeRaw_upper (h : 0x4C ≤ r.major.toNat) : decodeRaw r =
    if r.major.toNat ≤ 0x4F then decodeTrace r.major.toNat r
    else if 0x50 ≤ r.major.toNat ∧ r.major.toNat ≤ 0x59 then decodeRegion r.major.toNat r
    else if 0x60 ≤ r.major.toNat ∧ r.major.toNat ≤ 0x6A then decodeMatrix r.major.toNat r
    else if 0x70 ≤ r.major.toNat ∧ r.major.toNat ≤ 0x74 then decodeStoch r.major.toNat r else .error .reservedMajor := by
  unfold decodeRaw
  split
  case h_53 => simp only [h, true_and]
  all_goals omega

theorem decodeRaw_spill (h : r.major.toNat = 0x47) : decodeRaw r = if r.xop.getLsbD 2 then decodeCopy .cpunspill 1 r else decodeCopy .cpspill 0 r := by
  unfold decodeRaw
  split
  case h_50 => rfl
  case h_53 notSpill _ _ => exact absurd h notSpill
  all_goals omega

theorem decodeRaw_encodeRaw_base (major : r.major.toNat < 0x4C) (wf : i.wf = true) (h : encodeRaw i = some r) : decodeRaw r = .ok i := by
  cases i with
  | add p t u | sub p t u | mul p t u | mulh p t u | mulhu p t u | div p t u | divu p t u | rem p t u | remu p t u | and p t u | or p t u | xor p t u
  | shl p t u | shr p t u | sra p t u | min p t u | minu p t u | max p t u | maxu p t u | clz p t u | popcnt p t u | sextB p t u | sextH p t u | sextW p t u
  | zextB p t u | zextH p t u | zextW p t u | mov p t u | not p t u | teq p t u | tne p t u | tlt p t u | tltu p t u | tle p t u | tleu p t u | tgt p t u
  | tge p t u => cases h; exact decodeG_eq_ok.2 ⟨_, p, t, u, rfl, rfl, rfl⟩
  | addi p n t | muli p n t | andi p n t | ori p n t | xori p n t | teqi p n t | tnei p n t | tlti p n t | tltui p n t | tlei p n t | tleui p n t | tgti p n t
  | tgei p n t | rdcr p n t => cases h; exact decodeI_eq_ok.2 ⟨p, n, t, rfl, rfl⟩
  | shli p n t | shri p n t | srai p n t => cases h; exact decodeShift_eq_ok.2 ⟨p, n, t, rfl, rfl⟩
  | const n t | constu n t | shlc n t => cases h; exact decodeC_eq_ok.2 ⟨n, t, rfl, rfl⟩
  | fan3 a b c => cases h; exact decodeFan3_eq_ok.2 ⟨a, b, c, rfl, rfl⟩
  | fan4 a b c d => cases h; exact decodeFan4_eq_ok.2 ⟨a, b, c, d, wf, rfl, rfl⟩
  | wrcr p n => cases h; exact decodeWrcr_eq_ok.2 ⟨p, n, rfl, rfl⟩
  | ldB p l n t | ldH p l n t | ldW p l n t | ldD p l n t | ldQ p l n t => cases h; exact decodeLoad_eq_ok.2 ⟨p, l, n, t, rfl, rfl⟩
  | stB p l n | stH p l n | stW p l n | stD p l n => cases h; exact decodeStore_eq_ok.2 ⟨p, l, n, rfl, rfl⟩
  | stQ l n => cases h; exact decodeStQ_eq_ok.2 ⟨l, n, rfl, rfl⟩
  | ldpw p w z n t => cases h; exact decodeLdpw_eq_ok.2 ⟨p, w, z, n, t, rfl, rfl⟩
  | bro p x o | brx p x o => cases h; exact decodeB_eq_ok.2 ⟨p, x, o, rfl, rfl⟩
  | cp1 p c d | cp2 p c d | cp3 p c d | cpmc p c d | cpset p c d | cpcmp p c d | cphash p c d | cpbind p c d =>
    cases h; exact decodeCopy_eq_ok.2 ⟨p, c, d, rfl, congrArg (rawN _ p · d) (num_channel c).symm⟩
  | cpchk p n t => cases h; exact decodeCpchk_eq_ok.2 ⟨p, n, t, rfl, rfl⟩
  | amoaddW p l t | amoaddD p l t | amominW p l t | amominD p l t | amomaxW p l t | amomaxD p l t | amoswapW p l t | amoswapD p l t | amocasW l t | amocasD l t =>
    cases h
    show decodeAmo _ = _
    simp [decodeAmo, rawGE, encodePred, -Fin.ofNat_eq_cast, -Nat.reduceAdd, -BitVec.toNat_append, -BitVec.getLsbD_eq_getElem]
    simp only [field_arith]; omega
  | acq p l t | waitw p l t | rel p l | arrive p l | bwait p l t =>
    cases h
    show decodeSync _ = _
    simp [decodeSync, rawGE, rawN, -Fin.ofNat_eq_cast, -Nat.reduceAdd, -BitVec.toNat_append, -BitVec.getLsbD_eq_getElem]
    simp only [field_arith]; omega
  | bend p n | trap p n | nullst p n | nullw p n =>
    cases h
    show decodeSys _ = _
    simp [decodeSys, rawGE, rawN, -Fin.ofNat_eq_cast, -Nat.reduceAdd, -BitVec.toNat_append, -BitVec.getLsbD_eq_getElem]
    simp only [field_arith]; omega
  | fence p t | rdtick p t | rdlt p t | rdwall p t | brk p | nop p =>
    cases h
    show decodeSys _ = _
    simp [decodeSys, rawGE, rawN]
  | cpspill p c d =>
    cases h
    rw [decodeRaw_spill (r := rawN 0x47 ..) rfl, if_neg (by simp only [rawN, rawGE, field_arith]; omega)]
    exact decodeCopy_eq_ok.2 ⟨p, c, d, rfl, congrArg (rawN _ p · d) (num_channel c).symm⟩
  | cpunspill p c d =>
    cases h
    rw [decodeRaw_spill (r := rawN 0x47 ..) rfl, if_pos (by simp only [rawN, rawGE, field_arith]; omega)]
    exact decodeCopy_eq_ok.2 ⟨p, c, d, rfl, rfl⟩
  | _ => cases h <;> exact absurd major (of_decide_eq_false rfl)

theorem decodeRaw_encodeRaw_region (major : 0x4C ≤ r.major.toNat ∧ r.major.toNat < 0x60) (h : encodeRaw i = some r) : decodeRaw r = .ok i := by
  rw [decodeRaw_upper (by omega)]
  cases i with
  | tmark p n =>
    cases h
    simp [decodeTrace, rawGE, rawN, -Fin.ofNat_eq_cast, -Nat.reduceAdd, -BitVec.toNat_append, -BitVec.getLsbD_eq_getElem]
    simp only [field_arith]; omega
  | trec p n | thash p | tstopStop p | tstopStart p =>
    cases h
    simp [decodeTrace, rawGE, rawN]
  | jtab p | cfgact p | cfgdrop p | run p | loop p =>
    cases h
    simp [decodeRegion, rawGE, rawN]
  | cfgld p n | tok p n | rdsink p n t | lrel p n =>
    cases h
    simp [decodeRegion, rawGE, rawN, -Fin.ofNat_eq_cast, -Nat.reduceAdd, -BitVec.toNat_append, -BitVec.getLsbD_eq_getElem]
    simp only [field_arith]; omega
  | lwait p n b t =>
    cases h
    have := b.toNat_le
    simp [decodeRegion, rawGE, -Fin.ofNat_eq_cast, -Nat.reduceAdd, -BitVec.toNat_append, -BitVec.getLsbD_eq_getElem]
    simp only [field_arith]; omega
  | _ => cases h <;> exact absurd major (of_decide_eq_false rfl)

theorem decodeRaw_encodeRaw_matrix (major : 0x60 ≤ r.major.toNat ∧ r.major.toNat < 0x70) (wf : i.wf = true) (h : encodeRaw i = some r) : decodeRaw r = .ok i := by
  rw [decodeRaw_upper (by omega)]
  cases i with
  | mtld p n x | mtldw p n x | mtst p n x | mma p f d a | mmaw p f d a x | mchainE p n | mzero p n | mrd p n g | mpin p n f | munpin p n | mgdlt p n g | mfwrd p n g | mfwchunk p n g =>
    cases h
    simp [decodeMatrix, rawGE, rawN, -Fin.ofNat_eq_cast, -Nat.reduceAdd, -BitVec.toNat_append, -BitVec.getLsbD_eq_getElem]
    simp only [field_arith]; omega
  | mscacc p d q f b =>
    cases h
    have := b.toNat_le
    simp [decodeMatrix, rawGE, rawN, -Fin.ofNat_eq_cast, -Nat.reduceAdd, -BitVec.toNat_append, -BitVec.getLsbD_eq_getElem]
    simp only [field_arith]; omega
  | mspill p n x =>
    cases h
    have bit : (0#4 ++ (num 5 n : BitVec 5)).getLsbD 5 = false := by simp only [field_arith]; omega
    simp [decodeMatrix, rawGE, rawN, bit, -Fin.ofNat_eq_cast, -Nat.reduceAdd, -BitVec.toNat_append, -BitVec.getLsbD_eq_getElem]
    simp only [field_arith]; omega
  | mfill p n x =>
    cases h
    have bit : (1#4 ++ (num 5 n : BitVec 5)).getLsbD 5 = true := by simp only [field_arith]; omega
    simp [decodeMatrix, rawGE, rawN, bit, -Fin.ofNat_eq_cast, -Nat.reduceAdd, -BitVec.toNat_append, -BitVec.getLsbD_eq_getElem]
    simp only [field_arith]; omega
  | mchainB p n f b =>
    cases h
    have := b.toNat_le
    have : f.code.toNat < 4 := Round.code_lt_four (bne_iff_ne.1 wf)
    simp [decodeMatrix, rawGE, rawN, -Fin.ofNat_eq_cast, -Nat.reduceAdd, -BitVec.toNat_append, -BitVec.getLsbD_eq_getElem]
    simp only [field_arith]; omega
  | _ => cases h <;> exact absurd major (of_decide_eq_false rfl)

theorem decodeRaw_encodeRaw_stochastic (major : 0x70 ≤ r.major.toNat) (h : encodeRaw i = some r) : decodeRaw r = .ok i := by
  rw [decodeRaw_upper (by omega)]
  cases i with
  | sand p d | sor p d | sxor p d | sxnor p d | smux p d | snot p d | smov p d | srot p d | sfill p l d | sld p l d | sst p d | sgset p g =>
    cases h
    simp [decodeStoch, rawGE, rawN, -Fin.ofNat_eq_cast, -Nat.reduceAdd, -BitVec.toNat_append, -BitVec.getLsbD_eq_getElem]
    simp only [field_arith]; omega
  | scnt p b n | s2b p b d =>
    cases h
    have := b.toNat_le
    simp [decodeStoch, rawGE, rawN, -Fin.ofNat_eq_cast, -Nat.reduceAdd, -BitVec.toNat_append, -BitVec.getLsbD_eq_getElem]
    simp only [field_arith]; omega
  | sgen p g b l d | b2s p g b l d =>
    cases h
    have := b.toNat_le
    have bit : (num 5 g : BitVec 5).getLsbD 4 = false := by simp only [field_arith]; omega
    simp [decodeStoch, rawGE, rawN, bit, -Fin.ofNat_eq_cast, -Nat.reduceAdd, -BitVec.toNat_append, -BitVec.getLsbD_eq_getElem]
    simp only [field_arith]; omega
  | sregen p g d =>
    cases h
    have bit : (1#1 ++ (num 4 g : BitVec 4)).getLsbD 4 = true := by simp only [field_arith]; omega
    simp [decodeStoch, rawGE, rawN, bit, -Fin.ofNat_eq_cast, -Nat.reduceAdd, -BitVec.toNat_append, -BitVec.getLsbD_eq_getElem]
    simp only [field_arith]; omega
  | b2sv p g b l d =>
    cases h
    have := b.toNat_le
    have bit : (1#1 ++ (num 4 g : BitVec 4)).getLsbD 4 = true := by simp only [field_arith]; omega
    simp [decodeStoch, rawGE, rawN, bit, -Fin.ofNat_eq_cast, -Nat.reduceAdd, -BitVec.toNat_append, -BitVec.getLsbD_eq_getElem]
    simp only [field_arith]; omega
  | _ => cases h <;> exact absurd major (of_decide_eq_false rfl)

/-- An instruction's word decodes to it: by the range of major opcodes in which the word lies. -/
theorem decodeRaw_encodeRaw (wf : i.wf = true) (h : encodeRaw i = some r) : decodeRaw r = .ok i := by
  rcases Nat.lt_or_ge r.major.toNat 0x4C with base | upper
  · exact decodeRaw_encodeRaw_base base wf h
  rcases Nat.lt_or_ge r.major.toNat 0x60 with region | upper'
  · exact decodeRaw_encodeRaw_region ⟨upper, region⟩ h
  rcases Nat.lt_or_ge r.major.toNat 0x70 with matrix | stochastic
  · exact decodeRaw_encodeRaw_matrix ⟨upper', matrix⟩ wf h
  · exact decodeRaw_encodeRaw_stochastic stochastic h

/-- Settles O58: a word and its fields stand for each other, and on fields the decoder and the encoder invert each other. -/
theorem wordsRoundTrip : Obligations.WordsRoundTrip := by
  unfold Obligations.WordsRoundTrip
  refine ⟨fun i w wf h => ?_, fun w i h => ?_⟩
  · obtain ⟨r, hr, rfl⟩ := Option.map_eq_some_iff.1 h
    rw [decodeWord, Raw.ofWord_toWord]
    exact decodeRaw_encodeRaw wf hr
  · rw [encodeWord, decodeRaw_encodes h, Option.map_some, Raw.toWord_ofWord]

end Sys2Proof
end

section
/-! SUPPORT. Packets and their instructions (02_encoding.md, R191 to R193, R403): a packet's header and payload decode to the packet they were made from; then the statements O59 and O57. -/

namespace Sys2Proof

/-! ### The fields of a header -/

@[simp] theorem header_op (tag : BitVec 32) (size op : BitVec 8) : (header tag size op).extractLsb' 0 8 = op := by
  simp only [header, field_arith]; omega

@[simp] theorem header_size (tag : BitVec 32) (size op : BitVec 8) : (header tag size op).extractLsb' 8 8 = size := by
  simp only [header, field_arith]; omega

@[simp] theorem header_reserved (tag : BitVec 32) (size op : BitVec 8) : (header tag size op).extractLsb' 16 16 = 0 := by
  simp only [header, field_arith]; omega

@[simp] theorem header_tag (tag : BitVec 32) (size op : BitVec 8) : (header tag size op).extractLsb' 32 32 = tag := by
  simp only [header, field_arith]; omega

@[simp] theorem addr56_wide56 (a : BitVec 56) : addr56 (wide56 a) = .ok a := by
  simp only [addr56, wide56, bind_eq_ok, need_eq_ok, beq_iff_eq, Except.ok.injEq, exists_const, field_arith]
  omega

/-! ### A packet decodes to its instruction -/

theorem checkHeader_header {tag : BitVec 32} {size op : BitVec 8} (h : packetSize op.toNat = some size.toNat) : checkHeader (header tag size op) = .ok () := by
  simp [checkHeader, h, need]

/-- Each packet's decoder finds the fields where the packet has them, and every bit between them 0. -/
theorem decodePacket_encodePacket {i : Instr} {h : Word} {pl : List Word} (e : encodePacket i = some (h :: pl)) : decodePacket h pl = .ok i := by
  cases i with
  | pkNop tag n => cases e; simp [decodePacket, checkHeader, fld]
  | pkFfence tag | pkEnd tag => cases e; simp [decodePacket, checkHeader_header, packetSize, fld]
  | pkIb tag a l | pkPred tag a v c n | pkLoop tag n b | pkWait tag a v c t | pkIngress tag id s d l | pkCopy tag s d l =>
    cases e
    simp [decodePacket, checkHeader_header, packetSize, fld, highZero, -Fin.ofNat_eq_cast, -Nat.reduceAdd, -BitVec.toNat_append, -BitVec.getLsbD_eq_getElem]
    simp only [field_arith]
    omega
  | pkLaunch tag a t d =>
    cases e
    have := d.toNat_le
    simp [decodePacket, checkHeader_header, packetSize, fld, highZero, -Fin.ofNat_eq_cast, -Nat.reduceAdd, -BitVec.toNat_append, -BitVec.getLsbD_eq_getElem]
    simp only [field_arith]
    omega
  | pkSignal tag a v op after irq vec x =>
    cases e
    have := after.toNat_le
    have := irq.toNat_le
    have low (o : BitVec 2) : (0#48 ++ vec ++ 0#4 ++ bitOf irq ++ bitOf after ++ o).extractLsb' 0 2 = o := by simp only [field_arith]; omega
    cases op
    all_goals
      simp [decodePacket, checkHeader_header, packetSize, fld, highZero, low, -Fin.ofNat_eq_cast, -Nat.reduceAdd, -BitVec.toNat_append, -BitVec.getLsbD_eq_getElem]
      simp only [field_arith]
      omega
  | pkMode tag l m u =>
    cases e
    have := u.toNat_le
    simp [decodePacket, checkHeader_header, packetSize, fld, highZero, -Fin.ofNat_eq_cast, -Nat.reduceAdd, -BitVec.toNat_append, -BitVec.getLsbD_eq_getElem]
    simp only [field_arith]
    omega
  | pkGraphRun tag g =>
    cases e
    have verb : (num 64 g).toNat >>> 8 % 4 = 0 := by simp only [field_arith]; omega
    simp [decodePacket, checkHeader_header, packetSize, fld, highZero, verb, -Fin.ofNat_eq_cast, -Nat.reduceAdd, -BitVec.toNat_append, -BitVec.getLsbD_eq_getElem]
    simp only [field_arith]
    omega
  | pkGraphLoad tag g a l =>
    cases e
    have verb : (1#56 ++ (num 8 g : BitVec 8)).toNat >>> 8 % 4 = 1 := by simp only [field_arith]; omega
    simp [decodePacket, checkHeader_header, packetSize, fld, highZero, verb, -Fin.ofNat_eq_cast, -Nat.reduceAdd, -BitVec.toNat_append, -BitVec.getLsbD_eq_getElem]
    simp only [field_arith]
    omega
  | pkGraphUnload tag g =>
    cases e
    have verb : (2#56 ++ (num 8 g : BitVec 8)).toNat >>> 8 % 4 = 2 := by simp only [field_arith]; omega
    simp [decodePacket, checkHeader_header, packetSize, fld, highZero, verb, -Fin.ofNat_eq_cast, -Nat.reduceAdd, -BitVec.toNat_append, -BitVec.getLsbD_eq_getElem]
    simp only [field_arith]
    omega
  | pkBind tag g c l =>
    cases e
    have bit : (0#32 ++ l ++ c ++ num 8 g).getLsbD 32 = false := by simp only [field_arith]; omega
    simp [decodePacket, checkHeader_header, packetSize, fld, highZero, bit, -Fin.ofNat_eq_cast, -Nat.reduceAdd, -BitVec.toNat_append, -BitVec.getLsbD_eq_getElem]
    simp only [field_arith]
    omega
  | pkUnbind tag g c l =>
    cases e
    have bit : (1#32 ++ l ++ c ++ num 8 g).getLsbD 32 = true := by simp only [field_arith]; omega
    simp [decodePacket, checkHeader_header, packetSize, fld, highZero, bit, -Fin.ofNat_eq_cast, -Nat.reduceAdd, -BitVec.toNat_append, -BitVec.getLsbD_eq_getElem]
    simp only [field_arith]
    omega
  | _ => cases e

theorem encodePacket_size {i : Instr} {h : Word} {pl : List Word} (e : encodePacket i = some (h :: pl)) : (h.extractLsb' 8 8).toNat = pl.length := by
  cases i with
  | pkNop tag n => cases e; rw [header_size, List.length_replicate]
  | _ => cases e <;> rw [header_size] <;> rfl

/-- Settles O59: a packet's double-words decode to it, and its SIZE counts its payload. -/
theorem packetsRoundTrip : Obligations.PacketsRoundTrip := by
  unfold Obligations.PacketsRoundTrip
  exact fun _ _ _ _ e => ⟨decodePacket_encodePacket e, encodePacket_size e⟩

/-- Settles O57: the decoder, run on each of the words and packets. -/
theorem wordEncodings : Obligations.WordEncodings := by
  unfold Obligations.WordEncodings
  decide +kernel

end Sys2Proof
end

section
/-! SUPPORT. Why the statement O56 fails: a `pk.wait` under way executes on the words that it began with (R402), and not on what stands in its source now. -/

namespace Sys2Proof.Machine

/-- A `pk.wait` at the start of queue 0's ring, with VALUE 1 in memory, that is under way since it read VALUE 2 there: the host has altered that double-word meanwhile,
and the queue's fetch window is empty. -/
def alteredWait : State :=
  (State.reset.withFetchWord 256 0x0000000000000000_0000000000000001_0000000003000000_0000000000000305).updQueue 0 fun x =>
    { x with exec := { x.exec with waiting := some [0x305, 0x3000000, 2, 0], waitFrom := some 0 } }

theorem alteredWait_fetches : ({ alteredWait with todo := [] } : State).fetch (.packet (.queue 0)) =
    ((({ alteredWait with todo := [] } : State).fetch (.packet (.queue 0))).1, some (.pkWait 0 0x3000000 2 .eq 0)) := Prod.ext rfl (by decide +kernel)

theorem alteredWait_stands : packetOf ((({ alteredWait with todo := [] } : State).fetch (.packet (.queue 0))).1.packetWords (.queue 0)) = some (.pkWait 0 0x3000000 1 .eq 0) := by
  decide +kernel

/-- Refutes O56: its packet clause asks that the packet executed stand in its source as the step executes it. That of `alteredWait` waits for the value 2, as it began, where its
source holds a `pk.wait` for 1. -/
theorem not_stepRunsDecoded : ¬ Obligations.StepRunsDecoded := by
  unfold Obligations.StepRunsDecoded
  rintro ⟨-, -, packets, -⟩
  obtain ⟨-, -, stands, -⟩ := packets alteredWait (.queue 0) [] _ _ (by decide +kernel) alteredWait_fetches
  rw [alteredWait_stands] at stands
  exact absurd stands (by decide)

end Sys2Proof.Machine
end

section
/-! SUPPORT. Stores, `nullst` and `nullw` as they fire (R184, R205, R232, R233): each changes its running block, by whether its LSID or its write slot is free; then the statement O7. -/

namespace Sys2Proof.Machine

variable {s : State} {b : BlockRun} {p : Pred} {l r th : Bool} {x y z : Word} {c : CoreIx} {q : SeqIx}

/-- The immediate of a memory form is a signed number of elements (R231). -/
theorem memAddr_eq (x : Word) (imm : BitVec 9) (n : Nat) : memAddr x imm n = x + BitVec.ofInt 64 (imm.toInt * n) := by
  rw [memAddr, BitVec.ofInt_mul, BitVec.ofInt_natCast, BitVec.signExtend]

/-! ### A word that has fired -/

theorem State.fired_congr {f g : BlockRun → BlockRun} (run : (s.seq s.focus.core s.focus.seq).run = some b)
    (h : f (b.markFired s.focus.idx) = g (b.markFired s.focus.idx)) : s.fired f = s.fired g := by
  have runs : (s.seq s.focus.core s.focus.seq).run.map (fun b => f (b.markFired s.focus.idx)) = (s.seq s.focus.core s.focus.seq).run.map fun b => g (b.markFired s.focus.idx) := by
    rw [run, Option.map_some, Option.map_some, h]
  unfold State.fired State.updRun State.updSeq State.updCtx State.updCore
  simp only [State.seq, State.ctx] at runs
  simp only [runs]

/-- No trap follows where what the word does to its block raises none. -/
theorem State.fired_settles {f : BlockRun → BlockRun} (run : (s.seq s.focus.core s.focus.seq).run = some b) (noTrap : (f (b.markFired s.focus.idx)).trap = none) :
    (s.fired f).settleTrap s.focus.core s.focus.seq = s.fired f :=
  settleTrap_of_noTrap fun k hk => by
    rw [State.fired, State.seq_updRun_run, run] at hk
    cases hk
    exact noTrap

/-! ### What resolves an LSID, or nullifies a slot -/

/-- A word that resolves a free LSID, and makes `f` of its block besides. -/
theorem fired_resolves {n : BitVec 5} {f : BlockRun → BlockRun} (keeps : ∀ k, (f k).trap = k.trap) (h : Fires s b p l r th x y z) (free : b.lsids.getLsbD n.toNat = false) :
    (s.fired (f ∘ resolveLsid n)).settleTrap s.focus.core s.focus.seq = s.fired fun b => f { b with lsids := setBit b.lsids n.toNat } := by
  have resolved : resolveLsid n (b.markFired s.focus.idx) = { b.markFired s.focus.idx with lsids := setBit b.lsids n.toNat } := if_neg (Bool.eq_false_iff.1 free)
  have noTrap : (resolveLsid n (b.markFired s.focus.idx)).trap = none := (resolveLsid_trap (b := b.markFired s.focus.idx) free).trans h.noTrap
  rw [State.fired_settles (f := f ∘ resolveLsid n) h.run ((keeps _).trans noTrap)]
  exact State.fired_congr h.run (congrArg f resolved)

/-- A second resolution raises ILLEGAL, which is answered (R184, R479). -/
theorem fired_resolves_again {n : BitVec 5} (f : BlockRun → BlockRun) (taken : b.lsids.getLsbD n.toNat = true) (h : Fires s b p l r th x y z) :
    (s.fired (f ∘ resolveLsid n)).settleTrap s.focus.core s.focus.seq = (s.fired fun b => f (b.raise (illegal 3 n.toNat 0))).settleTrap s.focus.core s.focus.seq := by
  have raised : resolveLsid n (b.markFired s.focus.idx) = (b.markFired s.focus.idx).raise (illegal 3 n.toNat 0) := if_pos taken
  exact congrArg (fun u : State => u.settleTrap s.focus.core s.focus.seq) (State.fired_congr h.run (congrArg f raised))

/-- The effect of a store of n bytes: at the location of its LSID, the low bytes of its data, or 16 bytes of `st.q`. -/
def State.storing (s : State) (lsid : BitVec 5) (imm : BitVec 9) (n : Nat) (third : Bool) (x y z : Word) : Effect :=
  .store (s.locate s.focus.core s.focus.seq lsid (x + BitVec.ofInt 64 (imm.toInt * n)) n).2 (if third then leBytes 8 y.toNat ++ leBytes 8 z.toNat else leBytes n y.toNat)

section
variable {lsid : BitVec 5} {imm : BitVec 9} {n : Nat}

theorem fireStore_fires (h : Fires s b p true true th x y z) :
    fireStore p lsid imm n th s =
      .next ((s.fired (BlockRun.effect s.focus.idx (s.storing lsid imm n th x y z) ∘ resolveLsid lsid)).settleTrap s.focus.core s.focus.seq) := by
  rw [fireStore, fireWord_fires h, later_run, memAddr_eq, locate_updRun (f := (·.markFired s.focus.idx)) fun _ => rfl, State.updRun_updRun, State.updRun_updRun]
  rfl

theorem fireStore_free (h : Fires s b p true true th x y z) (free : b.lsids.getLsbD lsid.toNat = false) :
    fireStore p lsid imm n th s =
      .next (s.fired fun b => BlockRun.effect s.focus.idx (s.storing lsid imm n th x y z) { b with lsids := setBit b.lsids lsid.toNat }) :=
  (fireStore_fires h).trans (congrArg _ (fired_resolves (fun _ => rfl) h free))

theorem fireStore_taken (h : Fires s b p true true th x y z) (taken : b.lsids.getLsbD lsid.toNat = true) :
    fireStore p lsid imm n th s = .next ((s.fired fun b => BlockRun.effect s.focus.idx (s.storing lsid imm n th x y z)
      (b.raise (illegal 3 lsid.toNat 0))).settleTrap s.focus.core s.focus.seq) :=
  (fireStore_fires h).trans (congrArg _ (fired_resolves_again _ taken h))

end

theorem execNullst_fires {lsid : BitVec 5} (h : Fires s b p false false false x y z) :
    execNullst p lsid s = .next ((s.fired (id ∘ resolveLsid lsid)).settleTrap s.focus.core s.focus.seq) := by
  rw [execNullst, fireWord_fires h, State.updRun_updRun]
  rfl

theorem execNullw_fires {w : Fin 8} (h : Fires s b p false false false x y z) : execNullw p w s = .next ((s.fired (nullSlot w)).settleTrap s.focus.core s.focus.seq) := by
  rw [execNullw, fireWord_fires h, State.updRun_updRun]
  rfl

theorem execNullw_free {w : Fin 8} (h : Fires s b p false false false x y z) (free : b.slots[w] = none) :
    execNullw p w s = .next (s.fired fun b => { b with slots := b.slots.set w (some none) }) := by
  have nullified : nullSlot w (b.markFired s.focus.idx) = { b.markFired s.focus.idx with slots := b.slots.set w (some none) } :=
    if_neg (Option.isSome_eq_false_iff.2 (Option.isNone_iff_eq_none.2 free) ▸ Bool.false_ne_true)
  rw [execNullw_fires h, State.fired_settles h.run (by rw [nullified]; exact h.noTrap)]
  exact congrArg _ (State.fired_congr h.run nullified)

theorem execNullw_taken {w : Fin 8} (h : Fires s b p false false false x y z) (taken : b.slots[w].isSome = true) :
    execNullw p w s = .next ((s.fired (·.raise (illegal 2 w 0))).settleTrap s.focus.core s.focus.seq) := by
  have raised : nullSlot w (b.markFired s.focus.idx) = (b.markFired s.focus.idx).raise (illegal 2 w 0) := if_pos taken
  rw [execNullw_fires h]
  exact congrArg (fun u : State => (.next (u.settleTrap s.focus.core s.focus.seq) : Out)) (State.fired_congr h.run raised)

/-- Settles O7: what a store, `nullst` and `nullw` make of their block, with the LSID or the slot free and taken. -/
theorem storeWords : Obligations.StoreWords := by
  unfold Obligations.StoreWords
  refine ⟨fun s b p lsid imm x y h => ?_, fun s b lsid imm x y z h => ⟨fun f => ?_, fun t => ?_⟩, fun s b p lsid h => ⟨fun f => ?_, fun t => ?_⟩,
    fun s b p w h => ⟨execNullw_free h, execNullw_taken h⟩⟩
  · have stores (n : Nat) := And.intro (fireStore_free (n := n) (lsid := lsid) (imm := imm) h) (fireStore_taken (n := n) (lsid := lsid) (imm := imm) h)
    exact ⟨stores 1, stores 2, stores 4, stores 8⟩
  · exact fireStore_free h f
  · exact fireStore_taken h t
  · exact (execNullst_fires h).trans (congrArg _ (fired_resolves (fun _ => rfl) h f))
  · exact (execNullst_fires h).trans (congrArg _ (fired_resolves_again _ t h))

end Sys2Proof.Machine
end

section
/-! SUPPORT. Every word of a block (R174 to R181, R200, R202), and that nothing but a word stops: a word's instruction fires as `fireWord` says, with the slots of its form; a packet's or
an event's always answers with a state; then the statement O13. -/

namespace Sys2Proof

/-! ### The fields of a word by which its form is known -/

theorem Raw.toWord_major (r : Raw) : r.toWord.toNat / 2 ^ 25 = r.major.toNat := by
  simp only [Raw.toWord, field_arith]
  omega

theorem Raw.toWord_xop (r : Raw) : Machine.bits r.toWord.toNat 18 5 = r.xop.toNat := by
  simp only [Machine.bits, Raw.toWord, field_arith]
  omega

end Sys2Proof

namespace Sys2Proof.Machine

/-- A function of the state that is the firing of a word with these slots (R200, R218). -/
def FiresAs (e : State → Out) (p : Pred) (l r t : Bool) : Prop := ∃ body, ∀ s, e s = fireWord p l r t s body

namespace FiresAs
variable {e : State → Out} {p : Pred} {lat n : Nat} {t u : Target} {lsid : BitVec 5} {third l r : Bool}
variable {body : CoreIx → SeqIx → Fin 32 → Word → Word → Word → State → State}

theorem word (h : ∀ s, e s = fireWord p l r third s body) : FiresAs e p l r third := ⟨_, h⟩
theorem bin {f : Word → Word → Word} (h : ∀ s, e s = fireBin p lat t u f s) : FiresAs e p true true false := ⟨_, h⟩
theorem un {f : Word → Word} (h : ∀ s, e s = fireUn p t u f s) : FiresAs e p true false false := ⟨_, h⟩
theorem immediate {f : Word → Word} (h : ∀ s, e s = fireImm p lat t f s) : FiresAs e p true false false := ⟨_, h⟩
theorem value {f : CoreIx → SeqIx → State → Word} (h : ∀ s, e s = fireValue p lat t f s) : FiresAs e p false false false := ⟨_, h⟩
theorem load {imm : BitVec 9} (h : ∀ s, e s = fireLoad p lsid imm n t s) : FiresAs e p true false false := ⟨_, h⟩
theorem store {imm : BitVec 9} (h : ∀ s, e s = fireStore p lsid imm n third s) : FiresAs e p true true third := ⟨_, h⟩
theorem amo {op : Fin 5} (h : ∀ s, e s = fireAmo p op n third lsid t s) : FiresAs e p true true third := ⟨_, h⟩
theorem issue {i : Instr} (h : ∀ s, e s = fireIssue p l r i s) : FiresAs e p l r false := ⟨_, h⟩

end FiresAs

/-- Every word's instruction fires as `fireWord` says, with the slots that its form has, and its own predicate (R174 to R181). -/
theorem exec_firesAs {i : Instr} {r : Raw} (h : encodeRaw i = some r) :
    FiresAs (exec i) (Instr.pred i) (wordForm r.toWord).left (wordForm r.toWord).right (wordForm r.toWord).third := by
  simp only [wordForm, Raw.toWord_major, Raw.toWord_xop]
  cases i with
  | add | sub | mul | mulh | mulhu | div | divu | rem | remu | and | or | xor | shl | shr | sra | min | minu | max | maxu | teq | tne | tlt | tltu | tle | tleu | tgt | tge =>
    cases h; apply FiresAs.bin; intro s; simp only [exec]; rfl
  | clz | popcnt | sextB | sextH | sextW | zextB | zextH | zextW | mov | not =>
    cases h; apply FiresAs.un; intro s; simp only [exec]; rfl
  | addi | muli | andi | ori | xori | shli | shri | srai | teqi | tnei | tlti | tltui | tlei | tleui | tgti | tgei | shlc =>
    cases h; apply FiresAs.immediate; intro s; simp only [exec]; rfl
  | const | constu | rdcr | rdtick | rdlt | rdwall | cpchk | rdsink =>
    cases h; apply FiresAs.value; intro s; simp only [exec]; rfl
  | ldB | ldH | ldW | ldD | ldQ =>
    cases h; apply FiresAs.load; intro s; simp only [exec]; rfl
  | stB | stH | stW | stD | stQ =>
    cases h; apply FiresAs.store; intro s; simp only [exec]; rfl
  | amoaddW | amoaddD | amominW | amominD | amomaxW | amomaxD | amoswapW | amoswapD | amocasW | amocasD =>
    cases h; simp [rawGE]; apply FiresAs.amo; intro s; simp only [exec]; rfl
  | cp1 | cp2 | cp3 | cpmc | cpset | cpcmp | cphash | cpspill | cpunspill | cpbind | jtab | cfgld | cfgact | cfgdrop | run | tok | lrel | mtld | mtldw | mtst | mspill | mfill | mma | mmaw | mchainB
  | mchainE | mzero | mscacc | mrd | mpin | munpin | mgdlt | mfwrd | mfwchunk | sand | sor | sxor | sxnor | smux | snot | smov | srot | sfill | scnt | sgen | sregen | s2b | sld | sst
  | sgset =>
    cases h; apply FiresAs.issue; intro s; simp only [exec]; rfl
  | fan3 | fan4 | wrcr | ldpw | acq | arrive | bwait | brx | tmark | thash | lwait | rel | waitw | trec | loop | bro | bend | trap | brk | fence | nop | nullst | nullw | tstopStop | tstopStart =>
    cases h; apply FiresAs.word; intro s; simp only [exec]; rfl
  | b2s p g bp len d =>
    cases h
    have few : ¬ 16 ≤ (num 5 g : BitVec 5).toNat := by simp only [field_arith]; omega
    simp [rawN, rawGE, few]
    apply FiresAs.issue; intro s; simp only [exec]; rfl
  | b2sv p g bp len d =>
    cases h
    have many : 16 ≤ (1#1 ++ (num 4 g : BitVec 4)).toNat := by simp only [field_arith]; omega
    simp [rawN, rawGE, many]
    apply FiresAs.issue; intro s; simp only [exec]; rfl
  | _ => cases h

theorem exec_word {i : Instr} {w : BitVec 32} (h : encodeWord i = some w) :
    FiresAs (exec i) (Instr.pred i) (wordForm w).left (wordForm w).right (wordForm w).third := by
  obtain ⟨r, hr, rfl⟩ := Option.map_eq_some_iff.1 h
  exact exec_firesAs hr

/-! ### What stops -/

section
variable {s : State} {b : BlockRun} {p : Pred} {l r th : Bool} {body : CoreIx → SeqIx → Fin 32 → Word → Word → Word → State → State}

/-- A word that has fired, or been nullified, does nothing more (R200, R202). -/
theorem fireWord_done (run : (s.seq s.focus.core s.focus.seq).run = some b) (done : (b.fired.getLsbD s.focus.idx || b.nulled.getLsbD s.focus.idx) = true) :
    fireWord p l r th s body = .next s := by
  simp only [fireWord, run, done, if_true]

theorem operand_eq_none {need : Bool} {v : Option Word} : operand need v = none ↔ need = true ∧ v = none := by
  cases need <;> simp [operand]

/-- A word stops only where its predicate, or an operand slot that its form has, is still empty. -/
theorem fireWord_stops {e : Fault} (h : fireWord p l r th s body = .fault e) :
    ∃ b, (s.seq s.focus.core s.focus.seq).run = some b ∧ b.fired.getLsbD s.focus.idx = false ∧ b.nulled.getLsbD s.focus.idx = false ∧
      (verdict p b.gate[s.focus.idx] = .waits ∨ operand l b.left[s.focus.idx] = none ∨ operand r b.right[s.focus.idx] = none ∨ operand th b.gate[s.focus.idx] = none) := by
  unfold fireWord at h
  split at h
  next => cases h
  next b run =>
  split at h
  next => cases h
  next live =>
  obtain ⟨unfired, unnulled⟩ := Bool.or_eq_false_iff.1 (Bool.eq_false_iff.2 live)
  refine ⟨b, run, unfired, unnulled, ?_⟩
  split at h
  next waits => exact .inl waits
  next => cases h
  next =>
    split at h
    next => cases h
    next missing =>
      refine .inr ?_
      by_contra filled
      simp only [not_or, Option.ne_none_iff_exists'] at filled
      obtain ⟨⟨x, hx⟩, ⟨y, hy⟩, z, hz⟩ := filled
      exact missing x y z hx hy hz

end

theorem execRegisterWrite_next {off : BitVec 16} {size : BitVec 8} {value : Word} {s : State} : ∃ t, execRegisterWrite off size value s = .next t := by
  unfold execRegisterWrite
  extract_lets a
  split
  · exact ⟨_, rfl⟩
  · split <;> exact ⟨_, rfl⟩

theorem execBlockCommit_next {c : CoreIx} {q : SeqIx} {s : State} : ∃ t, execBlockCommit c q s = .next t := by
  unfold execBlockCommit
  split
  · split
    · exact ⟨_, rfl⟩
    · extract_lets frames
      split
      · exact ⟨_, rfl⟩
      · split <;> exact ⟨_, rfl⟩
  · exact ⟨_, rfl⟩

theorem execPtpSync_next {offset : Int} {s : State} : ∃ t, execPtpSync offset s = .next t := by
  unfold execPtpSync
  split
  · exact ⟨_, rfl⟩
  · split
    · exact ⟨_, rfl⟩
    · extract_lets good bad
      split
      · split <;> exact ⟨_, rfl⟩
      · split <;> exact ⟨_, rfl⟩

/-- A packet's or an event's function answers with a state on each of its branches. -/
theorem exec_next {i : Instr} {s : State} (h : encodeWord i = none) : ∃ t, exec i s = .next t := by
  cases i with
  | pkNop | pkFfence | pkMode | launchPlacement | ucieRetrainStep | relKeyWrite | barrierArrival | barrierConfig | stochasticEffect | cellarRecordPlace | exportBuild | tstopEffect | clostRead
  | plostRead | ptmDialogue | linkDown | coreMarkedDefective | channelFenced | interDieLinkLost | moduleReset | supplyCollapse | lifecycleChange | attestationRequest | thermalEvent
  | retentionStoreClear | linkTraining => exact ⟨_, rfl⟩
  | pkLaunch | pkIb | pkPred | pkLoop | pkWait | pkSignal | pkGraphRun | pkGraphLoad | pkGraphUnload | pkBind | pkUnbind | pkIngress | pkCopy | pkEnd | endCompletion | pkWaitTimeout | signalWrite
  | launchRefused | queueEnable | queueDiscard | queueResume | graphTrigger | graphRunStart | graphRunEnd | mailboxMessage | originTick | entryDue | instanceBoundary | boundaryFreezeEnd | switchPoint
  | urgentSwitch | overrun | fallbackDeadline | haltingFreeze | haltingFreezeEnd | preemption | drainKill | swapOut | swapOutEnd | restore | engineStepRestart | launchResume | noexit
  | incomplete | waitwWake | bwaitWake | fenceDeliver | lwaitWake | slotTransfer | translationWalk | rangeTableInstall | completionWordWrite | cphost | regionCommandStart | roundEnd
  | matrixCommandStart | kStepEnd | matrixCommandComplete | stochasticCommandStart | loss | profSample | scan | halt | step | resume | debugStop | drainTimeout | stepDone | stepTimeout
  | replayTickPreset | hostBar2Read | hostBar2Write | hostAtomicop | ppsEdge | holdover | holdoverExpiry | incWrite | ucieLaneLost | ucieModuleLost | safetyModeRequest
  | heartbeatToggle | watchdogMiss | throttleStepBack | thermalTrip | smonMreqLow | hostRequestCompletion | pageMove | yaretteExportLoad | configurationLoadComplete =>
    dsimp -zeta only [exec,
      execPkLaunch, execPkIb, execPkPred, execPkLoop, execPkWait, execPkSignal, execPkGraphRun, execPkGraphLoad, execPkGraphUnload, execPkBind, execPkUnbind, execPkIngress, execPkCopy, execPkEnd,
      execEndCompletion, execPkWaitTimeout, execSignalWrite, execLaunchRefused, execQueueEnable, execQueueDiscard, execQueueResume, execGraphTrigger, execGraphRunStart, execGraphRunEnd,
      execMailboxMessage, execOriginTick, execEntryDue, execInstanceBoundary, execBoundaryFreezeEnd, execSwitchPoint, execUrgentSwitch, execOverrun, execFallbackDeadline, execHaltingFreeze,
      execHaltingFreezeEnd, execPreemption, execDrainKill, execSwapOut, execSwapOutEnd, execRestore, execEngineStepRestart, execLaunchResume, execNoexit, execIncomplete,
      execWaitwWake, execBwaitWake, execFenceDeliver, execLwaitWake, execSlotTransfer, execTranslationWalk, execRangeTableInstall, execCompletionWordWrite, execCphost, execRegionCommandStart,
      execRoundEnd, execMatrixCommandStart, execKStepEnd, execMatrixCommandComplete, execStochasticCommandStart, execLoss, execProfSample, execScan, execHalt, execStep, execResume, execDebugStop,
      execDrainTimeout, execStepDone, execStepTimeout, execReplayTickPreset, execHostBar2Read, execHostBar2Write, execHostAtomicop, execPpsEdge, execHoldover,
      execHoldoverExpiry, execIncWrite, execUcieLaneLost, execUcieModuleLost, execSafetyModeRequest, execHeartbeatToggle, execWatchdogMiss, execThrottleStepBack, execThermalTrip, execSmonMreqLow,
      execHostRequestCompletion, execPageMove, execYaretteExportLoad, execConfigurationLoadComplete]
    -- a branch is opened until it is an answer
    repeat' first | exact ⟨_, rfl⟩ | split | extract_lets
  | registerWrite => exact execRegisterWrite_next
  | blockCommit => exact execBlockCommit_next
  | ptpSync => exact execPtpSync_next
  | _ => cases h

/-- Settles O13: every word is a use of `fireWord`, and nothing else stops. -/
theorem everyWord : Obligations.EveryWord := by
  unfold Obligations.EveryWord
  refine ⟨fun i s b word h => ?_, fun i s b word run done => ?_, fun i s => ⟨fun e => ?_, exec_next⟩, fun i w s e word h => ?_⟩
  · obtain ⟨w, hw⟩ := Option.isSome_iff_exists.1 word
    obtain ⟨body, fires⟩ := exec_word hw
    rw [fires]
    exact fireWord_mismatched h
  · obtain ⟨w, hw⟩ := Option.isSome_iff_exists.1 word
    obtain ⟨body, fires⟩ := exec_word hw
    rw [fires]
    exact fireWord_done run done
  · cases hw : encodeWord i with
    | none =>
      obtain ⟨t, ht⟩ := exec_next (s := s) hw
      rw [ht]
      exact nofun
    | some w =>
      obtain ⟨body, fires⟩ := exec_word hw
      rw [fires]
      exact fireWord_not_refused
  · obtain ⟨body, fires⟩ := exec_word word
    rw [fires] at h
    simpa only [operand_eq_none] using fireWord_stops h

end Sys2Proof.Machine
end

section
/-! SUPPORT. What the integer words deliver (R219 to R225): the value of each operation, in the terms of the rule; then the statements O1 to O4. -/

namespace Sys2Proof.Machine

variable {s : State} {b : BlockRun} {p : Pred} {t u : Target} {lat : Nat} {i : Instr} {x y z v : Word}

/-! ### A word that fires delivers its value -/

theorem Delivers2.bin {f : Word → Word → Word} (h : Fires s b p true true false x y z) (runs : exec i s = fireBin p lat t u f s) (value : f x y = v) :
    Delivers2 s i lat t u v := by
  subst value
  exact runs.trans (fireBin_fires h)

theorem Delivers2.un {f : Word → Word} (h : Fires s b p true false false x y z) (runs : exec i s = fireUn p t u f s) (value : f x = v) : Delivers2 s i 1 t u v := by
  subst value
  exact runs.trans (fireUn_fires h)

theorem Delivers.imm {f : Word → Word} (h : Fires s b p true false false x y z) (runs : exec i s = fireImm p lat t f s) (value : f x = v) : Delivers s i lat t v := by
  subst value
  exact runs.trans (fireImm_fires h)

/-- A value form reads the state in which its word is marked as fired. -/
theorem Delivers.value (f : CoreIx → SeqIx → State → Word) (h : Fires s b p false false false x y z) (runs : exec i s = fireValue p lat t f s)
    (value : f s.focus.core s.focus.seq (s.updRun s.focus.core s.focus.seq (·.markFired s.focus.idx)) = v) : Delivers s i lat t v := by
  subst value
  exact runs.trans (fireValue_fires h)

/-! ### Relations and choices (R219, R222) -/

theorem truth_eq_ite {c : Bool} {P : Prop} [Decidable P] (h : c = true ↔ P) : truth c = if P then 1 else 0 := if_congr h rfl rfl

theorem truth_beq (x y : Word) : truth (x == y) = if x = y then 1 else 0 := truth_eq_ite beq_iff_eq

theorem truth_bne (x y : Word) : truth (x != y) = if x = y then 0 else 1 := (truth_eq_ite bne_iff_ne).trans (ite_not ..)

theorem truth_slt (x y : Word) : truth (x.slt y) = if x.toInt < y.toInt then 1 else 0 := truth_eq_ite BitVec.slt_iff_toInt_lt

theorem truth_sle (x y : Word) : truth (x.sle y) = if x.toInt ≤ y.toInt then 1 else 0 := truth_eq_ite BitVec.sle_iff_toInt_le

theorem truth_ult (x y : Word) : truth (x.ult y) = if x.toNat < y.toNat then 1 else 0 := truth_eq_ite BitVec.ult_iff_lt

theorem truth_ule (x y : Word) : truth (x.ule y) = if x.toNat ≤ y.toNat then 1 else 0 := truth_eq_ite BitVec.ule_iff_le

theorem ite_sle (x y v w : Word) : (if x.sle y then v else w) = if x.toInt ≤ y.toInt then v else w := if_congr BitVec.sle_iff_toInt_le rfl rfl

/-- Settles O1: the operation of each word is the rule's. -/
theorem binaryResults : Obligations.BinaryResults := by
  unfold Obligations.BinaryResults
  refine ⟨fun s b p t u x y h => ?_, fun s b p t u x y h => ?_⟩
  · exact ⟨.bin h rfl rfl, .bin h rfl rfl, .bin h rfl rfl, .bin h rfl rfl, .bin h rfl rfl, .bin h rfl rfl, .bin h rfl rfl, .bin h rfl rfl, .bin h rfl rfl, .bin h rfl rfl,
      .bin h rfl rfl, .bin h rfl (ite_sle ..), .bin h rfl (ite_sle ..), .bin h rfl rfl, .bin h rfl rfl⟩
  · exact ⟨.bin h rfl (truth_beq x y), .bin h rfl (truth_bne x y), .bin h rfl (truth_slt x y), .bin h rfl (truth_sle x y), .bin h rfl (truth_slt y x), .bin h rfl (truth_sle y x),
      .bin h rfl (truth_ult x y), .bin h rfl (truth_ule x y)⟩

/-! ### Division (R220) -/

theorem divS_of_ne_zero (hy : y ≠ 0) : divS x y = x.sdiv y := by
  rw [divS, if_neg hy]
  apply BitVec.eq_of_toInt_eq
  rw [BitVec.toInt_ofInt, BitVec.toInt_sdiv]

theorem remS_of_ne_zero (hy : y ≠ 0) : remS x y = x.srem y := by
  rw [remS, if_neg hy, ← BitVec.toInt_srem, BitVec.ofInt_toInt]

theorem divU_of_ne_zero (hy : y ≠ 0) : divU x y = x / y := by
  rw [divU, if_neg hy]
  exact BitVec.eq_of_toNat_eq (by simp [Nat.mod_eq_of_lt (Nat.lt_of_le_of_lt (Nat.div_le_self ..) x.isLt)])

theorem remU_of_ne_zero (hy : y ≠ 0) : remU x y = x % y := by
  rw [remU, if_neg hy]
  exact BitVec.eq_of_toNat_eq (by simp [Nat.mod_eq_of_lt (Nat.lt_of_le_of_lt (Nat.mod_le ..) x.isLt)])

/-- Settles O2: outside its corners division is that of the integers, toward zero. -/
theorem divisionResults : Obligations.DivisionResults := by
  unfold Obligations.DivisionResults
  refine fun s b p t u x y h => ⟨?_, ?_, fun nonzero inner => ?_, fun nonzero => ?_⟩
  · rintro rfl
    exact ⟨.bin h rfl rfl, .bin h rfl rfl, .bin h rfl rfl, .bin h rfl rfl⟩
  · rintro ⟨rfl, rfl⟩
    exact ⟨.bin h rfl rfl, .bin h rfl rfl⟩
  · have corner : x ≠ BitVec.intMin 64 ∨ y ≠ -1 := not_and_or.1 inner
    refine ⟨⟨x.sdiv y, BitVec.toInt_sdiv_of_ne_or_ne x y corner, .bin h rfl (divS_of_ne_zero nonzero)⟩, x.srem y, ?_, .bin h rfl (remS_of_ne_zero nonzero)⟩
    rw [BitVec.toInt_srem, Int.tmod_def]
  · exact ⟨⟨x / y, BitVec.toNat_udiv, .bin h rfl (divU_of_ne_zero nonzero)⟩, x % y, BitVec.toNat_umod, .bin h rfl (remU_of_ne_zero nonzero)⟩

/-! ### Unary words (R221) -/

theorem clz64_of_highest {k : Nat} (hk : x.getLsbD k = true) (above : ∀ j, k < j → x.getLsbD j = false) : clz64 x = BitVec.ofNat 64 (63 - k) := by
  have low : 2 ^ k ≤ x.toNat := Nat.ge_two_pow_of_testBit hk
  have high : x.toNat < 2 ^ (k + 1) := Nat.lt_pow_two_of_testBit _ fun j hj => above j hj
  have nonzero : x ≠ 0 := by
    rintro rfl
    simp at hk
  rw [clz64, if_neg nonzero, (Nat.log2_eq_iff (mt (fun zero => BitVec.eq_of_toNat_eq zero) nonzero)).2 ⟨low, high⟩]

theorem popCount_eq_countP (x : Word) : popCount x = (List.range 64).countP x.getLsbD := List.countP_eq_length_filter.symm

theorem sextLow_eq {n : Nat} (hn : n ≤ 64) (x : Word) : sextLow n x = (x.extractLsb' 0 n).signExtend 64 := by rw [sextLow, BitVec.setWidth_eq_extractLsb' hn]

theorem zextLow_eq (n : Nat) (x : Word) : zextLow n x = BitVec.ofNat 64 (x.toNat % 2 ^ n) :=
  BitVec.eq_of_toNat_eq (by rw [zextLow, BitVec.toNat_setWidth, BitVec.toNat_setWidth, BitVec.toNat_ofNat])

/-- Settles O3: each unary operation is the rule's. -/
theorem unaryResults : Obligations.UnaryResults := by
  unfold Obligations.UnaryResults
  refine fun s b p t u x h => ⟨?_, fun k _ hk above => .un h rfl (clz64_of_highest hk above), .un h rfl (congrArg _ (popCount_eq_countP x)), .un h rfl (sextLow_eq (by decide) x),
    .un h rfl (sextLow_eq (by decide) x), .un h rfl (sextLow_eq (by decide) x), .un h rfl (zextLow_eq _ x), .un h rfl (zextLow_eq _ x), .un h rfl (zextLow_eq _ x),
    .un h rfl rfl, .un h rfl rfl⟩
  rintro rfl
  exact .un h rfl rfl

/-! ### Constants and fan-outs (R224, R225) -/

theorem shlc_value (x : Word) (i : BitVec 16) : x <<< 16 ||| i.setWidth 64 = BitVec.ofNat 64 (x.toNat * 2 ^ 16 + i.toNat) := by
  have shifted : x.toNat <<< 16 % 2 ^ 64 = (x.toNat % 2 ^ 48) <<< 16 := by simp only [Nat.shiftLeft_eq]; omega
  apply BitVec.eq_of_toNat_eq
  rw [BitVec.toNat_or, BitVec.toNat_shiftLeft, BitVec.toNat_setWidth, shifted, Nat.mod_eq_of_lt (a := i.toNat) (by omega), ← Nat.shiftLeft_add_eq_or_of_lt i.isLt,
    BitVec.toNat_ofNat, Nat.shiftLeft_eq]
  omega

theorem execFan3_fires {a : Target} (h : Fires s b .always true false false x y z) :
    execFan3 t u a s = .next (s.fired fun b => ((b.send 1 t x).send 1 u x).send 1 a x) := by
  refine fireWord_run h (fun k => ?_) (by simp [h.noTrap])
  rw [sendTo_sendTo, sendTo_run, State.updRun_updRun]
  rfl

theorem execFan4_fires {a c : Target} (h : Fires s b .always true false false x y z) :
    execFan4 t u a c s = .next (s.fired fun b => (((b.send 1 t x).send 1 u x).send 1 a x).send 1 c x) := by
  refine fireWord_run h (fun k => ?_) (by simp [h.noTrap])
  rw [sendTo_sendTo, sendTo_sendTo, State.updRun_updRun]
  rfl

/-- Settles O4: an immediate form computes as its binary form does. -/
theorem immediateResults : Obligations.ImmediateResults := by
  unfold Obligations.ImmediateResults
  refine ⟨fun s b p t x i n h => ?_, fun s b t i h => 
    ⟨.value (fun _ _ _ => i.signExtend 64) h rfl rfl, .value (fun _ _ _ => i.setWidth 64) h rfl (BitVec.ofNat_toNat ..).symm⟩,
    fun s b t i u v w x h => ⟨.imm h rfl (shlc_value x i), execFan3_fires (t := t) (u := u) (a := v) h,
    execFan4_fires (t := t) (u := u) (a := v) (c := w) h⟩⟩
  exact ⟨.imm h rfl rfl, .imm h rfl rfl, .imm h rfl rfl, .imm h rfl rfl, .imm h rfl rfl, .imm h rfl rfl, .imm h rfl rfl, .imm h rfl rfl, .imm h rfl (truth_beq x _),
    .imm h rfl (truth_bne x _), .imm h rfl (truth_slt x _), .imm h rfl (truth_sle x _), .imm h rfl (truth_slt _ x), .imm h rfl (truth_sle _ x), .imm h rfl (truth_ult x _),
    .imm h rfl (truth_ule x _)⟩

end Sys2Proof.Machine
end

section
/-! SUPPORT. Words that deliver what a register or a clock shows (R226, R244, R267, R312), and words whose effect waits for the commit of their block (R227, R247, R315, R449); then the
statements O5 and O11. -/

namespace Sys2Proof.Machine

variable {s : State} {b : BlockRun} {p : Pred} {i : Instr} {e : Effect} {l r th : Bool} {x y z : Word} {c : CoreIx} {q : SeqIx}

theorem State.launchTime_of_launch {a : Activation} {l : Launch} (act : (s.seq c q).act = some a) (launch : s.launch? a.launch = some l) : s.launchTime c q = l.ltime := by
  rw [State.launchTime, act]
  simp only [launch]

theorem regions_updRun {d : CoreIx} {f : BlockRun → BlockRun} : ((s.updRun c q f).ctx d).regions = (s.ctx d).regions := by rw [ctx_updRun]

/-- Settles O5: what a word reads is not changed by its block's being marked. -/
theorem readWords : Obligations.ReadWords := by
  unfold Obligations.ReadWords
  refine fun s b p t h => ⟨fun n => ?_, ?_, fun a l act launch => ?_, ?_, fun n => ?_, fun sequencer n => ?_⟩
  · exact .value (fun c q s => s.readCr c q n.toNat) h rfl (readCr_updRun _)
  · exact .value (fun _ _ s => w64 s.tick) h rfl rfl
  · exact .value (fun c q s => s.launchTime c q) h rfl (launchTime_updRun.trans (State.launchTime_of_launch act launch))
  · exact .value (fun _ _ s => s.tm.ns) h rfl rfl
  · exact .value (fun c _ s => w64 (s.checkResv c n.toNat)) h rfl (congrArg w64 (checkResv_updRun _))
  · refine .value (fun c q s => if h : q.val < 4 then ((s.ctx c).regions[q.val]).sinks[n].setWidth 64 else 0) h rfl ?_
    simp only [dif_pos sequencer, regions_updRun]

/-- A word of which all that follows is an effect at the commit of its block (R205). -/
theorem Defers.word {body : CoreIx → SeqIx → Fin 32 → Word → Word → Word → State → State} (o : Out) (h : Fires s b p l r th x y z) (runs : exec i s = o)
    (fires : o = fireWord p l r th s body)
    (acts : ∀ k, body s.focus.core s.focus.seq s.focus.idx x y z k = later s.focus.core s.focus.seq s.focus.idx e k) : Defers s i e :=
  (runs.trans fires).trans (fireWord_run h acts (by simp [h.noTrap]))

theorem execNop_fires (h : Fires s b p false false false x y z) : execNop p s = .next (s.fired id) :=
  (fireWord_fires h).trans (congrArg _ (State.fired_settles (f := id) h.run h.noTrap))

/-- Settles O11: the effect of each word, and `nop`, which has none. -/
theorem commitWords : Obligations.CommitWords := by
  unfold Obligations.CommitWords
  refine ⟨fun s b p n x h => ?wrcr, fun s b p h => ?system, fun s b p x h => ?trace, fun s b p x y h => ?pairs⟩
  case wrcr => exact .word (execWrcr p n s) h rfl rfl fun _ => rfl
  case system =>
    exact ⟨.word (execBrk p s) h rfl rfl fun _ => rfl, .word (execTstopStop p s) h rfl rfl fun _ => rfl, .word (execTstopStart p s) h rfl rfl fun _ => rfl, execNop_fires h⟩
  case trace => exact ⟨fun code => .word (execTmark p code s) h rfl rfl fun _ => rfl, .word (execThash p s) h rfl rfl fun _ => rfl⟩
  case pairs =>
    have count : (if x.setWidth 32 = 0 then 1 else x.setWidth 32) = if x.toNat % 2 ^ 32 = 0 then 1 else BitVec.ofNat 32 x.toNat :=
      if_congr (by rw [← BitVec.toNat_setWidth, ← BitVec.toNat_inj]; rfl) rfl (BitVec.ofNat_toNat ..).symm
    have last : y.extractLsb' 24 24 = BitVec.ofNat 24 (y.toNat / 2 ^ 24) := by rw [BitVec.extractLsb', Nat.shiftRight_eq_div_pow]
    refine ⟨fun n => .word (execTrec p n s) h rfl rfl fun _ => rfl, ?_⟩
    rw [← count, ← last, BitVec.ofNat_toNat]
    exact .word (execLoop p s) h rfl rfl fun _ => rfl

end Sys2Proof.Machine
end

section
/-! SUPPORT. Words that act on what they read as they fire (R184, R205, R209, R235 to R246, R248, R313): atomics, keys, waits and exits, each a change of its running block; then the
statements O8, O9 and O10. -/

namespace Sys2Proof.Machine

variable {s : State} {b : BlockRun} {p : Pred} {l r th : Bool} {x y z : Word} {lsid : BitVec 5} {t : Target} {n : Nat}

/-! ### A word that reads the state as it fires -/

section
variable {body : CoreIx → SeqIx → Fin 32 → Word → Word → Word → State → State} {f : BlockRun → BlockRun}

/-- What a word does to its running block needs to be known only of the state in which it is marked as fired. -/
theorem fireWord_marked (h : Fires s b p l r th x y z)
    (acts : body s.focus.core s.focus.seq s.focus.idx x y z (s.updRun s.focus.core s.focus.seq (·.markFired s.focus.idx)) =
      (s.updRun s.focus.core s.focus.seq (·.markFired s.focus.idx)).updRun s.focus.core s.focus.seq f) :
    fireWord p l r th s body = .next ((s.fired f).settleTrap s.focus.core s.focus.seq) := by
  rw [fireWord_fires h, acts, State.updRun_updRun]
  rfl

theorem fireWord_marked_run (h : Fires s b p l r th x y z)
    (acts : body s.focus.core s.focus.seq s.focus.idx x y z (s.updRun s.focus.core s.focus.seq (·.markFired s.focus.idx)) =
      (s.updRun s.focus.core s.focus.seq (·.markFired s.focus.idx)).updRun s.focus.core s.focus.seq f)
    (noTrap : (f (b.markFired s.focus.idx)).trap = none) : fireWord p l r th s body = .next (s.fired f) := by
  rw [fireWord_marked h acts, State.fired_settles h.run noTrap]

end

/-- The location of an access is the same to a word that is being marked as fired. -/
theorem locate_markFired (s : State) (lsid : BitVec 5) (a : Word) (n : Nat) :
    (s.updRun s.focus.core s.focus.seq (·.markFired s.focus.idx)).locate s.focus.core s.focus.seq lsid a n = s.locate s.focus.core s.focus.seq lsid a n :=
  locate_updRun (f := (·.markFired s.focus.idx)) (fun _ => rfl) lsid a n

/-! ### Atomics (R235, R236) -/

/-- The write slot of an atomic, which counts as written as it fires. -/
def amoSlot : Target → Option (Fin 8)
  | .slot w => some w
  | _ => none

/-- An atomic takes its write slot as `nullw` does. -/
def BlockRun.takeSlot (t : Target) (b : BlockRun) : BlockRun :=
  match t with
  | .slot w => nullSlot w b
  | _ => b

/-- Nothing has resolved the LSID, and nothing been written to the slot. -/
def BlockRun.amoFree (b : BlockRun) (lsid : BitVec 5) (t : Target) : Prop :=
  b.lsids.getLsbD lsid.toNat = false ∧ match t with | .slot w => b.slots[w] = none | _ => True

theorem BlockRun.takeSlot_trap (h : match t with | .slot w => b.slots[w] = none | _ => True) : (b.takeSlot t).trap = b.trap := by
  cases t with
  | slot w =>
    have free : nullSlot w b = { b with slots := b.slots.set w (some none) } := if_neg (by simp [show b.slots[w] = none from h])
    rw [BlockRun.takeSlot, free]
  | _ => rfl

theorem BlockRun.amoFree.trap (free : b.amoFree lsid t) : ((resolveLsid lsid b).takeSlot t).trap = b.trap := by
  obtain ⟨unresolved, unwritten⟩ := free
  have slots : (resolveLsid lsid b).slots = b.slots := by unfold resolveLsid; split <;> rfl
  rw [BlockRun.takeSlot_trap (by rw [slots]; exact unwritten), resolveLsid_trap unresolved]

/-- The state in which an atomic has fired. -/
def State.amoFired (s : State) (op : Fin 5) (n : Nat) (lsid : BitVec 5) (t : Target) (x y z : Word) : State :=
  s.fired fun b => BlockRun.effect s.focus.idx (.amo op (s.locate s.focus.core s.focus.seq lsid x n).2 n y.toNat z.toNat (amoSlot t)) ((resolveLsid lsid b).takeSlot t)

theorem fireAmo_fires {op : Fin 5} (h : Fires s b p true true th x y z) :
    fireAmo p op n th lsid t s = .next ((s.amoFired op n lsid t x y z).settleTrap s.focus.core s.focus.seq) := by
  refine fireWord_marked h ?_
  rw [locate_markFired]
  cases t <;> simp only [later_run, State.updRun_updRun] <;> rfl

theorem fireAmo_free {op : Fin 5} (h : Fires s b p true true th x y z) (free : b.amoFree lsid t) :
    fireAmo p op n th lsid t s = .next (s.amoFired op n lsid t x y z) := by
  rw [fireAmo_fires h, State.amoFired, State.fired_settles h.run]
  exact (BlockRun.amoFree.trap (b := b.markFired s.focus.idx) free).trans h.noTrap

/-- An atomic as it fires, with its LSID and its slot free, and with one of them taken. -/
theorem fireAmo_does {op : Fin 5} (h : Fires s b p true true th x y z) :
    (b.amoFree lsid t → fireAmo p op n th lsid t s = .next (s.amoFired op n lsid t x y z)) ∧
      (¬ b.amoFree lsid t → fireAmo p op n th lsid t s = .next ((s.amoFired op n lsid t x y z).settleTrap s.focus.core s.focus.seq)) :=
  ⟨fireAmo_free h, fun _ => fireAmo_fires h⟩

theorem signedOf_toNat {w : Nat} (hw : 0 < w) (v : BitVec w) : signedOf w v.toNat = v.toInt := by
  have half : 2 * 2 ^ (w - 1) = 2 ^ w := mul_pow_sub_one hw.ne' 2
  rw [signedOf, Nat.mod_eq_of_lt v.isLt, BitVec.toInt_eq_toNat_cond]
  by_cases high : 2 ^ (w - 1) ≤ v.toNat
  · rw [if_pos high, if_neg (by omega)]
    rfl
  · rw [if_neg high, if_pos (by omega)]

/-- What an atomic makes of the old value, in the terms of the signed values (R236). -/
theorem amoResult_toNat {n : Nat} (hn : 0 < n) (old a z : BitVec (8 * n)) :
    amoResult 1 n old.toNat a.toNat 0 = (if old.toInt ≤ a.toInt then old.toNat else a.toNat) ∧
    amoResult 2 n old.toNat a.toNat 0 = (if old.toInt ≤ a.toInt then a.toNat else old.toNat) ∧
    amoResult 3 n old.toNat a.toNat 0 = a.toNat ∧ amoResult 4 n old.toNat a.toNat z.toNat = if old = a then z.toNat else old.toNat := by
  have wide : 0 < 8 * n := by omega
  simp only [amoResult, Nat.mod_eq_of_lt a.isLt, Nat.mod_eq_of_lt z.isLt, signedOf_toNat wide, decide_eq_true_eq, BitVec.toNat_inj, true_and]
  refine ⟨?_, ?_, trivial⟩
  · rw [← ite_not]
    simp only [not_lt]
  · rcases lt_trichotomy old.toInt a.toInt with lt | eq | gt
    · rw [if_pos lt, if_pos lt.le]
    · rw [if_neg eq.not_lt, if_pos eq.le, BitVec.eq_of_toInt_eq eq]
    · rw [if_neg gt.not_gt, if_neg gt.not_ge]

/-- Settles O8: an atomic as it fires, and what it makes of the old value. -/
theorem atomics : Obligations.Atomics := by
  unfold Obligations.Atomics
  refine ⟨⟨fun s b p lsid t x y h => ?_, fun s b lsid t x y z h => ?_⟩, fun n old a z hn => ?_⟩
  · have does (op : Fin 5) (n : Nat) := fireAmo_does (op := op) (n := n) (lsid := lsid) (t := t) h
    cases t <;> exact ⟨does 0 4, does 0 8, does 1 4, does 1 8, does 2 4, does 2 8, does 3 4, does 3 8⟩
  · have does (op : Fin 5) (n : Nat) := fireAmo_does (op := op) (n := n) (lsid := lsid) (t := t) h
    cases t <;> exact ⟨does 4 4, does 4 8⟩
  · exact ⟨rfl, amoResult_toNat hn old a z⟩

/-! ### Keys and waits (R237 to R243, R248, R313) -/

theorem execRel_fires (h : Fires s b p true true false x y z) :
    execRel p lsid s = .next ((s.fired (BlockRun.effect s.focus.idx (.rel (s.locate s.focus.core s.focus.seq lsid x 8).1
      (s.locate s.focus.core s.focus.seq lsid x 8).2 y) ∘ resolveLsid lsid)).settleTrap s.focus.core s.focus.seq) := by
  refine fireWord_marked h ?_
  rw [locate_markFired]
  simp only [later_run, State.updRun_updRun]
  rfl

theorem execWaitw_fires (h : Fires s b p true true false x y z) :
    let a := s.locate s.focus.core s.focus.seq lsid x 8
    execWaitw p lsid t s = .next (s.fired (·.await
      { idx := s.focus.idx, wait := 2 + s.rho s.focus.core a.1 a.2, target := t, kind := .waitw a.1 a.2 y (s.rho s.focus.core a.1 a.2) false false })) := by
  refine fireWord_marked_run h ?_ h.noTrap
  rw [locate_markFired]
  simp only [rho_updRun, addWait_run]

theorem execBwait_fires {u : Fin 64} (h : Fires s b p true false false x y z) :
    execBwait p u t s = .next (s.fired (·.await { idx := s.focus.idx, wait := 1, target := t, kind := .bwait u (x.extractLsb' 0 8) false false })) := by
  rw [← BitVec.setWidth_eq_extractLsb' (by decide)]
  exact fireWord_run h (fun _ => rfl) h.noTrap

theorem execFence_fires (h : Fires s b p false false false x y z) :
    execFence p t s = .next (s.fired (·.await { idx := s.focus.idx, wait := 1, target := t, kind := .fence })) :=
  fireWord_run h (fun _ => rfl) h.noTrap

theorem execLwait_fires {land : Fin 4} {le : Bool} (h : Fires s b p true false false x y z) :
    execLwait p land le t s = .next (s.fired (·.await { idx := s.focus.idx, wait := 1, target := t, kind := .lwait land le (x.toNat % 2 ^ 5) })) :=
  fireWord_run h (fun _ => rfl) h.noTrap

/-- Settles O9: the effect, or the wait, that each word leaves in its block. -/
theorem synchronisingWords : Obligations.SynchronisingWords := by
  unfold Obligations.SynchronisingWords
  refine ⟨fun s b p lsid x y h => ⟨fun free => ?_, fun taken => ?_⟩, fun s b p lsid t x y h => execWaitw_fires (lsid := lsid) h,
    fun s b p u t x h => ⟨.word (execArrive p u s) h rfl rfl fun _ => rfl, execBwait_fires (t := t) (u := u) h⟩, fun s b p t h => execFence_fires (t := t) h,
    fun s b p l le t x h => execLwait_fires (t := t) (land := l) (le := le) h⟩
  · exact (execRel_fires (lsid := lsid) h).trans (congrArg _ (fired_resolves (fun _ => rfl) h free))
  · exact (execRel_fires (lsid := lsid) h).trans (congrArg _ (fired_resolves_again _ taken h))

/-! ### Exits (R209, R245, R246) -/

/-- An offset is a signed number of 32-byte units (R245). -/
theorem blockAt_eq (addr : BitVec 24) (off : BitVec 20) : blockAt addr off = addr + BitVec.ofInt 24 (32 * off.toInt) := by
  rw [blockAt, BitVec.shiftLeft_eq_mul_twoPow, BitVec.ofInt_mul, BitVec.mul_comm]
  rfl

section
variable {e : BitVec 3} {next : BlockRun → Option (BitVec 24)} {k : ExitTaken}

/-- The first exit of a block. -/
theorem fired_takeExit (h : Fires s b p l r th x y z) (first : b.exit = none) :
    (s.fired fun b => takeExit e (next b) b).settleTrap s.focus.core s.focus.seq = s.fired fun b => { b with exit := some ⟨e, next b⟩ } := by
  have taken : takeExit e (next (b.markFired s.focus.idx)) (b.markFired s.focus.idx) = { b.markFired s.focus.idx with exit := some ⟨e, next (b.markFired s.focus.idx)⟩ } := by
    rw [takeExit, show (b.markFired s.focus.idx).exit = none from first]
  rw [State.fired_settles (f := fun b => takeExit e (next b) b) h.run (by simp only [taken]; exact h.noTrap)]
  exact State.fired_congr h.run taken

/-- A second exit raises MULTIEXIT with both numbers (R209, R210). -/
theorem fired_takeExit_again (h : Fires s b p l r th x y z) (second : b.exit = some k) :
    (s.fired fun b => takeExit e (next b) b) = s.fired (·.raise ⟨0x02, BitVec.ofNat 32 (k.num.toNat + e.toNat * 8)⟩) := by
  refine State.fired_congr h.run ?_
  rw [takeExit, show (b.markFired s.focus.idx).exit = some k from second]

end

theorem execBro_fires {e : BitVec 3} {off : BitVec 20} (h : Fires s b p false false false x y z) :
    execBro p e off s = .next ((s.fired fun b => takeExit e (some (blockAt b.addr off)) b).settleTrap s.focus.core s.focus.seq) :=
  fireWord_marked h rfl

theorem execBend_fires {e : BitVec 3} (h : Fires s b p false false false x y z) :
    execBend p e s = .next ((s.fired fun b => takeExit e none b).settleTrap s.focus.core s.focus.seq) :=
  fireWord_marked h rfl

theorem State.run_markFired (run : (s.seq s.focus.core s.focus.seq).run = some b) :
    ((s.updRun s.focus.core s.focus.seq (·.markFired s.focus.idx)).seq s.focus.core s.focus.seq).run = some (b.markFired s.focus.idx) := by
  rw [State.seq_updRun_run, run, Option.map_some]

/-- A `brx` whose table answers a block, and one whose table does not. -/
theorem execBrx_jumps {e : BitVec 3} {off : BitVec 20} {a : BitVec 24} (h : Fires s b p true false false x y z)
    (jump : s.jump s.focus.core (blockAt b.addr off) (x.toNat % 16) = .ok a) :
    execBrx p e off s = .next ((s.fired fun b => takeExit e (some a) b).settleTrap s.focus.core s.focus.seq) := by
  refine fireWord_marked h ?_
  have answer : s.jump s.focus.core (blockAt (b.markFired s.focus.idx).addr off) (x.toNat % 16) = _ := jump
  simp only [State.run_markFired h.run, jump_updRun, answer]

theorem execBrx_traps {e : BitVec 3} {off : BitVec 20} {k : Trap} (h : Fires s b p true false false x y z)
    (jump : s.jump s.focus.core (blockAt b.addr off) (x.toNat % 16) = .error k) :
    execBrx p e off s = .next ((s.fired (·.raise k)).settleTrap s.focus.core s.focus.seq) := by
  refine fireWord_marked h ?_
  have answer : s.jump s.focus.core (blockAt (b.markFired s.focus.idx).addr off) (x.toNat % 16) = _ := jump
  simp only [State.run_markFired h.run, jump_updRun, answer]

/-- Settles O10: the first exit of a block, a second one, and what a jump table answers. -/
theorem exitWords : Obligations.ExitWords := by
  unfold Obligations.ExitWords
  refine ⟨fun s b p e off h first => ⟨?_, ?_⟩, fun s b p e k off h second => ⟨?_, ?_⟩,
    fun s b p e off x h => ⟨fun a jump => ⟨fun first => ?_, fun k second => ?_⟩, fun k jump => ?_⟩⟩
  · simp only [← blockAt_eq]
    exact (execBro_fires h).trans (congrArg _ (fired_takeExit h first))
  · exact (execBend_fires h).trans (congrArg _ (fired_takeExit h first))
  · exact (execBro_fires (off := off) h).trans (by rw [fired_takeExit_again h second])
  · exact (execBend_fires h).trans (by rw [fired_takeExit_again h second])
  · rw [← blockAt_eq] at jump
    exact (execBrx_jumps h jump).trans (congrArg _ (fired_takeExit h first))
  · rw [← blockAt_eq] at jump
    exact (execBrx_jumps h jump).trans (by rw [fired_takeExit_again h second])
  · rw [← blockAt_eq] at jump
    exact execBrx_traps h jump

end Sys2Proof.Machine
end

section
/-! SUPPORT. What the firing of any word leaves alone (R205, R207), and what an arriving value does (R174, R202, R203); then the statements O14 and O15. -/

namespace Sys2Proof.Machine

variable {s u : State} {b : BlockRun} {p : Pred} {l r th : Bool} {c : CoreIx} {q : SeqIx}

/-! ### A change of one running block changes nothing else -/

/-- An update that leaves its sequencer as it stands is none. -/
theorem State.updSeq_same {f : SeqState → SeqState} (h : f (s.seq c q) = s.seq c q) : s.updSeq c q f = s := by
  have seqs : (s.ctx c).seqs.set q (f (s.ctx c).seqs[q]) = (s.ctx c).seqs := (congrArg ((s.ctx c).seqs.set q ·) h).trans (Vector.set_getElem_self _)
  have core : { s.core c with ctx := { s.ctx c with seqs := (s.ctx c).seqs.set q (f (s.ctx c).seqs[q]) } } = s.core c := by rw [seqs]; rfl
  have cores : s.cores.set c { s.core c with ctx := { s.ctx c with seqs := (s.ctx c).seqs.set q (f (s.ctx c).seqs[q]) } } = s.cores := by
    rw [core]
    exact Vector.set_getElem_self _
  exact congrArg (fun cores => { s with cores := cores }) cores

theorem State.updRun_id (s : State) (c : CoreIx) (q : SeqIx) : s.updRun c q id = s := State.updSeq_same (by simp)

theorem State.sameMemory_updRun (s : State) (c : CoreIx) (q : SeqIx) (f : BlockRun → BlockRun) : s.sameMemory (s.updRun c q f) := State.sameMemory_updSeq ..

theorem OnlyBlock.updRun (s : State) (c : CoreIx) (q : SeqIx) (f : BlockRun → BlockRun) : OnlyBlock c q s (s.updRun c q f) where
  module := ⟨rfl, rfl, rfl, rfl, rfl, rfl, rfl, rfl, rfl, rfl⟩
  trace := rfl
  memory := State.sameMemory_updRun ..
  others d r h := State.seq_updSeq_ne _ _ _ _ _ _ (by
    by_contra same
    simp only [not_or, not_not] at same
    exact h (Prod.ext same.1 same.2))
  registers := by
    rw [State.seq_updRun]
    exact ⟨rfl, rfl, rfl, rfl, rfl, rfl, rfl, rfl, rfl, rfl, rfl, rfl, rfl, rfl, rfl, rfl, rfl, rfl, rfl, rfl, rfl, rfl⟩
  engines d := by
    rw [ctx_updRun]
    exact ⟨rfl, rfl, rfl, rfl, rfl, rfl, rfl, rfl, rfl, rfl, rfl, rfl, rfl, rfl, rfl, rfl, rfl, rfl⟩

/-! ### The frame of every word -/

/-- A trap that is pending is answered, or waits. -/
theorem State.settleTrap_answers (s : State) (c : CoreIx) (q : SeqIx) : s.settleTrap c q = s ∨ ∃ k, s.settleTrap c q = s.takeTrap c q k := by
  unfold State.settleTrap
  split
  · exact .inl rfl
  · split
    · exact .inl rfl
    · dsimp only
      split_ifs
      · exact .inl rfl
      · exact .inl rfl
      · exact .inr ⟨_, rfl⟩

/-- An answer that is a change of the running block of the word in focus, and the response to a trap at most. -/
def FramesWord (s : State) (o : Out) : Prop := ∀ t, o = .next t → ∃ f, t = (s.updRun s.focus.core s.focus.seq f).settleTrap s.focus.core s.focus.seq ∨ (t = s ∧ f = id)

/-- Every word whose effect is a change of its running block frames. -/
theorem FramesWord.word {body : CoreIx → SeqIx → Fin 32 → Word → Word → Word → State → State} (changes : ∀ c q i x y z k, ∃ f, body c q i x y z k = k.updRun c q f) :
    FramesWord s (fireWord p l r th s body) := fun _ h => fireWord_next changes h

section
variable {lat n : Nat} {t w : Target} {lsid : BitVec 5}

theorem FramesWord.bin {f : Word → Word → Word} : FramesWord s (fireBin p lat t w f s) := .word fun _ _ _ _ _ _ _ => ⟨_, sendTo_sendTo ..⟩

theorem FramesWord.un {f : Word → Word} : FramesWord s (fireUn p t w f s) := .word fun _ _ _ _ _ _ _ => ⟨_, sendTo_sendTo ..⟩

theorem FramesWord.imm {f : Word → Word} : FramesWord s (fireImm p lat t f s) := .word fun _ _ _ _ _ _ _ => ⟨_, rfl⟩

theorem FramesWord.value {f : CoreIx → SeqIx → State → Word} : FramesWord s (fireValue p lat t f s) := .word fun _ _ _ _ _ _ _ => ⟨_, rfl⟩

theorem FramesWord.issue {i : Instr} : FramesWord s (fireIssue p l r i s) := .word fun _ _ _ _ _ _ _ => ⟨_, rfl⟩

theorem FramesWord.load {imm : BitVec 9} : FramesWord s (fireLoad p lsid imm n t s) := .word fun _ _ _ _ _ _ _ => ⟨_, rfl⟩

theorem FramesWord.store {imm : BitVec 9} : FramesWord s (fireStore p lsid imm n th s) := .word fun _ _ _ _ _ _ _ => ⟨_, State.updRun_updRun ..⟩

theorem FramesWord.amo {op : Fin 5} : FramesWord s (fireAmo p op n th lsid t s) := .word fun _ _ _ _ _ _ k => by
  cases t
  case slot => exact ⟨_, (congrArg (fun k : State => k.updRun _ _ _) (State.updRun_updRun ..)).trans (State.updRun_updRun ..)⟩
  all_goals exact ⟨_, State.updRun_updRun ..⟩

theorem FramesWord.rel : FramesWord s (execRel p lsid s) := .word fun c q i x y _ k =>
  ⟨BlockRun.effect i (.rel (k.locate c q lsid x 8).1 (k.locate c q lsid x 8).2 y) ∘ resolveLsid lsid, State.updRun_updRun ..⟩

theorem FramesWord.brx {e : BitVec 3} {off : BitVec 20} : FramesWord s (execBrx p e off s) := .word fun c q _ _ _ _ k => by
  split
  · exact ⟨id, (State.updRun_id ..).symm⟩
  · split <;> exact ⟨_, rfl⟩

end

theorem exec_framesWord {i : Instr} (word : (encodeWord i).isSome = true) : FramesWord s (exec i s) := by
  cases i with
  | add | sub | mul | mulh | mulhu | div | divu | rem | remu | and | or | xor | shl | shr | sra | min | minu | max | maxu | teq | tne | tlt | tltu | tle | tleu | tgt | tge =>
    simp only [exec]; exact .bin
  | clz | popcnt | sextB | sextH | sextW | zextB | zextH | zextW | mov | not => simp only [exec]; exact .un
  | stB | stH | stW | stD | stQ => simp only [exec]; exact .store
  | amoaddW | amoaddD | amominW | amominD | amomaxW | amomaxD | amoswapW | amoswapD | amocasW | amocasD => simp only [exec]; exact .amo
  | brx => simp only [exec]; exact .brx
  | fan3 => simp only [exec]; exact .word fun _ _ _ _ _ _ _ => ⟨_, by rw [sendTo_sendTo, sendTo_run, State.updRun_updRun]⟩
  | fan4 => simp only [exec]; exact .word fun _ _ _ _ _ _ _ => ⟨_, by rw [sendTo_sendTo, sendTo_sendTo, State.updRun_updRun]⟩
  | rel => simp only [exec]; exact .rel
  | nop => simp only [exec]; exact .word fun c q _ _ _ _ k => ⟨id, (State.updRun_id ..).symm⟩
  | addi | muli | andi | ori | xori | shli | shri | srai | teqi | tnei | tlti | tltui | tlei | tleui | tgti | tgei | shlc => simp only [exec]; exact .imm
  | const | constu | rdcr | rdtick | rdlt | rdwall | cpchk | rdsink => simp only [exec]; exact .value
  | ldB | ldH | ldW | ldD | ldQ => simp only [exec]; exact .load
  | cp1 | cp2 | cp3 | cpmc | cpset | cpcmp | cphash | cpspill | cpunspill | cpbind | jtab | cfgld | cfgact | cfgdrop | run | tok | lrel | mtld | mtldw | mtst | mspill | mfill | mma | mmaw
  | mchainB | mchainE | mzero | mscacc | mrd | mpin | munpin | mgdlt | mfwrd | mfwchunk | sand | sor | sxor | sxnor | smux | snot | smov | srot | sfill | scnt | sgen | sregen | b2s | b2sv
  | s2b | sld | sst | sgset => simp only [exec]; exact .issue
  | ldpw | acq | wrcr | arrive | bwait | tmark | thash | lwait | waitw | trec | loop | bro | bend | trap | brk | fence | nullst | nullw | tstopStop | tstopStart =>
    simp only [exec]; exact .word fun _ _ _ _ _ _ _ => ⟨_, rfl⟩
  | _ => cases word

/-- Settles O14: a word changes its running block, and a trap may be answered. -/
theorem wordFrame : Obligations.WordFrame := by
  unfold Obligations.WordFrame
  intro i s t word answer
  obtain ⟨f, settled | ⟨rfl, -⟩⟩ := exec_framesWord word t answer
  · refine ⟨s.updRun s.focus.core s.focus.seq f, .updRun .., ?_⟩
    rcases (s.updRun s.focus.core s.focus.seq f).settleTrap_answers s.focus.core s.focus.seq with waits | ⟨k, answers⟩
    · exact .inl (settled.trans waits)
    · exact .inr ⟨k, settled.trans answers⟩
  · refine ⟨t, ?_, .inl rfl⟩
    have same := OnlyBlock.updRun t t.focus.core t.focus.seq id
    rwa [State.updRun_id] at same

/-! ### Values that arrive (R174, R202, R203) -/

@[simp] theorem BlockRun.raise_trap_of_none {k : Trap} (h : b.trap = none) : (b.raise k).trap = some k := by rw [BlockRun.raise, h]

section
variable {α : Type} {o : Option α}

theorem ite_isSome_of_none {β : Type} {x y : β} (h : o = none) : (if o.isSome = true then x else y) = y := if_neg (by simp [h])

theorem raise_of_isSome {k : Trap} {y : BlockRun} (h : o.isSome = true) (noTrap : b.trap = none) : (if o.isSome = true then b.raise k else y).trap = some k := by
  rw [if_pos h, BlockRun.raise_trap_of_none noTrap]

end

/-- A value that arrives at an instruction that is not nullified. -/
theorem BlockRun.arrive_live {i : Fin 32} (live : b.nulled.getLsbD i = false) (v : Word) :
    b.arrive (.left i) v = (if b.left[i].isSome then b.raise (illegal 1 i 0) else { b with left := b.left.set i (some v) }) ∧
    b.arrive (.right i) v = (if b.right[i].isSome then b.raise (illegal 1 i 1) else { b with right := b.right.set i (some v) }) ∧
    b.arrive (.gate i) v = (if b.gate[i].isSome then b.raise (illegal 1 i 2) else { b with gate := b.gate.set i (some v) }) :=
  ⟨if_neg (Bool.eq_false_iff.1 live), if_neg (Bool.eq_false_iff.1 live), if_neg (Bool.eq_false_iff.1 live)⟩

/-- Settles O15: at a nullified instruction, an empty slot and a filled one. -/
theorem arrivalsFillSlots : Obligations.ArrivalsFillSlots := by
  unfold Obligations.ArrivalsFillSlots
  refine fun b i w v => ⟨fun nulled => ⟨if_pos nulled, if_pos nulled, if_pos nulled⟩, fun live => ?_, fun empty => ite_isSome_of_none empty,
    fun noTrap filled => raise_of_isSome filled noTrap, rfl⟩
  obtain ⟨left, right, gate⟩ := BlockRun.arrive_live live v
  rw [left, right, gate]
  exact ⟨fun empty => ite_isSome_of_none empty, fun empty => ite_isSome_of_none empty, fun empty => ite_isSome_of_none empty, fun noTrap filled => raise_of_isSome filled noTrap,
    fun noTrap filled => raise_of_isSome filled noTrap, fun noTrap filled => raise_of_isSome filled noTrap⟩

end Sys2Proof.Machine
end

section
/-! SUPPORT. Reads of a sequencer (R104, R106, R121, R201, R228 to R237): where an access lies, how a load or a window read fires, and what its bank access does in its tick; then the
statement O6. -/

namespace Sys2Proof.Machine

variable {s : State} {b : BlockRun} {p : Pred} {x y z : Word} {lsid : BitVec 5} {t : Target} {n : Nat} {c : CoreIx} {q : SeqIx}

/-! ### Where an access lies (R228, R230) -/

theorem effective_some (r : LsidRec) (a : Word) (n : Nat) :
    effective (some r) a n =
      (r.space == 1, r.base + ((((if r.space = 1 then a.toNat % 2 ^ 32 else a.toNat % 2 ^ 22) / n * n : Nat) - r.base : Int) % r.size).toNat) := by
  simp only [effective, beq_iff_eq]

/-- An offset taken modulo a range lies in the range, and stands where it lies in it already. -/
theorem wrapped_within (base off : Nat) {size : Nat} (hs : 0 < size) :
    base ≤ base + (((off : Int) - base) % size).toNat ∧ base + (((off : Int) - base) % size).toNat < base + size ∧
      (base ≤ off → off < base + size → base + (((off : Int) - base) % size).toNat = off) := by
  have low := Int.emod_nonneg ((off : Int) - base) (b := size) (by omega)
  have high := Int.emod_lt_of_pos ((off : Int) - base) (b := size) (by omega)
  refine ⟨by omega, by omega, fun above below => ?_⟩
  rw [Int.emod_eq_of_lt (by omega) (by omega)]
  omega

/-! ### Reads as they fire (R231, R234, R237) -/

theorem fireLoad_fires {imm : BitVec 9} (h : Fires s b p true false false x y z) :
    fireLoad p lsid imm n t s = .next (s.fired (·.read
      { wait := 2, lat := 2, oob := none, pantry := false, wbuf := false, n := n, target := t,
        addr := (s.locate s.focus.core s.focus.seq lsid (x + BitVec.ofInt 64 (imm.toInt * n)) n).2 })) := by
  refine fireWord_marked_run h ?_ h.noTrap
  rw [memAddr_eq, locate_markFired, addLoad_run]

theorem execAcq_fires (h : Fires s b p true false false x y z) :
    let a := s.locate s.focus.core s.focus.seq lsid x 8
    execAcq p lsid t s = .next (s.fired (·.read
      { wait := 2 + s.rho s.focus.core a.1 a.2, lat := 2 + s.rho s.focus.core a.1 a.2, oob := none, pantry := a.1, wbuf := false, addr := a.2, n := 8, target := t })) := by
  refine fireWord_marked_run h ?_ h.noTrap
  rw [locate_markFired]
  simp only [rho_updRun, addLoad_run]

/-- A route has a latency of its own to the Pantry only. -/
theorem State.rho_eq_ite (s : State) (c : CoreIx) (pantry : Bool) (a : Nat) : s.rho c pantry a = if pantry then s.rho c true a else 0 := by cases pantry <;> rfl

/-- The window that a window read sees: the descriptor bound, or one whose bound is 0. -/
def State.windowSeen (s : State) (w : Fin 8) : Window := (s.window? s.focus.core s.focus.seq w).getD ⟨true, false, 0, false, 0, 0⟩

/-- The read of n bytes at an offset through a window. -/
def State.windowLoad (s : State) (w : Fin 8) (n o : Nat) (t : Target) : Load :=
  let d := s.windowSeen w
  let rho := s.rho s.focus.core d.pantry (d.pantryAddr o)
  { wait := 2 + rho, lat := 2 + rho, oob := if d.bound < o + n then some w else none, pantry := d.pantry, wbuf := !d.pantry,
    addr := if d.bound < o + n then o else if d.pantry then d.pantryAddr o else d.base + o, n := n, target := t }

theorem execLdpw_fires {w : Fin 8} {size : WinSize} {imm : BitVec 9} (h : Fires s b p true false false x y z) :
    execLdpw p w size imm t s = .next (s.fired (·.read
      (s.windowLoad w (WinSize.bytes size) ((x + BitVec.ofInt 64 (imm.toInt * WinSize.bytes size)).toNat / WinSize.bytes size * WinSize.bytes size) t))) := by
  refine fireWord_marked_run h ?_ h.noTrap
  simp only [memAddr_eq, window_updRun, rho_updRun, addLoad_run]
  rfl

theorem WinSize.bytes_pos (size : WinSize) : 0 < WinSize.bytes size := by cases size <;> decide

/-! ### The bank access of a read (R121, R201, R231) -/

/-- A block with what a read delivers on its way: of 16 bytes the upper half goes to the second target (R179). -/
def BlockRun.landing (k : Load) (v : Nat) (b : BlockRun) : BlockRun :=
  { b with flights := b.flights ++
      if k.n = 16 then [⟨k.lat, k.target, BitVec.ofNat 64 v⟩, ⟨k.lat, nextTarget k.target, BitVec.ofNat 64 (v / 2 ^ 64)⟩] else [⟨k.lat, k.target, BitVec.ofNat 64 v⟩] }

/-- The model's two deliveries of a read are one. -/
theorem BlockRun.landing_eq (k : Load) (v : Nat) (b : BlockRun) :
    (let r := b.sendAll k.lat k.target (w64 (v % 2 ^ 64)); if k.n = 16 then r.sendAll k.lat (nextTarget k.target) (w64 (v / 2 ^ 64)) else r) = b.landing k v := by
  have low : w64 (v % 2 ^ 64) = BitVec.ofNat 64 v := BitVec.eq_of_toNat_eq (by simp [w64])
  simp only [low, BlockRun.landing, BlockRun.sendAll]
  split_ifs
  · simp only [List.append_assoc]
    rfl
  · rfl

theorem readNow_oob {k : Load} {w : Fin 8} (m : LaunchNo) (past : k.oob = some w) : s.readNow c q m k = (pwbHit w k.addr c q s).updRun c q (·.landing k 0) := by
  simp only [State.readNow, past]
  exact congrArg (State.updRun _ c q) (funext (BlockRun.landing_eq k 0))

/-- The state in which a bank access within the bounds is noted (R274). -/
def State.touched (s : State) (c : CoreIx) (k : Load) : State :=
  if k.pantry || k.wbuf then s else s.touch c (s.readPlace c k.pantry k.wbuf k.addr).2.2

/-- The value of such a read. -/
def State.readValue (s : State) (c : CoreIx) (k : Load) : Nat :=
  leNat ((List.range k.n).map fun i => s.chipRead ((s.readPlace c k.pantry k.wbuf k.addr).1, (s.readPlace c k.pantry k.wbuf k.addr).2.1, (s.readPlace c k.pantry k.wbuf k.addr).2.2 + i))

theorem State.touched_engines (s : State) (c : CoreIx) (k : Load) : OnlyEngines c s (s.touched c k) := by
  unfold State.touched
  split
  · exact .refl ..
  · exact .updCore s c

theorem State.touched_tr (s : State) (c : CoreIx) (k : Load) : (s.touched c k).tr = s.tr := by
  unfold State.touched
  split <;> rfl

/-- Memories that read alike read alike at every place on chip. -/
theorem State.sameMemory.chipRead {u : State} (same : s.sameMemory u) (a : Fin 10 × Nat × Nat) : u.chipRead a = s.chipRead a := by
  obtain ⟨abuf, wbuf, cbuf, -, -, pantry, -⟩ := same
  simp only [State.chipRead]
  split_ifs
  · exact pantry ⟨a.2.1 % 4, Nat.mod_lt _ (by decide)⟩ _
  · exact abuf ⟨a.2.1 % 64, Nat.mod_lt _ (by decide)⟩ _
  · exact wbuf ⟨a.2.1 % 64, Nat.mod_lt _ (by decide)⟩ _
  · exact cbuf ⟨a.2.1 % 64, Nat.mod_lt _ (by decide)⟩ _

theorem readNow_in {k : Load} (m : LaunchNo) (within : k.oob = none) (clean : s.ecc = []) :
    s.readNow c q m k = (s.touched c k).updRun c q (·.landing k (s.readValue c k)) := by
  have engines := s.touched_engines c k
  have clean' : (s.touched c k).ecc = [] := engines.module.ecc.trans clean
  have same (a : Fin 10 × Nat × Nat) : (s.touched c k).chipRead a = s.chipRead a := engines.memory.chipRead a
  simp only [State.readNow, within]
  rw [← State.touched, State.hardError_of_clean clean', if_neg Bool.false_ne_true, State.softRead_of_clean clean']
  simp only [same]
  exact congrArg (State.updRun _ c q) (funext (BlockRun.landing_eq k _))

theorem readBytes_eq_map (m : Memory) (a n : Nat) : readBytes m a n = (List.range n).map fun i => readByte m (a + i) := by
  induction n generalizing a with
  | zero => rfl
  | succ n ih =>
    rw [readBytes, ih, List.range_succ_eq_map, List.map_cons, List.map_map]
    exact congrArg _ (List.map_congr_left fun i _ => congrArg (readByte m) (by omega))

theorem State.core_fin_mod (s : State) (c : CoreIx) : s.cores[c.val % 64]'(Nat.mod_lt _ (by decide)) = s.core c := by
  simp only [Nat.mod_eq_of_lt c.isLt]
  rfl

/-- The value of a read lies in the W-buffer, the A-buffer or the Pantry (R231, R234, R237). -/
theorem State.readValue_wbuf {k : Load} (hk : k.wbuf = true) : s.readValue c k = readLE (s.core c).wbuf (s.wPhys c k.addr) k.n := by
  rw [State.readValue, readLE, readBytes_eq_map]
  simp [State.readPlace, State.chipByte, hk, State.chipRead, State.core_fin_mod]

theorem State.readValue_abuf {k : Load} (hw : k.wbuf = false) (hp : k.pantry = false) : s.readValue c k = readLE (s.core c).abuf (s.aPhys c k.addr) k.n := by
  rw [State.readValue, readLE, readBytes_eq_map]
  simp [State.readPlace, State.chipByte, hw, hp, State.chipRead, State.core_fin_mod]

theorem pantryAdd_zero (a : Nat) : pantryAdd a 0 = a := by
  rw [pantryAdd]
  omega

theorem State.readValue_pantry {k : Load} (hw : k.wbuf = false) (hp : k.pantry = true) :
    s.readValue c k = readLE s.dies[(s.pantryPhys c k.addr).1].pantry (s.pantryPhys c k.addr).2 k.n := by
  rw [State.readValue, readLE, readBytes_eq_map]
  simp [State.readPlace, State.chipByte, hw, hp, State.chipRead, pantryAdd_zero, Nat.mod_eq_of_lt (s.pantryPhys c k.addr).1.isLt]

/-- SQ_PWB after a read at offset o past the bound of window w (R107). -/
def SeqState.missed (w : Fin 8) (o : Nat) (x : SeqState) : SeqState :=
  { x with pwbHit := setBit x.pwbHit w, pwbNew := setBit x.pwbNew w, pwbWin := BitVec.ofNat 3 w, pwbOff := BitVec.ofNat 26 o }

theorem SeqState.missed_hit (w : Fin 8) (o : Nat) (x : SeqState) : (x.missed w o).pwbHit.getLsbD w = true := by simp [SeqState.missed, getLsbD_setBit _ _ _ w.isLt]

/-- A read out of bound notes itself in SQ_PWB, and the first through its window in the records (R106, R107). -/
theorem pwbHit_only (w : Fin 8) (o : Nat) (c : CoreIx) (q : SeqIx) (s : State) :
    ∃ f tr, pwbHit w o c q s = { s.updSeq c q f with tr := tr } ∧ ∀ x, (f x).run = x.run ∧ (f x).g = x.g ∧ (f x).pwbHit.getLsbD w = true := by
  have plain : ∃ f tr, s.updSeq c q (SeqState.missed w o) = { s.updSeq c q f with tr := tr } ∧ ∀ x, (f x).run = x.run ∧ (f x).g = x.g ∧ (f x).pwbHit.getLsbD w = true :=
    ⟨SeqState.missed w o, s.tr, rfl, fun x => ⟨rfl, rfl, x.missed_hit w o⟩⟩
  unfold pwbHit
  dsimp only
  split
  · split_ifs
    · exact plain
    · rw [State.updSeq_updSeq]
      exact ⟨_, _, rfl, fun x => ⟨rfl, rfl, x.missed_hit w o⟩⟩
  · exact plain

/-- Settles O6: where an access lies, each read as it fires, and its bank access within the bound and out of it. -/
theorem reads : Obligations.Reads := by
  unfold Obligations.Reads
  refine ⟨fun r a n hs => ?_, fun s b p lsid imm t x h => ?_, fun s b p w size imm t x h unbound => ?_, fun s b p w size imm t x d h bound => ?_, fun b => ⟨rfl, rfl⟩,
    fun s c q m b k run => ⟨fun w past => ?_, fun within clean => ?_⟩⟩
  · dsimp only
    rw [effective_some]
    exact ⟨rfl, wrapped_within _ _ hs⟩
  · have reads (n : Nat) := fireLoad_fires (n := n) (lsid := lsid) (imm := imm) (t := t) h
    exact ⟨reads 1, reads 2, reads 4, reads 8, reads 16, execAcq_fires (lsid := lsid) (t := t) h⟩
  · have seen : s.windowSeen w = ⟨true, false, 0, false, 0, 0⟩ := by rw [State.windowSeen, unbound, Option.getD_none]
    have past (o : Nat) : 0 < o + WinSize.bytes size := Nat.add_pos_right _ (WinSize.bytes_pos size)
    refine ⟨_, execLdpw_fires (w := w) (size := size) (imm := imm) (t := t) h, ?_, rfl, rfl, ?_, ?_⟩
    · simp [State.windowLoad, seen, past]
    · simp [State.windowLoad, seen, State.rho]
    · simp [State.windowLoad, seen, State.rho]
  · have seen : s.windowSeen w = d := by rw [State.windowSeen, bound, Option.getD_some]
    refine ⟨_, execLdpw_fires (w := w) (size := size) (imm := imm) (t := t) h, rfl, rfl, rfl, ?_, ?_, fun past => ?_, fun within => ?_⟩
    · simp only [State.windowLoad, seen]
    · simp only [State.windowLoad, seen]
      rw [State.rho_eq_ite]
    · simp only [State.windowLoad, seen, if_pos past]
    · simp only [State.windowLoad, seen, if_neg (Nat.not_lt.2 within), true_and]
  · obtain ⟨f, tr, hit, keeps⟩ := pwbHit_only w k.addr c q s
    obtain ⟨hrun, hg, hbit⟩ := keeps (s.seq c q)
    have seq : ({ s.updSeq c q f with tr := tr } : State).seq c q = f (s.seq c q) := State.seq_updSeq ..
    rw [readNow_oob m past, hit]
    refine ⟨?_, (State.sameMemory_updSeq s c q f).trans (State.sameMemory_updRun ..), ?_, ?_⟩
    · rw [State.seq_updRun_run, seq, hrun, run]
      rfl
    · rw [State.seq_updRun, seq]
      exact hbit
    · rw [State.seq_updRun, seq]
      exact hg
  · have engines := s.touched_engines c k
    have only := OnlyBlock.updRun (s.touched c k) c q (·.landing k (s.readValue c k))
    have lands : ((s.readNow c q m k).seq c q).run = some (b.landing k (s.readValue c k)) := by
      rw [readNow_in m within clean, State.seq_updRun_run, engines.seqs, run, Option.map_some]
    have answer := readNow_in (c := c) (q := q) m within clean
    refine ⟨?_, ?_, ?_, fun hw => ?_, fun hw hp => ?_, fun hw hp => ?_⟩
    · rw [answer]
      exact engines.memory.trans only.memory
    · rw [answer]
      exact only.trace.trans (s.touched_tr c k)
    · intro d hd
      rw [answer]
      exact (State.core_updCtx_ne _ _ _ _ hd).trans (engines.others d hd)
    · rw [← State.readValue_wbuf hw]
      exact lands
    · rw [← State.readValue_abuf hw hp]
      exact lands
    · rw [← State.readValue_pantry hw hp]
      exact lands

end Sys2Proof.Machine
end

section
/-! SUPPORT. The response to a trap (R211, R212, R217): the sequencer as it is left, the record, the fallback or the end of the domain; quiescent blocks (R208, R210); then the statements
O16 and O17. -/

namespace Sys2Proof.Machine

variable {s : State} {c : CoreIx} {q : SeqIx} {a : Activation} {k : Trap} {fb : BitVec 24}

/-! ### The answer to a trap -/

/-- A sequencer whose trap is answered: its cause registers, and its block abandoned. -/
def SeqState.trappedBy (x : SeqState) (tick : Nat) (k : Trap) (block : BitVec 24) : SeqState :=
  { x with trapDetail := k.detail, trapCause := k.code, trapTick := BitVec.ofNat 40 tick, trapBlock := block, trapped := true, answered := true, run := none, succ := none,
           held := none, loops := [] }

/-- Of the trap that a block holds and one that is to be answered the lower code is recorded (R212). -/
def SeqState.recorded (x : SeqState) (k : Trap) : Trap := match x.run.bind (·.trap) with | some u => if u.code ≤ k.code then u else k | none => k

theorem SeqState.recorded_own {x : SeqState} (h : x.run.bind (·.trap) = some k) : x.recorded k = k := by
  rw [SeqState.recorded, h]
  exact if_pos (BitVec.le_refl k.code)

/-- A trap starts the fallback: none of UNCORR, nor one of a fallback, of an activation without one, or in a core marked defective (R39, R121, R211). -/
def Activation.fallsBack (a : Activation) (marked : Bool) (k : Trap) : Bool := k.code != 0x07 && !a.isFallback && a.fallback.isSome && !marked

/-- The trap told: its sequencer, and the FAULT record. -/
def State.trapTold (s : State) (c : CoreIx) (q : SeqIx) (a : Activation) (k : Trap) : State :=
  (s.updSeq c q (·.trappedBy s.tick k (s.seq c q).block)).faultRec (some (s.placeCore a.launch c q)) 0 k.code.toNat k.detail.toNat
    (!a.fallsBack (s.health.marked.getLsbD c) k) (s.fdomOf a.launch) (s.seq c q).block.toNat (s.tagOf a.launch) 0

section
variable (h : (s.seq c q).act = some a) (first : (s.seq c q).answered = false)
include h first

theorem State.takeTrap_act (k : Trap) (g : Vector Word 64) : s.takeTrap c q k g =
    if a.fallsBack (s.health.marked.getLsbD c) ((s.seq c q).recorded k) then
      match a.fallback with
      | some fb => if a.drain then (s.trapTold c q a ((s.seq c q).recorded k)).kill c q a else (s.trapTold c q a ((s.seq c q).recorded k)).startFallback c q a fb g
      | none => s.trapTold c q a ((s.seq c q).recorded k)
    else ((s.trapTold c q a ((s.seq c q).recorded k)).updSeq c q fun y => { y with act := none }).cancelDomain (s.fdomOf a.launch) := by
  have abandoned : ((s.setCause c q ((s.seq c q).recorded k) (s.seq c q).block).updSeq c q fun x => { x with trapped := true, answered := true }).abandon c q =
      s.updSeq c q (·.trappedBy s.tick ((s.seq c q).recorded k) (s.seq c q).block) := by
    rw [State.abandon, State.setCause, State.updSeq_updSeq, State.updSeq_updSeq]
    rfl
  rw [State.trapTold, ← abandoned, State.takeTrap]
  refine (if_neg (ne_true_of_eq_false first)).trans ?_
  rw [h]
  rfl

end

/-- A trap is answered once its block's last word has fired, and no value of the tick can raise a lower code (R212). -/
theorem State.settleTrap_last {r : BlockRun} (run : (s.seq c q).run = some r) (trap : r.trap = some k) (settling : s.phase ≠ .values)
    (last : ∀ w ∈ s.todo, ∀ i, w ≠ .fire c q i) (clear : r.settleSlots.mayClash = false ∨ s.phase = .trace) :
    s.settleTrap c q = s.takeTrap c q (r.settleSlots.trap.getD k) := by
  have none : (s.todo.any fun w => match w with | .fire c' q' _ => c' == c && q' == q | _ => false) = false := by
    refine List.any_eq_false.2 fun w hw => ?_
    cases w with
    | fire d p i => exact fun same => last _ hw i (by rw [Bool.and_eq_true, beq_iff_eq, beq_iff_eq] at same; rw [same.1, same.2])
    | _ => exact Bool.false_ne_true
  rw [State.settleTrap, run]
  dsimp only
  rw [trap]
  dsimp only
  refine (if_neg fun waits => (Bool.or_eq_true_iff.1 waits).elim (fun h => settling (of_decide_eq_true h)) (ne_true_of_eq_false none)).trans (if_neg ?_)
  rcases clear with h | h <;> simp [h]

/-! ### What changes one sequencer and tells the trace engine -/

theorem State.coreLaunch_updSeq (s : State) (c : CoreIx) (q : SeqIx) (f : SeqState → SeqState) (d : CoreIx) : (s.updSeq c q f).coreLaunch? d = s.coreLaunch? d := by
  have held : ((s.updSeq c q f).core d).launch = (s.core d).launch := by rw [State.updSeq, State.core_updCtx]
  exact congrArg s.launch? held

theorem State.sameEngines_updSeq (s : State) (c : CoreIx) (q : SeqIx) (f : SeqState → SeqState) (d : CoreIx) : (s.ctx d).sameEngines ((s.updSeq c q f).ctx d) := by
  by_cases hd : d = c
  · subst hd
    rw [State.ctx_updSeq]
    exact ⟨rfl, rfl, rfl, rfl, rfl, rfl, rfl, rfl, rfl, rfl, rfl, rfl, rfl, rfl, rfl, rfl, rfl, rfl⟩
  · have stands : (s.updSeq c q f).ctx d = s.ctx d := congrArg CoreState.ctx (s.core_updCtx_ne c d (h := hd) ..)
    rw [stands]
    exact ⟨rfl, rfl, rfl, rfl, rfl, rfl, rfl, rfl, rfl, rfl, rfl, rfl, rfl, rfl, rfl, rfl, rfl, rfl⟩

/-- One sequencer stands as `y`, records of some types have been handed over, and nothing else has changed. -/
structure Tells (c : CoreIx) (q : SeqIx) (s : State) (y : SeqState) (types : List (BitVec 7)) (t : State) : Prop where
  eq : t = ({ s with tr := t.tr } : State).updSeq c q fun _ => y
  logs : s.logs t types

section
variable {x y : SeqState} {types : List (BitVec 7)} {t : State}

theorem Tells.refl (s : State) (c : CoreIx) (q : SeqIx) : Tells c q s (s.seq c q) [] s := ⟨(State.updSeq_same rfl).symm, State.logs_of_tr rfl⟩

theorem Tells.seq (h : Tells c q s y types t) : t.seq c q = y := by rw [h.eq, State.seq_updSeq]

theorem Tells.updSeq (h : Tells c q s y types t) (f : SeqState → SeqState) : Tells c q s (f y) types (t.updSeq c q f) where
  eq := calc
    t.updSeq c q f = (({ s with tr := t.tr } : State).updSeq c q fun _ => y).updSeq c q f := congrArg (State.updSeq · c q f) h.eq
    _ = ({ s with tr := t.tr } : State).updSeq c q fun _ => f y := State.updSeq_updSeq ..
  logs := h.logs

theorem Tells.record (h : Tells c q s y types t) {r : Rec} {n : BitVec 7} (typ : r.typ = n) : Tells c q s y (types ++ [n]) (t.record r) where
  eq := calc
    t.record r = (({ s with tr := t.tr } : State).updSeq c q fun _ => y).record r := congrArg (State.record · r) h.eq
    _ = ({ s with tr := (t.record r).tr } : State).updSeq c q fun _ => y := rfl
  logs := typ ▸ h.logs.trans (State.logs_record ..)

theorem Tells.faultRec (h : Tells c q s y types t) {place : Option Word} {source code detail : Nat} {cancel : Bool} {fdom : BitVec 16} {addr w aux : Nat} :
    Tells c q s y (types ++ [0x08]) (t.faultRec place source code detail cancel fdom addr w aux) := h.record rfl

theorem Tells.fallbackRec (h : Tells c q s y types t) (a : Activation) (fb : BitVec 24) : Tells c q s y (types ++ [0x05]) (t.fallbackRec c q a fb) := h.record rfl

theorem Tells.frame (h : Tells c q s y types t) :
    SameModule s t ∧ s.sameMemory t ∧ (∀ d, (s.ctx d).sameEngines (t.ctx d)) ∧ ∀ d r, (d, r) ≠ (c, q) → t.seq d r = s.seq d r := by
  rw [h.eq]
  exact ⟨⟨rfl, rfl, rfl, rfl, rfl, rfl, rfl, rfl, rfl, rfl⟩, State.sameMemory_updSeq { s with tr := t.tr } .., fun d => State.sameEngines_updSeq { s with tr := t.tr } ..,
    fun d r hd => State.seq_updSeq_other _ _ hd⟩

theorem Tells.blockStore (h : Tells c q s y types t) (d : CoreIx) : (t.core d).blockStore = (s.core d).blockStore := by
  rw [h.eq]
  exact (SameBuffers.updSeq ..).blockStore d

theorem Tells.coreLaunch (h : Tells c q s y types t) : t.coreLaunch? c = s.coreLaunch? c := by
  rw [h.eq]
  exact State.coreLaunch_updSeq { s with tr := t.tr } ..

end

/-! ### trap (R247) -/

section
variable {b : BlockRun} {p : Pred} {code : BitVec 8} (h : Fires s b p false false false 0 0 0) (act : (s.seq s.focus.core s.focus.seq).act = some a)
  (first : (s.seq s.focus.core s.focus.seq).answered = false) (settling : s.phase ≠ .values) (last : ∀ w ∈ s.todo, ∀ i, w ≠ .fire s.focus.core s.focus.seq i)
  (clear : ((b.markFired s.focus.idx).raise ⟨0x05, code.setWidth 32⟩).settleSlots.mayClash = false ∨ s.phase = .trace)

/-- The block of a `trap` that has fired. -/
def BlockRun.trapping (b : BlockRun) (i : Fin 32) (code : BitVec 8) : BlockRun := (b.markFired i).raise ⟨0x05, code.setWidth 32⟩

/-- The machine with it. -/
def State.trapFired (s : State) (code : BitVec 8) : State := s.fired (·.raise ⟨0x05, code.setWidth 32⟩)

include h in
theorem trapFired_run : ((s.trapFired code).seq s.focus.core s.focus.seq).run = some (b.trapping s.focus.idx code) := by
  rw [State.trapFired, State.fired, State.seq_updRun_run, h.run]
  rfl

include h in
theorem trapping_trap : (b.trapping s.focus.idx code).trap = some ⟨0x05, code.setWidth 32⟩ := BlockRun.raise_trap_of_none h.noTrap

include h settling last clear in
theorem execTrap_answers : exec (.trap p code) s = .next ((s.trapFired code).takeTrap s.focus.core s.focus.seq
    ((b.trapping s.focus.idx code).settleSlots.trap.getD ⟨0x05, code.setWidth 32⟩)) := by
  have fires : execTrap p code s = .next ((s.trapFired code).settleTrap s.focus.core s.focus.seq) := fireWord_marked (f := (·.raise ⟨0x05, code.setWidth 32⟩)) h rfl
  have word : exec (.trap p code) s = execTrap p code s := rfl
  rw [word, fires, State.settleTrap_last (trapFired_run h) (trapping_trap h) settling last clear]

/-- The sequencer of a `trap` as the trap is told. -/
def State.trapSeq (s : State) (b : BlockRun) (k : Trap) : SeqState := (s.seq s.focus.core s.focus.seq).trappedBy s.tick k b.addr

include h in
theorem trapTold_tells (a : Activation) (k : Trap) :
    Tells s.focus.core s.focus.seq s (s.trapSeq b k) [0x08] ((s.trapFired code).trapTold s.focus.core s.focus.seq a k) := by
  have fired : Tells s.focus.core s.focus.seq s { s.seq s.focus.core s.focus.seq with run := some (b.trapping s.focus.idx code) } [] (s.trapFired code) := by
    have run := (Tells.refl s s.focus.core s.focus.seq).updSeq fun x => { x with run := x.run.map fun b => b.trapping s.focus.idx code }
    rwa [h.run] at run
  have block : ((s.trapFired code).seq s.focus.core s.focus.seq).block = b.addr := by rw [fired.seq]; rfl
  rw [State.trapTold, block]
  exact (fired.updSeq (·.trappedBy s.tick k b.addr)).faultRec

include h act first settling last clear in
/-- A `trap` whose activation has a fallback is answered by its start. -/
theorem execTrap_fallsBack (own : a.isFallback = false) (has : a.fallback = some fb) (drain : a.drain = false) (sound : s.health.marked.getLsbD s.focus.core = false)
    (lowest : (b.trapping s.focus.idx code).settleSlots.trap = some ⟨0x05, code.setWidth 32⟩) :
    exec (.trap p code) s = .next (((s.trapFired code).trapTold s.focus.core s.focus.seq a ⟨0x05, code.setWidth 32⟩).startFallback s.focus.core s.focus.seq a fb) := by
  have seq : (s.trapFired code).seq s.focus.core s.focus.seq = { s.seq s.focus.core s.focus.seq with run := ((s.trapFired code).seq s.focus.core s.focus.seq).run } := by
    rw [State.trapFired, State.fired, State.seq_updRun]
  have told := trapTold_tells (code := code) h a ⟨0x05, code.setWidth 32⟩
  have record : ((s.trapFired code).seq s.focus.core s.focus.seq).recorded ⟨0x05, code.setWidth 32⟩ = ⟨0x05, code.setWidth 32⟩ := by
    exact SeqState.recorded_own ((congrArg (Option.bind · BlockRun.trap) (trapFired_run h)).trans (trapping_trap h))
  have falls : a.fallsBack ((s.trapFired code).health.marked.getLsbD s.focus.core) ⟨0x05, code.setWidth 32⟩ = true := by
    have kept : (s.trapFired code).health = s.health := rfl
    rw [Activation.fallsBack, own, has, kept, sound]
    rfl
  have registers : ((s.trapFired code).seq s.focus.core s.focus.seq).g =
      (((s.trapFired code).trapTold s.focus.core s.focus.seq a ⟨0x05, code.setWidth 32⟩).seq s.focus.core s.focus.seq).g := by
    rw [told.seq, seq]
    rfl
  rw [execTrap_answers h settling last clear, lowest, Option.getD_some, State.takeTrap_act (a := a) (by rw [seq]; exact act) (by rw [seq]; exact first), record, if_pos falls, has]
  dsimp only
  rw [drain, registers]
  rfl

end

/-- Settles O16: the trap told, and then the fallback started, or kept by the stop. -/
theorem trapStartsFallback : Obligations.TrapStartsFallback := by
  unfold Obligations.TrapStartsFallback
  intro s b p code a fb h act own has drain sound clean first settling last r lowest clear x traps opened
  have told := trapTold_tells (code := code) h a ⟨0x05, code.setWidth 32⟩
  have answers := execTrap_fallsBack h act first settling last clear own has drain sound lowest
  refine ⟨fun going whole => ?_, fun l hl stopped => ?_⟩
  · have read : ((s.trapFired code).trapTold s.focus.core s.focus.seq a ⟨0x05, code.setWidth 32⟩).openBlock s.focus.core fb s.focus.seq
        ((((s.trapFired code).trapTold s.focus.core s.focus.seq a ⟨0x05, code.setWidth 32⟩).seq s.focus.core s.focus.seq).g.set 63 a.arg) = opened := by
      rw [told.seq]
      exact State.openBlock_congr (told.blockStore _) told.frame.1.ecc ..
    have starts := State.startFallback_clean (c := s.focus.core) (q := s.focus.seq) (a := a) (fb := fb) (told.frame.1.ecc.trans clean)
      (fun l hl => by rw [told.frame.1.tick]; exact going l (told.coreLaunch ▸ hl)) (by rw [read]; exact whole)
    rw [read] at starts
    have tells : Tells _ _ s _ [0x08, 0x05] _ := (told.fallbackRec a fb).updSeq (·.started a.asFallback fb opened)
    obtain ⟨module, memory, engines, others⟩ := tells.frame
    refine ⟨_, answers.trans (congrArg Host.Outcome.next starts), ?_⟩
    dsimp only
    rw [tells.seq]
    exact ⟨rfl, rfl, rfl, rfl, rfl, rfl, rfl, rfl, rfl, rfl, rfl, rfl, module, memory, engines, others, rfl, rfl, rfl, rfl, rfl, rfl, rfl, tells.logs⟩
  · have holds : ((s.trapFired code).trapTold s.focus.core s.focus.seq a ⟨0x05, code.setWidth 32⟩).startFallback s.focus.core s.focus.seq a fb =
        ((s.trapFired code).trapTold s.focus.core s.focus.seq a ⟨0x05, code.setWidth 32⟩).updSeq s.focus.core s.focus.seq fun x => { x with act := some a, held := some fb } := by
      rw [State.startFallback, told.coreLaunch, hl]
      exact if_pos (by rw [told.frame.1.tick]; exact stopped)
    have tells := told.updSeq fun x => { x with act := some a, held := some fb }
    obtain ⟨module, memory, engines, others⟩ := tells.frame
    refine ⟨_, answers.trans (congrArg Host.Outcome.next holds), ?_⟩
    dsimp only
    rw [tells.seq]
    exact ⟨rfl, rfl, rfl, rfl, rfl, rfl, rfl, rfl, rfl, rfl, rfl, rfl, module, memory, engines, others, rfl, rfl, rfl, rfl, rfl, tells.logs⟩

/-! ### Traps that end a domain, and quiescent blocks (R26, R39, R208, R210) -/

theorem Activation.fallsBack_false {marked : Bool} (k : Trap) (h : a.isFallback = true ∨ a.fallback = none ∨ marked = true) : a.fallsBack marked k = false := by
  rcases h with own | without | defective
  · rw [Activation.fallsBack, own, Bool.not_true, Bool.and_false, Bool.false_and, Bool.false_and]
  · rw [Activation.fallsBack, without, Option.isSome_none, Bool.and_false, Bool.false_and]
  · rw [Activation.fallsBack, defective, Bool.not_true, Bool.and_false]

/-- The cancellation of a domain in a state with the same launches ends it. -/
theorem State.cancelDomain_gone_of_launches {t : State} (h : t.launches = s.launches) (d : BitVec 16) : s.domainGone (t.cancelDomain d) d :=
  fun l hl => t.cancelDomain_domainGone d l (h ▸ hl)

/-- A trap without a fallback leaves no launch of its domain. -/
theorem State.takeTrap_domainGone (act : (s.seq c q).act = some a) (first : (s.seq c q).answered = false)
    (ends : a.isFallback = true ∨ a.fallback = none ∨ s.health.marked.getLsbD c = true) (k : Trap) : s.domainGone (s.takeTrap c q k) (s.fdomOf a.launch) := by
  rw [State.takeTrap_act act first, if_neg (ne_true_of_eq_false (Activation.fallsBack_false _ ends))]
  have launches : ((s.trapTold c q a ((s.seq c q).recorded k)).updSeq c q fun y => { y with act := none }).launches = s.launches := rfl
  exact State.cancelDomain_gone_of_launches launches _

section
variable {b : BlockRun}

/-- The sum of powers of two of the numbers below n with a property has exactly their bits. -/
theorem testBit_foldl_two_pow (p : Nat → Bool) (n : Nat) :
    ((List.range n).filter p).foldl (fun a i => a + 2 ^ i) 0 < 2 ^ n ∧ ∀ i < n, (((List.range n).filter p).foldl (fun a i => a + 2 ^ i) 0).testBit i = p i := by
  induction n with
  | zero => exact ⟨Nat.one_pos, fun i hi => absurd hi (Nat.not_lt_zero i)⟩
  | succ n ih =>
    obtain ⟨small, bits⟩ := ih
    rw [List.range_succ, List.filter_append, List.foldl_append, Nat.pow_succ]
    generalize ((List.range n).filter p).foldl (fun a i => a + 2 ^ i) 0 = m at small bits ⊢
    cases hp : p n with
    | false =>
      rw [List.filter_singleton, hp]
      refine ⟨by simp only [cond_false, List.foldl_nil]; omega, fun i hi => ?_⟩
      rcases Nat.lt_succ_iff_lt_or_eq.1 hi with below | rfl
      · exact bits i below
      · exact (Nat.testBit_lt_two_pow small).trans hp.symm
    | true =>
      rw [List.filter_singleton, hp]
      simp only [cond_true, List.foldl_cons, List.foldl_nil, Nat.add_comm m]
      refine ⟨by omega, fun i hi => ?_⟩
      rcases Nat.lt_succ_iff_lt_or_eq.1 hi with below | rfl
      · exact (Nat.testBit_two_pow_add_gt below m).trans (bits i below)
      · rw [Nat.testBit_two_pow_add_eq, Nat.testBit_lt_two_pow small, hp]
        rfl

/-- DETAIL of INCOMPLETE names the store LSIDs that nothing has resolved (R210). -/
theorem BlockRun.unresolved_bits {i : Nat} (h : i < 32) : b.unresolved.getLsbD i = (decide (i < b.stores) && !b.lsids.getLsbD i) := by
  obtain ⟨small, bits⟩ := testBit_foldl_two_pow (fun i => decide (i < b.stores) && !b.lsids.getLsbD i) 32
  rw [BlockRun.unresolved, BitVec.getLsbD_ofNat, decide_eq_true h, Bool.true_and, bits i h]

variable (aged : 1 ≤ b.age) (sent : b.flights = []) (read : b.loads = []) (awaited : b.waits = []) (noTrap : b.trap = none) (idle : ∀ i : Fin 32, b.due i (b.word i) false = false)
include aged sent read awaited noTrap idle

/-- A block in which nothing can happen any more (R208). -/
theorem BlockRun.quiescent_of_idle : b.quiescent = true := by
  have still : b.anyFires = false := List.any_eq_false.2 fun i _ => ne_true_of_eq_false (idle i)
  rw [BlockRun.quiescent, still, sent, read, awaited, noTrap, decide_eq_true aged]
  rfl

end

/-- Settles O17: the end of the domain by `trap`, and the two traps of a quiescent block. -/
theorem trapsEndBlocks : Obligations.TrapsEndBlocks := by
  unfold Obligations.TrapsEndBlocks
  refine ⟨fun s b p code a h act ends first settling last clear => ?_, fun s c q b run aged sent read awaited noTrap idle => ⟨fun open' => ?_, fun e exit unready => ?_⟩⟩
  · have seq : (s.trapFired code).seq s.focus.core s.focus.seq = { s.seq s.focus.core s.focus.seq with run := ((s.trapFired code).seq s.focus.core s.focus.seq).run } := by
      rw [State.trapFired, State.fired, State.seq_updRun]
    exact ⟨_, execTrap_answers h settling last clear, State.takeTrap_domainGone (s := s.trapFired code) (by rw [seq]; exact act) (by rw [seq]; exact first) ends _⟩
  · change execNoexit c q s = _
    rw [execNoexit, run]
    exact if_pos (by rw [BlockRun.quiescent_of_idle aged sent read awaited noTrap idle, open']; rfl)
  · refine ⟨b.unresolved, ?_, fun i hi => BlockRun.unresolved_bits hi⟩
    change execIncomplete c q s = _
    rw [execIncomplete, run]
    exact if_pos (by rw [BlockRun.quiescent_of_idle aged sent read awaited noTrap idle, exit, unready]; rfl)

end Sys2Proof.Machine
end

section
/-! SUPPORT. The commit of a block whose effects are few (R204 to R206): what its steps pass over, its registers, its successor; then the statement O18. -/

namespace Sys2Proof.Machine

variable {s t : State} {c : CoreIx} {q : SeqIx} {a : Activation} {r : BlockRun} {m : Nat}

/-! ### Sorting by a key -/

section
variable {α : Type} (f : α → Nat) (l : List α)

theorem insertBy_perm (x : α) : (insertBy f x l).Perm (x :: l) := by
  induction l with
  | nil => exact .refl _
  | cons y l ih =>
    rw [insertBy]
    split
    · exact .refl _
    · exact (ih.cons y).trans (.swap x y l)

theorem insertBy_sorted (x : α) (h : l.Pairwise (f · ≤ f ·)) : (insertBy f x l).Pairwise (f · ≤ f ·) := by
  induction l with
  | nil => exact List.pairwise_singleton _ _
  | cons y l ih =>
    obtain ⟨least, rest⟩ := List.pairwise_cons.1 h
    rw [insertBy]
    split
    · next below => exact List.pairwise_cons.2 ⟨fun z hz => (List.mem_cons.1 hz).elim (fun e => e ▸ below.le) fun hz => below.le.trans (least z hz), h⟩
    · next above =>
      exact List.pairwise_cons.2 ⟨fun z hz => (List.mem_cons.1 ((insertBy_perm f l x).mem_iff.1 hz)).elim (fun e => e ▸ not_lt.1 above) (least z), ih rest⟩

theorem sortBy_perm : (sortBy f l).Perm l := by
  have all (acc : List α) : (l.foldl (fun acc x => insertBy f x acc) acc).Perm (l ++ acc) := by
    induction l generalizing acc with
    | nil => exact .refl _
    | cons x l ih => exact (ih _).trans (((insertBy_perm f acc x).append_left l).trans List.perm_middle)
  have sorted := all []
  rwa [List.append_nil] at sorted

theorem mem_sortBy {x : α} : x ∈ sortBy f l ↔ x ∈ l := (sortBy_perm f l).mem_iff

theorem sortBy_sorted : (sortBy f l).Pairwise (f · ≤ f ·) := by
  have all (acc : List α) (h : acc.Pairwise (f · ≤ f ·)) : (l.foldl (fun acc x => insertBy f x acc) acc).Pairwise (f · ≤ f ·) := by
    induction l generalizing acc with
    | nil => exact h
    | cons x l ih => exact ih _ (insertBy_sorted f acc x h)
  exact all [] .nil

end

/-! ### The steps of a commit -/

/-- A step at which none of the block's effects acts changes nothing. -/
theorem commitStep_idle (idle : ∀ e ∈ r.effects, ∀ s, commitEffect m c q a r s e = s) : commitStep m c q a r s = s := by
  have all (l : List (Nat × Effect)) (h : ∀ e ∈ l, ∀ s, commitEffect m c q a r s e = s) : l.foldl (commitEffect m c q a r) s = s := by
    induction l with
    | nil => rfl
    | cons e l ih =>
      rw [List.foldl_cons, h e List.mem_cons_self]
      exact ih fun e he => h e (List.mem_cons_of_mem _ he)
  exact all _ fun e he => idle e ((mem_sortBy ..).1 (List.mem_filter.1 he).1)

/-- A sequencer whose registers have taken the write slots. -/
def SeqState.written (x : SeqState) (r : BlockRun) : SeqState := { x with g := commitRegs r x.g }

/-- The effects of the steps before the successor, with the registers that the write slots have left. -/
def State.commitActs (s : State) (c : CoreIx) (q : SeqIx) (a : Activation) (r : BlockRun) : State :=
  commitStep 9 c q a r ([2, 3, 4, 5].foldl (fun s k => commitStep k c q a r s) (s.updSeq c q (·.written r)))

/-- The whole commit. -/
def State.committed (s : State) (c : CoreIx) (q : SeqIx) (a : Activation) (r : BlockRun) : State :=
  commitStep 8 c q a r (commitStep 7 c q a r (commitStep 6 c q a r ((s.commitActs c q a r).afterCommit c q a r)))

section
variable (run : (s.seq c q).run = some r) (act : (s.seq c q).act = some a) (ready : r.ready = true)
include run act ready

/-- A block without loop frames commits, where no memory error is met, no region queue overflows and no breakpoint is armed. -/
theorem execBlockCommit_commits (straight : ∀ e ∈ r.effects, ∀ n f l, e.2 ≠ .loop n f l) (frames : (s.seq c q).loops.length ≤ 4) (sound : s.commitHard c r = none)
    (room : (s.commitActs c q a r).regionOverflow c q r = false) (quiet : (s.committed c q a r).bench = false) :
    exec (.blockCommit c q) s = .next (s.committed c q a r) := by
  have none' : ((sortBy Prod.fst r.effects).filter fun e => match e.2 with | .loop .. => true | _ => false) = [] := by
    refine List.filter_eq_nil_iff.2 fun e he => ?_
    have hl := straight e ((mem_sortBy ..).1 he)
    split
    · next n f l hk => exact absurd hk (hl n f l)
    · exact Bool.false_ne_true
  have short : ¬ 4 < ((sortBy Prod.fst r.effects).filter fun e => match e.2 with | .loop .. => true | _ => false).length + (s.seq c q).loops.length := by
    rw [none', List.length_nil, Nat.zero_add]
    exact not_lt.2 frames
  change execBlockCommit c q s = _
  rw [execBlockCommit, run, act]
  refine (if_neg (by rw [ready]; decide)).trans ((if_neg short).trans ?_)
  rw [sound]
  exact congrArg Host.Outcome.next ((if_neg (ne_true_of_eq_false room)).trans (if_pos (congrArg (!·) quiet)))

end

/-! ### The registers (R171, R205 step 1) -/

/-- What a write slot puts into the registers. -/
def slotWrite (r : BlockRun) (g : Vector Word 64) (w : Fin 8) : Vector Word 64 :=
  match r.wregs.getD w none, r.slots[w] with
  | some n, some (some v) => g.set n.toFin v
  | _, _ => g

theorem commitRegs_eq (r : BlockRun) (g : Vector Word 64) : commitRegs r g = (List.finRange 8).foldl (slotWrite r) g := rfl

variable {g : Vector Word 64} {n : Fin 64} {w : Fin 8} {v : Word}

/-- A slot names the register and has a value for it. -/
theorem slotWrite_same (reg : r.wregs.getD w none = some (BitVec.ofFin n)) (value : r.slots[w] = some (some v)) : (slotWrite r g w)[n] = v := by
  rw [slotWrite, reg, value]
  exact Vector.getElem_set_self ..

/-- A slot that does not name the register, or is nullified, leaves it. -/
theorem slotWrite_other (h : r.wregs.getD w none = some (BitVec.ofFin n) → r.slots[w] = some none) : (slotWrite r g w)[n] = g[n] := by
  rw [slotWrite]
  split
  · next m v reg value =>
    refine Vector.getElem_set_ne _ _ fun same => ?_
    have named : BitVec.ofFin n = m := BitVec.eq_of_toNat_eq same.symm
    rw [h (reg.trans (congrArg some named.symm))] at value
    cases value
  · rfl

theorem foldl_slotWrite_other (l : List (Fin 8)) (h : ∀ w ∈ l, r.wregs.getD w none = some (BitVec.ofFin n) → r.slots[w] = some none) :
    (l.foldl (slotWrite r) g)[n] = g[n] := by
  induction l generalizing g with
  | nil => rfl
  | cons w l ih => exact (ih fun w hw => h w (List.mem_cons_of_mem _ hw)).trans (slotWrite_other (h w List.mem_cons_self))

/-- A register that no slot writes stands. -/
theorem commitRegs_other (h : ∀ w : Fin 8, r.wregs.getD w none = some (BitVec.ofFin n) → r.slots[w] = some none) : (commitRegs r g)[n] = g[n] :=
  foldl_slotWrite_other _ fun w _ => h w

/-- A register takes the value of the highest slot that writes it. -/
theorem commitRegs_last (reg : r.wregs.getD w none = some (BitVec.ofFin n)) (value : r.slots[w] = some (some v))
    (last : ∀ w' : Fin 8, w < w' → r.wregs.getD w' none = some (BitVec.ofFin n) → r.slots[w'] = some none) : (commitRegs r g)[n] = v := by
  obtain ⟨before, after, split⟩ := List.append_of_mem (List.mem_finRange w)
  have sorted : (before ++ w :: after).Pairwise (· < ·) := split ▸ List.pairwise_lt_finRange 8
  have higher := (List.pairwise_cons.1 (List.pairwise_append.1 sorted).2.1).1
  rw [commitRegs_eq, split, List.foldl_append, List.foldl_cons, foldl_slotWrite_other after fun w' hw => last w' (higher w' hw), slotWrite_same reg value]

/-! ### The successor (R206) -/

/-- COMMITS counts, and saturates. -/
def SeqState.counted (x : SeqState) : SeqState := { x with run := none, commits := if x.commits = 0xFFFF then 0xFFFF else x.commits + 1 }

/-- A sequencer whose block has committed with an exit, outside any loop and without a MARK. -/
def SeqState.succeeded (x : SeqState) (block : BitVec 24) (next : Option (BitVec 24)) : SeqState :=
  match next with
  | some b => { x.counted with loops := (loopNext block x.loops).1, succ := some ((loopNext block x.loops).2.getD b), succLoop := (loopNext block x.loops).2.isSome }
  | none => { x.counted with act := none, loops := [], succ := none }

/-- Outside any loop the successor is that of the exit. -/
theorem SeqState.succeeded_straight {x : SeqState} (straight : x.loops = []) (block : BitVec 24) (next : Option (BitVec 24)) :
    x.succeeded block next = { x.counted with succ := next, act := if next = none then none else x.act, succLoop := if next = none then x.succLoop else false } := by
  cases next with
  | none =>
    rw [SeqState.succeeded, if_pos rfl, if_pos rfl]
    simp only [SeqState.counted, straight]
  | some b =>
    rw [SeqState.succeeded, straight, if_neg (Option.some_ne_none b), if_neg (Option.some_ne_none b)]
    simp only [SeqState.counted, straight, loopNext, Option.getD_none, Option.isSome_none]

theorem State.afterCommit_eq {e : ExitTaken} (exit : r.exit = some e) (unmarked : a.mark = false) :
    s.afterCommit c q a r = s.updSeq c q (·.succeeded r.addr e.next) := by
  obtain ⟨num, next⟩ := e
  rw [State.afterCommit, exit]
  cases next with
  | none =>
    refine (congrArg (State.updSeq · c q _) (if_neg (ne_true_of_eq_false unmarked))).trans ?_
    exact State.updSeq_updSeq ..
  | some b =>
    dsimp only
    rw [State.seq_updSeq, State.updSeq_updSeq]
    rfl

/-- COMMITS counts up to its largest value. -/
theorem SeqState.counted_commits (x : SeqState) : x.counted.commits.toNat = min (x.commits.toNat + 1) 0xFFFF := by
  have bound := x.commits.isLt
  by_cases full : x.commits = 0xFFFF
  · have counted : x.counted.commits = 0xFFFF := if_pos full
    rw [counted, full]
    rfl
  · have counted : x.counted.commits = x.commits + 1 := if_neg full
    have below : x.commits.toNat ≠ 0xFFFF := fun h => full (BitVec.eq_of_toNat_eq h)
    have wraps : (x.commits + 1).toNat = (x.commits.toNat + 1) % 2 ^ 16 := BitVec.toNat_add ..
    rw [counted, wraps]
    omega

/-- Commands that fit into the region's queue do not overflow it (R304). -/
theorem State.regionOverflow_room {n : Nat} (few : (r.effects.filter fun e => match e.2 with | .issue .. => true | _ => false).length ≤ n)
    (room : ∀ h : q.val < 4, ((s.ctx c).regions[q.val]).queue.length + n ≤ 16) : s.regionOverflow c q r = false := by
  rw [State.regionOverflow]
  split
  · next h => exact decide_eq_false (not_lt.2 ((Nat.add_le_add_left few _).trans (room h)))
  · rfl

/-! ### A block without effects -/

section
variable (bare : r.effects = [])
include bare

theorem commitStep_bare : commitStep m c q a r s = s := commitStep_idle fun _ he => absurd (bare ▸ he) List.not_mem_nil

theorem State.commitActs_bare : s.commitActs c q a r = s.updSeq c q (·.written r) := by
  simp only [State.commitActs, List.foldl_cons, List.foldl_nil, commitStep_bare bare]

theorem State.committed_bare {e : ExitTaken} (exit : r.exit = some e) (unmarked : a.mark = false) :
    s.committed c q a r = s.updSeq c q fun x => (x.written r).succeeded r.addr e.next := by
  rw [State.committed, commitStep_bare bare, commitStep_bare bare, commitStep_bare bare, State.commitActs_bare bare, State.afterCommit_eq exit unmarked, State.updSeq_updSeq]
  rfl

theorem State.commitHard_bare : s.commitHard c r = none := by rw [State.commitHard, bare, List.findSome?_nil]

end

/-- Settles O18: the registers of the write slots, then the successor; nothing else. -/
theorem commitWritesRegisters : Obligations.CommitWritesRegisters := by
  unfold Obligations.CommitWritesRegisters
  intro s c q b a e run act ready bare exit straight unmarked idle room
  have room' : (s.commitActs c q a b).regionOverflow c q b = false := by
    refine State.regionOverflow_room (n := 0) (by rw [bare]; rfl) fun h => ?_
    rw [State.commitActs_bare bare, State.ctx_updSeq]
    exact room h
  have quiet : (s.committed c q a b).bench = false := by
    rw [State.committed_bare bare exit unmarked]
    exact idle
  refine ⟨_, execBlockCommit_commits run act ready (fun e he => absurd (bare ▸ he) List.not_mem_nil) (by rw [straight]; exact Nat.zero_le _)
    (State.commitHard_bare bare) room' quiet, ?_⟩
  have next : s.committed c q a b = s.updSeq c q fun _ => ((s.seq c q).written b).succeeded b.addr e.next :=
    (State.committed_bare bare exit unmarked).trans (State.updSeq_const ..)
  have runs : ((s.seq c q).written b).act = some a := act
  rw [SeqState.succeeded_straight (x := (s.seq c q).written b) straight, runs] at next
  have seq := (congrArg (State.seq · c q) next).trans (State.seq_updSeq ..)
  dsimp only at seq ⊢
  rw [seq]
  refine ⟨next, rfl, SeqState.counted_commits _, rfl, fun n h => commitRegs_other h, fun w n v reg value last => commitRegs_last reg value last⟩

end Sys2Proof.Machine
end

section
/-! SUPPORT. Bytes written at a commit (R94, R205 step 3): what a write to one A-buffer changes, and what several in turn leave; engine words issued (R205 step 6); then the statements
O19 and O20. -/

namespace Sys2Proof.Machine

variable {s t u : State} {c : CoreIx} {q : SeqIx} {m k : Memory}

/-! ### Writes to one A-buffer -/

theorem State.aPhys_congr (h : t.coreLaunch? c = s.coreLaunch? c) (a : Nat) : t.aPhys c a = s.aPhys c a := by rw [State.aPhys, State.aPhys, State.slices, State.slices, h]

/-- Only the A-buffer of one core has changed, which is now `m`, and what its sequencers know of it: running blocks, registers, and the banks touched in this tick. -/
structure AbufOnly (c : CoreIx) (s t : State) (m : Memory) : Prop where
  module : SameModule s t
  others : ∀ d, d ≠ c → t.core d = s.core d
  core : t.core c = { s.core c with abuf := m, touched := (t.core c).touched, ctx := { s.ctx c with seqs := (t.ctx c).seqs } }
  rels : ∀ p, (t.seq c p).rels = (s.seq c p).rels

theorem AbufOnly.refl (s : State) (c : CoreIx) : AbufOnly c s s (s.core c).abuf := ⟨.refl s, fun _ _ => rfl, rfl, fun _ => rfl⟩

theorem AbufOnly.abuf (h : AbufOnly c s t m) : (t.core c).abuf = m := by rw [h.core]

theorem AbufOnly.trans (h : AbufOnly c s t m) (g : AbufOnly c t u k) : AbufOnly c s u k where
  module := h.module.trans g.module
  others d hd := (g.others d hd).trans (h.others d hd)
  core := by
    have first := h.core
    have second := g.core
    rw [State.ctx] at second
    rw [first] at second
    exact second
  rels p := (g.rels p).trans (h.rels p)

theorem AbufOnly.coreLaunch (h : AbufOnly c s t m) : t.coreLaunch? c = s.coreLaunch? c := by
  rw [State.coreLaunch?, State.coreLaunch?, State.launch?_congr h.module.launches, h.core]

theorem AbufOnly.bankHolds (h : AbufOnly c s t m) : (t.core c).bankHolds = (s.core c).bankHolds := by rw [h.core]

theorem AbufOnly.aPhys (h : AbufOnly c s t m) (a : Nat) : t.aPhys c a = s.aPhys c a := State.aPhys_congr h.coreLaunch a

theorem AbufOnly.ite {p : Prop} [Decidable p] (h : AbufOnly c s t m) (g : AbufOnly c s u m) : AbufOnly c s (if p then t else u) m := by
  split
  · exact h
  · exact g

/-- A change of a core that leaves all but its A-buffer, the banks touched, and its sequencers' blocks and registers. -/
theorem AbufOnly.updCore {f : CoreState → CoreState}
    (keeps : f (s.core c) = { s.core c with abuf := m, touched := (f (s.core c)).touched, ctx := { s.ctx c with seqs := (f (s.core c)).ctx.seqs } })
    (rels : ∀ p, ((s.updCore c f).seq c p).rels = (s.seq c p).rels) : AbufOnly c s (s.updCore c f) m where
  module := ⟨rfl, rfl, rfl, rfl, rfl, rfl, rfl, rfl, rfl, rfl⟩
  others d hd := State.core_updCore_ne _ _ _ _ hd
  core := by
    have after : (s.updCore c f).ctx c = (f (s.core c)).ctx := congrArg CoreState.ctx (s.core_updCore c f)
    rw [after, State.core_updCore]
    exact keeps
  rels := rels

theorem AbufOnly.updSeq (s : State) (c : CoreIx) (q : SeqIx) (f : SeqState → SeqState) (keeps : (f (s.seq c q)).rels = (s.seq c q).rels) :
    AbufOnly c s (s.updSeq c q f) (s.core c).abuf :=
  .updCore rfl fun p => by
    change ((s.updSeq c q f).seq c p).rels = _
    by_cases hp : p = q
    · rw [hp, State.seq_updSeq, keeps]
    · rw [State.seq_updSeq_ne _ _ _ _ _ _ (.inr hp)]

theorem AbufOnly.wakeCore (s : State) (c : CoreIx) (pantry : Bool) (die : Fin 4) (lo n : Nat) : AbufOnly c s (s.wakeCore c pantry die lo n) (s.core c).abuf := by
  refine .ite (.refl s c) (.updCore rfl fun p => ?_)
  rw [State.seq, State.ctx, State.core_updCore, Fin.getElem_fin, Vector.getElem_map]
  rfl

theorem AbufOnly.touch (s : State) (c : CoreIx) (phys : Nat) : AbufOnly c s (s.touch c phys) (s.core c).abuf :=
  .updCore rfl fun _ => by rw [State.seq, State.ctx, State.core_updCore]; rfl

/-- A write at an A-buffer whose banks no slot holds is made at once. -/
theorem AbufOnly.writeA (free : (s.core c).bankHolds = []) (phys : Nat) (bytes : List Byte) (who : Option (CoreIx × SeqIx × Bool)) :
    AbufOnly c s (s.writeA c phys bytes who) (writeBytes (s.core c).abuf phys bytes) := by
  have stored : AbufOnly c s (s.updCore c fun k => { k with abuf := writeBytes k.abuf phys bytes }) (writeBytes (s.core c).abuf phys bytes) :=
    .updCore rfl fun _ => by rw [State.seq, State.ctx, State.core_updCore]; rfl
  have woken := stored.trans (.wakeCore _ c false 0 phys bytes.length)
  rw [stored.abuf] at woken
  rw [State.writeA, if_pos (by rw [free]; exact Bool.or_true _), State.writeBank, if_neg (by rw [free]; exact Bool.false_ne_true)]
  exact woken

/-! ### Stores in turn -/

variable {a : Activation} {r : BlockRun} {l : List (Nat × Effect)}

/-- The A-buffer after a store. -/
def storeInto (s : State) (c : CoreIx) (m : Memory) (e : Nat × Effect) : Memory :=
  match e.2 with
  | .store n bytes => writeBytes m (s.aPhys c n) bytes
  | _ => m

/-- The effects are stores. -/
def AllStores (l : List (Nat × Effect)) : Prop := ∀ e ∈ l, ∃ n bytes, e.2 = .store n bytes

/-- No store among them names a byte. -/
def Misses (s : State) (c : CoreIx) (l : List (Nat × Effect)) (x : Nat) : Prop := ∀ e ∈ l, ∀ n bytes, e.2 = .store n bytes → x < s.aPhys c n ∨ s.aPhys c n + bytes.length ≤ x

theorem storeInto_store {e : Nat × Effect} {n : Nat} {bytes : List Byte} (h : e.2 = .store n bytes) : storeInto s c m e = writeBytes m (s.aPhys c n) bytes := by rw [storeInto, h]

theorem foldl_storeInto_wf (all : AllStores l) (wf : Memory.wf m = true) : Memory.wf (l.foldl (storeInto s c) m) = true := by
  induction l generalizing m with
  | nil => exact wf
  | cons e l ih =>
    obtain ⟨n, bytes, h⟩ := all e List.mem_cons_self
    rw [List.foldl_cons, storeInto_store h]
    exact ih (fun e he => all e (List.mem_cons_of_mem _ he)) (writeBytes_wf wf)

/-- A byte that no store names stands. -/
theorem foldl_storeInto_misses {x : Nat} (all : AllStores l) (wf : Memory.wf m = true) (misses : Misses s c l x) : readByte (l.foldl (storeInto s c) m) x = readByte m x := by
  induction l generalizing m with
  | nil => rfl
  | cons e l ih =>
    obtain ⟨n, bytes, h⟩ := all e List.mem_cons_self
    rw [List.foldl_cons, storeInto_store h, ih (fun e he => all e (List.mem_cons_of_mem _ he)) (writeBytes_wf wf) fun e he => misses e (List.mem_cons_of_mem _ he),
      readByte_writeBytes_outside wf (misses e List.mem_cons_self n bytes h)]

/-- A byte takes its value from the last store that names it. -/
theorem foldl_storeInto_last {e : Nat × Effect} {before after : List (Nat × Effect)} {n : Nat} {bytes : List Byte} (all : AllStores (before ++ e :: after)) (wf : Memory.wf m = true)
    (h : e.2 = .store n bytes) (i : Nat) (hi : i < bytes.length) (misses : Misses s c after (s.aPhys c n + i)) :
    readByte ((before ++ e :: after).foldl (storeInto s c) m) (s.aPhys c n + i) = bytes[i] := by
  have first : Memory.wf (before.foldl (storeInto s c) m) = true := foldl_storeInto_wf (fun e he => all e (List.mem_append_left _ he)) wf
  have rest : AllStores after := fun e he => all e (List.mem_append_right _ (List.mem_cons_of_mem _ he))
  rw [List.foldl_append, List.foldl_cons, storeInto_store h, foldl_storeInto_misses rest (writeBytes_wf first) misses, readByte_writeBytes_inside first i hi]

/-- A store as its block commits. -/
theorem AbufOnly.commitStore (clean : s.ecc = []) (free : (s.core c).bankHolds = []) {e : Nat × Effect} (h : ∃ n bytes, e.2 = .store n bytes) :
    AbufOnly c s (commitEffect 3 c q a r s e) (storeInto s c (s.core c).abuf e) := by
  obtain ⟨i, _⟩ := e
  obtain ⟨n, bytes, rfl⟩ := h
  have touched := AbufOnly.touch s c (s.aPhys c n)
  have acts : commitEffect 3 c q a r s (i, .store n bytes) = (s.touch c (s.aPhys c n)).writeA c ((s.touch c (s.aPhys c n)).aPhys c n) bytes (some (c, q, false)) := by
    change (((s.softWrite _ none 1 c (s.aPhys c n) bytes.length).touch c (s.aPhys c n)).clearErrors 1 c (s.aPhys c n) bytes.length).writeAOff c n bytes _ = _
    rw [State.softWrite_of_clean clean, State.clearErrors_of_clean (touched.module.ecc.trans clean), State.writeAOff]
  have written := touched.trans (.writeA (touched.bankHolds.trans free) ((s.touch c (s.aPhys c n)).aPhys c n) bytes (some (c, q, false)))
  rw [touched.aPhys, touched.abuf] at written
  rw [acts, touched.aPhys]
  exact written

theorem AbufOnly.commitStores (h : AbufOnly c s t m) (clean : s.ecc = []) (free : (s.core c).bankHolds = []) (all : AllStores l) :
    AbufOnly c s (l.foldl (commitEffect 3 c q a r) t) (l.foldl (storeInto s c) m) := by
  induction l generalizing t m with
  | nil => exact h
  | cons e l ih =>
    have next := h.trans (.commitStore (q := q) (a := a) (r := r) (h.module.ecc.trans clean) (h.bankHolds.trans free) (all e List.mem_cons_self))
    have same : storeInto t c (t.core c).abuf e = storeInto s c m e := by
      obtain ⟨n, bytes, he⟩ := all e List.mem_cons_self
      rw [storeInto_store he, storeInto_store he, h.aPhys, h.abuf]
    rw [same] at next
    exact ih next fun e he => all e (List.mem_cons_of_mem _ he)

theorem SeqState.succeeded_rels (x : SeqState) (block : BitVec 24) (next : Option (BitVec 24)) : (x.succeeded block next).rels = x.rels := by cases next <;> rfl

/-! ### A block whose effects are stores -/

section
variable (all : AllStores r.effects)
include all

theorem commitStep_stores_idle {k : Nat} (hk : k ∈ [2, 4, 5, 6, 7, 8, 9]) : commitStep k c q a r s = s := by
  refine commitStep_idle fun e he u => ?_
  obtain ⟨n, bytes, h⟩ := all e he
  obtain ⟨i, _⟩ := e
  cases h
  simp only [List.mem_cons, List.not_mem_nil, or_false] at hk
  rcases hk with rfl | rfl | rfl | rfl | rfl | rfl | rfl <;> rfl

theorem State.commitActs_stores : s.commitActs c q a r = (sortBy Prod.fst r.effects).foldl (commitEffect 3 c q a r) (s.updSeq c q (·.written r)) := by
  have stands : (sortBy Prod.fst r.effects).filter r.stands = sortBy Prod.fst r.effects := List.filter_eq_self.2 fun e he => by
    obtain ⟨n, bytes, h⟩ := all e ((mem_sortBy ..).1 he)
    rw [BlockRun.stands, h]
  have idle {k : Nat} {u : State} := commitStep_stores_idle (s := u) (c := c) (q := q) (a := a) all (k := k)
  simp only [State.commitActs, List.foldl_cons, List.foldl_nil]
  rw [idle (k := 9) (by decide), idle (k := 5) (by decide), idle (k := 4) (by decide), idle (k := 2) (by decide), commitStep, stands]

theorem State.committed_stores {e : ExitTaken} (exit : r.exit = some e) (unmarked : a.mark = false) :
    s.committed c q a r = (s.commitActs c q a r).updSeq c q (·.succeeded r.addr e.next) := by
  have idle {k : Nat} {u : State} := commitStep_stores_idle (s := u) (c := c) (q := q) (a := a) all (k := k)
  rw [State.committed, idle (by decide), idle (by decide), idle (by decide), State.afterCommit_eq exit unmarked]

theorem State.commitHard_stores (clean : s.ecc = []) : s.commitHard c r = none := by
  refine List.findSome?_eq_none_iff.2 fun e he => ?_
  obtain ⟨n, bytes, h⟩ := all e he
  rw [h]
  exact if_neg (ne_true_of_eq_false (State.badWrite_of_clean clean ..))

/-- No store is a command for the sequencer's region. -/
theorem filter_issue_stores : (r.effects.filter fun e => match e.2 with | .issue .. => true | _ => false).length ≤ 0 := by
  refine le_of_eq (List.length_eq_zero_iff.2 (List.filter_eq_nil_iff.2 fun e he => ?_))
  obtain ⟨n, bytes, h⟩ := all e he
  rw [h]
  exact Bool.false_ne_true

end

/-- A block that is ready has taken an exit. -/
theorem BlockRun.ready_exit (h : r.ready = true) : ∃ e, r.exit = some e := by
  rw [BlockRun.ready, Bool.and_eq_true, Bool.and_eq_true, Bool.and_eq_true] at h
  exact Option.isSome_iff_exists.1 h.1.1.1

/-- Settles O19: the stores in the order of their indices, and nothing else but registers and the successor. -/
theorem commitWritesStores : Obligations.CommitWritesStores := by
  unfold Obligations.CommitWritesStores
  intro s c q b a run act ready idle unmarked all distinct clean wf free frames room
  obtain ⟨e, exit⟩ := BlockRun.ready_exit ready
  have sorted : AllStores (sortBy Prod.fst b.effects) := fun e he => all e ((mem_sortBy ..).1 he)
  have registers : AbufOnly c s (s.updSeq c q (·.written b)) (s.core c).abuf := .updSeq s c q _ rfl
  have acts := registers.commitStores (q := q) (a := a) (r := b) clean free sorted
  rw [← State.commitActs_stores all] at acts
  have commits := acts.trans (.updSeq _ c q (·.succeeded b.addr e.next) (SeqState.succeeded_rels ..))
  rw [← State.committed_stores all exit unmarked, acts.abuf] at commits
  have roomy : (s.commitActs c q a b).regionOverflow c q b = false := by
    refine State.regionOverflow_room (n := 0) (filter_issue_stores all) fun h => ?_
    rw [State.ctx, acts.core]
    exact room h
  have straight : ∀ e ∈ b.effects, ∀ n f l, e.2 ≠ .loop n f l := fun e he n f l h => by
    obtain ⟨m, bytes, store⟩ := all e he
    exact Effect.noConfusion (h.symm.trans store)
  have quiet : (s.committed c q a b).bench = false := by
    rw [State.bench, commits.module.host]
    exact idle
  have canonical := (State.core_wf wf c).1
  refine ⟨_, execBlockCommit_commits run act ready straight frames (State.commitHard_stores all clean) roomy quiet, fun x outside => ?_,
    fun i n bytes mem k hk later => ?_, commits.others, ?_⟩
  · rw [commits.abuf]
    exact foldl_storeInto_misses sorted canonical fun e he => outside e ((mem_sortBy ..).1 he)
  · obtain ⟨before, after, split⟩ := List.append_of_mem ((mem_sortBy Prod.fst b.effects).2 mem)
    rw [commits.abuf, split]
    refine foldl_storeInto_last (split ▸ sorted) canonical rfl k hk fun e he m other store => ?_
    have order : ((i, Effect.store n bytes).1) ≤ e.1 := by
      have := sortBy_sorted Prod.fst b.effects
      rw [split] at this
      exact (List.pairwise_cons.1 (List.pairwise_append.1 this).2.1).1 e he
    have different : i ≠ e.1 := by
      have nodup : ((before ++ (i, Effect.store n bytes) :: after).map Prod.fst).Nodup := split ▸ ((sortBy_perm Prod.fst b.effects).map Prod.fst).nodup_iff.2 distinct
      rw [List.map_append, List.map_cons] at nodup
      exact fun same => (List.nodup_cons.1 (List.nodup_append.1 nodup).2.1).1 (List.mem_map.2 ⟨e, he, same.symm⟩)
    have mem' : e ∈ b.effects := (mem_sortBy Prod.fst b.effects).1 (split ▸ List.mem_append_right _ (List.mem_cons_of_mem _ he))
    exact later e.1 m other (store ▸ mem') (lt_of_le_of_ne order different)
  · have ctx : ((s.committed c q a b).ctx c).tiles = (s.ctx c).tiles := by rw [State.ctx, commits.core]
    rw [ctx, commits.core]
    exact ⟨rfl, rfl, rfl, rfl, commits.module.dies, commits.module.dram, commits.module.hostMem⟩

end Sys2Proof.Machine
end

section
/-! SUPPORT. An engine word issued at the commit of its block (R205 step 6, R252, R304, R332, R374): the queue that its command is pushed onto; then the statement O20. -/

namespace Sys2Proof.Machine

variable {s : State} {c : CoreIx} {q : SeqIx} {a : Activation} {r : BlockRun} {n : Nat} {i : Instr} {x y : Word}

/-! ### A command pushed onto a queue with room -/

section
variable {k : EngineCmd}

theorem State.push_copy {ch : ChanIx} (copy : copyChan? k.instr = some ch) (room : (s.ctx c).chans[ch].queue.length < 16) :
    s.push c k = s.updChan c ch fun x => { x with queue := x.queue ++ [k] } := by
  rw [State.push, copy]
  exact if_pos (lt_of_le_of_lt (Nat.sub_le ..) room)

variable (other : copyChan? k.instr = none)
include other

theorem State.push_region (h : k.owner.seq.val < 4) (room : ((s.ctx c).regions[k.owner.seq.val]).queue.length < 16) :
    s.push c k = s.updRegion c ⟨k.owner.seq.val, h⟩ fun x => { x with queue := x.queue ++ [k] } := by
  rw [State.push, other]
  exact (dif_pos h).trans (if_pos room)

theorem State.push_matrix (h : k.owner.seq = 4) (room : (s.ctx c).matrix.queue.length < 16) : s.push c k = s.updMatrix c fun x => { x with queue := x.queue ++ [k] } := by
  rw [State.push, other]
  exact (dif_neg (by rw [h]; decide)).trans ((if_pos h).trans (if_pos room))

theorem State.push_stoch (h : k.owner.seq = 5) (room : (s.ctx c).stoch.queue.length < 16) : s.push c k = s.updStoch c fun x => { x with queue := x.queue ++ [k] } := by
  rw [State.push, other]
  exact (dif_neg (by rw [h]; decide)).trans ((if_neg (by rw [h]; decide)).trans (if_pos room))

end

/-! ### A block with one engine word -/

section
variable (word : r.effects = [(n, .issue i x y)])
include word

theorem commitStep_issue_idle {k : Nat} (hk : k ∈ [2, 3, 4, 5, 7, 8, 9]) : commitStep k c q a r s = s := by
  refine commitStep_idle fun e he u => ?_
  obtain rfl := List.mem_singleton.1 (word ▸ he)
  simp only [List.mem_cons, List.not_mem_nil, or_false] at hk
  rcases hk with rfl | rfl | rfl | rfl | rfl | rfl | rfl <;> rfl

theorem commitStep_issue : commitStep 6 c q a r s = s.push c (s.command c q a r.addr i x y) := by
  rw [commitStep, word]
  rfl

theorem State.commitActs_issue : s.commitActs c q a r = s.updSeq c q (·.written r) := by
  have idle {k : Nat} {u : State} := commitStep_issue_idle (s := u) (c := c) (q := q) (a := a) word (k := k)
  simp only [State.commitActs, List.foldl_cons, List.foldl_nil]
  rw [idle (k := 9) (by decide), idle (k := 5) (by decide), idle (k := 4) (by decide), idle (k := 3) (by decide), idle (k := 2) (by decide)]

/-- The sequencer as its block leaves it. -/
def State.blockLeft (s : State) (c : CoreIx) (q : SeqIx) (r : BlockRun) (next : Option (BitVec 24)) : State := s.updSeq c q fun x => (x.written r).succeeded r.addr next

theorem State.committed_issue {e : ExitTaken} (exit : r.exit = some e) (unmarked : a.mark = false) :
    s.committed c q a r = (s.blockLeft c q r e.next).push c (s.command c q a r.addr i x y) := by
  have idle {k : Nat} {u : State} := commitStep_issue_idle (s := u) (c := c) (q := q) (a := a) word (k := k)
  have command : (s.blockLeft c q r e.next).command c q a r.addr i x y = s.command c q a r.addr i x y := by
    have seq : (s.blockLeft c q r e.next).seq c q = ((s.seq c q).written r).succeeded r.addr e.next := State.seq_updSeq ..
    have ctx : (s.blockLeft c q r e.next).ctx c = { s.ctx c with seqs := ((s.blockLeft c q r e.next).ctx c).seqs } := State.ctx_updSeq ..
    rw [State.command, seq, ctx, State.command]
    cases e.next <;> rfl
  have leaves : (s.commitActs c q a r).afterCommit c q a r = s.blockLeft c q r e.next := by
    rw [State.commitActs_issue word, State.afterCommit_eq exit unmarked]
    exact State.updSeq_updSeq ..
  rw [State.committed, idle (k := 8) (by decide), idle (k := 7) (by decide), leaves, commitStep_issue word, command]

variable (run : (s.seq c q).run = some r) (act : (s.seq c q).act = some a) (ready : r.ready = true) (frames : (s.seq c q).loops.length ≤ 4)
  (space : ∀ h : q.val < 4, ((s.ctx c).regions[q.val]).queue.length < 16)
include run act ready frames space

theorem execBlockCommit_issues {e : ExitTaken} (exit : r.exit = some e) (unmarked : a.mark = false)
    (quiet : ((s.blockLeft c q r e.next).push c (s.command c q a r.addr i x y)).bench = false) :
    exec (.blockCommit c q) s = .next ((s.blockLeft c q r e.next).push c (s.command c q a r.addr i x y)) := by
  have straight : ∀ e ∈ r.effects, ∀ n f l, e.2 ≠ .loop n f l := fun e he n f l h => by
    obtain rfl := List.mem_singleton.1 (word ▸ he)
    exact Effect.noConfusion h
  have sound : s.commitHard c r = none := by rw [State.commitHard, word]; rfl
  have room : (s.commitActs c q a r).regionOverflow c q r = false := by
    refine State.regionOverflow_room (n := 1) (by rw [word]; exact le_rfl) fun h => ?_
    rw [State.commitActs_issue word, State.ctx_updSeq]
    exact space h
  rw [← State.committed_issue word exit unmarked] at quiet ⊢
  exact execBlockCommit_commits run act ready straight frames sound room quiet

end

/-- Settles O20: the command at the end of its engine's queue. -/
theorem commitIssues : Obligations.CommitIssues := by
  unfold Obligations.CommitIssues
  intro s c q b a i x y n run act ready word idle unmarked frames space cmd
  obtain ⟨e, exit⟩ := BlockRun.ready_exit ready
  have issues := execBlockCommit_issues word run act ready frames space exit unmarked
  have ctx : (s.blockLeft c q b e.next).ctx c = { s.ctx c with seqs := ((s.blockLeft c q b e.next).ctx c).seqs } := State.ctx_updSeq ..
  refine ⟨fun ch copy room _ => ?_, fun other h room => ?_, fun other h room => ?_, fun other h room => ?_⟩
  · have pushed : (s.blockLeft c q b e.next).push c cmd = (s.blockLeft c q b e.next).updChan c ch fun x => { x with queue := x.queue ++ [cmd] } :=
      State.push_copy copy (by rw [ctx]; exact room)
    rw [pushed] at issues
    refine ⟨_, issues idle, ?_⟩
    dsimp only
    rw [State.updChan, State.ctx_updCtx, ctx]
    exact congrArg CopyChan.queue (Vector.getElem_set_self ..)
  · have pushed : (s.blockLeft c q b e.next).push c cmd = (s.blockLeft c q b e.next).updRegion c ⟨q.val, h⟩ fun x => { x with queue := x.queue ++ [cmd] } :=
      State.push_region other h (by rw [ctx]; exact room)
    rw [pushed] at issues
    refine ⟨_, issues idle, ?_⟩
    dsimp only
    rw [State.updRegion, State.ctx_updCtx, ctx]
    exact congrArg RegionState.queue (Vector.getElem_set_self ..)
  · have pushed : (s.blockLeft c q b e.next).push c cmd = (s.blockLeft c q b e.next).updMatrix c fun x => { x with queue := x.queue ++ [cmd] } :=
      State.push_matrix other h (by rw [ctx]; exact room)
    rw [pushed] at issues
    refine ⟨_, issues idle, ?_⟩
    dsimp only
    rw [State.updMatrix, State.ctx_updCtx, ctx]
  · have pushed : (s.blockLeft c q b e.next).push c cmd = (s.blockLeft c q b e.next).updStoch c fun x => { x with queue := x.queue ++ [cmd] } :=
      State.push_stoch other h (by rw [ctx]; exact room)
    rw [pushed] at issues
    refine ⟨_, issues idle, ?_⟩
    dsimp only
    rw [State.updStoch, State.ctx_updCtx, ctx]

end Sys2Proof.Machine
end

section
/-! SUPPORT. Waits that end (R239, R243, R248, R313) and key words that are written (R98, R238); then the statements O22 and O23. -/

namespace Sys2Proof.Machine

variable {s t u : State} {c : CoreIx} {q : SeqIx} {b : BlockRun} {w : Waiting} {i : Fin 32}

/-! ### Waits that end -/

/-- A wait that ends without a trap delivers, and that is all. -/
theorem State.wake_delivers {lat : Nat} {v : Word} (run : (s.seq c q).run = some b) (sound : (b.deliver lat w.target v).trap = none) :
    s.wake c q w lat v = s.updRun c q fun b => { b.deliver lat w.target v with waits := b.waits.filter (· != w) } := by
  refine settleTrap_of_noTrap fun k hk => ?_
  rw [State.seq_updRun_run, run] at hk
  cases hk
  exact sound

/-- Settles O22: each wait by what ends it. -/
theorem waitsEnd : Obligations.WaitsEnd := by
  unfold Obligations.WaitsEnd
  intro s c q i b w run waits _ delivers
  refine ⟨fun p x e rho kind sound => ?_, fun u ph cmp wk kind due moved sound => ?_, fun kind due idle keys held sound => ?_, fun l le n kind due meets sound => ?_⟩
  · change execWaitwWake c q i s = _
    rw [execWaitwWake, waits]
    dsimp only
    rw [kind]
    exact congrArg Host.Outcome.next (State.wake_delivers run sound)
  · have ends : (decide (w.wait = 0) && (wk || (!cmp && decide ((s.ctx c).barriers[u].gen ≠ ph)))) = true := by
      rcases moved with rfl | ⟨rfl, moved⟩
      · simp [due]
      · rw [due, decide_eq_true moved, Bool.not_false, Bool.and_true, Bool.or_true]
        rfl
    change execBwaitWake c q i s = _
    rw [execBwaitWake, waits]
    dsimp only
    rw [kind]
    exact (if_pos ends).trans (congrArg Host.Outcome.next (State.wake_delivers run sound))
  · have ends : (decide (w.kind = .fence) && decide (w.wait = 0) && s.fenceClear c q) = true := by simp [kind, due, State.fenceClear, idle, keys, held]
    change execFenceDeliver c q i s = _
    rw [execFenceDeliver, waits]
    exact (if_pos ends).trans (congrArg Host.Outcome.next (State.wake_delivers run sound))
  · have ends : (decide (w.wait = 0) && landMeets n (s.ctx c).landings[l].length le) = true := by
      cases le <;> simpa [due, landMeets] using meets
    change execLwaitWake c q i s = _
    rw [execLwaitWake, waits]
    dsimp only
    rw [kind]
    exact (if_pos ends).trans (congrArg Host.Outcome.next (State.wake_delivers run sound))

/-! ### Places that a sequencer's change leaves -/

theorem State.tiles_updSeq (s : State) (c : CoreIx) (q : SeqIx) (f : SeqState → SeqState) (d : CoreIx) : ((s.updSeq c q f).ctx d).tiles = (s.ctx d).tiles := by
  obtain ⟨-, -, -, -, -, -, -, -, -, -, -, -, -, -, -, -, -, tiles⟩ := s.sameEngines_updSeq c q f d
  exact tiles

theorem State.pantryPhys_congr (h : t.coreLaunch? c = s.coreLaunch? c) (a : Nat) : t.pantryPhys c a = s.pantryPhys c a := by rw [State.pantryPhys, State.pantryPhys, h]

/-! ### The monitors of all cores -/

/-- Every memory and every key write that waits stands: at most waiting instructions have been woken. -/
structure Wakes (s t : State) : Prop where
  buffers : SameBuffers s t
  tiles : ∀ d, (t.ctx d).tiles = (s.ctx d).tiles
  rels : ∀ d p, (t.seq d p).rels = (s.seq d p).rels

theorem Wakes.refl (s : State) : Wakes s s := ⟨⟨.refl s, fun _ => rfl, fun _ => rfl, fun _ => rfl, fun _ => rfl⟩, fun _ => rfl, fun _ _ => rfl⟩

theorem Wakes.trans (h : Wakes s t) (g : Wakes t u) : Wakes s u where
  buffers := h.buffers.trans g.buffers
  tiles d := (g.tiles d).trans (h.tiles d)
  rels d p := (g.rels d p).trans (h.rels d p)

theorem Wakes.of_abufOnly (h : AbufOnly c s t (s.core c).abuf) : Wakes s t := by
  have core (d : CoreIx) : (t.core d).abuf = (s.core d).abuf ∧ (t.core d).wbuf = (s.core d).wbuf ∧ (t.core d).cbuf = (s.core d).cbuf ∧
      (t.core d).blockStore = (s.core d).blockStore ∧ (t.ctx d).tiles = (s.ctx d).tiles ∧ ∀ p, (t.seq d p).rels = (s.seq d p).rels := by
    by_cases hd : d = c
    · subst hd
      have tiles : (t.ctx d).tiles = (s.ctx d).tiles := by rw [State.ctx, h.core]
      rw [h.core]
      exact ⟨rfl, rfl, rfl, rfl, tiles, h.rels⟩
    · simp only [State.seq, State.ctx, h.others d hd, implies_true, and_self]
  exact ⟨⟨h.module, fun d => (core d).1, fun d => (core d).2.1, fun d => (core d).2.2.1, fun d => (core d).2.2.2.1⟩, fun d => (core d).2.2.2.2.1, fun d => (core d).2.2.2.2.2⟩

theorem Wakes.wakeCores (l : List CoreIx) (pantry : Bool) (die : Fin 4) (lo n : Nat) : Wakes s (l.foldl (fun s c => s.wakeCore c pantry die lo n) s) := by
  induction l generalizing s with
  | nil => exact .refl s
  | cons c l ih => exact (of_abufOnly (.wakeCore s c pantry die lo n)).trans ih

/-! ### Key words (R98, R238) -/

/-- The key writes that are due taken off a sequencer. -/
def State.relsTaken (s : State) (c : CoreIx) (q : SeqIx) : State := s.updSeq c q fun x => { x with rels := x.rels.filter fun r => r.left != 0 }

section
variable {pantry : Bool} {a : Nat} {v : Word} {rest : List PendingRel} (head : (s.seq c q).rels = ⟨0, pantry, a, v⟩ :: rest) (early : ∀ r ∈ rest, r.left ≠ 0)
include head early

theorem relsTaken_rels : ((s.relsTaken c q).seq c q).rels = rest := by
  rw [State.relsTaken, State.seq_updSeq]
  dsimp only
  rw [head]
  exact List.filter_eq_self.2 fun r hr => bne_iff_ne.2 (early r hr)

/-- A key word whose tick has come is written, where no memory error stands. -/
theorem execRelKeyWrite_writes (clean : s.ecc = []) :
    exec (.relKeyWrite c q) s = .next ((if pantry then s.relsTaken c q else (s.relsTaken c q).touch c ((s.relsTaken c q).chipByte c (if pantry then 2 else 0) a 0).2.2).chipWrite
      ((s.relsTaken c q).chipByte c (if pantry then 2 else 0) a 0) (leBytes 8 v.toNat) (some (c, q, true))) := by
  have due : (s.seq c q).rels.filter (fun r => r.left == 0) = [⟨0, pantry, a, v⟩] := by
    rw [head, List.filter_cons_of_pos (by rfl), List.filter_eq_nil_iff.2 fun r hr => by simpa using early r hr]
  change execRelKeyWrite c q s = _
  rw [execRelKeyWrite, due]
  refine congrArg Host.Outcome.next ((if_neg (ne_true_of_eq_false (State.badWrite_of_clean (s := s.relsTaken c q) clean ..))).trans ?_)
  have soft (o : Option Launch) (p : Fin 10 × Nat × Nat) : (match o with
      | some l => (s.relsTaken c q).softWrite ((s.relsTaken c q).placeCore l.num c q) none p.1 p.2.1 p.2.2 8
      | none => s.relsTaken c q) = s.relsTaken c q := by
    cases o with
    | none => rfl
    | some l => exact State.softWrite_of_clean (s := s.relsTaken c q) clean ..
  exact congrArg (fun k : State => (if pantry then k else k.touch c _).chipWrite _ (leBytes 8 v.toNat) (some (c, q, true))) (soft _ _)

end

/-- A write to an A-buffer as a chip write, where no memory error stands. -/
theorem State.chipWrite_abuf (clean : s.ecc = []) (c : CoreIx) (phys : Nat) (bytes : List Byte) (who : Option (CoreIx × SeqIx × Bool)) :
    s.chipWrite (1, c.val, phys) bytes who = s.writeA c phys bytes who := by
  have core : (⟨c.val % 64, Nat.mod_lt _ (by decide)⟩ : CoreIx) = c := Fin.ext (Nat.mod_eq_of_lt c.isLt)
  rw [State.chipWrite, State.clearErrors_of_clean clean]
  refine (if_pos rfl).trans ?_
  rw [core]

/-- A write to a Pantry as a chip write, where no memory error stands. -/
theorem State.chipWrite_pantry (clean : s.ecc = []) (d : Fin 4) (phys : Nat) (bytes : List Byte) (who : Option (CoreIx × SeqIx × Bool)) :
    s.chipWrite (5, d.val, phys) bytes who = s.writePantry d phys bytes who := by
  have die : (⟨d.val % 4, Nat.mod_lt _ (by decide)⟩ : Fin 4) = d := Fin.ext (Nat.mod_eq_of_lt d.isLt)
  rw [State.chipWrite, State.clearErrors_of_clean clean]
  have space : (5 : Fin 10) ≠ 1 ∧ (5 : Fin 10) ≠ 2 ∧ (5 : Fin 10) ≠ 3 := by decide
  obtain ⟨a, w, c⟩ := space
  refine (if_neg a).trans ((if_neg w).trans ((if_neg c).trans ?_))
  rw [die]

/-- Bytes put into a die's Pantry. -/
def State.pantryPut (s : State) (d : Fin 4) (phys : Nat) (bytes : List Byte) : State :=
  { s with dies := s.dies.set d { s.dies[d] with pantry := writeBytes s.dies[d].pantry phys bytes } }

/-- A write at a Pantry that no slot holds is made at once. -/
theorem State.writePantry_free {d : Fin 4} (free : s.dies[d].holds = []) (phys : Nat) (bytes : List Byte) (who : Option (CoreIx × SeqIx × Bool)) :
    Wakes (s.pantryPut d phys bytes) (s.writePantry d phys bytes who) := by
  have held : ¬ heldNow s.dies[d].holds (partOf phys) = true := by
    rw [free]
    exact Bool.false_ne_true
  rw [State.writePantry]
  dsimp only
  rw [if_neg held]
  exact .wakeCores ..

/-- The word written reads back. -/
theorem readLE_writeBytes_word {m : Memory} (wf : Memory.wf m = true) (p : Nat) (v : Word) : readLE (writeBytes m p (leBytes 8 v.toNat)) p 8 = v.toNat :=
  (readLE_writeLE wf p 8 v.toNat).trans (Nat.mod_eq_of_lt v.isLt)

theorem State.pantry_wf (h : s.memWf = true) (d : Fin 4) : Memory.wf s.dies[d].pantry = true := by
  simp only [State.memWf, Bool.and_eq_true, List.all_eq_true] at h
  obtain ⟨⟨⟨-, dies⟩, -⟩, -⟩ := h
  exact (dies s.dies[d] (by simp)).1

section
variable {a : Nat} {v : Word} {rest : List PendingRel} (early : ∀ r ∈ rest, r.left ≠ 0) (clean : s.ecc = [])
include early clean

/-- The state in which the key word of an A-buffer is written. -/
theorem relKeyWrite_abuf (head : (s.seq c q).rels = ⟨0, false, a, v⟩ :: rest) (free : (s.core c).bankHolds = []) :
    ∃ t, exec (.relKeyWrite c q) s = .next t ∧ AbufOnly c (s.relsTaken c q) t (writeBytes (s.core c).abuf (s.aPhys c a) (leBytes 8 v.toNat)) := by
  have place : (s.relsTaken c q).chipByte c 0 a 0 = (1, c.val, s.aPhys c a) := congrArg (fun x => (1, c.val, x)) (State.aPhys_congr (State.coreLaunch_updSeq ..) a)
  have touched := AbufOnly.touch (s.relsTaken c q) c (s.aPhys c a)
  have holds : ((s.relsTaken c q).core c).bankHolds = [] := by
    rw [State.relsTaken, State.updSeq, State.core_updCtx]
    exact free
  have bytes : ((s.relsTaken c q).core c).abuf = (s.core c).abuf := (SameBuffers.updSeq ..).abuf c
  have writes := execRelKeyWrite_writes head early clean
  simp only [Bool.false_eq_true, if_false] at writes
  rw [place, State.chipWrite_abuf (touched.module.ecc.trans clean)] at writes
  have written := touched.trans (.writeA (touched.bankHolds.trans holds) (s.aPhys c a) (leBytes 8 v.toNat) (some (c, q, true)))
  rw [touched.abuf, bytes] at written
  exact ⟨_, writes, written⟩

/-- The state in which the key word of a Pantry is written. -/
theorem relKeyWrite_pantry (head : (s.seq c q).rels = ⟨0, true, a, v⟩ :: rest) (free : s.dies[(s.pantryPhys c a).1].holds = []) :
    ∃ t, exec (.relKeyWrite c q) s = .next t ∧ Wakes ((s.relsTaken c q).pantryPut (s.pantryPhys c a).1 (s.pantryPhys c a).2 (leBytes 8 v.toNat)) t := by
  have address : (s.relsTaken c q).pantryPhys c (pantryAdd a 0) = s.pantryPhys c a := by
    rw [pantryAdd_zero]
    exact State.pantryPhys_congr (State.coreLaunch_updSeq ..) a
  have place : (s.relsTaken c q).chipByte c 2 a 0 = (5, (s.pantryPhys c a).1.val, (s.pantryPhys c a).2) :=
    congrArg (fun x : Fin 4 × Nat => (5, x.1.val, x.2)) address
  have writes := execRelKeyWrite_writes head early clean
  simp only [if_true] at writes
  rw [place, State.chipWrite_pantry (s := s.relsTaken c q) clean] at writes
  exact ⟨_, writes, State.writePantry_free (s := s.relsTaken c q) free ..⟩

end

/-- Settles O23: the word in the A-buffer, and the word in the Pantry. -/
theorem keyWrites : Obligations.KeyWrites := by
  unfold Obligations.KeyWrites
  constructor
  · intro s c q a v rest head early clean wf free
    obtain ⟨t, writes, only⟩ := relKeyWrite_abuf early clean head free
    have canonical := (State.core_wf wf c).1
    have others (d : CoreIx) (hd : d ≠ c) : t.core d = s.core d := (only.others d hd).trans (s.core_updCtx_ne c d _ hd)
    have tiles : (t.ctx c).tiles = (s.ctx c).tiles := by rw [State.ctx, only.core, State.relsTaken, State.ctx_updSeq]
    have buffers : SameBuffers s (s.relsTaken c q) := .updSeq ..
    refine ⟨t, writes, (only.rels q).trans (relsTaken_rels head early), ?_, fun x outside => ?_, others, ?_, ?_, ?_, tiles, only.module.dies, only.module.dram, only.module.hostMem⟩
    · rw [only.abuf]
      exact readLE_writeBytes_word canonical ..
    · rw [only.abuf]
      exact readByte_writeBytes_outside canonical (by rwa [leBytes_length])
    all_goals rw [only.core]
    · exact buffers.wbuf c
    · exact buffers.cbuf c
    · exact buffers.blockStore c
  · intro s c q a v rest head early clean wf p free
    obtain ⟨t, writes, woken⟩ := relKeyWrite_pantry early clean head free
    have canonical := State.pantry_wf wf p.1
    have taken : SameBuffers s (s.relsTaken c q) := .updSeq ..
    have dies : t.dies = s.dies.set p.1 { s.dies[p.1] with pantry := writeBytes s.dies[p.1].pantry p.2 (leBytes 8 v.toNat) } := woken.buffers.module.dies
    have here : t.dies[p.1] = { s.dies[p.1] with pantry := writeBytes s.dies[p.1].pantry p.2 (leBytes 8 v.toNat) } := by
      rw [dies]
      exact Vector.getElem_set_self ..
    have stands (d : CoreIx) : ((s.relsTaken c q).ctx d).tiles = (s.ctx d).tiles := State.tiles_updSeq ..
    have tiles (d : CoreIx) : (t.ctx d).tiles = (s.ctx d).tiles := (woken.tiles d).trans (stands d)
    refine ⟨t, writes, (woken.rels c q).trans (relsTaken_rels head early), ?_, fun x outside => ?_, fun d hd => ?_, ?_,
      fun d => ⟨(woken.buffers.abuf d).trans (taken.abuf d), (woken.buffers.wbuf d).trans (taken.wbuf d), (woken.buffers.cbuf d).trans (taken.cbuf d),
        (woken.buffers.blockStore d).trans (taken.blockStore d), tiles d⟩, woken.buffers.module.dram, woken.buffers.module.hostMem⟩
    · rw [here]
      exact readLE_writeBytes_word canonical ..
    · rw [here]
      exact readByte_writeBytes_outside canonical (by rwa [leBytes_length])
    · rw [dies]
      exact Vector.getElem_set_ne _ _ fun same => hd (Fin.ext same.symm)
    · rw [here]

end Sys2Proof.Machine
end

section
/-! SUPPORT. One barrier unit and its arrivals (R240, R241); then the statement O24. -/

namespace Sys2Proof.Machine

variable {s t k : State} {c : CoreIx} {q : SeqIx} {u : Fin 64} {y z : Barrier}

/-! ### What changes one barrier unit -/

/-- Only one barrier unit of a core has changed, the arrivals that the core holds, and what its sequencers know of the unit. -/
structure UnitOnly (c : CoreIx) (u : Fin 64) (s t : State) (y : Barrier) : Prop where
  module : SameModule s t
  trace : t.tr = s.tr
  others : ∀ d, d ≠ c → t.core d = s.core d
  core : t.core c = { s.core c with arrivals := (t.core c).arrivals, ctx := { s.ctx c with seqs := (t.ctx c).seqs, barriers := (s.ctx c).barriers.set u y } }

theorem UnitOnly.barriers (h : UnitOnly c u s t y) : (t.ctx c).barriers = (s.ctx c).barriers.set u y := by rw [State.ctx, h.core]

theorem UnitOnly.unit (h : UnitOnly c u s t y) : (t.ctx c).barriers[u] = y := by
  rw [h.barriers]
  exact Vector.getElem_set_self ..

theorem UnitOnly.units (h : UnitOnly c u s t y) {v : Fin 64} (hv : v ≠ u) : (t.ctx c).barriers[v] = (s.ctx c).barriers[v] := by
  rw [h.barriers]
  exact Vector.getElem_set_ne _ _ fun same => hv (Fin.ext same.symm)

theorem UnitOnly.trans (h : UnitOnly c u s t y) (g : UnitOnly c u t k z) : UnitOnly c u s k z where
  module := h.module.trans g.module
  trace := g.trace.trans h.trace
  others d hd := (g.others d hd).trans (h.others d hd)
  core := by
    have second := g.core
    rw [h.barriers, Vector.set_set, State.ctx, h.core] at second
    exact second

theorem UnitOnly.memory (h : UnitOnly c u s t y) : s.sameMemory t := by
  have buffers (d : CoreIx) : (t.core d).abuf = (s.core d).abuf ∧ (t.core d).wbuf = (s.core d).wbuf ∧ (t.core d).cbuf = (s.core d).cbuf ∧
      (t.core d).blockStore = (s.core d).blockStore ∧ (t.ctx d).tiles = (s.ctx d).tiles := by
    by_cases hd : d = c
    · subst hd
      have tiles : (t.ctx d).tiles = (s.ctx d).tiles := by rw [State.ctx, h.core]
      rw [h.core]
      exact ⟨rfl, rfl, rfl, rfl, tiles⟩
    · simp only [State.ctx, h.others d hd, and_self]
  refine ⟨fun d a => ?_, fun d a => ?_, fun d a => ?_, fun d a => ?_, fun d a => ?_, fun d a => ?_, fun d a => ?_, fun a => ?_, fun a => ?_⟩
  · rw [(buffers d).1]
  · rw [(buffers d).2.1]
  · rw [(buffers d).2.2.1]
  · rw [(buffers d).2.2.2.1]
  · rw [(buffers d).2.2.2.2]
  · rw [h.module.dies]
  · rw [h.module.dies]
  · rw [h.module.dram]
  · rw [h.module.hostMem]

/-- A change of a core that leaves all but the unit, the arrivals and the sequencers. -/
theorem UnitOnly.updCore {f : CoreState → CoreState}
    (keeps : f (s.core c) = { s.core c with arrivals := (f (s.core c)).arrivals, ctx := { s.ctx c with seqs := (f (s.core c)).ctx.seqs, barriers := (s.ctx c).barriers.set u y } }) :
    UnitOnly c u s (s.updCore c f) y where
  module := ⟨rfl, rfl, rfl, rfl, rfl, rfl, rfl, rfl, rfl, rfl⟩
  trace := rfl
  others d hd := State.core_updCore_ne _ _ _ _ hd
  core := by
    have after : (s.updCore c f).ctx c = (f (s.core c)).ctx := congrArg CoreState.ctx (s.core_updCore c f)
    rw [after, State.core_updCore]
    exact keeps

/-- A change that leaves the unit as it stands. -/
theorem UnitOnly.updCore_same {f : CoreState → CoreState}
    (keeps : f (s.core c) = { s.core c with arrivals := (f (s.core c)).arrivals, ctx := { s.ctx c with seqs := (f (s.core c)).ctx.seqs } }) :
    UnitOnly c u s (s.updCore c f) (s.ctx c).barriers[u] :=
  .updCore (keeps.trans (by rw [Fin.getElem_fin, Vector.set_getElem_self]))

/-! ### Arrivals at a unit (R240) -/

variable {x : CoreCtx} {n : Nat}

/-- Arrivals change their unit, and the waits of the core's blocks. -/
theorem CoreCtx.arriveAt_eq (x : CoreCtx) (u : Fin 64) (n : Nat) :
    x.arriveAt u n = { x with seqs := (x.arriveAt u n).seqs, barriers := x.barriers.set u (x.barriers[u].apply n).2 } := by
  unfold CoreCtx.arriveAt
  dsimp only
  split <;> rfl

/-- A sequencer keeps all but its running block. -/
theorem CoreCtx.arriveAt_seq (x : CoreCtx) (u : Fin 64) (n : Nat) (p : SeqIx) : ∃ run, (x.arriveAt u n).seqs[p] = { x.seqs[p] with run := run } := by
  unfold CoreCtx.arriveAt
  dsimp only
  split
  · exact ⟨_, rfl⟩
  · rw [Fin.getElem_fin, Vector.getElem_map]
    exact ⟨_, rfl⟩

theorem UnitOnly.arriveAt (s : State) (c : CoreIx) (u : Fin 64) (n : Nat) : UnitOnly c u s (s.updCtx c fun x => x.arriveAt u n) ((s.ctx c).barriers[u].apply n).2 :=
  .updCore (congrArg (fun x : CoreCtx => { s.core c with ctx := x }) ((s.ctx c).arriveAt_eq u n))

/-- A unit after one arrival. -/
theorem Barrier.apply_one (x : Barrier) :
    ((x.apply 1).2.target = x.target) ∧ (x.target = 0 → (x.apply 1).2.count = 0 ∧ (x.apply 1).2.gen = x.gen) ∧
    (x.count.toNat + 1 = x.target.toNat → (x.apply 1).2.count = 0 ∧ (x.apply 1).2.gen = x.gen + 1) ∧
    (x.count.toNat + 1 < x.target.toNat → (x.apply 1).2.count = x.count + 1 ∧ (x.apply 1).2.gen = x.gen) := by
  by_cases off : x.target = 0
  · have idle : (x.apply 1).2 = { x with count := 0 } := by rw [Barrier.apply, if_pos off]
    rw [idle, off]
    exact ⟨off.symm ▸ rfl, fun _ => ⟨rfl, rfl⟩, fun h => absurd h (Nat.succ_ne_zero _), fun h => absurd h (Nat.not_lt_zero _)⟩
  · have counts : (x.apply 1).2 = { x with gen := x.gen + BitVec.ofNat 8 ((x.count.toNat + 1) / x.target.toNat), count := BitVec.ofNat 8 ((x.count.toNat + 1) % x.target.toNat) } := by
      rw [Barrier.apply, if_neg off]
    rw [counts]
    refine ⟨rfl, fun h => absurd h off, fun full => ?_, fun more => ?_⟩
    · have positive : 0 < x.target.toNat := by omega
      simp only [full, Nat.mod_self, Nat.div_self positive]
      exact ⟨rfl, rfl⟩
    · simp only [Nat.mod_eq_of_lt more, Nat.div_eq_of_lt more]
      exact ⟨BitVec.eq_of_toNat_eq (by simp), BitVec.add_zero _⟩

/-! ### An arrival that has come -/

section
variable {l : Launch} {n : Nat} (arrivals : (s.core c).arrivals = [⟨0, false, l.num, n, u, 1⟩]) (launch : s.coreLaunch? c = some l) (here : l.num = (s.core c).launch)
  (thawed : l.frozen = false) (stays : (s.core c).swap = none) (replayed : (s.core c).mailLen = 0) (home : (s.core c).attic = none)
include launch here thawed stays replayed in
theorem arrivalLive_now : s.arrivalLive c ⟨0, false, l.num, n, u, 1⟩ = true := by
  rw [State.arrivalLive, launch]
  simp [here, thawed, stays, replayed]

include stays replayed home in
theorem arrivalStored_never : s.arrivalStored c ⟨0, false, l.num, n, u, 1⟩ = false := by
  rw [State.arrivalStored]
  simp [stays, replayed, home]

/-- An arrival applied is marked. -/
def CoreState.arrived (k : CoreState) (a : Arrival) : CoreState := { k with arrivals := [{ a with done := true }] }

include arrivals launch here thawed stays replayed home in
theorem execBarrierArrival_applies : exec (.barrierArrival c u) s = .next ((s.updCore c (·.arrived ⟨0, false, l.num, n, u, 1⟩)).updCtx c fun x => x.arriveAt u 1) := by
  have reached : ((s.core c).arrivals.filter fun a => a.unit == u) = [⟨0, false, l.num, n, u, 1⟩] := by
    rw [arrivals]
    simp
  have live : [(⟨0, false, l.num, n, u, 1⟩ : Arrival)].filter (s.arrivalLive c) = [⟨0, false, l.num, n, u, 1⟩] := by
    rw [List.filter_cons_of_pos (arrivalLive_now launch here thawed stays replayed), List.filter_nil]
  have stored : [(⟨0, false, l.num, n, u, 1⟩ : Arrival)].filter (s.arrivalStored c) = [] := by
    rw [List.filter_cons_of_neg (ne_true_of_eq_false (arrivalStored_never stays replayed home)), List.filter_nil]
  have marked : (((s.core c).arrivals.filter fun a => !(([] : List Arrival).contains a)).map fun a =>
      if ([⟨0, false, l.num, n, u, 1⟩] : List Arrival).contains a then { a with done := true } else a) = [⟨0, true, l.num, n, u, 1⟩] := by
    rw [arrivals]
    simp
  change execBarrierArrival c u s = _
  rw [execBarrierArrival, reached, live, stored]
  exact congrArg (fun xs : List Arrival => Host.Outcome.next ((s.setCore c { s.core c with arrivals := xs }).updCtx c fun x => x.arriveAt u 1)) marked

end

/-! ### A configuration written (R241) -/

/-- A sequencer that has written SQ_BARCFG. -/
def SeqState.barred (x : SeqState) (v : Word) : SeqState := { x with barTarget := v.extractLsb' 8 8, barUnit := v.setWidth 6 }

/-- The unit that a written configuration names. -/
def barUnitOf (v : Word) : Fin 64 := (v.setWidth 6).toFin

/-- A unit as it is configured. -/
def Barrier.configured (b : Barrier) (v : Word) : Barrier := { b with target := v.extractLsb' 8 8, count := 0 }

section
variable (s : State) (c : CoreIx) (q : SeqIx) (v : Word)

theorem writeCr_barrier : s.writeCr c q 0x00A v =
    (s.updSeq c q (·.barred v)).updCtx c fun x => { x with barriers := x.barriers.set (barUnitOf v) (x.barriers[barUnitOf v].configured v) } := rfl

theorem UnitOnly.writeCr : UnitOnly c (barUnitOf v) s (s.writeCr c q 0x00A v) ((s.ctx c).barriers[barUnitOf v].configured v) := by
  have seq : UnitOnly c (barUnitOf v) s (s.updSeq c q (·.barred v)) (s.ctx c).barriers[barUnitOf v] := by
    rw [State.updSeq, State.updCtx]
    exact .updCore_same rfl
  have unit : UnitOnly c (barUnitOf v) (s.updSeq c q (·.barred v)) (s.writeCr c q 0x00A v) (((s.updSeq c q (·.barred v)).ctx c).barriers[barUnitOf v].configured v) := by
    rw [writeCr_barrier, State.updCtx]
    exact .updCore rfl
  rw [seq.unit] at unit
  exact seq.trans unit

theorem writeCr_barrier_seq : ((s.writeCr c q 0x00A v).seq c q) = (s.seq c q).barred v := by
  rw [writeCr_barrier, State.seq_updCtx, State.seq_updSeq]
  exact fun _ => rfl

/-- The arrivals of the present tick that the unit has counted. -/
def State.taken (s : State) (c : CoreIx) (v : Word) : List Arrival := (s.core c).arrivals.filter fun a => a.done && a.unit == barUnitOf v

/-- How many they are. -/
def State.takenSum (s : State) (c : CoreIx) (v : Word) : Nat := ((s.taken c v).map (·.count.toNat)).sum

/-- The unit as it was before them. -/
def State.unitBefore (s : State) (c : CoreIx) (v : Word) : State :=
  s.updCtx c fun x => { x with barriers := x.barriers.set (barUnitOf v) (x.barriers[barUnitOf v].before (s.takenSum c v)) }

theorem UnitOnly.unitBefore : UnitOnly c (barUnitOf v) s (s.unitBefore c v) ((s.ctx c).barriers[barUnitOf v].before (s.takenSum c v)) := by
  rw [State.unitBefore, State.updCtx]
  exact .updCore rfl

theorem configure_alone (none : s.taken c v = []) : s.configure c q 0x00A v = s.writeCr c q 0x00A v := by
  have empty : (s.taken c v).isEmpty = true := by rw [none]; rfl
  rw [State.configure]
  exact if_pos (Bool.or_eq_true_iff.2 (.inr empty))

theorem configure_recounts (some : s.taken c v ≠ []) :
    s.configure c q 0x00A v = ((s.unitBefore c v).writeCr c q 0x00A v).updCtx c fun x => x.arriveAt (barUnitOf v) (s.takenSum c v) := by
  have full : ¬ (decide ((0x00A : Nat) ≠ 0x00A) || (s.taken c v).isEmpty) = true := fun h => some (List.isEmpty_iff.1 h)
  rw [State.configure]
  exact if_neg full

end

/-- A unit just configured, after arrivals. -/
theorem Barrier.configured_apply (b : Barrier) (v : Word) (n : Nat) : ((b.configured v).apply n).2 =
    { target := v.extractLsb' 8 8, count := BitVec.ofNat 8 (if v.extractLsb' 8 8 = 0 then 0 else n % (v.extractLsb' 8 8).toNat),
      gen := b.gen + BitVec.ofNat 8 (n / (v.extractLsb' 8 8).toNat) } := by
  rw [Barrier.apply, Barrier.configured]
  dsimp only
  split
  · next off =>
    rw [off]
    simp
  · next on => simp

/-- What a written configuration leaves of its unit. -/
def Barrier.barred (b : Barrier) (v : Word) (taken : List Arrival) : Barrier :=
  if taken = [] then b.configured v else (((b.before (taken.map (·.count.toNat)).sum).configured v).apply (taken.map (·.count.toNat)).sum).2

/-- A configuration changes its unit, and the sequencer's SQ_BARCFG. -/
theorem configure_unit (s : State) (c : CoreIx) (q : SeqIx) (v : Word) :
    UnitOnly c (barUnitOf v) s (s.configure c q 0x00A v) ((s.ctx c).barriers[barUnitOf v].barred v (s.taken c v)) ∧
    ∃ run, (s.configure c q 0x00A v).seq c q = { (s.seq c q).barred v with run := run } := by
  by_cases none : s.taken c v = []
  · rw [configure_alone _ _ _ _ none, Barrier.barred, if_pos none, writeCr_barrier_seq]
    exact ⟨.writeCr .., _, rfl⟩
  · have before := UnitOnly.unitBefore s c v
    have written := UnitOnly.writeCr (s.unitBefore c v) c q v
    have counted := UnitOnly.arriveAt ((s.unitBefore c v).writeCr c q 0x00A v) c (barUnitOf v) (s.takenSum c v)
    rw [before.unit] at written
    rw [written.unit] at counted
    obtain ⟨run, kept⟩ := CoreCtx.arriveAt_seq (((s.unitBefore c v).writeCr c q 0x00A v).ctx c) (barUnitOf v) (s.takenSum c v) q
    have seq : (s.unitBefore c v).seq c q = s.seq c q := State.seq_updCtx _ _ _ _ fun _ => rfl
    rw [configure_recounts _ _ _ _ none, Barrier.barred, if_neg none]
    refine ⟨before.trans (written.trans counted), run, ?_⟩
    rw [State.seq, State.ctx_updCtx, kept, ← seq, ← writeCr_barrier_seq]
    rfl

/-- The fields of the unit. -/
theorem Barrier.barred_fields (b : Barrier) (v : Word) (taken : List Arrival) :
    (b.barred v taken).target = v.extractLsb' 8 8 ∧ (taken = [] → (b.barred v taken).count = 0 ∧ (b.barred v taken).gen = b.gen) ∧
    (v.extractLsb' 8 8 = 0 → (b.barred v taken).count = 0) ∧
    (v.extractLsb' 8 8 ≠ 0 → (b.barred v taken).count.toNat = (taken.map (·.count.toNat)).sum % (v.extractLsb' 8 8).toNat) ∧
    (taken ≠ [] → (b.barred v taken).gen =
      (b.before (taken.map (·.count.toNat)).sum).gen + BitVec.ofNat 8 ((taken.map (·.count.toNat)).sum / (v.extractLsb' 8 8).toNat)) := by
  by_cases none : taken = []
  · rw [Barrier.barred, if_pos none, none]
    exact ⟨rfl, fun _ => ⟨rfl, rfl⟩, fun _ => rfl, fun _ => (Nat.zero_mod _).symm, fun some => absurd rfl some⟩
  · rw [Barrier.barred, if_neg none, Barrier.configured_apply]
    refine ⟨rfl, fun empty => absurd empty none, fun off => by rw [if_pos off]; rfl, fun on => ?_, fun _ => rfl⟩
    have positive : 0 < (v.extractLsb' 8 8).toNat := Nat.pos_of_ne_zero fun h => on (BitVec.eq_of_toNat_eq h)
    have bound := Nat.mod_lt (taken.map (·.count.toNat)).sum positive
    dsimp only
    rw [if_neg on, BitVec.toNat_ofNat, Nat.mod_eq_of_lt (bound.trans (v.extractLsb' 8 8).isLt)]

/-- Settles O24: an arrival at its unit, and a unit configured among arrivals. -/
theorem barrierUnits : Obligations.BarrierUnits := by
  unfold Obligations.BarrierUnits
  refine ⟨fun s c u n l arrivals launch here thawed stays replayed home => ?_, fun s c q v => ?_⟩
  · have marked : UnitOnly c u s (s.updCore c (·.arrived ⟨0, false, l.num, n, u, 1⟩)) (s.ctx c).barriers[u] := .updCore_same rfl
    have counted := UnitOnly.arriveAt (s.updCore c (·.arrived ⟨0, false, l.num, n, u, 1⟩)) c u 1
    rw [marked.unit] at counted
    have only := marked.trans counted
    obtain ⟨target, off, full, more⟩ := (s.ctx c).barriers[u].apply_one
    refine ⟨_, execBarrierArrival_applies arrivals launch here thawed stays replayed home, ?_⟩
    dsimp only
    rw [only.unit]
    refine ⟨?_, target, off, full, more, fun v hv => only.units hv, only.module, only.trace, only.memory, only.others⟩
    rw [State.updCtx, State.core_updCore, State.core_updCore]
    rfl
  · obtain ⟨only, run, seq⟩ := configure_unit s c q v
    obtain ⟨target, alone, off, on, recounted⟩ := (s.ctx c).barriers[barUnitOf v].barred_fields v (s.taken c v)
    have answers : exec (.barrierConfig c q v) s = .next (s.configure c q 0x00A v) := rfl
    refine ⟨_, answers, ?_⟩
    dsimp only
    rw [seq]
    have unit := only.unit
    refine ⟨?_, ?_, ?_, ?_, ?_, rfl, rfl, rfl, fun n hn => only.units hn, only.module, only.trace, only.memory, only.others⟩
    · exact (congrArg Barrier.target unit).trans target
    · exact fun none => ⟨(congrArg Barrier.count unit).trans (alone none).1, (congrArg Barrier.gen unit).trans (alone none).2⟩
    · exact fun h => (congrArg Barrier.count unit).trans (off h)
    · exact fun h => (congrArg (·.count.toNat) unit).trans (on h)
    · exact fun h => (congrArg Barrier.gen unit).trans (recounted h)

end Sys2Proof.Machine
end

section
/-! SUPPORT. What a written control register reads as (R214, R215, R227, R241, R327, R329, R362, R395, R459); then the statement O21. -/

namespace Sys2Proof.Machine

variable {s : State} {c : CoreIx} {q : SeqIx} {v : Word} {n : Nat}

/-! ### Numbers that no write changes -/

/-- The register has no field that software writes. -/
def crFixed (n : Nat) : Bool :=
  !(([0x000, 0x004, 0x008, 0x009, 0x00A, 0x104, 0x203, 0x302, 0x304, 0x500] : List Nat).contains n) &&
    !(decide (0x210 ≤ n) && decide (n ≤ 0x21F)) && !(decide (0x310 ≤ n) && decide (n ≤ 0x31F))

theorem writeCr_fixed (h : crFixed n = true) : s.writeCr c q n v = s := by
  unfold State.writeCr
  dsimp only
  split
  case h_11 =>
    rw [crFixed, Bool.and_eq_true, Bool.and_eq_true, Bool.not_eq_true', Bool.not_eq_true', Bool.not_eq_true'] at h
    obtain ⟨⟨-, tcfg⟩, counts⟩ := h
    rw [if_neg (ne_true_of_eq_false tcfg), if_neg (ne_true_of_eq_false counts)]
  all_goals cases h

/-! ### TCFG and the counts -/

theorem writeCr_tcfg {k : Nat} (h : k < 16) :
    s.writeCr c q (0x210 + k) v = s.updMatrix c fun m => { m with tcfg := vecMap m.tcfg fun i x => if i = k then v.setWidth 19 else x } := by
  have inside : (decide (0x210 ≤ 0x210 + k) && decide (0x210 + k ≤ 0x21F)) = true := by simp; omega
  unfold State.writeCr
  dsimp only
  split
  case h_11 => rw [if_pos inside, Nat.add_sub_cancel_left]
  all_goals omega

theorem writeCr_count {k : Nat} (h : k < 16) :
    s.writeCr c q (0x310 + k) v = s.updStoch c fun x => { x with counts := vecMap x.counts fun i y => if i = k && !x.cntNew.getLsbD i then v.setWidth 32 else y } := by
  have outside : ¬ (decide (0x210 ≤ 0x310 + k) && decide (0x310 + k ≤ 0x21F)) = true := by simp; omega
  have inside : (decide (0x310 ≤ 0x310 + k) && decide (0x310 + k ≤ 0x31F)) = true := by simp; omega
  unfold State.writeCr
  dsimp only
  split
  case h_11 => rw [if_neg outside, if_pos inside, Nat.add_sub_cancel_left]
  all_goals omega

theorem vecMap_toList_getD {α : Type} {m k : Nat} (x : Vector α m) (f : Nat → α → α) (h : k < m) (d : α) : (vecMap x f).toList.getD k d = f k x[k] := by
  rw [List.getD_eq_getElem _ _ (by simpa using h)]
  simp [vecMap]

/-! ### Reading by chapters -/

theorem readCr_mx {k : Nat} (h : k < 256) : s.readCr c q (0x200 + k) = w64 (s.readMx c (0x200 + k)) := by
  unfold State.readCr
  exact congrArg w64 ((if_neg (by omega)).trans ((if_neg (by omega)).trans (if_pos (by omega))))

theorem readCr_ss {k : Nat} (h : k < 256) : s.readCr c q (0x300 + k) = w64 (s.readSs c (0x300 + k)) := by
  unfold State.readCr
  exact congrArg w64 ((if_neg (by omega)).trans ((if_neg (by omega)).trans ((if_neg (by omega)).trans (if_pos (by omega)))))

theorem readMx_tcfg {k : Nat} (h : k < 16) : s.readMx c (0x210 + k) = ((s.ctx c).matrix.tcfg.toList.getD k 0).toNat := by
  have inside : (decide (0x210 ≤ 0x210 + k) && decide (0x210 + k ≤ 0x21F)) = true := by simp; omega
  unfold State.readMx
  dsimp only
  split
  case h_7 => rw [if_pos inside, Nat.add_sub_cancel_left]
  all_goals omega

theorem readSs_count {k : Nat} (h : k < 16) : s.readSs c (0x310 + k) = ((s.ctx c).stoch.counts.toList.getD k 0).toNat := by
  have inside : (decide (0x310 ≤ 0x310 + k) && decide (0x310 + k ≤ 0x31F)) = true := by simp; omega
  unfold State.readSs
  dsimp only
  split
  case h_8 => rw [if_pos inside, Nat.add_sub_cancel_left]
  all_goals omega

/-! ### A write and the read of its register -/

/-- What a register reads after it has been written. -/
def crReadBack (s : State) (c : CoreIx) (q : SeqIx) (n : Nat) (v : Word) : Word := (s.writeCr c q n v).readCr c q n

theorem crReadBack_key : crReadBack s c q 0x008 v = v := by
  have read : crReadBack s c q 0x008 v = w64 ((s.updSeq c q fun x => { x with rkey := v }).seq c q).rkey.toNat := rfl
  rw [read, State.seq_updSeq, w64, BitVec.ofNat_toNat, BitVec.setWidth_eq]

theorem crReadBack_hash : crReadBack s c q 0x500 v = v := by
  have read : crReadBack s c q 0x500 v = w64 ((s.updSeq c q fun x => { x with trHash := v }).seq c q).trHash.toNat := rfl
  rw [read, State.seq_updSeq, w64, BitVec.ofNat_toNat, BitVec.setWidth_eq]

theorem crReadBack_layer : crReadBack s c q 0x009 v = w64 (v.toNat % 2 ^ 16) := by
  have read : crReadBack s c q 0x009 v = w64 ((s.updSeq c q fun x => { x with rlayer := v.setWidth 16 }).seq c q).rlayer.toNat := rfl
  rw [read, State.seq_updSeq, BitVec.toNat_setWidth]

theorem crReadBack_idx : crReadBack s c q 0x104 v = w64 (if q.val < 4 then v.toNat % 2 ^ 48 else 0) := by
  have read : crReadBack s c q 0x104 v = w64 (if q.val < 4 then ((s.updSeq c q fun x => { x with fbIdx := v.setWidth 48 }).seq c q).fbIdx.toNat else 0) := by
    by_cases h : q.val < 4
    · rw [if_pos h]
      exact congrArg w64 (dif_pos h)
    · rw [if_neg h]
      exact congrArg w64 (dif_neg h)
  rw [read, State.seq_updSeq, BitVec.toNat_setWidth]

theorem crReadBack_ownsel : crReadBack s c q 0x203 v = w64 (v.toNat % 2 ^ 5) := by
  have read : crReadBack s c q 0x203 v = w64 ((s.updMatrix c fun m => { m with ownsel := v.setWidth 5 }).ctx c).matrix.ownsel.toNat := rfl
  rw [read, State.updMatrix, State.ctx_updCtx, BitVec.toNat_setWidth]

theorem crReadBack_ssel : crReadBack s c q 0x302 v = w64 (v.toNat % 2 ^ 6) := by
  have read : crReadBack s c q 0x302 v = w64 ((s.updStoch c fun x => { x with ssel := v.setWidth 6 }).ctx c).stoch.ssel.toNat := rfl
  rw [read, State.updStoch, State.ctx_updCtx, BitVec.toNat_setWidth]

theorem crReadBack_gsel : crReadBack s c q 0x304 v = w64 (v.toNat % 2 ^ 4) := by
  have read : crReadBack s c q 0x304 v = w64 ((s.updStoch c fun x => { x with gsel := v.setWidth 4 }).ctx c).stoch.gsel.toNat := rfl
  rw [read, State.updStoch, State.ctx_updCtx, BitVec.toNat_setWidth]

theorem crReadBack_barrier : crReadBack s c q 0x00A v = w64 (v.toNat / 2 ^ 8 % 2 ^ 8 * 2 ^ 8 + v.toNat % 2 ^ 6) := by
  have read : crReadBack s c q 0x00A v = w64 (((s.writeCr c q 0x00A v).seq c q).barTarget.toNat * 2 ^ 8 + ((s.writeCr c q 0x00A v).seq c q).barUnit.toNat) := rfl
  rw [read, writeCr_barrier_seq, SeqState.barred, BitVec.extractLsb'_toNat, BitVec.toNat_setWidth, Nat.shiftRight_eq_div_pow]

theorem crReadBack_tcfg {k : Nat} (h : k < 16) : crReadBack s c q (0x210 + k) v = w64 (v.toNat % 2 ^ 19) := by
  have read := readCr_mx (s := s.writeCr c q (0x210 + k) v) (c := c) (q := q) (k := 0x10 + k) (by omega)
  rw [← Nat.add_assoc, readMx_tcfg h, writeCr_tcfg h, State.updMatrix, State.ctx_updCtx] at read
  dsimp only at read
  rw [vecMap_toList_getD _ _ h, if_pos rfl, BitVec.toNat_setWidth] at read
  exact (congrArg (State.readCr · c q (0x210 + k)) (writeCr_tcfg h)).trans read

theorem crReadBack_count {k : Nat} (h : k < 16) (counted : (s.ctx c).stoch.cntNew.getLsbD k = false) : crReadBack s c q (0x310 + k) v = w64 (v.toNat % 2 ^ 32) := by
  have read := readCr_ss (s := s.writeCr c q (0x310 + k) v) (c := c) (q := q) (k := 0x10 + k) (by omega)
  rw [← Nat.add_assoc, readSs_count h, writeCr_count h, State.updStoch, State.ctx_updCtx] at read
  dsimp only at read
  rw [vecMap_toList_getD _ _ h, if_pos (by rw [counted]; simp), BitVec.toNat_setWidth] at read
  exact (congrArg (State.readCr · c q (0x310 + k)) (writeCr_count h)).trans read

/-- Settles O21: the registers one by one, those without a field, and the bits that a written one clears. -/
theorem controlRegisterWrites : Obligations.ControlRegisterWrites := by
  unfold Obligations.ControlRegisterWrites
  intro s c q v reads
  have whole : v = BitVec.ofNat 64 v.toNat := BitVec.eq_of_toNat_eq (by rw [BitVec.toNat_ofNat, Nat.mod_eq_of_lt v.isLt])
  refine ⟨crReadBack_key.trans whole, crReadBack_hash.trans whole, crReadBack_layer, crReadBack_idx, crReadBack_ownsel, crReadBack_ssel, crReadBack_gsel, crReadBack_barrier,
    fun k h => crReadBack_tcfg h, fun k h counted => crReadBack_count h counted, fun n hn => writeCr_fixed ?_, ?_⟩
  · exact (by decide : ∀ n ∈ [0x001, 0x002, 0x003, 0x005, 0x006, 0x007, 0x00B, 0x100, 0x101, 0x102, 0x103, 0x105, 0x200, 0x201, 0x202, 0x204, 0x205, 0x300, 0x301, 0x303,
      0x305, 0x306, 0x400, 0x401, 0x402, 0x403, 0x501, 0x502, 0x503, 0x504, 0x505, 0x506, 0x507, 0x508], crFixed n = true) n hn
  · have clears : (s.writeCr c q 0 v).seq c q =
        { s.seq c q with trapped := (s.seq c q).trapped && !v.getLsbD 3, overrun := (s.seq c q).overrun && !v.getLsbD 2, killed := (s.seq c q).killed && !v.getLsbD 1 } :=
      State.seq_updSeq ..
    rw [clears]
    exact ⟨rfl, rfl, rfl⟩

end Sys2Proof.Machine
end

section
/-! SUPPORT. Words that are issued to an engine (R252, R259, R305, R306, R337, R379): each is the one operation that issues at the commit, with the slots of its form; then the statement O12. -/

namespace Sys2Proof.Machine

variable {s : State} {b : BlockRun} {p : Pred} {i : Instr} {l r : Bool} {x y z : Word}

/-- A word that issues, as it fires: its engine takes it, with its operands, at the commit of its block. -/
theorem Issues.word (h : Fires s b p l r false x y z) (runs : exec i s = fireIssue p l r i s) : Issues s i x y := runs.trans (fireIssue_fires h)

/-- Settles O12: each word is issued with the slots that its form has. -/
theorem engineWords : Obligations.EngineWords := by
  unfold Obligations.EngineWords
  refine ⟨⟨fun s b p ch d x y h => ?copies, fun s b p ch d y h => ?cpbind, fun s b p x h => ?regionOperand, fun s b p h => ?region⟩,
    ⟨fun s b p x y h => ?matrixPair, fun s b p x h => ?matrixOperand, fun s b p h => ?matrix⟩, fun s b p x y h => ?streamPair, fun s b p x h => ?streamOperand⟩
  case copies => exact ⟨.word h rfl, .word h rfl, .word h rfl, .word h rfl, .word h rfl, .word h rfl, .word h rfl, .word h rfl, .word h rfl⟩
  case cpbind => exact .word h rfl
  case regionOperand => exact ⟨.word h rfl, .word h rfl, fun port => .word h rfl⟩
  case region => exact ⟨fun n => .word h rfl, .word h rfl, .word h rfl, fun l => .word h rfl⟩
  case matrixPair =>
    exact ⟨fun n r => ⟨.word h rfl, .word h rfl, .word h rfl⟩, fun f d a => ⟨.word h rfl, fun r => .word h rfl⟩, fun n q => ⟨.word h rfl, .word h rfl⟩⟩
  case matrixOperand =>
    exact ⟨fun n r => ⟨.word h rfl, .word h rfl⟩, fun d q rnd int => .word h rfl, fun n g => .word h rfl, fun n f => .word h rfl, fun n q => .word h rfl⟩
  case matrix => exact ⟨fun n rnd clr => .word h rfl, fun n => ⟨.word h rfl, .word h rfl, .word h rfl⟩⟩
  case streamPair =>
    exact ⟨fun d => ⟨.word h rfl, .word h rfl, .word h rfl, .word h rfl, .word h rfl, .word h rfl, .word h rfl, .word h rfl⟩, fun len d => ⟨.word h rfl, .word h rfl⟩,
      fun acc n => .word h rfl, fun g c len d => .word h rfl, fun g d => .word h rfl, fun g bp len d => .word h rfl, fun bp a => .word h rfl, fun g => .word h rfl⟩
  case streamOperand => exact ⟨fun g bp len d => .word h rfl, fun a => .word h rfl⟩

end Sys2Proof.Machine
end

section
/-! SUPPORT. The completion word of a copy (R251, R274, R275): one write to the A-buffer at a bank that nothing holds, and the copy's channel as it is left; then the statement O27. -/

namespace Sys2Proof.Machine

variable {s t : State} {c : CoreIx} {ch : ChanIx} {k : EngineCmd} {r : CopyRun} {l : Launch}

/-! ### A word at a bank that nothing holds -/

@[simp] theorem State.wakeCore_tr (s : State) (c : CoreIx) (pantry : Bool) (die : Fin 4) (lo n : Nat) : (s.wakeCore c pantry die lo n).tr = s.tr :=
  (apply_ite State.tr ..).trans (ite_self _)

/-- What lies within one row of its bank is written at once where no slot holds the bank (R134). -/
theorem State.writeA_unheld {phys : Nat} {bytes : List Byte} (row : bytes.length ≤ 16 - phys % 16) (free : heldNow (s.core c).bankHolds (bankOf phys) = false)
    (who : Option (CoreIx × SeqIx × Bool)) :
    s.writeA c phys bytes who = (s.updCore c fun k => { k with abuf := writeBytes k.abuf phys bytes }).wakeCore c false 0 phys bytes.length := by
  rw [State.writeA, if_pos (by rw [decide_eq_true row, Bool.true_or]), State.writeBank, if_neg (Bool.eq_false_iff.1 free)]

theorem AbufOnly.writeA_unheld {phys : Nat} {bytes : List Byte} (row : bytes.length ≤ 16 - phys % 16) (free : heldNow (s.core c).bankHolds (bankOf phys) = false)
    (who : Option (CoreIx × SeqIx × Bool)) : AbufOnly c s (s.writeA c phys bytes who) (writeBytes (s.core c).abuf phys bytes) := by
  have stored : AbufOnly c s (s.updCore c fun k => { k with abuf := writeBytes k.abuf phys bytes }) (writeBytes (s.core c).abuf phys bytes) :=
    .updCore rfl fun _ => by rw [State.seq, State.ctx, State.core_updCore]; rfl
  have woken := stored.trans (.wakeCore _ c false 0 phys bytes.length)
  rw [State.writeA_unheld row free]
  rwa [stored.abuf] at woken

/-! ### The completion word (R275) -/

/-- The place of the completion word in the A-buffer. -/
def State.wordPlace (s : State) (c : CoreIx) (r : CopyRun) : Nat := s.aPhys c (dscF r.desc 0 32 22)

/-- The state in which the completion word stands, and the copy is still in its channel. -/
def State.wordPut (s : State) (c : CoreIx) (k : EngineCmd) (r : CopyRun) : State :=
  let t := s.writeA c (s.wordPlace c r) (leBytes 8 k.right.toNat) none
  t.touch c (t.wordPlace c r)

/-- The channel that a complete copy leaves; it takes the next one in the next tick (R251). -/
def CopyChan.completed (tick : Nat) (x : CopyChan) : CopyChan := { x with queue := x.queue.drop 1, run := none, walk := none, free := tick + 1, done := x.done + 1 }

/-- A copy that hashes nothing writes its completion word, where no memory error stands, and leaves its channel. -/
theorem State.completeCopy_eq (clean : s.ecc = []) (plain : isCphash k.instr = false) :
    s.completeCopy c ch k r = (s.wordPut c k r).updChan c ch (·.completed (s.wordPut c k r).tick) := by
  have word : ((s.softWrite (s.placeCore k.owner.launch c 6) none 1 c (s.wordPlace c r) 8).chipWrite (s.chipByte c 0 (dscF r.desc 0 32 22) 0) (leBytes 8 k.right.toNat)) =
      s.writeA c (s.wordPlace c r) (leBytes 8 k.right.toNat) none := by
    rw [State.softWrite_of_clean clean]
    exact State.chipWrite_abuf clean ..
  rw [State.wordPut, ← word, State.completeCopy]
  split
  next hash => rw [hash] at plain; cases plain
  next => rfl

theorem State.wordFree_unheld (free : s.wordFree c r = true) : heldNow (s.core c).bankHolds (bankOf (s.wordPlace c r)) = false := by
  rw [State.wordFree, Bool.and_eq_true, Bool.not_eq_true', Bool.not_eq_true'] at free
  exact free.2

/-- The word is written where its bank is free and it lies within one unit of 16 bytes (R274). -/
theorem State.wordPut_only (free : s.wordFree c r = true) (unit : s.wordPlace c r % 16 ≤ 8) :
    AbufOnly c s (s.wordPut c k r) (writeBytes (s.core c).abuf (s.wordPlace c r) (leBytes 8 k.right.toNat)) := by
  have written := AbufOnly.writeA_unheld (bytes := leBytes 8 k.right.toNat) (by rw [leBytes_length]; omega) (State.wordFree_unheld free) none
  have touched := written.trans (.touch _ c ((s.writeA c (s.wordPlace c r) (leBytes 8 k.right.toNat) none).wordPlace c r))
  rwa [written.abuf] at touched

theorem State.wordPut_tr (free : s.wordFree c r = true) (unit : s.wordPlace c r % 16 ≤ 8) : (s.wordPut c k r).tr = s.tr := by
  rw [State.wordPut, State.writeA_unheld (by rw [leBytes_length]; omega) (State.wordFree_unheld free)]
  exact State.wakeCore_tr ..

/-- COMPLETION_WORD_WRITE completes a copy that is due, and whose payload stands. -/
theorem completionWordWrite_completes (copying : Copying s c ch k r l) (due : r.wait = some 0) (runs : s.opRuns c k.owner = true) (paid : r.allPaid k = true)
    (free : s.wordFree c r = true) : exec (.completionWordWrite c ch) s = .next (s.completeCopy c ch k r) := by
  have acts : (r.dueNow && s.copyRuns c k r && r.allPaid k && s.wordFree c r) = true := by
    simp [CopyRun.dueNow, State.copyRuns, due, runs, paid, free]
  have sound := State.badWrite_of_clean copying.clean 1 c (s.aPhys c (dscF r.desc 0 32 22)) 8
  have head := copying.head
  have run := copying.run
  simp only [Fin.getElem_fin] at head run
  simp [exec, execCompletionWordWrite, head, run, acts, sound]

/-- Settles O27: the word's bytes in the A-buffer, and the channel that the copy leaves. -/
theorem completionWordWritten : Obligations.CompletionWordWritten := by
  unfold Obligations.CompletionWordWritten
  intro s c ch k r l copying due runs paid plain free unit
  have first : dscF r.desc 0 32 22 = (r.desc.headD 0).toNat / 2 ^ 32 % 2 ^ 22 := by
    rw [List.headD_eq_head?_getD, List.head?_eq_getElem?]
    rfl
  have place : s.aPhys c ((r.desc.headD 0).toNat / 2 ^ 32 % 2 ^ 22) = s.wordPlace c r := congrArg (s.aPhys c) first.symm
  rw [place] at unit ⊢
  have only := State.wordPut_only (k := k) free unit
  have left : SameBuffers (s.wordPut c k r) ((s.wordPut c k r).updChan c ch (·.completed (s.wordPut c k r).tick)) := .updCtx ..
  have channel : (((s.wordPut c k r).updChan c ch (·.completed (s.wordPut c k r).tick)).ctx c).chans[ch] = (s.ctx c).chans[ch].completed (s.wordPut c k r).tick := by
    have chans : ((s.wordPut c k r).ctx c).chans = (s.ctx c).chans := by rw [State.ctx, only.core]
    rw [Fin.getElem_fin, State.chan_updChan, chans, Fin.getElem_fin]
  have canonical := (State.core_wf copying.canonical c).1
  refine ⟨_, (completionWordWrite_completes copying due runs paid free).trans (congrArg Host.Outcome.next (State.completeCopy_eq copying.clean plain)), ?_⟩
  dsimp only
  rw [channel, left.abuf, left.wbuf, left.cbuf, left.blockStore, only.abuf]
  refine ⟨List.drop_one, rfl, rfl, readLE_writeBytes_word canonical .., fun x outside => readByte_writeBytes_outside canonical (by rwa [leBytes_length]),
    fun d hd => (State.core_updCtx_ne _ c d _ hd).trans (only.others d hd), ?_, ?_, ?_, only.module.trans left.module, State.wordPut_tr free unit⟩
  all_goals rw [only.core]

end Sys2Proof.Machine
end

section
/-! SUPPORT. A host request of a copy that fails (R273, R277), and why the statement O28 fails: its fault clauses speak, as those of O25 and O26 do, of a state in which a generated launch
runs in no window and shares its number with another launch. -/

namespace Sys2Proof.Machine

variable {s : State} {c : CoreIx} {ch : ChanIx} {k : EngineCmd} {r : CopyRun} {l : Launch}

theorem hostRequestCompletion_fails (copying : Copying s c ch k r l) (stored : s.storedCopy c ch = none) (outstanding : r.host ≠ []) :
    exec (.hostRequestCompletion c ch false) s = .next (s.copyFault c ch k 0x45 none) := by
  have head := copying.head
  have run := copying.run
  simp only [Fin.getElem_fin] at head run
  simp [exec, execHostRequestCompletion, stored, head, run, outstanding, copying.alive]

/-- A copy of 64 bytes from the virtual address 0, under no reservation, whose one piece has been requested of the host in this tick. -/
def requestedRun : CopyRun :=
  { deniedRun with desc := [3 + 255 * 2 ^ 8, 0, 0, 0xFFFFFFFFFFFFFFFF, 64 + 2 ^ 24 + 2 ^ 36, 0, 0, 0], next := 1, host := [(0, 0, 2 ^ 55)], hosted := true }

/-- The state of the counterexamples to O25 and O26, in which core 1 makes that copy. -/
def requestedState : State := (twinState none).updChan 1 0 fun x => { x with run := some requestedRun }

theorem requestedState_copying : Copying requestedState 1 0 deniedCopy requestedRun (.bare 1 1) where
  head := rfl
  run := rfl
  launch := rfl
  alive := rfl
  clean := rfl
  canonical := rfl

/-- The cancellation of fault domain 2 comes first, and removes the generated launch of fault domain 1 (R426); the launch of fault domain 3 keeps its number. -/
theorem requestedState_settles : (requestedState.copyFault 1 0 deniedCopy 0x45 none).settleFaults.launches.map Launch.num = [Launch.windowless.num] := by decide +kernel

/-- Refutes O28: a host request that fails does not clear its fault domain of every number, where a generated launch of the domain shares its number with a launch of another
domain and is gone, with the binding of its graph, before the domain is cancelled. -/
theorem not_hostRequestsComplete : ¬ Obligations.HostRequestsComplete := by
  unfold Obligations.HostRequestsComplete
  intro completes
  have outstanding : requestedRun.host ≠ [] := by decide
  obtain ⟨-, fails, -⟩ := completes requestedState 1 0 deniedCopy requestedRun (.bare 1 1) requestedState_copying rfl
  have gone := (fails outstanding).of_exec (hostRequestCompletion_fails requestedState_copying rfl outstanding)
  have was : Launch.windowless ∈ requestedState.launches := .tail _ (.tail _ (.head _))
  refine State.not_domainGone was (by decide) (by decide) ?_ gone
  rw [requestedState_settles]
  exact .head _

end Sys2Proof.Machine
end

section
/-! SUPPORT. The regions of a fabric: what each region command leaves behind as it starts, and how a round and a configuration load end (R286, R302 to R311); then the statements O29
and O30. -/

namespace Sys2Proof.Machine

/-! ### A region that changes, and the rest of its core -/

section
variable (s : State) (c : CoreIx) (r : RegionIx) (f : RegionState → RegionState)

theorem State.regions_updRegion : ((s.updRegion c r f).ctx c).regions[r] = f (s.ctx c).regions[r] := State.region_updRegion ..

theorem State.coreLaunch_updRegion : (s.updRegion c r f).coreLaunch? c = s.coreLaunch? c := by
  have held : ((s.updRegion c r f).core c).launch = (s.core c).launch := by rw [State.updRegion, State.core_updCtx]
  exact congrArg s.launch? held

theorem State.blockStore_updRegion : ((s.updRegion c r f).core c).blockStore = (s.core c).blockStore := by rw [State.updRegion, State.core_updCtx]

/-- The formats of the Landings come from the active planes alone (R301). -/
theorem State.landFormats_updRegion (kept : ∀ x, (f x).active = x.active) (l : Launch) : (s.updRegion c r f).landFormats l c = s.landFormats l c := by
  have planes (k : RegionIx) : ((s.updRegion c r f).ctx c).regions[k].active = (s.ctx c).regions[k].active := by
    by_cases same : r = k
    · rw [← same, State.regions_updRegion, kept]
    · have other : r.val ≠ k.val := fun e => same (Fin.ext e)
      simp [State.updRegion, Vector.getElem_set_ne, other]
  simp only [State.landFormats, planes]

end

/-! ### What a command does as it starts (R304, R305): an equation per command -/

/-- The region whose head command has left its queue. -/
def RegionState.headLeft (rest : List EngineCmd) (g : RegionState) : RegionState := { g with queue := rest, started := true }

/-- The state in which the head command of a region has left its queue, and has not yet had its effect. -/
def State.headLeft (s : State) (c : CoreIx) (r : RegionIx) (rest : List EngineCmd) : State := s.updRegion c r (·.headLeft rest)

/-- The state in which the head command of a region is refused (R304). -/
def State.headRefused (s : State) (c : CoreIx) (r : RegionIx) (k : EngineCmd) (rest : List EngineCmd) : State :=
  (s.headLeft c r rest).takeTrap c k.owner.seq regionIllegal

/-- The double-word of the block store that a region command reads at an address (R307). -/
def State.tableWord (s : State) (c : CoreIx) (a : Nat) : Nat := readLE (s.core c).blockStore (a % 2 ^ 18) 8

/-- Whether the launch's image lists a configuration table for the core at the address (R304, R307). -/
def Launch.listsTable (l : Launch) (c : CoreIx) (a : Nat) : Bool := l.img.cfgTabs.any fun x => x.addr.toNat == a && x.ix == l.ix c && x.iy == l.iy c

/-- The job of the port that loads a table of `count` entries, 16 bytes in a tick (R307). -/
def PortJob.ofTable (k : EngineCmd) (a count : Nat) : PortJob := ⟨k.owner, some (BitVec.ofNat 24 a), 0, 0, 0, (8 + 8 * count + 15) / 16, (8 + 8 * count + 15) / 16, none, false⟩

/-- The job of the port that loads the stream of a table's entry (R308). -/
def PortJob.ofEntry (k : EngineCmd) (e : Nat) : PortJob :=
  ⟨k.owner, none, bits e 0 24, bits e 24 16, BitVec.ofNat 16 (bits e 48 16), (bits e 24 16 + 3) / 4, (bits e 24 16 + 3) / 4, none, false⟩

/-- Whether entry `n` of the table at an address is not there, or is another region's (R304). -/
def State.entryRefused (s : State) (c : CoreIx) (r : RegionIx) (a n : Nat) : Bool :=
  bits (s.tableWord c a) 0 5 ≤ n || bits (s.tableWord c (a + 8 + 8 * n)) 40 2 ≠ r.val

/-- A round of `n` iterations begins; at version 0 it is all that a `run` changes (R286). -/
def RegionState.beginRound (k : EngineCmd) (tick : Nat) (g : RegionState) : RegionState :=
  if g.active.version = 0 then { g with round := some ⟨k.left.setWidth 32, 0, k, false, tick, false⟩ }
  else { g with round := some ⟨k.left.setWidth 32, 0, k, false, tick, false⟩, lastN := k.left.setWidth 32, lastRc := 0, held := 0, sinks := Vector.replicate 4 0 }

/-- A launch that no debug stop holds takes no debug step. -/
theorem State.noteStep_of_running {s : State} {c : CoreIx} {l : Launch} (launch : s.coreLaunch? c = some l) (running : l.dstop = none) (u : DebugUnit) : s.noteStep c u = s := by
  simp [State.noteStep, launch, running]

namespace RegionStart

variable {s : State} {c : CoreIx} {r : RegionIx} {k : EngineCmd} {rest : List EngineCmd} {l : Launch} {p : Pred}

theorem noteStep_updRegion (h : RegionStart s c r k rest l) (f : RegionState → RegionState) (u : DebugUnit) : (s.updRegion c r f).noteStep c u = s.updRegion c r f :=
  State.noteStep_of_running ((State.coreLaunch_updRegion ..).trans h.launch) h.running u

theorem exec_run (h : RegionStart s c r k rest l) (run : k.instr = .run p) :
    exec (.regionCommandStart c r) s = .next ((s.headLeft c r rest).updRegion c r (·.beginRound k s.tick)) := by
  simp only [exec, execRegionCommandStart, h.queue, h.launch, h.ready, Bool.not_true, Bool.false_eq_true, if_false, run]
  rw [h.noteStep_updRegion]
  rfl

theorem exec_tok {port} (h : RegionStart s c r k rest l) (tok : k.instr = .tok p port) :
    exec (.regionCommandStart c r) s = .next ((s.headLeft c r rest).updRegion c r fun g => { g with active := tokWrite port.toNat k.left g.active }) := by
  simp only [exec, execRegionCommandStart, h.queue, h.launch, h.ready, Bool.not_true, Bool.false_eq_true, if_false, tok]
  rw [h.noteStep_updRegion]
  rfl

theorem exec_cfgdrop (h : RegionStart s c r k rest l) (cfgdrop : k.instr = .cfgdrop p) :
    exec (.regionCommandStart c r) s = .next ((s.headLeft c r rest).updRegion c r fun g => { g with shadow := none }) := by
  simp only [exec, execRegionCommandStart, h.queue, h.launch, h.ready, Bool.not_true, Bool.false_eq_true, if_false, cfgdrop]
  rw [h.noteStep_updRegion]
  rfl

theorem exec_lrel {n} (h : RegionStart s c r k rest l) (lrel : k.instr = .lrel p n) :
    exec (.regionCommandStart c r) s = .next ((s.headLeft c r rest).updCtx c fun x => { x with landings := x.landings.set n [] }) := by
  simp only [exec, execRegionCommandStart, h.queue, h.launch, h.ready, Bool.not_true, Bool.false_eq_true, if_false, lrel]
  rw [h.noteStep_updRegion]
  rfl

theorem exec_cfgact {q : Plane} (h : RegionStart s c r k rest l) (cfgact : k.instr = .cfgact p) (shadow : (s.ctx c).regions[r].shadow = some q) :
    exec (.regionCommandStart c r) s =
      .next (if q.refused l.img (s.landFormats l c) r.val then s.headRefused c r k rest else (s.headLeft c r rest).activate c r k q l) := by
  simp only [exec, execRegionCommandStart, h.queue, h.launch, h.ready, Bool.not_true, Bool.false_eq_true, if_false, cfgact, shadow]
  rw [h.noteStep_updRegion, State.landFormats_updRegion s c r (fun g => { g with queue := rest, started := true }) fun _ => rfl, apply_ite Host.Outcome.next]
  rfl

theorem exec_jtab {a : Nat} (h : RegionStart s c r k rest l) (jtab : k.instr = .jtab p) (table : bits k.left.toNat 0 24 = a) :
    exec (.regionCommandStart c r) s =
      .next (if l.listsTable c a then (s.headLeft c r rest).updRegion c r fun g => { g with port := some (.ofTable k a (bits (s.tableWord c a) 0 5)) }
        else s.headRefused c r k rest) := by
  simp only [exec, execRegionCommandStart, h.queue, h.launch, h.ready, Bool.not_true, Bool.false_eq_true, if_false, jtab, table]
  rw [h.noteStep_updRegion, State.blockStore_updRegion, apply_ite Host.Outcome.next]
  cases listed : l.listsTable c a
  · exact if_pos (congrArg not listed)
  · exact if_neg (Bool.eq_false_iff.1 (congrArg not listed))

theorem exec_cfgld_unbound {n} (h : RegionStart s c r k rest l) (cfgld : k.instr = .cfgld p n) (unbound : (s.ctx c).regions[r].bound = none) :
    exec (.regionCommandStart c r) s = .next (s.headRefused c r k rest) := by
  simp only [exec, execRegionCommandStart, h.queue, h.launch, h.ready, Bool.not_true, Bool.false_eq_true, if_false, cfgld, unbound]
  rw [h.noteStep_updRegion]
  rfl

theorem exec_cfgld {n} {a : BitVec 24} (h : RegionStart s c r k rest l) (cfgld : k.instr = .cfgld p n) (bound : (s.ctx c).regions[r].bound = some a) :
    exec (.regionCommandStart c r) s =
      .next (if s.entryRefused c r a.toNat n.toNat then s.headRefused c r k rest
        else (s.headLeft c r rest).updRegion c r fun g =>
          { g with shadow := none, loading := some g.active, port := some (.ofEntry k (s.tableWord c (a.toNat + 8 + 8 * n.toNat))) }) := by
  simp only [exec, execRegionCommandStart, h.queue, h.launch, h.ready, Bool.not_true, Bool.false_eq_true, if_false, cfgld, bound]
  rw [h.noteStep_updRegion, State.blockStore_updRegion, apply_ite Host.Outcome.next]
  rfl

end RegionStart

/-! ### What the effects leave -/

section
variable (s : State) (c : CoreIx) (r : RegionIx) (k : EngineCmd) (rest : List EngineCmd) (l : Launch)

theorem State.regions_headLeft_updRegion (f : RegionState → RegionState) :
    (((s.headLeft c r rest).updRegion c r f).ctx c).regions[r] = f ((s.ctx c).regions[r].headLeft rest) :=
  (State.regions_updRegion ..).trans (congrArg f (State.regions_updRegion ..))

theorem OnlyEngines.headLeft : OnlyEngines c s (s.headLeft c r rest) := .updRegion ..

theorem OnlyEngines.headLeft_updRegion (f : RegionState → RegionState) : OnlyEngines c s ((s.headLeft c r rest).updRegion c r f) :=
  (OnlyEngines.headLeft ..).trans (.updRegion ..)

theorem OnlyEngines.record (x : Rec) : OnlyEngines c s (s.record x) where
  module := ⟨rfl, rfl, rfl, rfl, rfl, rfl, rfl, rfl, rfl, rfl⟩
  memory := (OnlyEngines.refl c s).memory
  seqs _ _ := rfl
  others _ _ := rfl
  copies := rfl
  ranges := rfl
  barriers := rfl

/-- Outside the bench state, a plane becomes active with one record (R309, R452). -/
theorem State.activate_record (p : Plane) (bench : s.bench = false) :
    ∃ x : Rec, x.typ = 0x0D ∧ s.activate c r k p l = (s.updRegion c r fun g => { g with active := p, shadow := none }).record x :=
  ⟨_, rfl, if_pos (congrArg not bench)⟩

end

theorem RegionState.beginRound_of_version {g : RegionState} (version : g.active.version ≠ 0) (k : EngineCmd) (tick : Nat) :
    g.beginRound k tick = { g with round := some ⟨k.left.setWidth 32, 0, k, false, tick, false⟩, lastN := k.left.setWidth 32, lastRc := 0, held := 0, sinks := Vector.replicate 4 0 } :=
  if_neg version

theorem RegionState.beginRound_of_zero {g : RegionState} (zero : g.active.version = 0) (k : EngineCmd) (tick : Nat) :
    g.beginRound k tick = { g with round := some ⟨k.left.setWidth 32, 0, k, false, tick, false⟩ } := if_pos zero

/-! ### The write of a `tok` (R311): its port names the field -/

theorem bits_low (v n : Nat) : bits v 0 n = v % 2 ^ n := by rw [bits, Nat.pow_zero, Nat.div_one]

section
variable {port : Nat} (v : Word) (p : Plane)

theorem tokWrite_base (generator : port < 0x40) (base : port % 4 = 0) : tokWrite port v p = p.put 3 (port / 4) 0 (v.toNat % 2 ^ 22) := by
  rw [tokWrite, if_pos generator, if_pos base, bits_low]

theorem tokWrite_count (generator : port < 0x40) (count : port % 4 ≠ 0) :
    tokWrite port v p = p.put 3 (port / 4) (port % 4) (if v.toNat % 2 ^ 16 = 0 then 1 else v.toNat % 2 ^ 16) := by
  rw [tokWrite, if_pos generator, if_neg count, bits_low]

theorem tokWrite_parameter (past : 0x40 ≤ port) (parameter : port < 0x44) : tokWrite port v p = p.put 3 20 (port - 0x3C) (v.toNat % 2 ^ 32) := by
  rw [tokWrite, if_neg (Nat.not_lt.2 past), if_pos parameter, bits_low, show 4 + (port - 0x40) = port - 0x3C by omega]

theorem tokWrite_none (past : 0x44 ≤ port) : tokWrite port v p = p := by
  rw [tokWrite, if_neg (by omega), if_neg (Nat.not_lt.2 past)]

end

theorem State.entryRefused_iff {s : State} {c : CoreIx} {r : RegionIx} {a n : Nat} :
    s.entryRefused c r a n = true ↔ bits (s.tableWord c a) 0 5 ≤ n ∨ bits (s.tableWord c (a + 8 + 8 * n)) 40 2 ≠ r.val := by
  rw [State.entryRefused, Bool.or_eq_true, decide_eq_true_iff, decide_eq_true_iff]

/-! ### The ends of rounds and loads (R286, R307, R308) -/

section
variable {s : State} {c : CoreIx} {r : RegionIx}

theorem RegionState.lastRcOf_eq {g : RegionState} {k : RoundRun} (version : g.active.version ≠ 0) (n : k.n ≠ 0)
    (last : k.rc + 1 = (k.n.toNat + g.active.depth) * g.active.period) : g.lastRcOf k = k.rc := by
  rw [RegionState.lastRcOf, if_neg (by simp_all), ← last, Nat.add_sub_cancel]

theorem roundEnd_ends {k : RoundRun} (round : (s.ctx c).regions[r].round = some k) (moved : k.moved = true)
    (last : (s.ctx c).regions[r].lastRcOf k = k.rc) :
    exec (.roundEnd c r) s = .next (s.updRegion c r fun g => { g with round := none, lastRc := if g.active.version = 0 then g.lastRc else BitVec.ofNat 32 k.rc }) := by
  simp only [exec, execRoundEnd, round, moved, last, beq_self_eq_true, Bool.and_self, ↓reduceIte]

/-- Nothing keeps a port in its last tick from its end. -/
theorem State.loadEnds {j : PortJob} (left : j.left = 1) (runs : s.opRuns c j.owner = true) : (j.left ≠ 1 || !(j.rerun || s.opRuns c j.owner)) = false := by
  rw [left, runs, Bool.or_true]
  rfl

/-- The plane that a stream has built, as the port leaves it (R303, R304, R308). -/
def State.loadedPlane (s : State) (c : CoreIx) (j : PortJob) (g : RegionState) : Plane :=
  let p := applyStream (j.words + 1) ((List.range j.words).map fun k => (s.storeWord c (j.stream + 4 * k)).toNat) (g.loading.getD .zero)
  { p with version := j.version, bad := p.bad || s.hardError 4 c (j.stream % 2 ^ 18) (4 * j.words) }

theorem configurationLoadComplete_binds {j : PortJob} {a : BitVec 24} (port : (s.ctx c).regions[r].port = some j) (left : j.left = 1) (runs : s.opRuns c j.owner = true)
    (table : j.table = some a) : exec (.configurationLoadComplete c r) s = .next (s.updRegion c r fun g => { g with port := none, bound := some a }) := by
  simp only [exec, execConfigurationLoadComplete, port, State.loadEnds left runs, Bool.false_eq_true, ↓reduceIte, table]

theorem configurationLoadComplete_builds {j : PortJob} (port : (s.ctx c).regions[r].port = some j) (left : j.left = 1) (runs : s.opRuns c j.owner = true)
    (stream : j.table = none) :
    exec (.configurationLoadComplete c r) s =
      .next (s.updRegion c r fun g => { g with port := none, loading := none, shadow := some (s.loadedPlane c j (s.ctx c).regions[r]) }) := by
  simp only [exec, execConfigurationLoadComplete, port, State.loadEnds left runs, Bool.false_eq_true, ↓reduceIte, stream]
  rfl

end

/-! ### The statements -/

/-- Settles O29: a command whose rule stands has its effect on its region alone; one that the rule refuses traps. -/
theorem regionCommands : Obligations.RegionCommands := by
  unfold Obligations.RegionCommands
  dsimp only
  refine ⟨fun s c r k rest l h => ⟨?_, ?_, ?_, ?_, ?_, ?_, ?_⟩, fun s c r k rest l h => ⟨?_, ?_, ?_, ?_⟩⟩
  · intro p run
    refine ⟨_, h.exec_run run, ?_⟩
    dsimp only
    rw [State.regions_headLeft_updRegion]
    by_cases version : (s.ctx c).regions[r].active.version = 0
    · rw [RegionState.beginRound_of_zero (g := (s.ctx c).regions[r].headLeft rest) version]
      exact ⟨rfl, rfl, rfl, (absurd version ·), fun _ => ⟨rfl, rfl, rfl, rfl⟩, rfl, rfl, .headLeft_updRegion ..⟩
    · rw [RegionState.beginRound_of_version (g := (s.ctx c).regions[r].headLeft rest) version]
      exact ⟨rfl, rfl, rfl, fun _ => ⟨rfl, rfl, rfl, rfl⟩, (absurd · version), rfl, rfl, .headLeft_updRegion ..⟩
  · intro p port tok
    refine ⟨_, h.exec_tok tok, ?_⟩
    dsimp only
    rw [State.regions_headLeft_updRegion]
    exact ⟨rfl, rfl, tokWrite_base _ _, tokWrite_count _ _, tokWrite_parameter _ _, tokWrite_none _ _, rfl, rfl, rfl, .headLeft_updRegion ..⟩
  · intro p q cfgact shadow sound bench
    obtain ⟨x, typ, activates⟩ := State.activate_record (s.headLeft c r rest) c r k l q bench
    refine ⟨_, (h.exec_cfgact cfgact shadow).trans (congrArg _ ((if_neg (Bool.eq_false_iff.1 sound)).trans activates)), ?_⟩
    dsimp only
    rw [State.ctx_record, State.regions_headLeft_updRegion, ← typ]
    exact ⟨rfl, rfl, rfl, rfl, State.logs_record .., (OnlyEngines.headLeft_updRegion ..).trans (.record ..)⟩
  · intro p cfgdrop
    refine ⟨_, h.exec_cfgdrop cfgdrop, ?_⟩
    dsimp only
    rw [State.regions_headLeft_updRegion]
    exact ⟨rfl, rfl, rfl, rfl, rfl, .headLeft_updRegion ..⟩
  · intro p jtab listed
    refine ⟨_, (h.exec_jtab jtab (bits_low ..)).trans (congrArg _ (if_pos listed)), ?_⟩
    dsimp only
    rw [State.regions_headLeft_updRegion]
    refine ⟨rfl, rfl, ⟨_, rfl, congrArg some ?_, rfl, ?_⟩, rfl, .headLeft_updRegion ..⟩
    · exact BitVec.eq_of_toNat_eq (by simp)
    · exact Nat.div_pos (by omega) (by decide)
  · intro p n a cfgld bound there own
    have good : ¬ s.entryRefused c r a.toNat n.toNat = true := by
      rw [State.entryRefused_iff, bits_low, not_or, Nat.not_le, not_not]
      exact ⟨there, own⟩
    refine ⟨_, (h.exec_cfgld cfgld bound).trans (congrArg _ (if_neg good)), ?_⟩
    dsimp only
    rw [State.regions_headLeft_updRegion]
    refine ⟨rfl, rfl, rfl, rfl, rfl, ⟨_, rfl, rfl, bits_low .., rfl, ?_, rfl⟩, rfl, .headLeft_updRegion ..⟩
    exact (BitVec.toNat_ofNat ..).trans (Nat.mod_mod ..)
  · intro p n lrel
    refine ⟨_, h.exec_lrel lrel, ?_, fun m other => ?_, rfl, (OnlyEngines.headLeft ..).trans (.updCtx ..)⟩
    · rw [State.ctx_updCtx]
      exact Vector.getElem_set_self ..
    · have apart : n.val ≠ m.val := fun e => other (Fin.ext e.symm)
      simp [State.headLeft, State.updRegion, Vector.getElem_set_ne, apart]
  · intro p jtab absent
    exact (h.exec_jtab jtab (bits_low ..)).trans (congrArg _ (if_neg (Bool.eq_false_iff.1 absent)))
  · intro p n cfgld unbound
    exact h.exec_cfgld_unbound cfgld unbound
  · intro p n a cfgld bound wrong
    exact (h.exec_cfgld cfgld bound).trans (congrArg _ (if_pos (State.entryRefused_iff.2 (by rwa [bits_low]))))
  · intro p q cfgact shadow wrong
    exact (h.exec_cfgact cfgact shadow).trans (congrArg _ (if_pos wrong))

/-- Settles O30: a round leaves the last of its row counters; a load leaves the table bound, or the plane that it has built, of the version of its entry. -/
theorem regionWorkEnds : Obligations.RegionWorkEnds := by
  unfold Obligations.RegionWorkEnds
  intro s c r
  dsimp only
  refine ⟨fun k round moved version n last => ?_, fun j port left runs => ⟨fun a table => ?_, fun stream => ?_⟩⟩
  · refine ⟨_, roundEnd_ends round moved (RegionState.lastRcOf_eq version n last), ?_⟩
    dsimp only
    rw [State.regions_updRegion, if_neg version]
    exact ⟨rfl, rfl, .updRegion ..⟩
  · refine ⟨_, configurationLoadComplete_binds port left runs table, ?_⟩
    dsimp only
    rw [State.regions_updRegion]
    exact ⟨rfl, rfl, .updRegion ..⟩
  · refine ⟨_, configurationLoadComplete_builds port left runs stream, ?_⟩
    dsimp only
    rw [State.regions_updRegion]
    exact ⟨⟨_, rfl, rfl⟩, rfl, .updRegion ..⟩

end Sys2Proof.Machine
end

section
/-! SUPPORT. What the head command of the matrix engine leaves as it starts, and what its fault leaves (R333, R334, R341, R342, R358); then the statement O31. -/

namespace Sys2Proof.Machine

variable {s : State} {c : CoreIx} {k : EngineCmd} {rest : List EngineCmd}

/-! ### The start of a command (R333, R334, R341, R342, R358) -/

/-- The run of a command that starts. -/
def EngineCmd.firstRun (k : EngineCmd) (tick : Nat) : MxRun :=
  { cmd := k, start := tick, elapsed := 0, done := 0, total := k.steps, buf := [], chain := none, failed := false, redo := none, rerun := false, attached := none, undo := [] }

/-- The engine whose head command has left the queue and is on its unit. -/
def MatrixState.launched (m : MatrixState) (k : EngineCmd) (rest : List EngineCmd) (tick : Nat) : MatrixState :=
  { m with queue := rest, started := true }.setUnit (mxUnit k.instr) (some (k.firstRun tick))

/-- The chain of a product's tile, if one is open, has its format (R341, R342). -/
def State.chainFormed (s : State) (c : CoreIx) (k : EngineCmd) (m : MatrixState) : MatrixState :=
  match k.product with | some p => m.formChain (s.tilePhys c p.d) p.fmt | none => m

/-- MX_PROG as a command starts: that of a compute command (R362). -/
def MatrixState.progNoted (m : MatrixState) (k : EngineCmd) : MatrixState :=
  match mxUnit k.instr with | .compute => m.startProg k | _ => m

/-- The engine after the start of its head command. -/
def State.matrixBegun (s : State) (c : CoreIx) (k : EngineCmd) (rest : List EngineCmd) (m : MatrixState) : MatrixState :=
  (s.chainFormed c k (m.launched k rest s.tick)).progNoted k

theorem matrixCommandStart_starts (ready : s.matrixReady c = true) (queue : (s.ctx c).matrix.queue = k :: rest) (sound : s.matrixFault c k = none) :
    exec (.matrixCommandStart c) s = .next (s.updMatrix c (s.matrixBegun c k rest)) := by
  simp only [exec, execMatrixCommandStart, queue, ready, sound, Bool.not_true, Bool.false_eq_true, if_false]
  rfl

theorem matrixCommandStart_faults {code : Nat} (ready : s.matrixReady c = true) (queue : (s.ctx c).matrix.queue = k :: rest) (fault : s.matrixFault c k = some code) :
    exec (.matrixCommandStart c) s = .next (s.mxFault c k code) := by
  simp only [exec, execMatrixCommandStart, queue, ready, fault, Bool.not_true, Bool.false_eq_true, if_false]

/-- A matrix fault leaves no launch of the domain in which its command was issued (R358). -/
theorem State.mxFault_domainGone (s : State) (c : CoreIx) (k : EngineCmd) (code : Nat) : s.domainGone (s.mxFault c k code) k.fdom := by
  unfold State.mxFault State.engineFault
  refine State.cancelDomain_gone_of_launches (s := s) ?_ k.fdom
  rfl

section
variable (m : MatrixState)

theorem MatrixState.unit_setUnit (v : MxUnit) (x : Option MxRun) : (m.setUnit v x).unit v = x := by cases v <;> rfl

theorem MatrixState.unit_setUnit_other : ∀ {v w : MxUnit}, w ≠ v → ∀ x : Option MxRun, (m.setUnit v x).unit w = m.unit w
  | .load, .compute, _, _ | .load, .read, _, _ | .compute, .load, _, _ | .compute, .read, _, _ | .read, .load, _, _ | .read, .compute, _, _ => rfl
  | .load, .load, other, _ | .compute, .compute, other, _ | .read, .read, other, _ => absurd rfl other

/-- A change of one unit is no change of anything else. -/
theorem MatrixState.setUnit_rest (v : MxUnit) (x : Option MxRun) :
    m.setUnit v x = { m with load := (m.setUnit v x).load, compute := (m.setUnit v x).compute, read := (m.setUnit v x).read } := by cases v <;> rfl

theorem MatrixState.formChain_rest (q : Fin 32) (f : MmaFmt) : m.formChain q f = { m with chains := (m.formChain q f).chains } := by
  unfold MatrixState.formChain
  split <;> rfl

/-- The chains that a product leaves come from the chains alone. -/
theorem MatrixState.formChain_chains {n : MatrixState} (same : n.chains = m.chains) (q : Fin 32) (f : MmaFmt) : (n.formChain q f).chains = (m.formChain q f).chains := by
  have found : n.chain? q = m.chain? q := by rw [MatrixState.chain?, same, MatrixState.chain?]
  unfold MatrixState.formChain
  rw [found]
  split
  · rw [MatrixState.putChain, same, MatrixState.putChain]
  · exact same

theorem State.chainFormed_rest (s : State) (c : CoreIx) (k : EngineCmd) : s.chainFormed c k m = { m with chains := (s.chainFormed c k m).chains } := by
  unfold State.chainFormed
  split
  · exact m.formChain_rest ..
  · rfl

theorem State.chainFormed_chains {n : MatrixState} (s : State) (c : CoreIx) (k : EngineCmd) (same : n.chains = m.chains) :
    (s.chainFormed c k n).chains = match k.product with | some p => (m.formChain (s.tilePhys c p.d) p.fmt).chains | none => m.chains := by
  unfold State.chainFormed
  split
  · exact m.formChain_chains same ..
  · exact same

theorem MatrixState.progNoted_rest (k : EngineCmd) :
    m.progNoted k = { m with progOpc := (m.progNoted k).progOpc, progCut := (m.progNoted k).progCut, progActive := (m.progNoted k).progActive,
                             progTotal := (m.progNoted k).progTotal, progDone := (m.progNoted k).progDone } := by
  unfold MatrixState.progNoted
  split <;> rfl

theorem MatrixState.progNoted_compute (compute : mxUnit k.instr = .compute) :
    (m.progNoted k).progOpc = BitVec.ofNat 7 (engineDetail k.instr) ∧ (m.progNoted k).progActive = true ∧ (m.progNoted k).progCut = false := by
  rw [MatrixState.progNoted, compute]
  exact ⟨rfl, rfl, rfl⟩

/-- A start takes the head from the queue, and changes no ownership entry and no shape. -/
theorem State.matrixBegun_kept (s : State) (c : CoreIx) (k : EngineCmd) (rest : List EngineCmd) :
    (s.matrixBegun c k rest m).queue = rest ∧ (s.matrixBegun c k rest m).started = true ∧ (s.matrixBegun c k rest m).owners = m.owners ∧
    (s.matrixBegun c k rest m).tcfg = m.tcfg := by
  rw [State.matrixBegun, MatrixState.progNoted_rest, State.chainFormed_rest, MatrixState.launched, MatrixState.setUnit_rest]
  exact ⟨rfl, rfl, rfl, rfl⟩

theorem State.matrixBegun_chains (s : State) (c : CoreIx) (k : EngineCmd) (rest : List EngineCmd) :
    (s.matrixBegun c k rest m).chains = match k.product with | some p => (m.formChain (s.tilePhys c p.d) p.fmt).chains | none => m.chains := by
  rw [State.matrixBegun, MatrixState.progNoted_rest]
  refine State.chainFormed_chains m s c k ?_
  rw [MatrixState.launched, MatrixState.setUnit_rest]

theorem State.unit_matrixBegun (s : State) (c : CoreIx) (k : EngineCmd) (rest : List EngineCmd) (u : MxUnit) :
    (s.matrixBegun c k rest m).unit u = (m.launched k rest s.tick).unit u := by
  rw [State.matrixBegun, MatrixState.progNoted_rest, State.chainFormed_rest]
  cases u <;> rfl

end

/-- Settles O31: the head command leaves the queue for its unit, and of the rest of the engine only the chain of its product and MX_PROG change; a fault cancels its domain. -/
theorem matrixCommandsStart : Obligations.MatrixCommandsStart := by
  unfold Obligations.MatrixCommandsStart
  intro s c k rest ready queue
  refine ⟨fun sound => ⟨_, matrixCommandStart_starts ready queue sound, ?_⟩, fun code fault => ⟨_, matrixCommandStart_faults ready queue fault, s.mxFault_domainGone c k code⟩⟩
  dsimp only
  rw [State.matrix_updMatrix]
  obtain ⟨left, started, owners, tcfg⟩ := State.matrixBegun_kept (s.ctx c).matrix s c k rest
  refine ⟨left, started, ⟨k.firstRun s.tick, ?_, rfl, rfl, rfl, rfl, rfl⟩, fun u other => ?_, State.matrixBegun_chains ..,
    owners, tcfg, MatrixState.progNoted_compute _, ?_, ?_, rfl, .updMatrix ..⟩
  · exact (State.unit_matrixBegun ..).trans (MatrixState.unit_setUnit ..)
  · rw [State.unit_matrixBegun, MatrixState.launched, MatrixState.unit_setUnit_other _ other]
    cases u <;> rfl
  · rw [State.updMatrix, State.ctx_updCtx]
  · rw [State.updMatrix, State.ctx_updCtx]

end Sys2Proof.Machine
end

section
/-! SUPPORT. Elements of an accumulator that are replaced (R90), and an integer k-step (R163, R341); then the statement O32. -/

namespace Sys2Proof.Machine

variable {s t u : State} {c : CoreIx} {k : EngineCmd} {r : MxRun} {p : Product}

/-! ### Accumulators: elements replaced (R90) -/

section
variable {m : Memory} {q : Fin 32} {l : List ((Nat × Nat) × Word32)}

/-- A byte in none of the elements replaced stands. -/
theorem readByte_putAcc (h : Memory.wf m = true) {x : Nat} (outside : ∀ e ∈ l, x < q.val * 16384 + 4 * (64 * e.1.1 + e.1.2) ∨ q.val * 16384 + 4 * (64 * e.1.1 + e.1.2) + 4 ≤ x) :
    readByte (putAcc m q l) x = readByte m x := by
  induction l generalizing m with
  | nil => rfl
  | cons e l ih =>
    rw [List.forall_mem_cons] at outside
    refine (ih (writeLE_wf h) outside.2).trans (readByte_writeBytes_outside h ?_)
    rw [leBytes_length]
    exact outside.1

theorem accElem_congr {m' : Memory} (i j : Nat) (same : ∀ b < 4, readByte m' (q.val * 16384 + 4 * (64 * i + j) + b) = readByte m (q.val * 16384 + 4 * (64 * i + j) + b)) :
    accElem m' q i j = accElem m q i j := by
  rw [accElem, accElem, readLE, readLE, readBytes_eq_map, readBytes_eq_map]
  exact congrArg leNat (List.map_congr_left fun b below => same b (List.mem_range.1 below))

/-- An element that is not replaced stands. -/
theorem accElem_putAcc_other (h : Memory.wf m = true) {i j : Nat} (column : j < 64) (columns : ∀ e ∈ l, e.1.2 < 64) (other : (i, j) ∉ l.map Prod.fst) :
    accElem (putAcc m q l) q i j = accElem m q i j := by
  refine accElem_congr i j fun b below => readByte_putAcc h fun e mem => ?_
  have apart : ¬ (e.1.1 = i ∧ e.1.2 = j) := fun same => other (List.mem_map.2 ⟨e, mem, Prod.ext same.1 same.2⟩)
  have within := columns e mem
  omega

/-- An element that is replaced once has its new value. -/
theorem accElem_putAcc_mem (h : Memory.wf m = true) (columns : ∀ e ∈ l, e.1.2 < 64) (once : (l.map Prod.fst).Nodup) {i j : Nat} {v : Word32} (mem : ((i, j), v) ∈ l) :
    accElem (putAcc m q l) q i j = v.toNat := by
  induction l generalizing m with
  | nil => exact absurd mem List.not_mem_nil
  | cons e l ih =>
    rw [List.map_cons, List.nodup_cons] at once
    rw [List.forall_mem_cons] at columns
    rcases List.mem_cons.1 mem with rfl | mem
    · refine (accElem_putAcc_other (writeLE_wf h) columns.1 columns.2 once.1).trans ?_
      exact (readLE_writeLE h ..).trans (Nat.mod_eq_of_lt v.isLt)
    · exact ih (writeLE_wf h) columns.2 once.2 mem

end

/-- The positions below two bounds are the pairs of the library's product. -/
theorem grid_eq_product (a b : Nat) : grid a b = List.range a ×ˢ List.range b := rfl

theorem mem_grid {a b : Nat} {ij : Nat × Nat} : ij ∈ grid a b ↔ ij.1 < a ∧ ij.2 < b := by
  rw [grid_eq_product, ← List.mem_range, ← List.mem_range]
  exact List.mem_product

theorem grid_nodup (a b : Nat) : (grid a b).Nodup := List.nodup_range.product List.nodup_range

section
variable {m : Memory} {a b : Nat} {f : Nat × Nat → Word32}

/-- Elements replaced on a whole grid: each has the value of its place. -/
theorem accElem_putAcc_grid (h : Memory.wf m = true) (q : Fin 32) (columns : b ≤ 64) {i j : Nat} (row : i < a) (column : j < b) :
    accElem (putAcc m q ((grid a b).map fun ij => (ij, f ij))) q i j = (f (i, j)).toNat := by
  refine accElem_putAcc_mem h (fun e mem => ?_) ?_ (List.mem_map.2 ⟨(i, j), mem_grid.2 ⟨row, column⟩, rfl⟩)
  · obtain ⟨ij, inside, rfl⟩ := List.mem_map.1 mem
    exact Nat.lt_of_lt_of_le (mem_grid.1 inside).2 columns
  · rw [List.map_map]
    exact (List.map_id _).symm ▸ grid_nodup a b

/-- The other tiles stand. -/
theorem readByte_putAcc_grid (h : Memory.wf m = true) {q : Fin 32} (rows : a ≤ 64) (columns : b ≤ 64) {x : Nat} (outside : x < q.val * 16384 ∨ (q.val + 1) * 16384 ≤ x) :
    readByte (putAcc m q ((grid a b).map fun ij => (ij, f ij))) x = readByte m x := by
  refine readByte_putAcc h fun e mem => ?_
  obtain ⟨ij, inside, rfl⟩ := List.mem_map.1 mem
  obtain ⟨row, column⟩ := mem_grid.1 inside
  exact outside.imp (Nat.lt_add_right _) fun _ => by dsimp only; omega

end

/-! ### An integer k-step (R163, R341) -/

/-- Products added one after another are their sum, modulo 2^32. -/
theorem foldl_chainAdd_i8 (rnd : Round) (x y : Nat → Nat) (ks : List Nat) (acc : Word32) :
    ks.foldl (fun acc q => chainAdd .i8 rnd acc (x q) (y q)) acc = acc + BitVec.ofInt 32 (ks.map fun q => signedOf 8 (x q) * signedOf 8 (y q)).sum := by
  induction ks generalizing acc with
  | nil => simp
  | cons q ks ih => rw [List.foldl_cons, ih, List.map_cons, List.sum_cons, BitVec.ofInt_add, ← BitVec.add_assoc]; rfl

/-- The columns of a step: those of its 32 that the tile has. -/
theorem filterMap_columns (st cols : Nat) :
    ((List.range 32).filterMap fun q => if 32 * st + q < cols then some (32 * st + q) else none) =
      ((List.range 32).filter fun q => decide (32 * st + q < cols)).map (32 * st + ·) := by
  rw [← List.filterMap_eq_map, List.filterMap_filter]
  simp

theorem bElem_of_tile {x : CoreCtx} {buf : List (Nat × Byte)} {t0 : Nat} (tile : p.tileB = some t0) (i j : Nat) :
    bElem x k p buf i j = tileElem x.tiles t0 (k.shape t0) i j := by rw [bElem, tile]

/-- The format of a product is the one that its command names. -/
theorem EngineCmd.product_mma {pd fmt d a} (mma : k.instr = .mma pd fmt d a) (product : k.product = some p) : p.fmt = fmt := by
  simp only [EngineCmd.product, mma, Option.some.injEq] at product
  rw [← product]

/-- The accumulator that an integer k-step from two tiles leaves. -/
theorem accElem_stepElems {x : CoreCtx} {m : Memory} {buf : List (Nat × Byte)} {st : Nat} {rnd : Round} {q : Fin 32} {t0 : Nat} (h : Memory.wf m = true) (i8 : p.fmt = .i8)
    (tile : p.tileB = some t0) (columns : p.n ≤ 64) {i j : Nat} (row : i < (k.shape p.a).rows) (column : j < p.n) :
    BitVec.ofNat 32 (accElem (stepElems x m k p buf st rnd q) q i j) = BitVec.ofNat 32 (accElem m q i j) +
      BitVec.ofInt 32 (((List.range 32).filter fun q => decide (32 * st + q < (k.shape p.a).cols)).map fun q =>
        signedOf 8 (tileElem x.tiles p.a (k.shape p.a) i (32 * st + q)) * signedOf 8 (tileElem x.tiles t0 (k.shape t0) (32 * st + q) j)).sum := by
  simp only [stepElems, accElem_putAcc_grid h q columns row column, i8, BitVec.ofNat_toNat, BitVec.setWidth_eq, foldl_chainAdd_i8, filterMap_columns, List.map_map, bElem_of_tile tile]
  rfl

/-! ### Effects without memory errors, and what they leave alone -/

theorem State.spansHard_of_clean (clean : s.ecc = []) (c : CoreIx) (l : List (Fin 10 × Nat × Nat)) : s.spansHard c l = false := by
  rw [State.spansHard, clean]
  rfl

theorem State.spansSoft_of_clean (clean : s.ecc = []) (c : CoreIx) (n : LaunchNo) (l : List (Fin 10 × Nat × Nat)) : s.spansSoft c n l = s :=
  if_pos (List.isEmpty_iff.2 clean)

theorem State.mxEffect_of_clean (clean : s.ecc = []) (c : CoreIx) (r : MxRun) (l : List (Fin 10 × Nat × Nat)) (f : State → State) : s.mxEffect c r l f = f s := by
  rw [State.mxEffect, State.spansHard_of_clean clean, if_neg Bool.false_ne_true, State.spansSoft_of_clean clean]

/-- Everything stands but one core's accumulators and what is in its context beside the tiles. -/
structure OnlyAccumulators (c : CoreIx) (s t : State) : Prop where
  module : SameModule s t
  trace : t.tr = s.tr
  others : ∀ e, e ≠ c → t.core e = s.core e
  abuf : (t.core c).abuf = (s.core c).abuf
  wbuf : (t.core c).wbuf = (s.core c).wbuf
  blockStore : (t.core c).blockStore = (s.core c).blockStore
  tiles : (t.ctx c).tiles = (s.ctx c).tiles

namespace OnlyAccumulators

theorem trans (h : OnlyAccumulators c s t) (k : OnlyAccumulators c t u) : OnlyAccumulators c s u where
  module := h.module.trans k.module
  trace := k.trace.trans h.trace
  others e other := (k.others e other).trans (h.others e other)
  abuf := k.abuf.trans h.abuf
  wbuf := k.wbuf.trans h.wbuf
  blockStore := k.blockStore.trans h.blockStore
  tiles := k.tiles.trans h.tiles

theorem updMatrix (s : State) (c : CoreIx) (f : MatrixState → MatrixState) : OnlyAccumulators c s (s.updMatrix c f) where
  module := ⟨rfl, rfl, rfl, rfl, rfl, rfl, rfl, rfl, rfl, rfl⟩
  trace := rfl
  others e other := State.core_updCtx_ne _ _ _ _ other
  abuf := by rw [State.updMatrix, State.core_updCtx]
  wbuf := by rw [State.updMatrix, State.core_updCtx]
  blockStore := by rw [State.updMatrix, State.core_updCtx]
  tiles := by rw [State.updMatrix, State.ctx_updCtx]

theorem setAcc (s : State) (c : CoreIx) (f : Memory → Memory) : OnlyAccumulators c s (s.setAcc c f) where
  module := ⟨rfl, rfl, rfl, rfl, rfl, rfl, rfl, rfl, rfl, rfl⟩
  trace := rfl
  others e other := State.core_updCore_ne _ _ _ _ other
  abuf := by rw [State.setAcc, State.core_updCore]
  wbuf := by rw [State.setAcc, State.core_updCore]
  blockStore := by rw [State.setAcc, State.core_updCore]
  tiles := by rw [State.ctx, State.setAcc, State.core_updCore, State.core_ctx]

end OnlyAccumulators

section
variable (s : State) (c : CoreIx)

theorem State.cbuf_updMatrix (f : MatrixState → MatrixState) : ((s.updMatrix c f).core c).cbuf = (s.core c).cbuf := by rw [State.updMatrix, State.core_updCtx]

theorem State.cbuf_setAcc (f : Memory → Memory) : ((s.setAcc c f).core c).cbuf = f (s.core c).cbuf := by rw [State.setAcc, State.core_updCore]

theorem State.matrix_setAcc (f : Memory → Memory) : ((s.setAcc c f).ctx c).matrix = (s.ctx c).matrix := by rw [State.ctx, State.setAcc, State.core_updCore, State.core_ctx]

end

/-! ### The step as a whole -/

/-- The engine's command is past a step, its chain as the step has left it (R341). -/
def MatrixState.stepCounted (m : MatrixState) (tile : Fin 32) (r : MxRun) (ch : Chain) : MatrixState :=
  if (m.chain? tile).isSome then { m.putChain tile (some ch) with compute := some { r with done := r.done + 1 } }
  else { m with compute := some { r with done := r.done + 1, chain := some ch } }

/-- The rows of the step are behind its command. -/
def MatrixState.stepClosed (m : MatrixState) : MatrixState :=
  { m with compute := m.compute.map fun r => { r with buf := [], redo := r.redo.map fun _ => 0, rerun := r.rerun } }

theorem MatrixState.stepClosed_compute (m : MatrixState) (tile : Fin 32) (r : MxRun) (ch : Chain) :
    ∃ r', (m.stepCounted tile r ch).stepClosed.compute = some r' ∧ r'.done = r.done + 1 := by
  rw [MatrixState.stepClosed, MatrixState.stepCounted]
  split <;> exact ⟨_, rfl, rfl⟩

theorem MatrixState.stepClosed_progDone (m : MatrixState) (tile : Fin 32) (r : MxRun) (ch : Chain) : (m.stepCounted tile r ch).stepClosed.progDone = m.progDone := by
  rw [MatrixState.stepClosed, MatrixState.stepCounted]
  split <;> rfl

theorem kStepEnd_steps (clean : s.ecc = []) (compute : (s.ctx c).matrix.compute = some r) (runs : s.mxUnitRuns c .compute = true) (last : r.stepEnd = some r.elapsed) :
    exec (.kStepEnd c) s = .next ((s.stepEffect c r).updMatrix c .stepClosed) := by
  simp only [exec, execKStepEnd, compute, runs, last, beq_self_eq_true, Bool.and_self, Bool.not_true, Bool.false_eq_true, if_false, State.mxEffect_of_clean clean]
  rfl

/-- The state in which a step has written its elements to the accumulator (R341). -/
def State.stepWritten (s : State) (c : CoreIx) (r : MxRun) (p : Product) (rnd : Round) : State :=
  (s.updMatrix c fun m => { m with progDone := BitVec.ofNat 8 (p.ks0 + r.done + 1) }).setAcc c
    fun b => stepElems (s.ctx c) b r.cmd p r.buf (p.ks0 + r.done) rnd (s.tilePhys c p.d)

theorem State.stepEffect_i8 (s : State) (c : CoreIx) (product : r.cmd.product = some p) (i8 : p.fmt = .i8) :
    ∃ rnd ch, s.stepEffect c r = (s.stepWritten c r p rnd).updMatrix c (·.stepCounted (s.tilePhys c p.d) r ch) := by
  simp only [State.stepEffect, product, State.productStep, i8]
  exact ⟨_, _, rfl⟩

/-- Settles O32: each element of the accumulator takes the sum of its row's and column's products; of the rest of the module only the engine's own progress changes. -/
theorem integerKStep : Obligations.IntegerKStep := by
  unfold Obligations.IntegerKStep
  intro s c r pd d a p t0 canonical clean compute runs last mma product tile
  dsimp only
  intro rows columns
  obtain ⟨-, -, wf⟩ := State.core_wf canonical c
  obtain ⟨rnd, ch, step⟩ := s.stepEffect_i8 c product (EngineCmd.product_mma mma product)
  refine ⟨_, kStepEnd_steps clean compute runs last, ?_⟩
  rw [step]
  have frame : OnlyAccumulators c s (((s.stepWritten c r p rnd).updMatrix c (·.stepCounted (s.tilePhys c p.d) r ch)).updMatrix c .stepClosed) :=
    ((OnlyAccumulators.updMatrix ..).trans (.setAcc ..)).trans ((OnlyAccumulators.updMatrix ..).trans (.updMatrix ..))
  have written : (((s.stepWritten c r p rnd).updMatrix c (·.stepCounted (s.tilePhys c p.d) r ch)).updMatrix c .stepClosed |>.core c).cbuf =
      stepElems (s.ctx c) (s.core c).cbuf r.cmd p r.buf (p.ks0 + r.done) rnd (s.tilePhys c p.d) := by
    rw [State.cbuf_updMatrix, State.cbuf_updMatrix, State.stepWritten, State.cbuf_setAcc, State.cbuf_updMatrix]
  dsimp only
  rw [written]
  refine ⟨fun i row j column => ?_, fun x outside => ?_, ?_, ?_, frame.tiles, frame.abuf, frame.wbuf, frame.blockStore, frame.module, frame.trace, frame.others⟩
  · exact accElem_stepElems wf (EngineCmd.product_mma mma product) tile columns row column
  · exact readByte_putAcc_grid wf rows columns outside
  · rw [State.matrix_updMatrix, State.matrix_updMatrix]
    exact MatrixState.stepClosed_compute ..
  · rw [State.matrix_updMatrix, State.matrix_updMatrix, MatrixState.stepClosed_progDone, State.stepWritten, State.matrix_setAcc, State.matrix_updMatrix]

end Sys2Proof.Machine
end

section
/-! SUPPORT. The last ticks of matrix commands (R334, R344, R349, R350); then the statement O33. -/

namespace Sys2Proof.Machine

variable {s : State} {c : CoreIx} {r : MxRun}

/-! ### The last tick of a command (R334, R344, R350) -/

theorem State.updMatrix_congr {f g : MatrixState → MatrixState} (same : f (s.ctx c).matrix = g (s.ctx c).matrix) : s.updMatrix c f = s.updMatrix c g := by
  change s.setCore c { s.core c with ctx := { s.ctx c with matrix := f (s.ctx c).matrix } } = s.setCore c { s.core c with ctx := { s.ctx c with matrix := g (s.ctx c).matrix } }
  rw [same]

/-- The state in which a compute command has had the effect of its last tick and left its unit. -/
def State.computeDone (s : State) (c : CoreIx) (r : MxRun) : State := (s.computeEnd c r).updMatrix c fun m => (m.endProg r).setUnit .compute none

theorem State.cbuf_computeDone (s : State) (c : CoreIx) (r : MxRun) : ((s.computeDone c r).core c).cbuf = ((s.computeEnd c r).core c).cbuf := State.cbuf_updMatrix ..

/-- PROG is 0 where no command is in progress (R348). -/
theorem State.owners_computeDone (s : State) (c : CoreIx) (r : MxRun) (o : Fin 32) :
    ((s.computeDone c r).ctx c).matrix.owners[o] = { ((s.computeEnd c r).ctx c).matrix.owners[o] with prog := 0 } := by
  rw [State.computeDone, State.matrix_updMatrix]
  exact Vector.getElem_map ..

section
variable (compute : (s.ctx c).matrix.compute = some r) (completes : s.mxCompletes c .compute = true) (steps : r.stepEnd = none)
  (kept : ∃ w, ((s.computeEnd c r).ctx c).matrix = { (s.ctx c).matrix with owners := w })
include compute completes steps kept

theorem matrixCommandComplete_compute : exec (.matrixCommandComplete c .compute) s = .next (s.computeDone c r) := by
  have still : ((s.computeEnd c r).ctx c).matrix.compute.isSome = true := by
    obtain ⟨w, kept⟩ := kept
    rw [kept, compute]
    rfl
  simp only [exec, execMatrixCommandComplete, MatrixState.unit, compute, completes, steps, Option.isSome_none, Bool.and_false, Bool.not_true, Bool.false_eq_true, if_false]
  exact congrArg Host.Outcome.next (State.updMatrix_congr (if_pos still))

/-- What the completion of a compute command leaves alone, and what besides holds then. -/
theorem matrixCommandComplete_runs (frame : OnlyAccumulators c s (s.computeEnd c r)) {P : State → Prop} (then' : P (s.computeDone c r)) :
    Runs s (.matrixCommandComplete c .compute) fun t =>
      (t.ctx c).matrix.compute = none ∧ (t.ctx c).matrix.progActive = false ∧ (t.ctx c).matrix.load = (s.ctx c).matrix.load ∧ (t.ctx c).matrix.read = (s.ctx c).matrix.read ∧
      (t.ctx c).matrix.tcfg = (s.ctx c).matrix.tcfg ∧ (t.ctx c).tiles = (s.ctx c).tiles ∧ SameModule s t ∧ t.tr = s.tr ∧ (∀ e, e ≠ c → t.core e = s.core e) ∧
      (t.core c).abuf = (s.core c).abuf ∧ (t.core c).wbuf = (s.core c).wbuf ∧ (t.core c).blockStore = (s.core c).blockStore ∧ P t := by
  have all : OnlyAccumulators c s (s.computeDone c r) := frame.trans (.updMatrix ..)
  refine ⟨_, matrixCommandComplete_compute compute completes steps kept, ?_⟩
  obtain ⟨w, kept⟩ := kept
  have left : ((s.computeDone c r).ctx c).matrix = (({ (s.ctx c).matrix with owners := w } : MatrixState).endProg r).setUnit .compute none := by
    rw [State.computeDone, State.matrix_updMatrix, kept]
  rw [left]
  exact ⟨rfl, rfl, rfl, rfl, rfl, all.tiles, all.module, all.trace, all.others, all.abuf, all.wbuf, all.blockStore, then'⟩

end

section
variable {pd : Pred} {n o : Fin 32} (s : State) (c : CoreIx)

theorem MxRun.stepEnd_mzero (mzero : r.cmd.instr = .mzero pd n) : r.stepEnd = none := by simp [MxRun.stepEnd, EngineCmd.product, mzero]

theorem MxRun.stepEnd_mpin {f : Fmt} (mpin : r.cmd.instr = .mpin pd n f) : r.stepEnd = none := by simp [MxRun.stepEnd, EngineCmd.product, mpin]

theorem MxRun.stepEnd_munpin (munpin : r.cmd.instr = .munpin pd n) : r.stepEnd = none := by simp [MxRun.stepEnd, EngineCmd.product, munpin]

theorem State.computeEnd_mzero (clean : s.ecc = []) (mzero : r.cmd.instr = .mzero pd n) : s.computeEnd c r = s.setAcc c (zeroAcc · (s.tilePhys c n)) := by
  simp only [State.computeEnd, mzero]
  rw [State.clearErrors_of_clean clean]

theorem State.computeEnd_mpin {f : Fmt} (mpin : r.cmd.instr = .mpin pd n f) :
    s.computeEnd c r = s.updMatrix c (·.updOwner (s.tilePhys c n) fun _ => r.cmd.pinEntry f) := by simp only [State.computeEnd, mpin]

theorem State.computeEnd_munpin (munpin : r.cmd.instr = .munpin pd n) : s.computeEnd c r = s.updMatrix c (·.updOwner (s.tilePhys c n) fun _ => .clear) := by
  simp only [State.computeEnd, munpin]

theorem MatrixState.owners_updOwner (m : MatrixState) (f : Ownership → Ownership) : (m.updOwner o f).owners[o] = f m.owners[o] := Vector.getElem_set_self ..

theorem MatrixState.owners_updOwner_other {q : Fin 32} (m : MatrixState) (f : Ownership → Ownership) (other : o ≠ q) : (m.updOwner q f).owners[o] = m.owners[o] :=
  Vector.getElem_set_ne q.isLt o.isLt fun same => other (Fin.ext same.symm)

end

/-- The entry of a tile whose ownership a command in its last tick has set (R350): PROG is 0 in it. -/
theorem State.owners_computeDone_set {q : Fin 32} {f : Ownership → Ownership} (effect : s.computeEnd c r = s.updMatrix c (·.updOwner q f)) :
    ((s.computeDone c r).ctx c).matrix.owners[q] = { f (s.ctx c).matrix.owners[q] with prog := 0 } := by
  rw [State.owners_computeDone, effect, State.matrix_updMatrix, MatrixState.owners_updOwner]

theorem State.owners_computeDone_other {q o : Fin 32} {f : Ownership → Ownership} (effect : s.computeEnd c r = s.updMatrix c (·.updOwner q f)) (other : o ≠ q) :
    ((s.computeDone c r).ctx c).matrix.owners[o] = { (s.ctx c).matrix.owners[o] with prog := 0 } := by
  rw [State.owners_computeDone, effect, State.matrix_updMatrix, MatrixState.owners_updOwner_other _ _ other]

theorem State.matrix_computeEnd_owner {q : Fin 32} {f : Ownership → Ownership} (effect : s.computeEnd c r = s.updMatrix c (·.updOwner q f)) :
    ∃ w, ((s.computeEnd c r).ctx c).matrix = { (s.ctx c).matrix with owners := w } := by
  rw [effect, State.matrix_updMatrix]
  exact ⟨_, rfl⟩

theorem readByte_zeroAcc {m : Memory} (h : Memory.wf m = true) (q : Fin 32) (x : Nat) :
    readByte (zeroAcc m q) x = if q.val * 16384 ≤ x ∧ x < q.val * 16384 + 16384 then 0 else readByte m x := sparseGet_clear h

/-- A store has written its beats before its last tick, in which it only leaves its unit (R334). -/
theorem State.loadEnd_mtst {pd n q} (s : State) (c : CoreIx) (mtst : r.cmd.instr = .mtst pd n q) : s.loadEnd c r = s := by
  simp [State.loadEnd, EngineCmd.move, mtst]

theorem matrixCommandComplete_mtst {pd n q} (load : (s.ctx c).matrix.load = some r) (mtst : r.cmd.instr = .mtst pd n q) (completes : s.mxCompletes c .load = true) :
    exec (.matrixCommandComplete c .load) s = .next (s.updMatrix c fun m => { m with load := none }) := by
  simp only [exec, execMatrixCommandComplete, MatrixState.unit, load, completes, State.loadEnd_mtst s c mtst, ite_self, Bool.not_true, Bool.false_eq_true, if_false]
  rfl

theorem matrixCommandComplete_read (read : (s.ctx c).matrix.read = some r) (completes : s.mxCompletes c .read = true) :
    exec (.matrixCommandComplete c .read) s = .next (s.updMatrix c fun m => { m with read := none }) := by
  simp only [exec, execMatrixCommandComplete, MatrixState.unit, read, completes, Bool.not_true, Bool.false_eq_true, if_false]
  rfl

/-- Settles O33: in its last tick `mzero` changes one tile, `mpin` and `munpin` one ownership entry; a store and a read of the accumulator only leave their units. -/
theorem matrixCommandsComplete : Obligations.MatrixCommandsComplete := by
  unfold Obligations.MatrixCommandsComplete
  intro s c r canonical clean
  obtain ⟨-, -, wf⟩ := State.core_wf canonical c
  refine ⟨fun compute completes => ?_, fun p n q load mtst _ completes => matrixCommandComplete_mtst load mtst completes, matrixCommandComplete_read⟩
  dsimp only
  refine ⟨fun p n mzero => ?_, fun p n f mpin => ?_, fun p n munpin => ?_⟩
  · have effect := s.computeEnd_mzero c clean mzero
    have engine : ((s.computeEnd c r).ctx c).matrix = (s.ctx c).matrix := by rw [effect, State.matrix_setAcc]
    have buffer : ((s.computeDone c r).core c).cbuf = zeroAcc (s.core c).cbuf (s.tilePhys c n) := by rw [State.cbuf_computeDone, effect, State.cbuf_setAcc]
    refine matrixCommandComplete_runs compute completes (MxRun.stepEnd_mzero mzero) ⟨_, engine⟩ (effect ▸ .setAcc ..) ?_
    rw [buffer]
    refine ⟨fun x low high => ?_, fun x outside => ?_, fun o => ?_⟩
    · rw [readByte_zeroAcc wf, if_pos ⟨low, high⟩]
    · rw [readByte_zeroAcc wf, if_neg fun inside => outside.elim inside.1.not_gt inside.2.not_ge]
    · rw [State.owners_computeDone, engine]
  · have effect := s.computeEnd_mpin c mpin
    refine matrixCommandComplete_runs compute completes (MxRun.stepEnd_mpin mpin) (State.matrix_computeEnd_owner effect) (effect ▸ .updMatrix ..) ?_
    refine ⟨by rw [State.cbuf_computeDone, effect, State.cbuf_updMatrix], fun o other => State.owners_computeDone_other effect other, ?_⟩
    rw [State.owners_computeDone_set effect]
    exact ⟨rfl, rfl, rfl, rfl, rfl, rfl⟩
  · have effect := s.computeEnd_munpin c munpin
    refine matrixCommandComplete_runs compute completes (MxRun.stepEnd_munpin munpin) (State.matrix_computeEnd_owner effect) (effect ▸ .updMatrix ..) ?_
    exact ⟨by rw [State.cbuf_computeDone, effect, State.cbuf_updMatrix], State.owners_computeDone_set effect, fun o other => State.owners_computeDone_other effect other⟩

end Sys2Proof.Machine
end

section
/-! SUPPORT. What the head command of the stochastic engine leaves as it starts, and what its fault leaves (R372, R373, R375, R376, R392); then the statement O34. -/

namespace Sys2Proof.Machine

variable {s : State} {c : CoreIx} {k : EngineCmd} {rest : List EngineCmd}

/-! ### What a change of the engine leaves alone -/

theorem State.ctx_updStoch (s : State) (c : CoreIx) (f : StochState → StochState) : (s.updStoch c f).ctx c = { s.ctx c with stoch := f (s.ctx c).stoch } :=
  State.ctx_updCtx ..

theorem OnlyEngines.updStoch (s : State) (c : CoreIx) (f : StochState → StochState) : OnlyEngines c s (s.updStoch c f) := updCtx s c

/-- A change of one unit is no change of anything else. -/
theorem StochState.setUnit_rest (x : StochState) (u : SsUnit) (l : List SsRun) :
    x.setUnit u l = { x with logic := (x.setUnit u l).logic, gen := (x.setUnit u l).gen, xfer := (x.setUnit u l).xfer } := by cases u <;> rfl

/-! ### The start of a command (R375, R376) -/

theorem State.ssUncorr_of_clean (clean : s.ecc = []) (c : CoreIx) (k : EngineCmd) : s.ssUncorr c k = none := if_pos (List.isEmpty_iff.2 clean)

theorem State.ssSoft_of_clean (clean : s.ecc = []) (c : CoreIx) (k : EngineCmd) : s.ssSoft c k = s := if_pos (List.isEmpty_iff.2 clean)

/-- The engine whose head command has left the queue and runs last on its unit. -/
def StochState.launched (x : StochState) (k : EngineCmd) (rest : List EngineCmd) (run : SsRun) : StochState :=
  { x with queue := rest, started := true }.setUnit (ssUnit k.instr) (x.unit (ssUnit k.instr) ++ [run])

/-- A start takes the head from the queue, and changes no register. -/
theorem StochState.launched_kept (x : StochState) (k : EngineCmd) (rest : List EngineCmd) (run : SsRun) :
    (x.launched k rest run).queue = rest ∧ (x.launched k rest run).started = true ∧ (x.launched k rest run).streams = x.streams ∧
    (x.launched k rest run).counts = x.counts ∧ (x.launched k rest run).gens = x.gens := by
  rw [StochState.launched, StochState.setUnit_rest]
  exact ⟨rfl, rfl, rfl, rfl, rfl⟩

theorem StochState.unit_launched (x : StochState) (k : EngineCmd) (rest : List EngineCmd) (run : SsRun) :
    (x.launched k rest run).unit (ssUnit k.instr) = x.unit (ssUnit k.instr) ++ [run] := StochState.unit_setUnit ..

theorem StochState.unit_launched_other {u : SsUnit} (x : StochState) (rest : List EngineCmd) (run : SsRun) (other : u ≠ ssUnit k.instr) :
    (x.launched k rest run).unit u = x.unit u := by
  rw [StochState.launched, StochState.unit_setUnit_ne _ other]
  cases u <;> rfl

theorem stochasticCommandStart_starts (ready : s.stochReady c = true) (queue : (s.ctx c).stoch.queue = k :: rest) (clean : s.ecc = [])
    (sound : ssCheck (s.ctx c).stoch k = none) :
    exec (.stochasticCommandStart c) s = .next ((s.ssTouch c k).updStoch c (·.launched k rest (s.ssRun c k))) := by
  simp only [exec, execStochasticCommandStart, queue, ready, State.ssUncorr_of_clean clean, State.ssSoft_of_clean clean, sound, Bool.not_true, Bool.false_eq_true, if_false]
  rfl

/-! ### A fault at the start (R372, R373, R392) -/

theorem stochasticCommandStart_faults {f : Nat × Nat} (ready : s.stochReady c = true) (queue : (s.ctx c).stoch.queue = k :: rest) (clean : s.ecc = [])
    (fault : ssCheck (s.ctx c).stoch k = some f) : exec (.stochasticCommandStart c) s = .next (s.ssFault c k f) := by
  simp only [exec, execStochasticCommandStart, queue, ready, State.ssUncorr_of_clean clean, fault, Bool.not_true, Bool.false_eq_true, if_false]

/-- A stochastic fault leaves no launch of the domain in which its command was issued (R392). -/
theorem State.ssFault_domainGone (s : State) (c : CoreIx) (k : EngineCmd) (f : Nat × Nat) : s.domainGone (s.ssFault c k f) k.fdom := by
  unfold State.ssFault State.engineFault
  refine State.cancelDomain_gone_of_launches (s := s) ?_ k.fdom
  rfl

/-- A conjunction of two streams fails its check where their lengths differ, and where they have a source in common (R372). -/
theorem ssCheck_sand {pd : Pred} {d : Fin 64} {x : StochState} (sand : k.instr = .sand pd d) (one : k.streams = 1)
    (clash : x.streams[ssReg k.left 0 0].len ≠ x.streams[ssReg k.left 8 0].len ∨ x.streams[ssReg k.left 0 0].mask &&& x.streams[ssReg k.left 8 0].mask ≠ 0) :
    ∃ f, ssCheck x k = some f := by
  simp only [ssCheck, sand, one, List.range_one, List.findSome?_cons]
  by_cases lengths : x.streams[ssReg k.left 0 0].len = x.streams[ssReg k.left 8 0].len
  · rw [if_neg (not_not_intro lengths), if_pos (clash.resolve_left (not_not_intro lengths))]
    exact ⟨_, rfl⟩
  · rw [if_pos lengths]
    exact ⟨_, rfl⟩

/-- Settles O34: the head command leaves the queue for its unit, and beside it only the banks touched are noted; two streams that may not be combined cancel the domain. -/
theorem stochasticCommandsStart : Obligations.StochasticCommandsStart := by
  unfold Obligations.StochasticCommandsStart
  intro s c k rest ready queue clean
  refine ⟨fun sound => ⟨_, stochasticCommandStart_starts ready queue clean sound, ?_⟩, fun pd d sand one => ?_⟩
  · obtain ⟨ctx, trace, only⟩ := s.ssTouch_only c k
    obtain ⟨left, started, streams, counts, gens⟩ := StochState.launched_kept (s.ctx c).stoch k rest (s.ssRun c k)
    dsimp only
    rw [State.ctx_updStoch, ctx]
    exact ⟨left, started, StochState.unit_launched .., fun u other => StochState.unit_launched_other _ rest _ other, streams, counts, gens, rfl, rfl, trace,
      only.trans (.updStoch ..)⟩
  · intro a b clash
    obtain ⟨f, fault⟩ := ssCheck_sand sand one clash
    exact ⟨_, stochasticCommandStart_faults ready queue clean fault, s.ssFault_domainGone c k f⟩

end Sys2Proof.Machine
end

section
/-! SUPPORT. The bits of the streams that logic commands write (R151, R364, R365), and a count of ones (R385); then the statement O35. -/

namespace Sys2Proof.Machine

variable {s : State} {c : CoreIx} {k : EngineCmd} {d : Fin 64}

/-! ### Bits of a stream (R151, R365) -/

theorem lenBits_le (len : BitVec 2) : lenBits len ≤ 4096 := by revert len; decide

theorem lenBits_pos (len : BitVec 2) : 0 < lenBits len := by rw [lenBits]; positivity

theorem StreamReg.getLsbD_mkStream (len : BitVec 2) (mask : BitVec 16) (v i : Nat) : (mkStream len mask v).data.getLsbD i = (decide (i < lenBits len) && v.testBit i) := by
  rw [mkStream, BitVec.getLsbD_ofNat, Nat.testBit_mod_two_pow]
  by_cases within : i < lenBits len
  · rw [decide_eq_true (within.trans_le (lenBits_le len)), Bool.true_and]
  · rw [decide_eq_false within, Bool.false_and, Bool.and_false]

/-- The upper part of n bits before the lower r bits: a rotation toward lower bit numbers (R383). -/
theorem testBit_rotated {v n r i : Nat} (small : v < 2 ^ n) (turn : r < n) (within : i < n) :
    (v / 2 ^ r + v % 2 ^ r * 2 ^ (n - r)).testBit i = v.testBit ((i + r) % n) := by
  have high : v / 2 ^ r < 2 ^ (n - r) := by
    rw [Nat.div_lt_iff_lt_mul (Nat.two_pow_pos r), ← Nat.pow_add, Nat.sub_add_cancel turn.le]
    exact small
  rw [Nat.add_comm, Nat.mul_comm, Nat.testBit_two_pow_mul_add _ high]
  split
  · next before => rw [Nat.testBit_div_two_pow, Nat.mod_eq_of_lt (by omega)]
  · next behind =>
    have place : (i + r) % n = i - (n - r) := by
      rw [Nat.mod_eq_sub_mod (by omega), Nat.mod_eq_of_lt (by omega)]
      omega
    rw [Nat.testBit_mod_two_pow, place, decide_eq_true (by omega), Bool.true_and]

theorem Stream.getLsbD_not (a : Stream) {i : Nat} (within : i < 4096) : (~~~a).getLsbD i = !a.getLsbD i := by
  rw [BitVec.getLsbD_not, decide_eq_true within, Bool.true_and]

/-- `smux` takes the bit of B where the selector's is 1, and that of A where it is 0 (R382). -/
theorem Stream.getLsbD_mux (x b a : Stream) {i : Nat} (within : i < 4096) : ((x &&& b) ||| (~~~x &&& a)).getLsbD i = if x.getLsbD i then b.getLsbD i else a.getLsbD i := by
  rw [BitVec.getLsbD_or, BitVec.getLsbD_and, BitVec.getLsbD_and, Stream.getLsbD_not x within]
  cases x.getLsbD i
  · exact Bool.false_or _
  · exact Bool.or_false _

/-! ### What a command on one stream writes (R381, R382) -/

/-- The destination of a logic form with streams as its result (R379). -/
def logicDest : Instr → Option (Fin 64)
  | .sand _ d | .sor _ d | .sxor _ d | .sxnor _ d | .smux _ d | .snot _ d | .smov _ d | .srot _ d => some d
  | _ => none

/-- A source of a command on one stream (R381). -/
abbrev State.ssSource (s : State) (c : CoreIx) (k : EngineCmd) (lo : Nat) : StreamReg := (s.ctx c).stoch.streams[ssReg k.left lo 0]

/-- A logic form on one stream writes one stream register, with what its sources make (R381). -/
theorem State.ssRun_logic (s : State) (c : CoreIx) (form : logicDest k.instr = some d) (one : k.streams = 1) :
    (s.ssRun c k).streams = [(d, logicStream k.instr k.right (s.ssSource c k 0) (s.ssSource c k 8) (s.ssSource c k 16))] ∧
    (s.ssRun c k).counts = [] ∧ (s.ssRun c k).bytes = [] := by
  have same : Fin.ofNat 64 (d.val + 0) = d := Fin.ofNat_val_eq_self d
  simp only [State.ssRun, one, List.range_one, List.map_singleton]
  unfold logicDest at form
  split at form
  case h_9 => cases form
  all_goals
    next instr =>
    cases form
    simp only [instr, same, and_self]

/-- What such a form writes, where the bits of its result are known. -/
theorem State.ssRun_writes {i : Instr} {mask : BitVec 16} {v : Nat} {f : Nat → Bool} (instr : k.instr = i) (form : logicDest i = some d) (one : k.streams = 1)
    (value : logicStream i k.right (s.ssSource c k 0) (s.ssSource c k 8) (s.ssSource c k 16) = mkStream (s.ssSource c k 0).len mask v)
    (bits : ∀ i < lenBits (s.ssSource c k 0).len, v.testBit i = f i) :
    ∃ v : StreamReg, (s.ssRun c k).streams = [(d, v)] ∧ (s.ssRun c k).counts = [] ∧ (s.ssRun c k).bytes = [] ∧ v.len = (s.ssSource c k 0).len ∧ v.mask = mask ∧
      ∀ i < 4096, v.data.getLsbD i = (decide (i < lenBits (s.ssSource c k 0).len) && f i) := by
  subst instr
  obtain ⟨streams, counts, bytes⟩ := s.ssRun_logic c form one
  rw [value] at streams
  refine ⟨_, streams, counts, bytes, rfl, rfl, fun i _ => ?_⟩
  rw [StreamReg.getLsbD_mkStream]
  by_cases within : i < lenBits (s.ssSource c k 0).len
  · rw [bits i within]
  · rw [decide_eq_false within, Bool.false_and, Bool.false_and]

/-- The same for a form whose result is a function of its sources' data (R382). -/
theorem State.ssRun_writes_bitwise {i : Instr} {mask : BitVec 16} {v : Stream} {f : Nat → Bool} (instr : k.instr = i) (form : logicDest i = some d) (one : k.streams = 1)
    (value : logicStream i k.right (s.ssSource c k 0) (s.ssSource c k 8) (s.ssSource c k 16) = mkStream (s.ssSource c k 0).len mask v.toNat)
    (bits : ∀ i < 4096, v.getLsbD i = f i) :
    ∃ v : StreamReg, (s.ssRun c k).streams = [(d, v)] ∧ (s.ssRun c k).counts = [] ∧ (s.ssRun c k).bytes = [] ∧ v.len = (s.ssSource c k 0).len ∧ v.mask = mask ∧
      ∀ i < 4096, v.data.getLsbD i = (decide (i < lenBits (s.ssSource c k 0).len) && f i) :=
  State.ssRun_writes instr form one value fun i within => BitVec.testBit_toNat v ▸ bits i (within.trans_le (lenBits_le _))

theorem StreamReg.testBit_val {a : StreamReg} {i : Nat} (within : i < lenBits a.len) : a.val.testBit i = a.data.getLsbD i := by
  rw [StreamReg.val, Nat.testBit_mod_two_pow, decide_eq_true within, Bool.true_and, BitVec.testBit_toNat]

/-- `srot` on L bits reads bit (i + ROT) mod L (R383). -/
theorem StreamReg.testBit_rotated (a : StreamReg) (rot : Nat) {i : Nat} (within : i < lenBits a.len) :
    (a.val / 2 ^ (rot % lenBits a.len) + a.val % 2 ^ (rot % lenBits a.len) * 2 ^ (lenBits a.len - rot % lenBits a.len)).testBit i =
      a.data.getLsbD ((i + rot) % lenBits a.len) := by
  have pos := lenBits_pos a.len
  have small : a.val < 2 ^ lenBits a.len := Nat.mod_lt _ (Nat.two_pow_pos _)
  rw [Machine.testBit_rotated small (Nat.mod_lt _ pos) within, Nat.add_mod_mod, StreamReg.testBit_val (Nat.mod_lt _ pos)]

/-- `scnt` on one stream writes one count register, with the ones of the stream (R385). -/
theorem State.ssRun_scnt {pd : Pred} {n : Fin 16} (s : State) (c : CoreIx) (scnt : k.instr = .scnt pd false n) (one : k.streams = 1) :
    (s.ssRun c k).streams = [] ∧ (s.ssRun c k).counts = [(Fin.ofNat 16 n, BitVec.ofNat 32 (s.ssSource c k 0).count)] := by
  simp only [State.ssRun, one, List.range_one, List.map_singleton, scnt]
  exact ⟨trivial, rfl⟩

/-- Settles O35: each form's result bit by bit, from the bits of its sources below L. -/
theorem streamLogic : Obligations.StreamLogic := by
  unfold Obligations.StreamLogic
  intro s c k one
  dsimp only
  refine ⟨fun pd d sand => ?_, fun pd d sor => ?_, fun pd d sxor => ?_, fun pd d sxnor => ?_, fun pd d smux => ?_, fun pd d snot => ?_, fun pd d smov => ?_,
    fun pd d srot => ?_, fun pd n scnt => ?_⟩
  · exact State.ssRun_writes_bitwise sand rfl one rfl fun i _ => BitVec.getLsbD_and
  · exact State.ssRun_writes_bitwise sor rfl one rfl fun i _ => BitVec.getLsbD_or
  · exact State.ssRun_writes_bitwise sxor rfl one rfl fun i _ => BitVec.getLsbD_xor
  · exact State.ssRun_writes_bitwise sxnor rfl one rfl fun i within => by rw [Stream.getLsbD_not _ within, BitVec.getLsbD_xor]
  · exact State.ssRun_writes_bitwise smux rfl one rfl fun i within => Stream.getLsbD_mux _ _ _ within
  · exact State.ssRun_writes_bitwise snot rfl one rfl fun i within => Stream.getLsbD_not _ within
  · exact State.ssRun_writes_bitwise smov rfl one rfl fun i _ => rfl
  · exact State.ssRun_writes srot rfl one rfl fun i within => StreamReg.testBit_rotated _ _ within
  · obtain ⟨streams, counts⟩ := s.ssRun_scnt c scnt one
    exact ⟨streams, by rw [counts, StreamReg.count, ← List.countP_eq_length_filter, lenBits]⟩

end Sys2Proof.Machine
end

section
/-! SUPPORT. What the effect of a stochastic command leaves behind (R376); then the statement O36. -/

namespace Sys2Proof.Machine

variable {s : State} {c : CoreIx} {u : SsUnit} {r : SsRun}

/-! ### Registers written in turn -/

theorem getElem_foldl_set_of_ne {α : Type} {n : Nat} {d : Fin n} {l : List (Fin n × α)} (others : ∀ e ∈ l, e.1 ≠ d) (v : Vector α n) :
    (l.foldl (fun v e => v.set e.1 e.2) v)[d] = v[d] :=
  List.foldlRecOn l _ (motive := fun w : Vector α n => w[d] = v[d]) rfl fun _ kept e he =>
    (Vector.getElem_set_ne _ _ (Fin.val_ne_of_ne (others e he))).trans kept

theorem getElem_foldl_set_single {α : Type} {n : Nat} {d : Fin n} {a : α} {l : List (Fin n × α)} (one : l = [(d, a)]) (v : Vector α n) :
    (l.foldl (fun v e => v.set e.1 e.2) v)[d] = a := by
  rw [one]
  exact Vector.getElem_set_self ..

/-! ### The writes of a command (R376) -/

/-- The engine with the writes of a command that touches no memory made (R376). -/
def StochState.written (x : StochState) (r : SsRun) : StochState :=
  { x with streams := r.streams.foldl (fun v e => v.set e.1 e.2) x.streams
           counts := r.counts.foldl (fun v e => v.set e.1 e.2) x.counts
           cntNew := r.counts.foldl (fun v e => setBit v e.1) x.cntNew
           gens := match r.gen with | some e => x.gens.set e.1 e.2 | none => x.gens }

theorem StochState.unit_written (x : StochState) (r : SsRun) (v : SsUnit) : (x.written r).unit v = x.unit v := by cases v <;> rfl

theorem StochState.gens_written (x : StochState) {g : Fin 16} {v : Gen} (gen : r.gen = some (g, v)) : (x.written r).gens[g] = v := by
  rw [StochState.written, gen]
  exact Vector.getElem_set_self ..

theorem StochState.gens_written_other (x : StochState) {g : Fin 16} (other : ∀ v, r.gen ≠ some (g, v)) : (x.written r).gens[g] = x.gens[g] := by
  cases gen : r.gen with
  | none => rw [StochState.written, gen]
  | some e =>
    rw [StochState.written, gen]
    exact Vector.getElem_set_ne e.1.isLt g.isLt fun same => other e.2 (by rw [gen, ← Fin.ext same])

/-- Where no memory error stands, a command that writes no byte writes its registers only. -/
theorem State.ssEffect_of_clean (clean : s.ecc = []) (c : CoreIx) (silent : r.bytes = []) : s.ssEffect c r = (s.updStoch c (·.written r), none) := by
  have unmarked : r.streams.foldl (fun s e => s.clearErrors 8 c (e.1.val * 512) 512) s = s :=
    List.foldlRecOn r.streams _ (motive := fun t : State => t = s) rfl fun t same e _ => by rw [same, State.clearErrors_of_clean clean]
  simp only [State.ssEffect, silent, groupUnits, groupBy, List.find?_nil, List.foldl_nil, unmarked]
  rfl

/-- The engine whose unit a command has left. -/
def StochState.without (x : StochState) (u : SsUnit) (r : SsRun) : StochState := x.setUnit u ((x.unit u).filter (· != r))

theorem StochState.registers_without (x : StochState) (u : SsUnit) (r : SsRun) :
    (x.without u r).streams = x.streams ∧ (x.without u r).counts = x.counts ∧ (x.without u r).gens = x.gens := by
  rw [StochState.without, StochState.setUnit_rest]
  exact ⟨rfl, rfl, rfl⟩

theorem stochasticEffect_completes (clean : s.ecc = []) (due : ((s.ctx c).stoch.unit u).filter (s.ssDue c) = [r]) (silent : r.bytes = []) :
    exec (.stochasticEffect c u) s = .next ((s.updStoch c (·.without u r)).updStoch c (·.written r)) := by
  have others (k : SsRun) : (!([r].contains k)) = (k != r) := by rw [List.contains_cons, List.contains_nil, Bool.or_false, bne]
  have effect := State.ssEffect_of_clean (s := s.updStoch c (·.without u r)) clean c silent
  simp only [StochState.without] at effect
  simp only [exec, execStochasticEffect, due, others, List.foldl_cons, List.foldl_nil, effect, StochState.without]

/-- Settles O36: the command leaves its unit and writes its registers, one after another; what it does not name stands. -/
theorem stochasticEffects : Obligations.StochasticEffects := by
  unfold Obligations.StochasticEffects
  intro s c u r clean due silent
  refine ⟨_, stochasticEffect_completes clean due silent, ?_⟩
  dsimp only
  rw [State.ctx_updStoch, State.ctx_updStoch]
  obtain ⟨streams, counts, gens⟩ := (s.ctx c).stoch.registers_without u r
  refine ⟨?left, fun v other => ?_, fun d v one => getElem_foldl_set_single one _, fun d others => ?_, fun n v one => getElem_foldl_set_single one _, fun n others => ?_,
    fun g v gen => StochState.gens_written _ gen, fun g others => ?_, rfl, rfl, rfl, (OnlyEngines.updStoch ..).trans (.updStoch ..)⟩
  case left => exact (StochState.unit_written ..).trans (StochState.unit_setUnit ..)
  · exact (StochState.unit_written ..).trans (StochState.unit_setUnit_ne _ other _)
  · exact (getElem_foldl_set_of_ne others _).trans (congrArg (·[d]) streams)
  · exact (getElem_foldl_set_of_ne others _).trans (congrArg (·[n]) counts)
  · exact (StochState.gens_written_other _ others).trans (congrArg (·[g]) gens)

end Sys2Proof.Machine
end

section
/-! SUPPORT. What a packet of a host queue leaves (R397, R400): the queue passes it, and only the front end's books change; packets that need no other unit (R403, R409, R411,
R412); then the statement O37. -/

namespace Sys2Proof.Machine

variable {s t u : State} {q : QueueIx} {l : Level} {g : GraphIx}

/-! ### Only the front end's books change -/

/-- No core, die, memory, launch, clock or record has changed. -/
def State.onlyBooks (s t : State) : Prop := SameMachine s t ∧ t.tr = s.tr

/-- A state that differs in the front end's books and in the work of the tick only. -/
theorem State.onlyBooks_of (h : t = { s with fe := t.fe, todo := t.todo, fresh := t.fresh, source := t.source, packetAt := t.packetAt }) : s.onlyBooks t := by
  rw [h]
  exact ⟨⟨rfl, rfl, rfl, rfl, rfl, rfl, rfl, rfl⟩, rfl⟩

theorem State.onlyBooks_updQueue (s : State) (q : QueueIx) (f : QueueState → QueueState) : s.onlyBooks (s.updQueue q f) := State.onlyBooks_of rfl

theorem State.onlyBooks_updExec (s : State) (q : QueueIx) (f : Stream' → Stream') : s.onlyBooks (s.updExec (.queue q) f) := State.onlyBooks_of rfl

theorem SameMachine.trans (h : SameMachine s t) (k : SameMachine t u) : SameMachine s u where
  cores := k.cores.trans h.cores
  dies := k.dies.trans h.dies
  dram := k.dram.trans h.dram
  hostMem := k.hostMem.trans h.hostMem
  launches := k.launches.trans h.launches
  tick := k.tick.trans h.tick
  tm := k.tm.trans h.tm
  health := k.health.trans h.health

theorem State.onlyBooks.trans (h : s.onlyBooks t) (k : t.onlyBooks u) : s.onlyBooks u := ⟨h.1.trans k.1, k.2.trans h.2⟩

/-- A packet that is done changes its queue's execution state only. -/
theorem State.onlyBooks.packetDone (h : s.onlyBooks t) (source : t.source = .queue q) (n : Nat) : s.onlyBooks (t.packetDone n) := by
  rw [State.packetDone_queue source]
  exact h.trans (t.onlyBooks_updQueue ..)

/-! ### The stream of a queue changes -/

section
variable (s : State) (q : QueueIx) (f : Stream' → Stream')

theorem State.queue_updExec : (s.updExec (.queue q) f).fe.queues[q] = { s.fe.queues[q] with exec := f s.fe.queues[q].exec } := s.queue_updQueue q _

theorem State.stream_updExec : (s.updExec (.queue q) f).fe.queues[q].exec = f s.fe.queues[q].exec := congrArg QueueState.exec (s.queue_updExec q f)

theorem State.queue_updExec_ne {p : QueueIx} (other : p ≠ q) : (s.updExec (.queue q) f).fe.queues[p] = s.fe.queues[p] := s.queue_updQueue_ne q p _ other

end

/-! ### The queue stands behind its packet -/

theorem AtPacket.stream (at' : AtPacket s q l) : s.stream = s.fe.queues[q].exec := by
  rw [State.stream, at'.source]
  rfl

/-- A packet that changes no queue is passed. -/
theorem AtPacket.passes (at' : AtPacket s q l) (source : t.source = s.source) (queues : t.fe.queues = s.fe.queues) (n : Nat) : s.passed (t.packetDone n) q l n := by
  refine State.passed_packetDone at' source ?_ ?_ ?_ (fun p _ => ?_) n
  all_goals rw [queues]

/-- So is one that changes its own stream but not where the stream stands. -/
theorem AtPacket.passes_updExec (at' : AtPacket s q l) {f : Stream' → Stream'} (stays : (f s.fe.queues[q].exec).levels = s.fe.queues[q].exec.levels) (n : Nat) :
    s.passed ((s.updExec s.source f).packetDone n) q l n := by
  have here := s.queue_updExec q f
  rw [at'.source]
  exact State.passed_packetDone (t := s.updExec (.queue q) f) at' rfl ((congrArg (fun x => x.exec.levels) here).trans stays) ((congrArg QueueState.sizelog here).trans rfl)
    ((congrArg QueueState.frozen here).trans rfl) (fun _ other => s.queue_updExec_ne q f other) n

/-- The stream of the queue once its packet is done. -/
theorem State.exec_packetDone (source : t.source = .queue q) (n : Nat) :
    (t.packetDone n).fe.queues[q].exec = t.fe.queues[q].exec.done (some t.fe.queues[q].ring) n := by
  rw [State.packetDone_queue source]
  exact congrArg QueueState.exec (t.queue_updQueue q _)

/-! ### `pk.ffence` and `pk.graph` run (R409, R411) -/

theorem Stream'.window_done {e : Stream'} (h : e.window = []) (ring : Option Nat) (n : Nat) : (e.done ring n).window = [] := by
  rw [Stream'.done, h]
  exact ite_self _

theorem ffence_window (at' : AtPacket s q l) : ((s.updExec s.source fun e => { e with window := [] }).packetDone 8).fe.queues[q].exec.window = [] := by
  rw [State.exec_packetDone ((State.updExec_source ..).trans at'.source)]
  refine Stream'.window_done ?_ _ _
  rw [at'.source, State.stream_updExec]

/-- A trigger's step is among the steps that it joins. -/
theorem mem_insertTrigger (src : Fin 18) (g : GraphIx) (w : List Work) : .event (.graphTrigger src g) ∈ insertTrigger src g w := by
  fun_induction insertTrigger src g w with
  | case1 => exact List.mem_singleton_self _
  | case2 => exact List.mem_cons_self
  | case3 _ _ _ _ ih => exact List.mem_cons_of_mem _ ih
  | case4 _ _ _ ih => exact List.mem_cons_of_mem _ ih

/-- The source number of a host queue's triggers (R136, R424). -/
def pusher (q : QueueIx) : Fin 18 := ⟨1 + q.val, by omega⟩

/-- A queue's trigger is pushed, its step among those of this tick. -/
def State.pushing (s : State) (q : QueueIx) (g : GraphIx) : State :=
  { s with fe := { s.fe with pushes := s.fe.pushes ++ [(pusher q, g)] }, todo := insertTrigger (pusher q) g s.todo }

theorem pkGraphRun_pushes (at' : AtPacket s q l) (first : ∀ p ∈ s.fe.pushes, p.1.val ≠ 1 + q.val) (tag : BitVec 32) (g : GraphIx) :
    exec (.pkGraphRun tag g) s = .next ((s.pushing q g).packetDone 32) := by
  have unpushed : ¬ (s.fe.pushes.any fun p => p.1 == pusher q) = true := by
    intro pushed
    obtain ⟨p, member, same⟩ := List.any_eq_true.1 pushed
    exact first p member (congrArg Fin.val (beq_iff_eq.1 same))
  change execPkGraphRun tag g s = _
  unfold execPkGraphRun
  split
  next graph => cases at'.source.symm.trans graph
  next other =>
    cases at'.source.symm.trans other
    exact if_neg unpushed

/-! ### Graphs: unload, bind, unbind (R411, R412) -/

/-- The front end holds a graph, or none, in one of its places. -/
def State.holding (s : State) (g : GraphIx) (x : Option GraphState) : State := { s with fe := { s.fe with graphs := s.fe.graphs.set g x } }

theorem State.graphs_holding (s : State) (g : GraphIx) (x : Option GraphState) :
    (s.holding g x).fe.graphs[g] = x ∧ ∀ h, h ≠ g → (s.holding g x).fe.graphs[h] = s.fe.graphs[h] :=
  ⟨Vector.getElem_set_self g.isLt, fun h other => Vector.getElem_set_ne g.isLt h.isLt fun same => other (Fin.ext same.symm)⟩

theorem pkGraphUnload_unbound (free : s.graphBound g = false) (idle : s.graphBusy g = false) (tag : BitVec 32) :
    exec (.pkGraphUnload tag g) s = .next ((s.holding g none).packetDone 32) := by
  change execPkGraphUnload tag g s = _
  rw [execPkGraphUnload, free, idle]
  rfl

variable {n : LaunchNo} {x : GraphState} {k : Launch}

theorem pkBind_binds {cls : BitVec 8} (loaded : s.fe.graphs[g] = some x) (found : s.launch? n = some k) (free : x.binding = none) (placed : k.stage ≠ .placed)
    (host : k.cls = none) (fits : ∀ y ∈ x.subtrees, ∀ z ∈ y.2, k.bindable cls z.2 = true) (tag : BitVec 32) :
    exec (.pkBind tag g cls n) s = .next ((s.updGraph g fun x => { x with binding := some (cls, n) }).packetDone 16) := by
  have all : (x.subtrees.all fun t => t.2.all fun y => k.bindable cls y.2) = true :=
    List.all_eq_true.2 fun y hy => List.all_eq_true.2 fun z hz => fits y hy z hz
  change execPkBind tag g cls n s = _
  simp only [execPkBind, loaded, found, free, host, all, placed]
  rfl

/-- A graph none of whose generated launches is in the module has none pending. -/
theorem State.cancelPending_none (none' : ∀ m ∈ s.launches, m.source ≠ .graph g) : s.cancelPending g = s := by
  have foreign (m : Launch) (member : m ∈ s.launches) : (m.source == Source.graph g && m.cls.isSome && m.window.isNone) = false := by
    rw [beq_eq_false_iff_ne.2 (none' m member)]
    rfl
  have gone : (s.launches.filter fun m => m.source == Source.graph g && m.cls.isSome && m.window.isNone) = [] :=
    List.filter_eq_nil_iff.2 fun m member => ne_true_of_eq_false (foreign m member)
  have kept : (s.launches.filter fun m => !(m.source == Source.graph g && m.cls.isSome && m.window.isNone)) = s.launches :=
    List.filter_eq_self.2 fun m member => by rw [foreign m member]; rfl
  rw [State.cancelPending, gone, kept]
  rfl

theorem pkUnbind_unbinds (loaded : s.fe.graphs[g] = some x) (found : s.launch? n = some k) (placed : k.stage ≠ .placed) (none' : ∀ m ∈ s.launches, m.source ≠ .graph g)
    (tag : BitVec 32) (cls : BitVec 8) : exec (.pkUnbind tag g cls n) s = .next ((s.updGraph g fun x => { x with binding := none }).packetDone 16) := by
  have running : (k.stage != .placed) = true := bne_iff_ne.2 placed
  change execPkUnbind tag g cls n s = _
  simp only [execPkUnbind, loaded, found, running]
  exact congrArg (fun t : State => Host.Outcome.next (t.packetDone 16)) (State.cancelPending_none none')

/-- The graph that a change of a loaded graph leaves, a queue's packet behind it done. -/
theorem State.graph_updGraph_done (source : s.source = .queue q) (loaded : s.fe.graphs[g] = some x) (f : GraphState → GraphState) (n : Nat) :
    ((s.updGraph g f).packetDone n).fe.graphs[g] = some (f x) := by
  rw [State.packetDone_queue (s := s.updGraph g f) source]
  exact (s.graph_updGraph g f).trans (congrArg (Option.map f) loaded)

/-- Settles O37: each packet, and what it leaves of the front end's books. -/
theorem plainPackets : Obligations.PlainPackets := by
  intro s q l at'
  have source := at'.source
  refine ⟨fun tag n => ?nop, fun tag => ?ffence, fun tag g first => ?run, fun tag g free idle => ?unload, fun tag g cls n x k loaded found free placed host fits => ?bind,
    fun tag g cls n x k loaded found placed none' => ?unbind⟩
  case nop => exact ⟨_, rfl, at'.passes rfl rfl _, (State.onlyBooks_of rfl).packetDone source _⟩
  case ffence =>
    refine ⟨_, rfl, at'.passes_updExec rfl 8, ffence_window at', ?_⟩
    rw [source]
    exact (s.onlyBooks_updExec ..).packetDone source 8
  case run =>
    refine ⟨_, pkGraphRun_pushes at' first tag g, at'.passes (t := s.pushing q g) rfl rfl 32, ⟨pusher q, rfl, ?_⟩, (State.onlyBooks_of rfl).packetDone (t := s.pushing q g) source 32⟩
    rw [State.packetDone_queue (s := s.pushing q g) source]
    exact ⟨rfl, mem_insertTrigger ..⟩
  case unload =>
    obtain ⟨here, others⟩ := s.graphs_holding g none
    refine ⟨_, pkGraphUnload_unbound free idle tag, at'.passes (t := s.holding g none) rfl rfl 32, ?_⟩
    rw [State.packetDone_queue (s := s.holding g none) source]
    exact ⟨here, others, State.onlyBooks_of rfl⟩
  case bind =>
    exact ⟨_, pkBind_binds loaded found free placed host fits tag, at'.passes (t := s.updGraph g _) rfl rfl 16, State.graph_updGraph_done source loaded _ 16,
      (State.onlyBooks_of rfl).packetDone (t := s.updGraph g _) source 16⟩
  case unbind =>
    exact ⟨_, pkUnbind_unbinds loaded found placed none' tag cls, at'.passes (t := s.updGraph g _) rfl rfl 16, State.graph_updGraph_done source loaded _ 16,
      (State.onlyBooks_of rfl).packetDone (t := s.updGraph g _) source 16⟩

end Sys2Proof.Machine
end

section
/-! SUPPORT. Reads of the front end in a memory without errors (R121, R396), and a queue that freezes (R416); buffers, predicates, loops, waits and ends (R400, R404 to R407); then
the statement O38. -/

namespace Sys2Proof.Machine

variable {s t : State} {q : QueueIx} {l : Level}

/-! ### Reads of the front end (R121, R396) -/

theorem State.feRead_of_clean (clean : s.ecc = []) {a : Nat} (dram : bit a 55 = false) : s.feRead a = (s, some (BitVec.ofNat 64 (readLE s.dram a 8))) := by
  simp only [State.feRead, dram, State.hardError_of_clean clean, State.softRead_of_clean clean, State.readPhys]
  rfl

/-! ### Packets that freeze their queue (R416) -/

/-- A queue that freezes. -/
def QueueState.freezing (x : QueueState) (reason addr : Nat) (skip : Bool) : QueueState :=
  { x with frozen := true, reason := BitVec.ofNat 8 reason, fault := BitVec.ofNat 56 addr, skipOnResume := skip }

/-- The queue has frozen with its FAULT record; its interrupt is still to come. -/
def State.freezing (s : State) (q : QueueIx) (reason : Nat) (tag : BitVec 32) : State :=
  (s.updQueue q (·.freezing reason s.packetAt.toNat true)).faultRec none 4 reason 0 false 0 s.packetAt.toNat tag.toNat 0

theorem State.packetFails_queue (source : s.source = .queue q) (reason : Nat) (tag : BitVec 32) : s.packetFails reason tag = (s.freezing q reason tag).irq q := by
  rw [State.packetFails, source]
  rfl

/-- A packet that fails freezes its queue; what it did before to that queue and to the front end's other books does not matter. -/
theorem AtPacket.packetFails_freezes (at' : AtPacket s q l) (source : t.source = s.source) (place : t.packetAt = s.packetAt) (books : s.onlyBooks t)
    (others : ∀ p, p ≠ q → t.fe.queues[p] = s.fe.queues[p]) (reason : Nat) (tag : BitVec 32) :
    s.frozeQueue (t.packetFails reason tag) q (BitVec.ofNat 8 reason) ∧ SameMachine s (t.packetFails reason tag) := by
  obtain ⟨same, trace⟩ := books
  have here := t.queue_updQueue q (·.freezing reason t.packetAt.toNat true)
  have logs : (t.freezing q reason tag).tr.buffer.map Rec.typ = t.tr.buffer.map Rec.typ ++ [0x08] := State.logs_record ..
  obtain ⟨p, i, interrupt⟩ := (t.freezing q reason tag).irq_only q
  rw [State.packetFails_queue (source.trans at'.source), interrupt]
  refine ⟨⟨congrArg QueueState.frozen here, congrArg QueueState.reason here, ?_, trace ▸ logs, fun p other => ?_⟩, same.trans ⟨rfl, rfl, rfl, rfl, rfl, rfl, rfl, rfl⟩⟩
  · exact (congrArg QueueState.fault here).trans ((BitVec.ofNat_toNat ..).trans ((BitVec.setWidth_eq _).trans place))
  · exact (t.queue_updQueue_ne q p (·.freezing reason t.packetAt.toNat true) other).trans (others p other)

/-! ### The innermost level (R400, R404, R406) -/

theorem AtPacket.level (at' : AtPacket s q l) : s.level? = some l := by
  rw [State.level?, at'.source]
  exact congrArg List.head? at'.levels

/-- The one level of a queue, its packet of n bytes done. -/
def Level.past (l : Level) (n ring : Nat) : Level := { l with pos := (l.pos + n) % ring, left := l.left - n, skip := l.skip - 1 }

/-- A change of the innermost level, behind a packet that is done. -/
theorem AtPacket.levels_updLevel (at' : AtPacket s q l) (n : Nat) (f : Level → Level) :
    ((s.packetDone n).updLevel f).fe.queues[q].exec.levels = [f (l.past n s.fe.queues[q].ring)] := by
  have source : (s.packetDone n).source = .queue q := by
    rw [State.packetDone_queue at'.source]
    exact at'.source
  have before : (s.packetDone n).fe.queues[q].exec.levels = [l.past n s.fe.queues[q].ring] := (at'.passes rfl rfl n).1
  rw [State.updLevel, source, State.stream_updExec, before]

theorem State.onlyBooks.updLevel (h : s.onlyBooks t) (source : t.source = .queue q) (f : Level → Level) : s.onlyBooks (t.updLevel f) := by
  rw [State.updLevel, source]
  exact h.trans (t.onlyBooks_updExec ..)

/-! ### `pk.ib`, `pk.pred` and `pk.loop` (R400, R404, R406) -/

/-- The level of a buffer of n double-words, as it is entered. -/
def Level.entered (a : BitVec 56) (n : Nat) : Level :=
  { base := a, pos := 0, left := 8 * n, loopStart := 0, loopLeft := 0, loopBody := 0, loopDone := 0, loopPasses := 0, skip := 0 }

theorem pkIb_enters (at' : AtPacket s q l) (tag : BitVec 32) (a : BitVec 56) (n : BitVec 20) :
    exec (.pkIb tag a n) s = .next (s.updExec s.source fun e => { e with levels := .entered a n.toNat :: e.levels, window := [] }) := by
  have shallow : ¬ 3 ≤ s.stream.levels.length := by
    rw [at'.stream, at'.levels]
    change ¬ 3 ≤ 1
    decide
  exact if_neg shallow

theorem pkPred_reads (at' : AtPacket s q l) {a : BitVec 56} {n : BitVec 8} (fits : s.packetsFit (.queue q) n.toNat 4 (s.levelDws (.queue q)) = true)
    (dram : bit a.toNat 55 = false) (tag : BitVec 32) (v : Word) (c : Cond) :
    exec (.pkPred tag a v c n) s = .next
      (if condHolds c (BitVec.ofNat 64 (readLE s.dram a.toNat 8)) v then s.packetDone 32 else (s.packetDone 32).updLevel fun l => { l with skip := n.toNat }) := by
  have kept : ¬ (decide (l.loopPasses ≠ 0) && decide (l.loopBody < l.loopDone + 1 + n.toNat) || !s.packetsFit s.source n.toNat 4 (s.levelDws s.source)) = true := by
    simp [at'.source, at'.straight, fits]
  change execPkPred tag a v c n s = _
  simp only [execPkPred, at'.level, kept, State.feRead_of_clean at'.clean dram]
  rfl

/-- A level that starts a loop of b packets, n times. -/
def Level.looping (b n : Nat) (l : Level) : Level := { l with loopStart := l.pos, loopLeft := l.left, loopBody := b, loopDone := 0, loopPasses := n }

theorem State.source_packetDone (source : s.source = .queue q) (n : Nat) : (s.packetDone n).source = .queue q := by
  rw [State.packetDone_queue source]
  exact source

theorem pkLoop_starts (at' : AtPacket s q l) {b : BitVec 8} (fits : s.packetsFit (.queue q) b.toNat 2 (s.levelDws (.queue q)) = true) (tag : BitVec 32) (n : BitVec 16) :
    exec (.pkLoop tag n b) s = .next (((s.packetDone 16).updLevel (·.looping b.toNat n.toNat)).updExec (.queue q) fun e => { e with window := [] }) := by
  have kept : ¬ (decide (l.loopPasses ≠ 0) || !s.packetsFit s.source b.toNat 2 (s.levelDws s.source)) = true := by
    simp [at'.source, at'.straight, fits]
  rw [← State.source_packetDone at'.source 16]
  change execPkLoop tag n b s = _
  simp only [execPkLoop, at'.level, kept]
  rfl

/-! ### `pk.wait` (R405) -/

/-- A stream whose `pk.wait` has read for the first time, with the words that it executes on and the tick of its timeout. -/
def Stream'.awaiting (e : Stream') (ws : List Word) (tick : Nat) (lim : BitVec 32) : Stream' :=
  { e with waiting := some ws, waitFrom := some tick, waitEnd := if lim = 0 then none else some (tick + lim.toNat * 1024) }

section Wait

variable {a : BitVec 56} {v : Word} {c : Cond} (at' : AtPacket s q l) (dram : bit a.toNat 55 = false)
include at' dram

theorem State.waitRead_holds (holds : condHolds c (BitVec.ofNat 64 (readLE s.dram a.toNat 8)) v = true) (tag lim : BitVec 32) (late : Bool) :
    s.waitRead tag a v c lim late = s.packetDone 32 := by
  simp only [State.waitRead, State.feRead_of_clean at'.clean dram, holds, if_true]

/-- A `pk.wait` whose test fails at its first read waits from that tick on. -/
theorem State.waitRead_waits (fails : condHolds c (BitVec.ofNat 64 (readLE s.dram a.toNat 8)) v = false) (first : s.fe.queues[q].exec.waitFrom = none) (tag lim : BitVec 32) :
    let t := s.waitRead tag a v c lim false
    t.fe.queues[q].exec = s.fe.queues[q].exec.awaiting (s.packetWords s.source) s.tick lim ∧ s.onlyBooks t := by
  have waits : s.waitRead tag a v c lim false = s.updExec s.source fun e => match e.waitFrom with | some _ => e | none => e.awaiting (s.packetWords s.source) s.tick lim := by
    simp only [State.waitRead, State.feRead_of_clean at'.clean dram, fails]
    rfl
  rw [waits, at'.source]
  refine ⟨?_, s.onlyBooks_updExec ..⟩
  rw [State.stream_updExec, first]

/-- One whose test fails at its last read freezes the queue. -/
theorem State.waitRead_late (fails : condHolds c (BitVec.ofNat 64 (readLE s.dram a.toNat 8)) v = false) (tag lim : BitVec 32) :
    s.frozeQueue (s.waitRead tag a v c lim true) q 6 ∧ SameMachine s (s.waitRead tag a v c lim true) := by
  have late : s.waitRead tag a v c lim true = (s.updExec s.source fun e => { e with waiting := none, waitFrom := none, waitEnd := none }).packetFails 6 tag := by
    simp only [State.waitRead, State.feRead_of_clean at'.clean dram, fails]
    rfl
  rw [late, at'.source]
  exact at'.packetFails_freezes (State.updExec_source ..) (State.updExec_packetAt ..) (s.onlyBooks_updExec ..) (fun _ other => s.queue_updExec_ne q _ other) 6 tag

omit dram in
theorem pkWaitTimeout_reads {e : Nat} (due : s.fe.queues[q].exec.waitEnd = some e) (now : e ≤ s.tick) {tag lim : BitVec 32}
    (words : packetOf (s.fe.queues[q].exec.waiting.getD (s.packetWords (.queue q))) = some (.pkWait tag a v c lim))
    (place : s.packetAt = BitVec.ofNat 56 (l.base.toNat + l.pos)) : exec (.pkWaitTimeout (.queue q)) s = .next (s.waitRead tag a v c lim true) := by
  have stands : s.fe.queues[q].exec.at' = l.base.toNat + l.pos := by rw [Stream'.at', at'.levels]
  have same : ({ s with source := .queue q, packetAt := BitVec.ofNat 56 s.fe.queues[q].exec.at' } : State) = s := by
    rw [stands, ← place, ← at'.source]
  change execPkWaitTimeout (.queue q) s = _
  simp only [execPkWaitTimeout, State.exec?, due, now, decide_true, same, words]
  rfl

end Wait

/-! ### `pk.end` (R407) -/

theorem pkEnd_executes (at' : AtPacket s q l) (tag : BitVec 32) :
    exec (.pkEnd tag) s = .next (if s.fe.queues[q].exec.settled then s.packetDone 8 else s.updExec (.queue q) fun e => { e with ending := true }) := by
  change execPkEnd tag s = _
  simp only [execPkEnd, at'.source, at'.stream, at'.levels]
  exact (apply_ite Host.Outcome.next ..).symm

theorem Stream'.settled_iff {e : Stream'} : e.settled = true ↔ e.pending = [] ∧ e.issued = [] := by
  simp [Stream'.settled]

/-- An end that completes. -/
theorem endCompletion_passes (ending : s.fe.queues[q].exec.ending = true) (settled : s.fe.queues[q].exec.settled = true) (frozen : s.fe.queues[q].frozen = false) :
    exec (.endCompletion q) s = .next (({ s with source := .queue q } : State).updExec (.queue q) fun e => { e.done (some s.fe.queues[q].ring) 8 with ending := false }) := by
  have ends : (s.fe.queues[q].exec.ending && s.fe.queues[q].exec.settled && !s.fe.queues[q].frozen) = true := by rw [ending, settled, frozen]; rfl
  exact if_pos ends

/-- Settles O38: what each packet leaves of its queue's levels, and where a `pk.wait` or `pk.end` leaves the queue waiting. -/
theorem controlPackets : Obligations.ControlPackets := by
  intro s q l at'
  have source := at'.source
  refine ⟨fun tag a n => ?ib, fun tag a v c n fits dram => ?pred, fun tag n b fits => ?loop, fun tag a v c lim dram => ?wait, fun tag => ?ends, fun ending pending issued frozen => ?completes⟩
  case ib =>
    refine ⟨_, pkIb_enters at' tag a n, ?_⟩
    dsimp only
    rw [source, State.stream_updExec]
    exact ⟨⟨.entered a n.toNat, congrArg (List.cons _) at'.levels, rfl, rfl, rfl, rfl, rfl⟩, rfl, s.onlyBooks_updExec ..⟩
  case pred =>
    refine ⟨_, pkPred_reads at' fits dram tag v c, ?_⟩
    have books : s.onlyBooks (s.packetDone 32) := (State.onlyBooks_of rfl).packetDone source 32
    split
    · exact ⟨⟨_, (at'.passes rfl rfl 32).1, rfl, rfl, rfl⟩, books⟩
    · exact ⟨⟨_, at'.levels_updLevel 32 _, rfl, rfl, rfl⟩, books.updLevel (State.source_packetDone source 32) _⟩
  case loop =>
    refine ⟨_, pkLoop_starts at' fits tag n, ?_⟩
    have books : s.onlyBooks (s.packetDone 16) := (State.onlyBooks_of rfl).packetDone source 16
    dsimp only
    rw [State.stream_updExec]
    exact ⟨⟨.looping b.toNat n.toNat (l.past 16 s.fe.queues[q].ring), at'.levels_updLevel 16 _, rfl, rfl, rfl, rfl, rfl⟩, rfl,
      (books.updLevel (State.source_packetDone source 16) _).trans (State.onlyBooks_updExec ..)⟩
  case wait =>
    refine ⟨fun holds => ⟨_, rfl, ?passes⟩, fun fails first => ⟨_, rfl, ?waits⟩, fun fails e due now words place => ⟨_, pkWaitTimeout_reads at' due now words place, ?late⟩⟩
    case passes =>
      rw [State.waitRead_holds at' dram holds]
      exact ⟨at'.passes rfl rfl 32, (State.onlyBooks_of rfl).packetDone source 32⟩
    case waits =>
      obtain ⟨here, books⟩ := State.waitRead_waits at' dram fails first tag lim
      rw [here]
      refine ⟨at'.levels, rfl, ?_, books⟩
      rw [Nat.mul_comm]
      rfl
    case late => exact State.waitRead_late at' dram fails tag lim
  case ends =>
    refine ⟨fun pending issued => ⟨_, pkEnd_executes at' tag, ?_⟩, fun unsettled => ⟨_, pkEnd_executes at' tag, ?_⟩⟩
    · rw [if_pos (Stream'.settled_iff.2 ⟨pending, issued⟩)]
      exact ⟨at'.passes rfl rfl 8, (State.onlyBooks_of rfl).packetDone source 8⟩
    · rw [if_neg (ne_true_of_eq_false unsettled)]
      dsimp only
      rw [State.stream_updExec]
      exact ⟨rfl, at'.levels, s.onlyBooks_updExec ..⟩
  case completes =>
    refine ⟨_, endCompletion_passes ending (Stream'.settled_iff.2 ⟨pending, issued⟩) frozen, ?_⟩
    have here := State.queue_updExec { s with source := .queue q } q fun e => { e.done (some s.fe.queues[q].ring) 8 with ending := false }
    refine ⟨⟨?_, (congrArg QueueState.frozen here).trans rfl, fun _ other => State.queue_updExec_ne _ q _ other⟩, congrArg (fun x => x.exec.ending) here, State.onlyBooks_of rfl⟩
    exact (congrArg (fun x => x.exec.levels) here).trans (Stream'.done_levels at'.levels at'.straight ..)

end Sys2Proof.Machine
end

section
/-! SUPPORT. Signals (R408): what one that is written leaves, and what one that must wait joins; then the statement O39. -/

namespace Sys2Proof.Machine

variable {s t u : State} {q : QueueIx} {l : Level} {p : PendSignal}

/-! ### A signal that is written -/

/-- What a signal writes: VALUE, or ERRVAL in its place, or the sum of that and what stands there. -/
def State.signalValue (s : State) (p : PendSignal) : Word :=
  let v := if p.error then p.errval else p.value
  if p.op = .add then BitVec.ofNat 64 (readLE s.dram p.addr.toNat 8) + v else v

/-- The eight bytes of a signal have taken a value, with its SIGNAL record; nothing else of the machine has changed. -/
structure SignalWritten (s : State) (a : BitVec 56) (v : Word) (t : State) : Prop where
  word : readLE t.dram a.toNat 8 = v.toNat
  others : ∀ x, x < a.toNat ∨ a.toNat + 8 ≤ x → readByte t.dram x = readByte s.dram x
  hostMem : t.hostMem = s.hostMem
  cores : t.cores = s.cores
  dies : t.dies = s.dies
  launches : t.launches = s.launches
  logs : t.tr.buffer.map Rec.typ = s.tr.buffer.map Rec.typ ++ [0x10]

section
variable {a : BitVec 56} {v : Word}

theorem SignalWritten.then_books (h : SignalWritten s a v t) (books : t.onlyBooks u) : SignalWritten s a v u := by
  obtain ⟨same, trace⟩ := books
  exact ⟨same.dram ▸ h.word, same.dram ▸ h.others, same.hostMem.trans h.hostMem, same.cores.trans h.cores, same.dies.trans h.dies, same.launches.trans h.launches,
    trace ▸ h.logs⟩

theorem SignalWritten.after_books (books : s.onlyBooks t) (h : SignalWritten t a v u) : SignalWritten s a v u := by
  obtain ⟨same, trace⟩ := books
  exact ⟨h.word, same.dram ▸ h.others, h.hostMem.trans same.hostMem, h.cores.trans same.cores, h.dies.trans same.dies, h.launches.trans same.launches, trace ▸ h.logs⟩

end

/-- The word and the record of a signal, before its interrupt. -/
def State.signalling (s : State) (src : Source) (p : PendSignal) : State :=
  ({ s with dram := writeBytes s.dram p.addr.toNat (leBytes 8 (s.signalValue p).toNat) } : State).signalRec src p (s.signalValue p) p.error

theorem State.writeSignal_of_clean (clean : s.ecc = []) (dram : bit p.addr.toNat 55 = false) (src : Source) :
    s.writeSignal src p = (if p.irq then (s.signalling src p).irq p.vector.toNat else s.signalling src p, true) := by
  cases op : p.op with
  | write =>
    simp only [State.writeSignal, State.signalling, State.signalValue, op, State.feWrite_of_clean clean dram]
    rfl
  | add =>
    simp only [State.writeSignal, State.signalling, State.signalValue, op, State.feRead_of_clean clean dram, Option.map_some, State.feWrite_of_clean clean dram]
    rfl

theorem State.signalling_written (wf : Memory.wf s.dram = true) (src : Source) (p : PendSignal) : SignalWritten s p.addr (s.signalValue p) (s.signalling src p) where
  word := readLE_writeBytes_word wf ..
  others x outside := readByte_writeBytes_outside wf (by rwa [leBytes_length])
  hostMem := rfl
  cores := rfl
  dies := rfl
  launches := rfl
  logs := State.logs_record ..

/-- A signal into LPDDR 6 is written, its interrupt changing the interrupts only. -/
theorem State.writeSignal_written (clean : s.ecc = []) (wf : Memory.wf s.dram = true) (dram : bit p.addr.toNat 55 = false) (src : Source) :
    ∃ t, s.writeSignal src p = (t, true) ∧ SignalWritten s p.addr (s.signalValue p) t ∧ t.fe = s.fe ∧ t.source = s.source := by
  refine ⟨_, State.writeSignal_of_clean clean dram src, ?_⟩
  have written := State.signalling_written wf src p
  split
  · obtain ⟨i, j, interrupt⟩ := (s.signalling src p).irq_only p.vector.toNat
    rw [interrupt]
    exact ⟨⟨written.word, written.others, rfl, rfl, rfl, rfl, written.logs⟩, rfl, rfl⟩
  · exact ⟨written, rfl, rfl⟩

/-! ### `pk.signal` and SIGNAL_WRITE -/

/-- The signal of a packet, as its stream stands. -/
def Stream'.signal (e : Stream') (tag : BitVec 32) (addr : BitVec 56) (value : Word) (op : SigOp) (after irq : Bool) (vector : BitVec 8) (errval : Word) : PendSignal :=
  { addr, value, op, irq, vector, errval, tag, afterSerial := e.nextSerial, fromSerial := e.lastAfter,
    error := after && e.cancelled.any fun k => decide (e.lastAfter ≤ k) && decide (k < e.nextSerial) }

/-- A stream whose pending signals one more has joined. -/
def Stream'.joined (e : Stream') (p : PendSignal) : Stream' := { e with pending := e.pending ++ [p], lastAfter := e.nextSerial }

section
variable (tag : BitVec 32) (a : BitVec 56) (v : Word) (op : SigOp) (irq : Bool) (vec : BitVec 8) (e : Word)

theorem pkSignal_writes (at' : AtPacket s q l) (first : s.fe.queues[q].exec.pending = [])
    (written : s.writeSignal s.source (s.fe.queues[q].exec.signal tag a v op false irq vec e) = (t, true)) :
    exec (.pkSignal tag a v op false irq vec e) s = .next (t.packetDone 40) := by
  rw [← at'.stream] at first written
  change execPkSignal tag a v op false irq vec e s = _
  rw [Stream'.signal] at written
  simp only [execPkSignal, first, written]
  rfl

theorem pkSignal_joins (at' : AtPacket s q l) (room : s.fe.queues[q].exec.pending.length < 16) :
    exec (.pkSignal tag a v op true irq vec e) s = .next ((s.updExec s.source (·.joined (s.fe.queues[q].exec.signal tag a v op true irq vec e))).packetDone 40) := by
  rw [← at'.stream] at room ⊢
  change execPkSignal tag a v op true irq vec e s = _
  simp only [execPkSignal, if_true, Nat.not_le.2 room, if_false]
  rfl

end

theorem signalWrite_writes {rest : List PendSignal} (head : s.fe.queues[q].exec.pending = p :: rest) (ripe : ∀ k ∈ s.fe.queues[q].exec.issued, p.afterSerial ≤ k.1)
    (written : (s.updExec (.queue q) fun e => { e with pending := rest }).writeSignal (.queue q) p = (t, true)) : exec (.signalWrite (.queue q)) s = .next t := by
  have ready : s.fe.queues[q].exec.ripe p = true := List.all_eq_true.2 fun k member => decide_eq_true (ripe k member)
  change execSignalWrite (.queue q) s = _
  simp only [execSignalWrite, State.exec?, head, ready, written]
  rfl

/-- Settles O39: a signal written at once or once it is ripe, and one that joins the pending ones. -/
theorem signals : Obligations.Signals := by
  intro s q l at' wf
  have source := at'.source
  refine ⟨fun tag a v irq vec e dram first => ⟨?write, ?add⟩, fun tag a v op irq vec e room => ?joins, fun p rest head ripe dram => ?ripe⟩
  case write | add =>
    obtain ⟨t, run, written, fe, here⟩ := State.writeSignal_written (p := s.fe.queues[q].exec.signal tag a v _ false irq vec e) at'.clean (State.dram_wf wf) dram s.source
    have done := written.then_books ((State.onlyBooks_of rfl).packetDone (here.trans source) 40)
    exact ⟨_, pkSignal_writes tag a v _ irq vec e at' first run, done.word, done.others, done.hostMem, done.cores, done.dies, done.launches, done.logs,
      at'.passes here (congrArg FrontEnd.queues fe) 40⟩
  case joins =>
    refine ⟨_, pkSignal_joins tag a v op irq vec e at' room, ⟨s.fe.queues[q].exec.signal tag a v op true irq vec e, ?_, rfl, rfl, rfl, rfl, rfl, rfl, rfl⟩,
      at'.passes_updExec rfl 40, ?_⟩
    · rw [State.exec_packetDone ((State.updExec_source ..).trans source), source, State.stream_updExec]
      rfl
    · rw [source]
      exact (s.onlyBooks_updExec ..).packetDone ((State.updExec_source ..).trans source) 40
  case ripe =>
    have taken := s.onlyBooks_updExec q fun e => { e with pending := rest }
    have stream := s.stream_updExec q fun e => { e with pending := rest }
    obtain ⟨t, run, written, fe, -⟩ := State.writeSignal_written (s := s.updExec (.queue q) fun e => { e with pending := rest }) (p := p) at'.clean (State.dram_wf wf) dram (.queue q)
    have done := written.after_books taken
    refine ⟨t, signalWrite_writes head ripe run, done.word, done.others, done.hostMem, done.cores, done.dies, done.launches, done.logs, ?_⟩
    dsimp only
    rw [fe, stream]
    exact ⟨rfl, at'.levels⟩

end Sys2Proof.Machine
end

section
/-! SUPPORT. Bytes moved in bursts (R121, R413): writing them burst by burst writes them all; then the statement O40. -/

namespace Sys2Proof.Machine

variable {s t : State} {q : QueueIx} {l : Level}

/-! ### Writes in groups -/

/-- Bytes with their places, from place k on. -/
def placedFrom (k : Nat) (bytes : List Byte) : List (Nat × Byte) := (bytes.zipIdx k).map fun e => (e.2, e.1)

theorem placedFrom_cons (k : Nat) (b : Byte) (bytes : List Byte) : placedFrom k (b :: bytes) = (k, b) :: placedFrom (k + 1) bytes := by
  rw [placedFrom, List.zipIdx_cons, List.map_cons]
  rfl

theorem lt_of_mem_placedFrom {k : Nat} {bytes : List Byte} {e : Nat × Byte} (member : e ∈ placedFrom k bytes) : e.1 < k + bytes.length := by
  induction bytes generalizing k with
  | nil => cases member
  | cons b bytes ih =>
    rw [placedFrom_cons] at member
    rw [List.length_cons]
    rcases List.mem_cons.1 member with rfl | later
    · omega
    · have := ih later
      omega

/-- A group begins at the place of one of its bytes. -/
theorem groupBy_starts {w : Nat} {off : Nat → Nat} {bytes : List (Nat × Byte)} {g : Nat × List Byte} (member : g ∈ groupBy w off bytes) : ∃ e ∈ bytes, g.1 = e.1 := by
  induction bytes generalizing g with
  | nil => cases member
  | cons e bytes ih =>
    have later (h : g ∈ groupBy w off bytes) : ∃ e' ∈ e :: bytes, g.1 = e'.1 := by
      obtain ⟨e', member', same⟩ := ih h
      exact ⟨e', List.mem_cons_of_mem _ member', same⟩
    rw [groupBy] at member
    split at member
    next y bs rest groups =>
      split at member
      · rcases List.mem_cons.1 member with rfl | h
        · exact ⟨e, List.mem_cons_self, rfl⟩
        · exact later (groups ▸ List.mem_cons_of_mem _ h)
      · rcases List.mem_cons.1 member with rfl | h
        · exact ⟨e, List.mem_cons_self, rfl⟩
        · exact later (groups ▸ h)
    next =>
      rcases List.mem_cons.1 member with rfl | h
      · exact ⟨e, List.mem_cons_self, rfl⟩
      · cases h

/-- Groups of bytes written one after another, each at its place behind `a`. -/
def writeGroups (a : Nat) (groups : List (Nat × List Byte)) (m : Memory) : Memory := groups.foldl (fun m g => writeBytes m (a + g.1) g.2) m

/-- Bytes written in groups are written as they would be in one run. -/
theorem writeGroups_groupBy (w a k : Nat) (bytes : List Byte) (m : Memory) : writeGroups a (groupBy w (fun x => a + x) (placedFrom k bytes)) m = writeBytes m (a + k) bytes := by
  induction bytes generalizing k m with
  | nil => rfl
  | cons b bytes ih =>
    have rest := ih (k + 1) (writeByte m (a + k) b)
    rw [placedFrom_cons, groupBy]
    split
    next y bs groups h =>
      rw [h] at rest
      split
      next joined =>
        have next : y = k + 1 := by
          have : a + k + 1 = a + y := by simpa using (Bool.and_eq_true_iff.1 joined).1
          omega
        subst next
        exact rest
      next => exact rest
    next h =>
      rw [h] at rest
      exact rest

/-! ### Transfers (R413) -/

theorem bit_55_of_lt {a : Nat} (h : a < 2 ^ 55) : bit a 55 = false := by
  rw [bit, Nat.div_eq_of_lt h]
  rfl

theorem bit_55_of_host {a : BitVec 56} (h : 2 ^ 55 ≤ a.toNat) : bit a.toNat 55 = true := by
  have top : a.toNat / 2 ^ 55 = 1 := by omega
  rw [bit, top]
  rfl

/-- Bytes stand in LPDDR 6 from an address on. -/
def State.dramWritten (s : State) (a : Nat) (bytes : List Byte) : State := { s with dram := writeBytes s.dram a bytes }

/-- Bursts written by the front end into LPDDR 6 without errors. -/
theorem State.feWrite_groups (clean : s.ecc = []) (a : Nat) (groups : List (Nat × List Byte)) (dram : ∀ g ∈ groups, bit (a + g.1) 55 = false) :
    groups.foldl (fun (r : State × Bool) g => if r.2 then r.1.feWrite (a + g.1) g.2 else r) (s, true) = ({ s with dram := writeGroups a groups s.dram }, true) := by
  induction groups generalizing s with
  | nil => rfl
  | cons g groups ih =>
    have first := State.feWrite_of_clean clean (dram g List.mem_cons_self) g.2
    rw [List.foldl_cons, if_pos rfl, first]
    exact ih (s := s.dramWritten (a + g.1) g.2) clean fun h member => dram h (List.mem_cons_of_mem _ member)

/-- Bytes written to LPDDR 6 in bursts. -/
theorem State.feWrite_bursts (clean : s.ecc = []) {a : Nat} (bytes : List Byte) (within : a + bytes.length ≤ 2 ^ 55) :
    (groupBy 32 (fun x => a + x) (bytes.zipIdx.map fun e => (e.2, e.1))).foldl (fun (r : State × Bool) g => if r.2 then r.1.feWrite (a + g.1) g.2 else r) (s, true) =
      (s.dramWritten a bytes, true) := by
  rw [State.feWrite_groups clean]
  · have whole := writeGroups_groupBy 32 a 0 bytes s.dram
    rw [placedFrom, Nat.add_zero] at whole
    rw [whole]
    rfl
  · intro g member
    obtain ⟨e, mem, start⟩ := groupBy_starts member
    have inside : e.1 < 0 + bytes.length := lt_of_mem_placedFrom mem
    exact bit_55_of_lt (by omega)

/-- The bytes that stand at a physical address. -/
theorem State.transfer_dram (clean : s.ecc = []) {a b n : Nat} (dram : a < 2 ^ 55) (within : b + n ≤ 2 ^ 55) :
    s.transfer a b n = (s.dramWritten b (readBytes s.dram a n), some (readBytes s.dram a n)) := by
  have bursts := State.feWrite_bursts clean (a := b) (readBytes s.dram a n) (by rwa [readBytes_length])
  simp only [State.transfer, bit_55_of_lt dram, clean, List.isEmpty_nil, Bool.false_and, Bool.or_true, if_true, Option.getD_none, State.softRead_of_clean clean, State.readPhysBytes,
    Bool.false_eq_true, if_false, bursts]
  rfl

/-- The state after a read of the host that has been asked for (R413). -/
def State.asked (s : State) : State := { s with fresh := s.fresh + 1 }

theorem State.transfer_host (clean : s.ecc = []) {a b n : Nat} (host : bit a 55 = true) (answers : Config.hostReadFails s.fresh = false) (within : b + n ≤ 2 ^ 55) :
    s.transfer a b n = (s.asked.dramWritten b (readBytes s.hostMem (a % 2 ^ 55) n), some (readBytes s.hostMem (a % 2 ^ 55) n)) := by
  have bursts := State.feWrite_bursts (s := s.asked) clean (a := b) (readBytes s.hostMem (a % 2 ^ 55) n) (by rwa [readBytes_length])
  simp only [State.asked] at bursts ⊢
  simp only [State.transfer, host, answers, Bool.and_false, Bool.true_or, if_true, Option.getD_none, State.readPhysBytes, Bool.false_eq_true, if_false, bursts]
  rfl

theorem State.transfer_fails {a : Nat} (host : bit a 55 = true) (fails : Config.hostReadFails s.fresh = true) (b n : Nat) : s.transfer a b n = (s.asked, none) := by
  simp only [State.transfer, host, fails, Bool.and_true, if_true]
  rfl

/-- The bytes that a run of bytes becomes when written: the destination takes them, every other byte stands. -/
theorem readByte_moved {m : Memory} (wf : Memory.wf m = true) (from' : Memory) (a b n : Nat) :
    (∀ i < n, readByte (writeBytes m b (readBytes from' a n)) (b + i) = readByte from' (a + i)) ∧
      ∀ x, x < b ∨ b + n ≤ x → readByte (writeBytes m b (readBytes from' a n)) x = readByte m x := by
  refine ⟨fun i inside => ?_, fun x outside => readByte_writeBytes_outside wf (by rwa [readBytes_length])⟩
  rw [readByte_writeBytes_inside wf i (by rwa [readBytes_length])]
  simp [readBytes_eq_map]

/-! ### `pk.copy` and `pk.ingress` (R413) -/

theorem pkCopy_moves {bytes : List Byte} {tag : BitVec 32} {a b : BitVec 56} {n : BitVec 32} (moved : s.transfer a.toNat b.toNat n.toNat = (t, some bytes)) :
    exec (.pkCopy tag a b n) s = .next (t.packetDone 32) := by
  change execPkCopy tag a b n s = _
  rw [execPkCopy, moved]

/-- The INGRESS record of a transfer through the first lane. -/
def State.ingressRec (s : State) (id len : BitVec 32) (bytes : List Byte) : Rec :=
  { typ := 0x03, tick := s.tick, place := some (placeNoCore 0), trace := false,
    payload := [w64 (id.toNat + (0 : Fin 2).val * 2 ^ 32 + servoCode s.tm.servo * 2 ^ 34), w64 len.toNat, w64 (s.tick % 2 ^ 63), w64 (s.tick % 2 ^ 63), low63 s.tm.ns] ++
      digestWords (sha384 bytes) }

section
variable {tag id : BitVec 32} {a b : BitVec 56} {n : BitVec 32} (free : s.fe.hasherBusy[0] = none)
include free

theorem first_lane : ((List.finRange 2).find? fun n => s.fe.hasherBusy[n].isNone) = some 0 := by
  have lane : s.fe.hasherBusy[(0 : Fin 2)].isNone = true := Option.isNone_iff_eq_none.2 free
  exact List.find?_cons_of_pos (p := fun n : Fin 2 => s.fe.hasherBusy[n].isNone) lane

theorem pkIngress_moves {bytes : List Byte} (moved : s.transfer a.toNat b.toNat n.toNat = (t, some bytes)) :
    exec (.pkIngress tag id a b n) s = .next ((t.record (t.ingressRec id n bytes)).packetDone 40) := by
  change execPkIngress tag id a b n s = _
  rw [execPkIngress, first_lane free]
  simp only [moved]
  rfl

theorem pkIngress_fails (failed : s.transfer a.toNat b.toNat n.toNat = (t, none)) : exec (.pkIngress tag id a b n) s = .next (t.packetFails 7 tag) := by
  change execPkIngress tag id a b n s = _
  rw [execPkIngress, first_lane free]
  simp only [failed]

end

/-- Settles O40: the bytes move as they stood. That they move in one step is the model's choice (log entry 4), and so is which host reads fail (log entry 14). -/
theorem movePackets : Obligations.MovePackets := by
  intro s q l at' wf
  refine ⟨fun tag a b n dram _ within => ?copy, fun tag id a b n host top within free => ⟨fun answers => ?ingress, fun fails => ?fails⟩⟩
  case copy =>
    obtain ⟨inside, outside⟩ := readByte_moved (State.dram_wf wf) s.dram a.toNat b.toNat n.toNat
    let t := s.dramWritten b.toNat (readBytes s.dram a.toNat n.toNat)
    have passed := at'.passes (t := t) rfl rfl 32
    refine ⟨_, pkCopy_moves (State.transfer_dram at'.clean dram within), ?_⟩
    rw [State.packetDone_queue (s := t) at'.source] at passed ⊢
    exact ⟨inside, outside, passed, rfl, rfl, rfl, rfl, rfl⟩
  case ingress =>
    have moved := State.transfer_host at'.clean (bit_55_of_host host) answers within
    rw [show a.toNat % 2 ^ 55 = a.toNat - 2 ^ 55 by omega] at moved
    obtain ⟨inside, outside⟩ := readByte_moved (State.dram_wf wf) s.hostMem (a.toNat - 2 ^ 55) b.toNat n.toNat
    let t := s.asked.dramWritten b.toNat (readBytes s.hostMem (a.toNat - 2 ^ 55) n.toNat)
    let r := t.ingressRec id n (readBytes s.hostMem (a.toNat - 2 ^ 55) n.toNat)
    have passed := at'.passes (t := t.record r) rfl rfl 40
    refine ⟨_, pkIngress_moves free moved, ?_⟩
    rw [State.packetDone_queue (s := t.record r) at'.source] at passed ⊢
    exact ⟨inside, outside, passed, rfl, rfl, rfl, rfl, State.logs_record t r⟩
  case fails =>
    exact ⟨_, pkIngress_fails free (State.transfer_fails (bit_55_of_host host) fails ..),
      at'.packetFails_freezes (t := s.asked) rfl rfl (State.onlyBooks_of rfl) (fun _ _ => rfl) 7 tag⟩

end Sys2Proof.Machine
end

section
/-! SUPPORT. What the registers of a queue start anew (R397, R416, R417); then the statement O42. -/

namespace Sys2Proof.Machine

variable {s : State} {q : QueueIx} {l : Level}

/-! ### A queue that goes on (R397, R416) -/

/-- The level of a ring, from a place on. -/
def QueueState.ringLevel (x : QueueState) (pos : Nat) : Level :=
  { base := x.base, pos, left := 0, loopStart := 0, loopLeft := 0, loopBody := 0, loopDone := 0, loopPasses := 0, skip := 0 }

/-- A stream that goes on at some levels, with nothing fetched or waited for. -/
def Stream'.goingOn (e : Stream') (levels : List Level) : Stream' :=
  { e with levels, window := [], waiting := none, waitFrom := none, waitEnd := none, ending := false }

/-- A queue that is not frozen and goes on at some levels. -/
def QueueState.goingOn (x : QueueState) (levels : List Level) : QueueState := { x with frozen := false, exec := x.exec.goingOn levels }

/-- A queue that goes on at one level: not frozen, HEAD there, its fetch window empty; no other queue and nothing but the front end's books has changed. -/
theorem State.goesOn (s : State) (q : QueueIx) (f : QueueState → QueueState) (one : (f s.fe.queues[q]).exec.levels = [l]) (window : (f s.fe.queues[q]).exec.window = []) :
    let t := s.updQueue q f
    t.fe.queues[q] = f s.fe.queues[q] ∧ t.fe.queues[q].head = l.pos ∧ t.fe.queues[q].exec.levels.length = 1 ∧ t.fe.queues[q].exec.window = [] ∧
      (∀ p, p ≠ q → t.fe.queues[p] = s.fe.queues[p]) ∧ s.onlyBooks t := by
  have here : (s.updQueue q f).fe.queues[q] = f s.fe.queues[q] := s.queue_updQueue q f
  intro t
  rw [here, QueueState.head, one]
  exact ⟨rfl, rfl, rfl, window, fun p other => s.queue_updQueue_ne q p f other, s.onlyBooks_updQueue q f⟩

/-! ### Enable, discard and resume -/

/-- A ring's SIZELOG is valid (R397). -/
def sizelogOk (z : BitVec 5) : Bool := decide (12 ≤ z.toNat) && decide (z.toNat ≤ 24)

theorem sizelogOk_iff {z : BitVec 5} : sizelogOk z = true ↔ 12 ≤ z.toNat ∧ z.toNat ≤ 24 := by
  simp [sizelogOk]

theorem sizelogOk_false {z : BitVec 5} (h : z.toNat < 12 ∨ 24 < z.toNat) : sizelogOk z = false := by
  rw [← Bool.not_eq_true, sizelogOk_iff]
  omega

/-- A queue whose SIZELOG a write has changed, where the write is valid. -/
def QueueState.sized (x : QueueState) (z : BitVec 5) : QueueState := if sizelogOk z then { x with sizelog := z } else x

/-- A queue as ENABLE starts it: at the beginning of its ring. -/
def QueueState.enabled (x : QueueState) : QueueState := { x.goingOn [x.ringLevel 0] with enable := true }

theorem State.updQueue_updQueue (s : State) (q : QueueIx) (f g : QueueState → QueueState) : (s.updQueue q f).updQueue q g = s.updQueue q (g ∘ f) := by
  simp [State.updQueue]

section
variable {z : BitVec 5}

theorem QueueState.sized_of_ok (ok : sizelogOk z = true) (x : QueueState) : x.sized z = { x with sizelog := z } := if_pos ok

theorem QueueState.sized_of_bad (bad : sizelogOk z = false) (x : QueueState) : x.sized z = x := if_neg (ne_true_of_eq_false bad)

theorem queueEnable_enables (off : s.fe.queues[q].enable = false) (ok : sizelogOk z = true) :
    exec (.queueEnable q z) s = .next (s.updQueue q fun x => (x.sized z).enabled) := by
  have here : (s.updQueue q (·.sized z)).fe.queues[q] = { s.fe.queues[q] with sizelog := z } := (s.queue_updQueue q _).trans (QueueState.sized_of_ok ok _)
  have starts : ¬ ((s.updQueue q (·.sized z)).fe.queues[q].enable || !sizelogOk (s.updQueue q (·.sized z)).fe.queues[q].sizelog) = true := by
    rw [here, off, ok]
    exact Bool.false_ne_true
  exact (if_neg starts).trans (congrArg Host.Outcome.next (s.updQueue_updQueue q (·.sized z) (·.enabled)))

theorem queueEnable_invalid (bad : sizelogOk z = false) (stood : sizelogOk s.fe.queues[q].sizelog = false) : exec (.queueEnable q z) s = .next s := by
  have same : s.updQueue q (·.sized z) = s := by
    simp only [QueueState.sized_of_bad bad]
    exact s.updQueue_id q
  have stays : ((s.updQueue q (·.sized z)).fe.queues[q].enable || !sizelogOk (s.updQueue q (·.sized z)).fe.queues[q].sizelog) = true := by
    rw [same, stood]
    exact Bool.or_true _
  exact (if_pos stays).trans (congrArg Host.Outcome.next same)

end

section
variable (frozen : s.fe.queues[q].frozen = true)
include frozen

theorem frozen_not_thawed : ¬ (!s.fe.queues[q].frozen) = true := by
  rw [frozen]
  exact Bool.false_ne_true

theorem queueDiscard_discards : exec (.queueDiscard q) s = .next (s.updQueue q fun x => x.goingOn [x.ringLevel (x.tail.toNat / 8 * 8 % x.ring)]) :=
  if_neg (frozen_not_thawed frozen)

/-- A queue that froze at a packet goes on behind it (R397). -/
theorem queueResume_behind (reason : s.fe.queues[q].reason ≠ 5) (skip : s.fe.queues[q].skipOnResume = true) (ready : s.fe.queues[q].avail ≠ 0) :
    exec (.queueResume q) s = .next (s.updQueue q fun x => x.goingOn (x.exec.done (some x.ring) (8 + 8 * hdrSize (s.queueDw q 0))).levels) := by
  have skips : (s.fe.queues[q].skipOnResume && decide (s.fe.queues[q].avail ≠ 0)) = true := by rw [skip, decide_eq_true ready]; rfl
  refine (if_neg (frozen_not_thawed frozen)).trans (congrArg Host.Outcome.next ?_)
  rw [if_neg reason, skips]
  rfl

/-- One whose refusal was found late goes on where it stands (R414). -/
theorem queueResume_here (late : s.fe.queues[q].skipOnResume = false) : exec (.queueResume q) s = .next (s.updQueue q fun x => x.goingOn x.exec.levels) := by
  refine (if_neg (frozen_not_thawed frozen)).trans (congrArg Host.Outcome.next ?_)
  rw [late]
  rfl

end

/-- Settles O42: each write goes on at one level, and the place of that level is HEAD. -/
theorem queueRegisters : Obligations.QueueRegisters := by
  intro s q x
  refine ⟨fun z off low high => ?enable, fun z bad stood => queueEnable_invalid (sizelogOk_false bad) (sizelogOk_false stood), fun frozen => ?discard,
    fun l levels straight frozen reason => ⟨fun skip ready => ?behind, fun late => ?here⟩⟩
  case enable =>
    have ok : sizelogOk z = true := sizelogOk_iff.2 ⟨low, high⟩
    refine ⟨_, queueEnable_enables off ok, ?_⟩
    simp only [QueueState.sized_of_ok ok]
    obtain ⟨here, head, one, window, others, books⟩ := s.goesOn q (fun x => { x with sizelog := z }.enabled) rfl rfl
    refine ⟨?_, ?_, ?_, head, one, ?_, window, others, books⟩
    all_goals rw [here]; rfl
  case discard =>
    obtain ⟨here, head, one, window, others, books⟩ := s.goesOn q (fun x => x.goingOn [x.ringLevel (x.tail.toNat / 8 * 8 % x.ring)]) rfl rfl
    exact ⟨_, queueDiscard_discards frozen, congrArg QueueState.frozen here, head, one, window, others, books⟩
  case behind =>
    have done := Stream'.done_levels levels straight x.ring (8 + 8 * hdrSize (s.queueDw q 0))
    obtain ⟨here, head, -, window, others, books⟩ := s.goesOn q (fun x => x.goingOn (x.exec.done (some x.ring) (8 + 8 * hdrSize (s.queueDw q 0))).levels) done rfl
    refine ⟨_, queueResume_behind frozen reason skip ready, congrArg QueueState.frozen here, ?_, window, others, books⟩
    rw [Nat.add_assoc]
    exact head
  case here =>
    obtain ⟨here, head, -, window, others, books⟩ := s.goesOn q (fun x => x.goingOn x.exec.levels) levels rfl
    exact ⟨_, queueResume_here frozen late, congrArg QueueState.frozen here, head, window, others, books⟩

end Sys2Proof.Machine
end

section
/-! SUPPORT. Graphs and their triggers (R411, R422, R424, R425), and messages between firmware cores (R427); then the statement O43. -/

namespace Sys2Proof.Machine

variable {s : State} {q : QueueIx} {l : Level} {g : GraphIx} {x : GraphState}

/-! ### `pk.graph` load (R411, R422) -/

/-- The words of a stream of n double-words in LPDDR 6. -/
def State.dramWords (s : State) (a n : Nat) : List Word := (List.range n).map fun k => BitVec.ofNat 64 (readLE s.dram (a + 8 * k) 8)

theorem State.readPhys_dramWords {a n : Nat} (dram : ∀ k < n, bit (a + 8 * k) 55 = false) :
    ((List.range n).map fun k => w64 (s.readPhys (a + 8 * k) 8)) = s.dramWords a n :=
  List.map_congr_left fun k member => by
    rw [State.readPhys, if_neg (ne_true_of_eq_false (dram k (List.mem_range.1 member)))]
    rfl

/-- A graph is loaded, and its FE_GERR bit cleared. -/
def State.graphLoading (s : State) (g : GraphIx) (x : GraphState) : State :=
  { s with fe := { s.fe with graphs := s.fe.graphs.set g (some x), gerr := s.fe.gerr &&& ~~~(BitVec.ofNat 64 (2 ^ g.val)) } }

theorem pkGraphLoad_loads (clean : s.ecc = []) (free : s.graphBound g = false) (idle : s.graphBusy g = false) {a : BitVec 56} (dram : bit a.toNat 55 = false) {n : BitVec 12}
    (words : ∀ k < n.toNat, bit (a.toNat + 8 * k) 55 = false) (loads : s.loadGraph (s.dramWords a.toNat n.toNat) = some x) (tag : BitVec 32) :
    exec (.pkGraphLoad tag g a n) s = .next ((s.graphLoading g x).packetDone 32) := by
  change execPkGraphLoad tag g a n s = _
  simp only [execPkGraphLoad, free, idle, dram, State.hardError_of_clean clean, State.softRead_of_clean clean, Bool.false_eq_true, if_false, Bool.false_or, ite_self,
    State.readPhys_dramWords words, loads]
  rfl

theorem State.gerr_graphLoading (s : State) (g : GraphIx) (x : GraphState) : (s.graphLoading g x).fe.gerr.getLsbD g = false := by
  have set : (BitVec.ofNat 64 (2 ^ g.val)).getLsbD g = true := by
    rw [BitVec.getLsbD_ofNat, Nat.testBit_two_pow_self, Bool.and_true]
    exact decide_eq_true g.isLt
  change (s.fe.gerr &&& ~~~(BitVec.ofNat 64 (2 ^ g.val))).getLsbD g = false
  simp only [BitVec.getLsbD_and, BitVec.getLsbD_not, set, Bool.not_true, Bool.and_false]

/-! ### Triggers and runs (R424, R425) -/

theorem graphTrigger_enters (src : Fin 18) (loaded : s.fe.graphs[g] = some x) (room : s.fe.triggers.length < 16) :
    Runs s (.graphTrigger src g) fun t => t.fe.triggers = s.fe.triggers ++ [g] ∧ t.fe.pushes = s.fe.pushes.erase (src, g) ∧ t.fe.graphs = s.fe.graphs ∧ s.onlyBooks t := by
  have held : ¬ s.fe.graphs[g].isNone = true := by
    rw [loaded]
    exact Bool.false_ne_true
  exact ⟨_, (if_neg held).trans (if_neg (Nat.not_le.2 room)), rfl, rfl, rfl, State.onlyBooks_of rfl⟩

theorem graphTrigger_discards (src : Fin 18) (unloaded : s.fe.graphs[g] = none) :
    Runs s (.graphTrigger src g) fun t => t.fe.triggers = s.fe.triggers ∧ t.fe.gerr.getLsbD g = true ∧ s.onlyBooks t := by
  have missing : s.fe.graphs[g].isNone = true := Option.isNone_iff_eq_none.2 unloaded
  refine ⟨_, if_pos missing, rfl, ?_, State.onlyBooks_of rfl⟩
  change (setBit s.fe.gerr g).getLsbD g = true
  rw [getLsbD_setBit _ _ _ g.isLt, decide_eq_true rfl, Bool.or_true]

theorem graphRunStart_starts {rest : List GraphIx} (head : s.fe.triggers = g :: rest) (loaded : s.fe.graphs[g] = some x) (idle : x.run = none) :
    exec .graphRunStart s =
      .next (({ s with fe := { s.fe with triggers := rest } } : State).updGraph g fun x => { x with run := some (runStart (8 * x.words.length)) }) := by
  change execGraphRunStart s = _
  simp only [execGraphRunStart, head, loaded, idle]
  rfl

theorem graphRunEnd_ends {e : Stream'} (loaded : s.fe.graphs[g] = some x) (run : x.run = some e) (sound : e.failed = false) (whole : e.cancelled = [])
    (ending : e.ending = true) (settled : e.settled = true) : exec (.graphRunEnd g) s = .next (s.updGraph g fun x => { x with run := none }) := by
  have ended : e.over = true := by rw [Stream'.over, ending, settled, Bool.and_true, Bool.or_true]
  change execGraphRunEnd g s = _
  simp only [execGraphRunEnd, loaded, Option.bind_some, run, ended, sound, whole]
  rfl

/-! ### Messages (R427) -/

/-- The place of a pair of cores among the sequence numbers. -/
def mailPair (src dst : Fin 8) : Fin 64 := ⟨src.val * 8 + dst.val, by omega⟩

/-- The message that a core sends next to another. -/
def State.nextMessage (s : State) (src dst : Fin 8) (typ : Byte) (a b c : Word) : Message := { src, typ, seq := s.fe.mailSeq[mailPair src dst], a, b, c }

/-- The number of a pair of cores has been used. -/
def State.numbering (s : State) (src dst : Fin 8) : State :=
  { s with fe := { s.fe with mailSeq := s.fe.mailSeq.set (mailPair src dst) (s.fe.mailSeq[mailPair src dst] + 1) } }

/-- A mailbox with one message more. -/
def State.delivering (s : State) (dst : Fin 8) (m : Message) : State := { s with fe := { s.fe with mailboxes := s.fe.mailboxes.set dst (s.fe.mailboxes[dst] ++ [m]) } }

theorem mailboxMessage_delivers {src dst : Fin 8} (apart : src ≠ dst) (room : s.fe.mailboxes[dst].length < 16) (first : ∀ o ∈ s.fe.outbox, ¬(o.1 = dst ∧ o.2.src = src))
    (typ : Byte) (a b c : Word) :
    exec (.mailboxMessage src dst typ a b c) s = .next ((s.numbering src dst).delivering dst (s.nextMessage src dst typ a b c)) := by
  have accepted : ¬ (decide (16 ≤ s.fe.mailboxes[dst].length) || s.fe.outbox.any (fun o => o.1 == dst && o.2.src == src)) = true := by
    rw [decide_eq_false (Nat.not_le.2 room), Bool.false_or, List.any_eq_true]
    rintro ⟨o, member, held⟩
    exact first o member (by simpa using held)
  exact (if_neg apart).trans (congrArg Host.Outcome.next (if_neg accepted))

/-- Settles O43: what a load, a trigger, the start and the end of a run and a message each leave of the front end's books. -/
theorem graphs : Obligations.Graphs := by
  intro s
  refine ⟨fun q l tag g a n x at' free idle dram loads words => ?load, fun src g x loaded room => graphTrigger_enters src loaded room,
    fun src g unloaded => graphTrigger_discards src unloaded, fun g rest x head loaded idle => ?start, fun g x e loaded run sound whole ending pending issued => ?ends,
    fun src dst typ a b c apart room first => ?message⟩
  case load =>
    obtain ⟨here, others⟩ := s.graphs_holding g (some x)
    refine ⟨_, pkGraphLoad_loads at'.clean free idle dram words loads tag, ?_⟩
    have passed := at'.passes (t := s.graphLoading g x) rfl rfl 32
    rw [State.packetDone_queue (s := s.graphLoading g x) at'.source] at passed ⊢
    exact ⟨here, s.gerr_graphLoading g x, others, passed, State.onlyBooks_of rfl⟩
  case start =>
    refine ⟨_, graphRunStart_starts head loaded idle, rfl, ⟨runStart (8 * x.words.length), ?_, rfl, rfl, rfl, rfl, rfl⟩, State.onlyBooks_of rfl⟩
    exact (State.graph_updGraph ..).trans (congrArg _ loaded)
  case ends =>
    refine ⟨_, graphRunEnd_ends loaded run sound whole ending (Stream'.settled_iff.2 ⟨pending, issued⟩), ?_, State.onlyBooks_of rfl⟩
    exact (State.graph_updGraph ..).trans (congrArg _ loaded)
  case message =>
    have pair : (mailPair src dst).val = 8 * src.val + dst.val := congrArg (· + dst.val) (Nat.mul_comm ..)
    refine ⟨_, mailboxMessage_delivers apart room first typ a b c, ⟨s.nextMessage src dst typ a b c, Vector.getElem_set_self dst.isLt, rfl, rfl, rfl, rfl, rfl, ?_⟩, ?_,
      fun d other => Vector.getElem_set_ne dst.isLt d.isLt fun same => other (Fin.ext same.symm), State.onlyBooks_of rfl⟩
    all_goals simp only [← pair]
    · rfl
    · exact Vector.getElem_set_self (mailPair src dst).isLt

end Sys2Proof.Machine
end
